-- ==== Sys2Proof/Word.lean ====
section
/-!
DEFINITION. The words of the DZ9600: control registers and fabric words are 64 bits wide (R6, R9), tokens
carry a 64-byte payload (R153).
-/
namespace Sys2Proof

/-- A 64-bit register or fabric word (R6). -/
abbrev W64 := BitVec 64

/-- A byte of Seedbed, Topsoil or Subsoil. -/
abbrev Byte := BitVec 8

/-- A 64-byte payload: byte `k` is bits `[8k+7:8k]` (R153). -/
abbrev Payload := BitVec 512

end Sys2Proof
end

