-- ==== Sys2Proof/Syntax.lean ====
section
/-!
DEFINITION. The commands of the block: one constructor of `Instr` per row of the table of operations and
events (opcode_table.json), with the operands that the outside world supplies. What the spec leaves to the
world outside the modelled chip (a message's fields, a measured power, the outcome of a code check) is an operand.
-/
namespace Sys2Proof

/-- The source of a control-space access, which fixes its privilege (R501). -/
inductive Source where
  /-- Lamplighter firmware, L3. -/
  | lamp
  /-- Tsuand core `i`; `mmode` is M-mode (L2), otherwise L1. -/
  | core (i : BitVec 4) (mmode : Bool)
  /-- The host port, at the level of the host session (R523). -/
  | host
  /-- A tier 11 packet from the chip of slice-relative index `idx`, with the packet's PRIV (R376). -/
  | chip (idx : BitVec 6) (priv : BitVec 2)
  deriving DecidableEq, Repr

/-- What a code check reports for one read or one arrival (R36, R117, R464). The code matrices are not in
the spec, so the outcome comes from outside. -/
inductive CodeResult where
  | clean
  /-- One bit corrected, at `bit` of the 64-bit word. -/
  | one (bit : BitVec 6)
  /-- Two bits corrected (DEC-TED structures only). -/
  | two
  /-- Uncorrectable and detected. -/
  | ue
  /-- Four or more bits in error and miscorrected: the spec gives no guarantee (R464). -/
  | miscorrected
  deriving DecidableEq, Repr

/-- What the checks of the four SEC-DED codes of a port report, in ascending order of the bits they cover (R34). -/
structure PortCodes where
  c0 : CodeResult
  c1 : CodeResult
  c2 : CodeResult
  c3 : CodeResult
  deriving DecidableEq, Repr

/-- A token: one beat of header, payload and, on an operand path, its scale sideband (R153, R157). -/
structure Token where
  hdr : BitVec 32
  payload : Payload
  side : BitVec 32
  deriving DecidableEq, Repr

/-- Where a token arrives: an input port of the Headland of a logical plot (R33), or the Field side of a
Stile (row, east?) (R48). -/
inductive Input where
  | headland (plot : BitVec 9) (port : Fin 10)
  | stile (row : BitVec 5) (east : Bool)
  deriving DecidableEq, Repr

/-- A circuit sender: an OQ of a Furrow Unit, an AG outbound queue of a Hopper, or an agent inbound queue of
a Stile (R160, R164). -/
inductive Sender where
  | furrow (plot : BitVec 9) (unit : Bool) (oq : BitVec 2)
  | hopper (plot : BitVec 9) (unit : Bool) (ag : BitVec 2)
  | stile (row : BitVec 5) (east : Bool) (agent : Fin 7)
  deriving DecidableEq, Repr

/-- Where one lane value of one stage comes from: an element of the joined token of role A, B or C, the
same lane's value left by the previous stage, or nothing (R54: "which operand elements each lane sees is set
by the image and the loop descriptors"). -/
inductive LaneRef where
  | roleA (elem : BitVec 8)
  | roleB (elem : BitVec 8)
  | roleC (elem : BitVec 8)
  | prev
  | none
  deriving DecidableEq, Repr

/-- The operands of one lane of one stage: `a` and `b` list the element pairs of a DOT chunk, and hold one
entry each for the other modes; `c` is the lane's operand C. -/
structure LaneFeed where
  a : List LaneRef
  b : List LaneRef
  c : LaneRef
  deriving DecidableEq, Repr

/-- One cycle's operands of the six stages, 32 lanes each. -/
abbrev FurrowFeed := List (List LaneFeed)

/-- Who sent a message: JOB of the head flit and the source's rack and torus coordinates as `[63:44]` of R9
(R376, R384). -/
structure MsgHdr where
  job : BitVec 16
  src : BitVec 20
  deriving DecidableEq, Repr

/-- A packet of the Nerey protocol: its head flit's fields and its payload flits (R376). -/
structure Packet where
  dst : BitVec 20
  mcast : Bool
  group : BitVec 6
  vc : BitVec 3
  op : BitVec 4
  detour : Bool
  priv : BitVec 2
  job : BitVec 16
  addr : W64
  src : BitVec 20
  tag : BitVec 16
  gen : BitVec 16
  ctr : W64
  payload : List Payload
  /-- The 16 bytes of the tag flit, on VCs 0, 1, 5, 6 and 7. -/
  gcmTag : BitVec 128
  deriving DecidableEq, Repr

/-- A dispatch or combine segment (R256, R267): header words 0 to 2, the counts, the kept counts, the rows. -/
structure Segment where
  w0 : W64
  step : W64
  w2 : W64
  counts : List (BitVec 16)
  kept : List (BitVec 16)
  rows : List (List Byte)
  deriving DecidableEq, Repr

/-- A frame header (R373) with the packets whose last flit it carries, in slot order, and their buffer class
(false D0, true D1). -/
structure Frame where
  fseq : BitVec 16
  ack : BitVec 16
  nack : Bool
  pseq : BitVec 16
  /-- CREDITS: byte `2v + c` returns flit credits of VC `v`, class `c`. -/
  credits : BitVec 128
  /-- FEC and CRC-32C both pass, and no reserved bit is set. -/
  good : Bool
  /-- The FEC corrected at least one symbol. -/
  corrected : Bool
  packets : List (Packet × Bool)
  deriving DecidableEq, Repr

/-- A hello frame's fields (R387). -/
structure HelloMsg where
  serial : W64
  rack : BitVec 8
  tray : BitVec 8
  xyz : BitVec 8
  link : BitVec 8
  port : BitVec 8
  revMajor : BitVec 8
  revMinor : BitVec 8
  verdict : BitVec 8
  fwdig : W64
  planSeq : BitVec 32
  planDig : W64
  deriving DecidableEq, Repr

/-- The fields of a KEY message outside the encrypted key (R514), with the key as decrypted under the
pairwise key and whether its GCM tag verified. -/
structure KeyMsg where
  job : BitVec 16
  gen : BitVec 16
  keyslot : BitVec 8
  kind : BitVec 8
  dir : BitVec 32
  count : W64
  cipher : BitVec 256
  tag : BitVec 128
  deriving DecidableEq, Repr

/-- One failing bit, signature or port check that a BIST run reports, without its ring position (R536). -/
structure BistFail where
  w0 : W64
  addr : W64
  w2 : W64
  deriving DecidableEq, Repr

/-- What a Fallow scrub pass finds in the sectors of one copy of an object: the most bits corrected in a sector, more
than 72 when a sector is uncorrectable (R344, R355). -/
structure ScrubFind where
  object : BitVec 32
  copy1 : Bool
  bits : Nat
  deriving DecidableEq, Repr

/-- A memory tier with lines that a patrol reads (R465). -/
inductive Tier where
  | seedbed
  | topsoil
  | subsoil
  deriving DecidableEq, Repr

/-- The state that the CHIP power rails and pins bring at Candle power-on (R554, R556). -/
structure Pins where
  inrush : BitVec 2
  bridgeEn : Bool
  trayPos : BitVec 2
  compat : Bool
  pwrGrant : Bool
  capFastN : Bool
  latchN : Bool
  deriving DecidableEq, Repr

/-- A far tile as it arrives: its bytes when its home is another chip (Commons), what the bank reads of its index, page or
drained lines find, and what the codes of the feed channel find. -/
structure FarRead where
  bytes : List Byte
  code : CodeResult
  feed : CodeResult
  deriving DecidableEq, Repr

/-- An address generator of a Hopper Unit, and what the bank reads of its parent row find. -/
structure TreeRead where
  ag : BitVec 2
  code : CodeResult
  deriving DecidableEq, Repr

/-- A write of the LOAD bit: its source and the level of the COMPAT pin (R112). -/
structure LoadWrite where
  src : Source
  compat : Bool
  deriving DecidableEq, Repr

/-- The dark plane once written: whether every word read back as written (R198, step 10), and the level of the COMPAT pin
at step 11. -/
structure PlaneCheck where
  readback : Bool
  compat : Bool
  deriving DecidableEq, Repr

/-- What the fetch of an expert meets: the sectors that are uncorrectable in the two copies of a Fallow source and how many
were corrected, what the read of a source in a memory tier finds, and the bytes that a Commons source brings. -/
structure FetchRead where
  bad0 : List Nat
  bad1 : List Nat
  corrected : Nat
  code : CodeResult
  remote : List Byte
  deriving DecidableEq, Repr

/-- What the copy of a chunk meets: in its source, and on a feed channel when its destination is Seedbed. -/
structure CopyCodes where
  code : CodeResult
  feed : CodeResult
  deriving DecidableEq, Repr

/-- The end of a home entry's move: the bytes that a reclaim move read from the Commons, and whether its last line was
granted after its deadline (R336). -/
structure MoveRead where
  bytes : List Byte
  late : Bool
  deriving DecidableEq, Repr

/-- A packet at injection; `acked`, read for VCs 6 and 7, says that its destination has acknowledged this chip's current
fabric key (R512). -/
structure Injected where
  pkt : Packet
  acked : Bool
  deriving DecidableEq, Repr

/-- The end of Fallow training: whether it passed, and which copies of the repair list fail their digest as the list is read
(R539). -/
structure FallowTrained where
  ok : Bool
  bad0 : Bool
  bad1 : Bool
  deriving DecidableEq, Repr

/-- The commands: one constructor per row of the table, in the table's order. -/
inductive Instr where
  /-- REGISTER_WRITE: a control-space write of `size` bytes of `val` at global fabric address `addr` (R6). -/
  | registerWrite (src : Source) (size : Nat) (addr val : W64)
  | plotCntClr (src : Source) (plot : BitVec 9)
  /-- A token or a bubble on an input, as the wires deliver it; `codes` and `sidePar` (parity error) are what the port's
  checks find, `refuse` is the Stile agent's refusal (R50). -/
  | tokenArrival (at_ : Input) (tok : Token) (codes : PortCodes) (sidePar refuse : Bool)
  /-- A return sideband byte reaches a circuit sender (R162, R163). -/
  | creditReturn (snd : Sender) (sb : BitVec 8)
  | furrowFire (plot : BitVec 9) (unit : Bool) (feed : FurrowFeed)
  | forkFire (plot : BitVec 9) (unit : Bool) (el : BitVec 3)
  | joinFire (plot : BitVec 9) (unit : Bool) (el : BitVec 3)
  | steerFire (plot : BitVec 9) (unit : Bool) (el : BitVec 3)
  | mergeFire (plot : BitVec 9) (unit : Bool) (el : BitVec 3)
  | selectFire (plot : BitVec 9) (unit : Bool) (el : BitVec 3)
  | lanternFunc (plot : BitVec 9) (unit : Bool)
  | lanternStatsRow (plot : BitVec 9) (unit : Bool)
  | statsPart (plot : BitVec 9) (unit : Bool)
  | statsMerge (plot : BitVec 9) (unit : Bool)
  | lanternSoftmaxRow (plot : BitVec 9) (unit : Bool)
  | lanternExpsumRow (plot : BitVec 9) (unit : Bool)
  /-- Address generator `ag` of a Hopper requests one access; `code` is what the bank read finds. `marks` are the
  compiler's marks CH_S, CH_E, ROW_S and ROW_E of the access, which no field of a descriptor or binding gives (R155). -/
  | agAccess (plot : BitVec 9) (unit : Bool) (ag : BitVec 2) (marks : BitVec 4) (code : CodeResult)
  | farTileFetch (plot : BitVec 9) (unit : Bool) (ag : BitVec 2) (remote : FarRead)
  /-- A TREE walk's next parent row. -/
  | treeMaskRow (plot : BitVec 9) (unit : Bool) (ag : TreeRead)
  /-- The waiting operation `op` (its ticket) takes a scoreboard entry. -/
  | scoreboardWaitEnd (op : Nat)
  | passIssue
  | passComplete (pseq : BitVec 16)
  | hangTimeout (pseq : BitVec 16)
  | queryDispatch
  | qans (src : Source) (qid : BitVec 16) (bucket : BitVec 4) (count : BitVec 9)
  | noans (src : Source) (qid : BitVec 16)
  | queryDeadline (qid : BitVec 16)
  | queryWatchdog (core : BitVec 4)
  | stepComplete
  | wardFlushEnd
  | flushed (h : MsgHdr) (step : W64) (idx : BitVec 6) (passes : BitVec 32)
  | commit (h : MsgHdr) (step : W64)
  | ringWaitEnd
  | abandon (h : MsgHdr) (step : W64) (cause : BitVec 8) (idx : BitVec 6)
  | abandonEntriesRetired
  | abandoned (h : MsgHdr) (step : W64) (idx : BitVec 6)
  | restart (h : MsgHdr) (step : W64)
  | bndTimeout
  | stepLostTimeout
  | stepStart (src : Source) (val : W64)
  | stepHalt (src : Source) (val : W64)
  | stepCtrlAbandon (src : Source) (val : W64)
  | msbClr (src : Source) (val : W64)
  | load (src : LoadWrite)
  /-- The dark plane has been written. -/
  | loadComplete (readback : PlaneCheck)
  | loadAbort (src : Source)
  | arm (src : Source)
  | disarm (src : Source)
  | ready (h : MsgHdr) (step imageId digest8 : W64) (notLoaded : Bool)
  | go (h : MsgHdr) (step imageId : W64)
  | rotationComplete
  | abort (h : MsgHdr) (step : W64) (cause : BitVec 8)
  | rotateTimeout
  | rotateLostTimeout
  | planeScrubRead (dark : Bool) (plot : BitVec 9) (code : CodeResult)
  /-- The Sower takes the next score row of micro-batch `mb` from its Stile queue. -/
  | scoreRow (mb : Bool)
  | dispatchSegment (seg : Segment)
  /-- The fetch of local expert `j` ends. -/
  | fetchComplete (mb : Bool) (j : BitVec 12) (read : FetchRead)
  | expertOutputRow (mb : Bool)
  | combineSegment (seg : Segment)
  | sowerCntClr (src : Source)
  | gleanCntClr (src : Source)
  | admitSlot (src : Source) (slot : BitVec 10) (mayPause : Bool)
  | cancel (src : Source) (slot : BitVec 10)
  | pause (src : Source) (slot : BitVec 10)
  | resume (src : Source) (slot : BitVec 10)
  | setpos (src : Source) (slot : BitVec 10) (arg : BitVec 14)
  | release (src : Source) (slot : BitVec 10)
  | pageMoveComplete (slot : BitVec 10) (page : BitVec 12)
  /-- SERVE checks the records of the result Pass of micro-batch `mb`. -/
  | resultCheck (mb : Bool)
  | serveEn (src : Source) (val : W64)
  | serveCntClr (src : Source) (val : W64)
  | claim (src : Source) (index : BitVec 20)
  | drop (src : Source) (index : BitVec 20)
  | harrowStreamIssue (queue1 : Bool)
  /-- The next chunk of the active COPY stream at position `pos`. -/
  | streamCopy (queue1 : Bool) (pos : BitVec 16) (codes : CopyCodes) (remote : List Byte)
  /-- The start of the MOVE stream at `pos`, or its next chunk. -/
  | streamMove (pos : BitVec 16) (code : CodeResult) (remote : List Byte)
  | streamZero (queue1 : Bool) (pos : BitVec 16)
  /-- The copy of a home entry's move has ended. -/
  | moveFlip (index : BitVec 20) (read : MoveRead)
  /-- Zeroing of the vacated or dropped range that starts at the given address ends. -/
  | vacatedZeroed (addr : W64)
  | harrowStreamComplete (queue1 : Bool) (pos : BitVec 16) (late : Bool)
  | harrowCancel (src : Source) (pos : BitVec 16)
  | harrowCntClr (src : Source)
  | reclaimStart (src : Source) (val : W64)
  | reclaim (h : MsgHdr) (base len : W64) (ltier : Bool)
  | released (h : MsgHdr) (base len : W64) (ltier : Bool)
  | reclaimTimeout
  | revoked (h : MsgHdr) (base len : W64) (ltier : Bool)
  | subsoilCfgWrite (src : Source) (val : W64)
  | topsoilCntClr (src : Source)
  | subsoilCntClr (src : Source)
  /-- A patrol read of the 64-byte line at byte offset `64 * line` of a tier. -/
  | patrolRead (tier : Tier) (line : Nat) (code : CodeResult) (writtenSince : Bool)
  /-- The Fallow queue's next READ descriptor runs. `bad0` and `bad1` list the sectors of the two copies
  that the BCH code finds uncorrectable, `corrected` counts the sectors corrected (R344, R352). -/
  | fallowRead (bad0 bad1 : List Nat) (corrected : Nat)
  | fallowReadDone (pos : BitVec 16)
  /-- The Fallow queue's next WRITE descriptor runs; `readbackOk` is the comparison of the two copies. -/
  | fallowWrite (readbackOk : Bool)
  | fallowScrubPeriod (found : List ScrubFind)
  | scrubNow (src : Source) (found : List ScrubFind)
  /-- A queued repair runs; `programmed` is how many pointer copies are programmed before the command ends. -/
  | fallowRepair (programmed : Fin 4)
  | instBegin (src : Source)
  | instManifest (src : Source)
  | instCommit (src : Source)
  | instAbort (src : Source)
  | commitPointerEffect
  | drillStart (src : Source) (val : W64)
  | drillCtrlAbort (src : Source) (val : W64)
  | drillCntClr (src : Source) (val : W64)
  /-- The head's entry for this chip: header words, entry words, and what no field of the message gives: its index, the
  indices and entry words 0 of the members after it, and whether the issuer was below L2 with this chip outside its
  slice. -/
  | drillEntry (h : MsgHdr) (header entry : List W64) (member : BitVec 6) (later : List (BitVec 6 × W64))
      (outsideBelowL2 : Bool)
  /-- A chunk of `len` bytes lies in the buffer entry. -/
  | chunk (h : MsgHdr) (jobId : BitVec 32) (n : BitVec 20) (len : BitVec 32)
  | drillCredit (h : MsgHdr) (jobId : BitVec 32) (credits : BitVec 32)
  | bypassTimeout
  | bypass (h : MsgHdr) (jobId : BitVec 32) (j sender : BitVec 8)
  | next (h : MsgHdr) (jobId : BitVec 32) (n : BitVec 20)
  | watermark (h : MsgHdr) (jobId : BitVec 32) (member : BitVec 6) (mark : BitVec 20)
  | result (h : MsgHdr) (jobId : BitVec 32) (member : BitVec 6) (state : BitVec 2) (cause : BitVec 6)
  | drillAbort (h : MsgHdr) (jobId : BitVec 32)
  | drillIdleTimeout
  | dataFrame (link : Fin 24) (f : Frame)
  | idleFrame (link : Fin 24) (f : Frame)
  | hello (link : Fin 24) (m : HelloMsg)
  | helloTimer (link : Fin 24)
  | depart (link : Fin 24) (serial : W64) (reason : BitVec 8)
  | laneAlignLoss (link : Fin 24)
  | frameTimeout (link : Fin 24)
  /-- Training ends; `ok` is false when it failed (R455). -/
  | linkTrained (link : Fin 24) (ok : Bool)
  | packetInject (p : Injected)
  /-- A packet arrives by a port, in buffer class `d1`. -/
  | packetReceive (port : Fin 16) (d1 : Bool) (p : Packet)
  | write (p : Packet)
  | read (p : Packet)
  | readData (p : Packet)
  | writeAck (p : Packet)
  | refused (p : Packet)
  /-- The packet at the head of VC `vc` of a port has waited AGE_US. -/
  | packetAgeTimeout (port : Fin 16) (vc : BitVec 3)
  | answerTimeout (tag : BitVec 16)
  | mcStallWarn (port : Fin 16) (vc : BitVec 3)
  | linkReset (src : Source) (link : Fin 24)
  | linkDisable (src : Source) (link : Fin 24)
  | linkEnable (src : Source) (link : Fin 24)
  | apply (src : Source)
  | clear (src : Source)
  | routeMcWrite (src : Source) (group : BitVec 6) (val : W64)
  | routeFailedWrite (src : Source) (val : W64)
  | candleDomWrite (src : Source) (val : W64)
  | domainSwitchClose
  | domainPowered (d : Fin 24) (glowFault : Bool)
  | stripAutoOff (strip : BitVec 3)
  | fallowAutoOff
  /-- An edge of PWR_GRANT, to the level given. -/
  | pwrGrant (high : Bool)
  | clockFieldWrite (src : Source) (val : W64)
  | clockCoreWrite (src : Source) (cluster : Bool) (val : W64)
  | sysrefLost
  | refLost
  | capWrite (src : Source) (val : W64)
  /-- CAP_FAST_N reaches the level given (asserted = low) for the time given, in ns (R556, R557). -/
  | capFast (asserted : Bool) (ns : Nat)
  /-- The tick's averaged draw, in W (R424). -/
  | governorTick (pTick : BitVec 12)
  /-- The 1 µs sample of the draw, in W. -/
  | glowLoop (pUs : BitVec 12)
  /-- The energy of the closing 1 ms interval in µJ, in all and by Glow, and the meter's self-check. -/
  | msInterval (uj glowUj : BitVec 32) (meterFault : Bool)
  | ledgerSign
  /-- A low pulse of SNUFF_N of the length given, in ns (R556). -/
  | snuff (ns : Nat)
  | candleLampWrite (src : Source) (val : W64)
  | sleep (src : Source) (val : W64)
  | wakeTimer
  | hostWake
  | thermalTrip
  | railDroop
  | candlePowerOn (pins : Pins)
  /-- RESET_N low for the length given, in ns (R448, R556). -/
  | warmReset (ns : Nat)
  /-- RESET_N rises, with the strap levels and the time since SNUFF_N rose, in ns (R451, R560). -/
  | resetNRise (pins : Pins) (sinceSnuffNs : Nat)
  | topsoilReady (stack : BitVec 2) (ok : Bool)
  | fallowReady (r : FallowTrained)
  /-- The boot stage in progress passes its signature check or not, with its digest and SVN, and whether its header asks to
  raise the fused SVN. -/
  | firmwareVerified (ok : Bool) (digest : BitVec 384) (svn : BitVec 16) (raiseSvn : Bool)
  | subInit (src : Source) (val : W64)
  /-- Subsoil training and zeroing end, with the channels that trained. -/
  | subsoilReady (chOk : BitVec 16)
  | fieldReset (src : Source) (val : W64)
  | fieldHold (src : Source) (val : W64)
  | trayLatch (asserted : Bool) (ns : Nat)
  | drain (h : MsgHdr) (idx : BitVec 6) (reason : BitVec 8)
  | haltAt (h : MsgHdr) (step : W64)
  | seal (h : MsgHdr) (step : W64) (member : BitVec 8)
  | latchSealTimeout
  | freeze (h : MsgHdr) (missing : W64)
  | wardCfg (h : MsgHdr) (p : W64) (g self : BitVec 8) (members : List (BitVec 8))
  | chainUnit (h : MsgHdr) (unit : W64) (q : BitVec 8) (rebuild : Bool) (bytes : List Byte)
  | wardDelta (h : MsgHdr) (source : BitVec 3) (epoch : W64) (line : BitVec 32) (delta : Payload)
  | wardEnable (src : Source)
  | wardDisable (src : Source)
  | wardInit (src : Source)
  | wardFreeze (src : Source)
  | commitTo (src : Source)
  | loadSrec (src : Source)
  | rebuild (src : Source)
  | attest (src : Source)
  | planInstall (src : Source)
  | jobEnd (src : Source)
  | scrub (src : Source)
  | scrubComplete
  | debugNonce (src : Source)
  | debugUnlock (src : Source)
  | fabricRekey (src : Source)
  | hostSession (src : Source)
  | hostSignature (src : Source) (val : W64)
  | key (h : MsgHdr) (m : KeyMsg)
  /-- A peer's alias certificate (256 bytes) and identity certificate (512 bytes). -/
  | pair (h : MsgHdr) (aliasCert identCert : List Byte)
  | genDrainEnd
  | keyTimeout
  | bistRun (src : Source)
  /-- Testing ends with the failures found; `corrected` holds the Topsoil stack of each line of the save area that the restore
  reads and corrects. -/
  | bistRunDone (fails : List BistFail) (corrected : List (BitVec 2))
  | bistAbort (src : Source)
  | bistApply (src : Source)
  | listWrite (src : Source)
  /-- FUSE, with the level of VPP_FUSE in mV (R564). -/
  | fuse (src : Source) (vppMv : Nat)
  | sysrefReturn
  | candleRailLoss
  | thermalClear
  | catchUpStall
  | poolPageZeroed (page : BitVec 16)
  deriving DecidableEq, Repr

end Sys2Proof
end

