-- ==== Sys2Proof/Decode.lean ====
section
/-!
DEFINITION. The decoder of the command table. No row of the table gives its command a bit encoding: a command comes
from a wire, a pin, a timer or a register write, so no word spells one (assumption 4).
-/
namespace Sys2Proof

/-- The command that the `nbits` low bits of `w` spell: none. -/
def decodeTableWord (_nbits _w : Nat) : Option Instr := none

end Sys2Proof
end

