-- ==== Sys2Proof/Machine/Bits.lean ====
section
/-!
DEFINITION. Bit fields of words and little-endian bytes (R6, R9, R129).
-/
namespace Sys2Proof.Machine

/-- Bits `[lo + len - 1 : lo]` of `w`, as a number. -/
def bitsOf {n : Nat} (w : BitVec n) (lo len : Nat) : Nat := w.toNat / 2 ^ lo % 2 ^ len

/-- Bit `i` of `w`. -/
def bitOf {n : Nat} (w : BitVec n) (i : Nat) : Bool := w.getLsbD i

/-- A mask of ones in bits `[lo + len - 1 : lo]`. -/
def maskAt (n lo len : Nat) : BitVec n := BitVec.ofNat n ((2 ^ len - 1) * 2 ^ lo)

/-- `w` with bits `[lo + len - 1 : lo]` replaced by the low `len` bits of `x`. -/
def withBits {n : Nat} (w : BitVec n) (lo len x : Nat) : BitVec n :=
  w &&& ~~~maskAt n lo len ||| BitVec.ofNat n (x % 2 ^ len * 2 ^ lo)

/-- A Boolean as a bit. -/
def bit (b : Bool) : Nat := if b then 1 else 0

/-- The number whose little-endian bytes are `bs` (R9). -/
def leNat : List Byte → Nat
  | [] => 0
  | b :: bs => b.toNat + 256 * leNat bs

/-- The `n` little-endian bytes of `x`. -/
def leBytes : Nat → Nat → List Byte
  | 0, _ => []
  | n + 1, x => BitVec.ofNat 8 x :: leBytes n (x / 256)

/-- The low bits of the payload's element: bits `[lo + len - 1 : lo]` of a 64-byte payload. -/
def payBits (p : Payload) (lo len : Nat) : Nat := p.toNat / 2 ^ lo % 2 ^ len

/-- The 64 bytes of a payload, lowest address first (R153). -/
def payBytes (p : Payload) : List Byte := leBytes 64 p.toNat

/-- The payload with the given bytes, lowest address first; missing bytes are zero. -/
def payOfBytes (bs : List Byte) : Payload := BitVec.ofNat 512 (leNat bs)

/-- `x` read as a `n`-bit two's complement number. -/
def sext (n x : Nat) : Int := if x % 2 ^ n < 2 ^ (n - 1) then (x % 2 ^ n : Nat) else (x % 2 ^ n : Nat) - (2 ^ n : Nat)

/-- The `n`-bit two's complement pattern of `x`, wrapping. -/
def wrapI (n : Nat) (x : Int) : Nat := (x % (2 ^ n : Nat)).toNat

/-- The ceiling of `a / b`. -/
def cdiv (a b : Nat) : Nat := (a + b - 1) / b

end Sys2Proof.Machine
end

