-- ==== Sys2Proof/Machine/Crypto.lean ====
section
/-!
DEFINITION. The published standards that R15 names and the chapters use: SHA-384 (FIPS 180-4), ECDSA P-384
(FIPS 186-5), AES-256 in GCM (SP 800-38D) and XTS (IEEE 1619), and CRC-32C. Their algorithms come from those
standards (assumption 22).
-/
namespace Sys2Proof.Machine

/-! ### SHA-384 -/

/-- The largest `r` below `2 ^ bits` above `lo` with `r ^ k ≤ n`, bit by bit from the top. -/
def rootFrom (k n : Nat) : Nat → Nat → Nat
  | 0, lo => lo
  | bits + 1, lo => rootFrom k n bits (if (lo + 2 ^ bits) ^ k ≤ n then lo + 2 ^ bits else lo)

/-- The first 64 bits of the fractional part of the `k`th root of a number below 512. -/
def rootFraction (k p : Nat) : Nat := rootFrom k (p * 2 ^ (64 * k)) 69 0 % 2 ^ 64

/-- The primes below 410: the first 80. -/
def primes80 : List Nat :=
  (List.range 410).filter fun p => decide (2 ≤ p) && (List.range 19).all fun d => decide (p % (d + 2) ≠ 0 ∨ p = d + 2)

/-- The round constants: from the cube roots of the first 80 primes (FIPS 180-4). -/
def shaRoundWords : List Nat := primes80.map (rootFraction 3)

/-- The initial hash value of SHA-384: from the square roots of the 9th to 16th primes (FIPS 180-4). -/
def shaInit : List Nat := ((primes80.drop 8).take 8).map (rootFraction 2)

/-- Words are numbers below 2^64. -/
def rotr (x n : Nat) : Nat := x >>> n ||| x <<< (64 - n) % 2 ^ 64

/-- The number whose big-endian bytes are `bs`. -/
def beNat (bs : List Byte) : Nat := bs.foldl (fun a b => 256 * a + b.toNat) 0

/-- The `n` big-endian bytes of `x`. -/
def beBytes (n x : Nat) : List Byte := (leBytes n x).reverse

/-- The message schedule, newest word first: `n` further words. -/
def shaSchedule : Nat → List Nat → List Nat
  | 0, w => w
  | n + 1, w =>
    let a := w.getD 1 0
    let b := w.getD 14 0
    let s1 := rotr a 19 ^^^ rotr a 61 ^^^ a >>> 6
    let s0 := rotr b 1 ^^^ rotr b 8 ^^^ b >>> 7
    shaSchedule n ((s1 + w.getD 6 0 + s0 + w.getD 15 0) % 2 ^ 64 :: w)

/-- One round over the eight working words. -/
def shaRound (v : List Nat) (k w : Nat) : List Nat :=
  match v with
  | [a, b, c, d, e, f, g, h] =>
    let t1 := h + (rotr e 14 ^^^ rotr e 18 ^^^ rotr e 41) + ((e &&& f) ^^^ ((2 ^ 64 - 1 - e) &&& g)) + k + w
    let t2 := (rotr a 28 ^^^ rotr a 34 ^^^ rotr a 39) + ((a &&& b) ^^^ (a &&& c) ^^^ (b &&& c))
    [(t1 + t2) % 2 ^ 64, a, b, c, (d + t1) % 2 ^ 64, e, f, g]
  | v => v

/-- One 128-byte block. -/
def shaBlock (h : List Nat) (blk : List Byte) : List Nat :=
  let w0 := (List.range 16).map fun i => beNat ((blk.drop (8 * i)).take 8)
  let w := (shaSchedule 64 w0.reverse).reverse
  let v := (List.zip shaRoundWords w).foldl (fun v kw => shaRound v kw.1 kw.2) h
  List.zipWith (fun a b => (a + b) % 2 ^ 64) h v

/-- Blocks of 128 bytes; `fuel` bounds their number. -/
def shaBlocks : Nat → List Nat → List Byte → List Nat
  | 0, h, _ => h
  | fuel + 1, h, m => if m.isEmpty then h else shaBlocks fuel (shaBlock h (m.take 128)) (m.drop 128)

/-- SHA-384: 48 bytes. -/
def sha384 (m : List Byte) : List Byte :=
  let padLen := (111 + 128 - m.length % 128) % 128
  let p := m ++ 0x80#8 :: List.replicate padLen 0#8 ++ beBytes 16 (8 * m.length)
  (((shaBlocks (p.length / 128) shaInit p).take 6).map (beBytes 8)).flatten

/-- The digest as a number, big-endian. -/
def sha384Nat (m : List Byte) : Nat := beNat (sha384 m)

/-! ### ECDSA P-384 -/

def p384 : Nat := 2 ^ 384 - 2 ^ 128 - 2 ^ 96 + 2 ^ 32 - 1

def n384 : Nat :=
  0xffffffffffffffffffffffffffffffffffffffffffffffffc7634d81f4372ddf581a0db248b0a77aecec196accc52973

def b384 : Nat :=
  0xb3312fa7e23ee7e4988e056be3f82d19181d9c6efe8141120314088f5013875ac656398d8a2ed19d2a85c8edd3ec2aef

/-- A point of the curve, or the point at infinity. -/
abbrev ECPoint := Option (Nat × Nat)

def g384 : ECPoint := some (
  0xaa87ca22be8b05378eb1c71ef320ad746e1d3b628ba79b9859f741e082542a385502f25dbf55296c3a545e3872760ab7,
  0x3617de4a96262c6f5d9e98bf9292dc29f8f41dbd289a147ce9da3113b5f0b8c00a60b1ce1d7e819d7a431d7c90ea0e5f)

/-- `b ^ e mod m`, by squaring from the top bit; `fuel` counts bits. -/
def powMod (b m : Nat) : Nat → Nat → Nat
  | 0, _ => 1 % m
  | fuel + 1, e =>
    let r := powMod b m fuel (e / 2)
    if e % 2 = 1 then r * r % m * b % m else r * r % m

/-- Inverse modulo a prime below 2^384. -/
def invMod (a m : Nat) : Nat := powMod (a % m) m 384 (m - 2)

/-- A point in Jacobian coordinates: (X / Z^2, Y / Z^3), or the point at infinity where Z is 0. -/
abbrev JPoint := Nat × Nat × Nat

def jInf : JPoint := (1, 1, 0)

def jDouble (a : JPoint) : JPoint :=
  match a with
  | (x, y, z) =>
    if z = 0 then jInf
    else
      let z2 := z * z % p384
      let y2 := y * y % p384
      let q := 4 * x * y2 % p384
      let m := 3 * ((x + z2) * (x + p384 - z2)) % p384
      let x3 := (m * m + 2 * (p384 - q)) % p384
      (x3, (m * (q + p384 - x3) + 8 * (p384 - y2) * y2) % p384, 2 * y * z % p384)

def jAdd (a b : JPoint) : JPoint :=
  match a, b with
  | (x1, y1, z1), (x2, y2, z2) =>
    if z1 = 0 then b
    else if z2 = 0 then a
    else
      let s1 := z1 * z1 % p384
      let s2 := z2 * z2 % p384
      let u1 := x1 * s2 % p384
      let u2 := x2 * s1 % p384
      let v1 := y1 * s2 % p384 * z2 % p384
      let v2 := y2 * s1 % p384 * z1 % p384
      if u1 = u2 then if v1 = v2 then jDouble a else jInf
      else
        let h := (u2 + p384 - u1) % p384
        let r := (v2 + p384 - v1) % p384
        let h2 := h * h % p384
        let h3 := h2 * h % p384
        let w := u1 * h2 % p384
        let x3 := (r * r + (p384 - h3) + 2 * (p384 - w)) % p384
        (x3, (r * (w + p384 - x3) + v1 * (p384 - h3)) % p384, h * z1 % p384 * z2 % p384)

/-- `k * q`, by doubling from the top bit; `fuel` counts bits. -/
def jMul (q : JPoint) : Nat → Nat → JPoint
  | 0, _ => jInf
  | fuel + 1, k =>
    let d := jDouble (jMul q fuel (k / 2))
    if k % 2 = 1 then jAdd d q else d

def ecJacobian : ECPoint → JPoint
  | none => jInf
  | some (x, y) => (x, y, 1)

def ecAffine (a : JPoint) : ECPoint :=
  match a with
  | (x, y, z) =>
    if z = 0 then none
    else
      let i := invMod z p384
      let i2 := i * i % p384
      some (x * i2 % p384, y * i2 % p384 * i % p384)

/-- `k * q`; `fuel` counts bits. -/
def ecMul (q : ECPoint) (fuel k : Nat) : ECPoint := ecAffine (jMul (ecJacobian q) fuel k)

/-- `j * g + k * q` for numbers of 384 bits. -/
def ecMul2 (g : ECPoint) (j : Nat) (q : ECPoint) (k : Nat) : ECPoint :=
  ecAffine (jAdd (jMul (ecJacobian g) 384 j) (jMul (ecJacobian q) 384 k))

/-- Whether a public key is a point of the curve. -/
def onCurve (x y : Nat) : Bool :=
  decide (x < p384 ∧ y < p384 ∧ y * y % p384 = (x * x * x + (p384 - 3) * x + b384) % p384)

/-- ECDSA verification of a SHA-384 digest. -/
def ecdsaVerify (qx qy hash r s : Nat) : Bool :=
  if r = 0 ∨ n384 ≤ r ∨ s = 0 ∨ n384 ≤ s ∨ onCurve qx qy = false then false
  else
    let w := invMod s n384
    match ecMul2 g384 (hash * w % n384) (some (qx, qy)) (r * w % n384) with
    | none => false
    | some (x, _) => decide (x % n384 = r)

/-- ECDSA signature of a digest under private key `d` with per-message number `k`. -/
def ecdsaSign (d hash k : Nat) : Nat × Nat :=
  match ecMul g384 384 k with
  | none => (0, 0)
  | some (x, _) => let r := x % n384; (r, invMod k n384 * ((hash + r * d) % n384) % n384)

/-- The public key of a private key. -/
def ecPublic (d : Nat) : Nat × Nat := (ecMul g384 384 d).getD (0, 0)

/-- The x coordinate of the shared point of ECDH. -/
def ecdhX (d qx qy : Nat) : Nat := ((ecMul (some (qx, qy)) 384 d).getD (0, 0)).1

/-! ### AES-256 -/

/-- Multiplication by x in the AES field. -/
def xtime (b : Nat) : Nat := if b < 128 then 2 * b else (2 * b % 256) ^^^ 0x1B

/-- Product in the AES field; `fuel` counts bits. -/
def gfMul : Nat → Nat → Nat → Nat
  | 0, _, _ => 0
  | fuel + 1, a, b => (if b % 2 = 1 then a else 0) ^^^ gfMul fuel (xtime a) (b / 2)

/-- The inverse in the AES field, `a^254`. -/
def gfInv (a : Nat) : Nat :=
  let sq (x : Nat) := gfMul 8 x x
  let a2 := sq a
  let a3 := gfMul 8 a2 a
  let a12 := sq (sq a3)
  let a15 := gfMul 8 a12 a3
  let a240 := sq (sq (sq (sq a15)))
  gfMul 8 (gfMul 8 a240 a12) a2

def rotl8 (x n : Nat) : Nat := (x * 2 ^ n % 256) ||| (x / 2 ^ (8 - n))

/-- The AES substitution of a byte. -/
def aesSub (b : Nat) : Nat :=
  let x := gfInv b
  x ^^^ rotl8 x 1 ^^^ rotl8 x 2 ^^^ rotl8 x 3 ^^^ rotl8 x 4 ^^^ 0x63

/-- The inverse substitution. -/
def aesSubInv (b : Nat) : Nat := gfInv (rotl8 b 1 ^^^ rotl8 b 3 ^^^ rotl8 b 6 ^^^ 0x05)

/-- Four key-schedule bytes XORed. -/
def xorBytes (a b : List Nat) : List Nat := List.zipWith (· ^^^ ·) a b

/-- The key schedule: words of four bytes, newest first. -/
def aesExpand : Nat → Nat → Nat → List (List Nat) → List (List Nat)
  | 0, _, _, w => w
  | fuel + 1, i, rcon, w =>
    let t := w.headD []
    let u := w.getD 7 []
    let t' :=
      if i % 8 = 0 then
        match (t.drop 1 ++ t.take 1).map aesSub with
        | a :: rest => (a ^^^ rcon) :: rest
        | [] => []
      else if i % 8 = 4 then t.map aesSub
      else t
    aesExpand fuel (i + 1) (if i % 8 = 0 then xtime rcon else rcon) (xorBytes u t' :: w)

/-- The fifteen round keys of a 256-bit key, 16 bytes each. -/
def aesKeys (key : List Nat) : List (List Nat) :=
  let w0 := (List.range 8).map fun i => (key.drop (4 * i)).take 4
  let w := (aesExpand 52 8 1 w0.reverse).reverse
  (List.range 15).map fun r => ((w.drop (4 * r)).take 4).flatten

/-- ShiftRows on 16 bytes in column order. -/
def shiftRows (s : List Nat) : List Nat := (List.range 16).map fun i => s.getD ((i + 4 * (i % 4)) % 16) 0

def shiftRowsInv (s : List Nat) : List Nat := (List.range 16).map fun i => s.getD ((i + 16 - 4 * (i % 4)) % 16) 0

/-- One column through a circulant matrix given by its first row. -/
def mixColumn (m : List Nat) (c : List Nat) : List Nat :=
  (List.range 4).map fun i =>
    ((List.range 4).map fun j => gfMul 8 (c.getD j 0) (m.getD ((j + 4 - i) % 4) 0)).foldl (· ^^^ ·) 0

def mixColumns (m s : List Nat) : List Nat :=
  ((List.range 4).map fun c => mixColumn m ((s.drop (4 * c)).take 4)).flatten

/-- AES-256 of one block. -/
def aesEnc (keys : List (List Nat)) (blk : List Nat) : List Nat :=
  let s0 := xorBytes blk (keys.getD 0 [])
  let s13 := (List.range 13).foldl (fun s r =>
    xorBytes (mixColumns [2, 3, 1, 1] (shiftRows (s.map aesSub))) (keys.getD (r + 1) [])) s0
  xorBytes (shiftRows (s13.map aesSub)) (keys.getD 14 [])

/-- The inverse of AES-256. -/
def aesDec (keys : List (List Nat)) (blk : List Nat) : List Nat :=
  let s0 := (shiftRowsInv (xorBytes blk (keys.getD 14 []))).map aesSubInv
  let s13 := (List.range 13).foldl (fun s r =>
    (shiftRowsInv (mixColumns [14, 11, 13, 9] (xorBytes s (keys.getD (13 - r) [])))).map aesSubInv) s0
  xorBytes s13 (keys.getD 0 [])

/-! ### GCM -/

/-- Product in the GCM field, bit 127 of the number first. -/
def ghashMul : Nat → Nat → Nat → Nat
  | 0, _, _ => 0
  | fuel + 1, x, v =>
    (if x / 2 ^ fuel % 2 = 1 then v else 0) ^^^
      ghashMul fuel x (if v % 2 = 1 then v / 2 ^^^ 0xE1 * 2 ^ 120 else v / 2)

/-- GHASH over 16-byte blocks. -/
def ghash (h : Nat) (blocks : List Nat) : Nat := blocks.foldl (fun y x => ghashMul 128 (y ^^^ x) h) 0

/-- Bytes in 16-byte blocks, the last padded with zeros. -/
def blocks16 : Nat → List Nat → List (List Nat)
  | 0, _ => []
  | fuel + 1, l => if l.isEmpty then [] else ((l ++ List.replicate 16 0).take 16) :: blocks16 fuel (l.drop 16)

def bytesNat (l : List Nat) : Nat := l.foldl (fun a b => 256 * a + b) 0

def natBytes (n x : Nat) : List Nat := (beBytes n x).map (·.toNat)

/-- Counter-mode blocks from counter `c`. -/
def gcmCtr (keys : List (List Nat)) (iv : Nat) : Nat → List (List Nat) → List Nat
  | _, [] => []
  | c, b :: bs =>
    xorBytes b (aesEnc keys (natBytes 16 (iv * 2 ^ 32 + c % 2 ^ 32))) ++ gcmCtr keys iv (c + 1) bs

/-- AES-256-GCM with a 96-bit IV: the other text and the tag of the cipher text. -/
def gcmTag (keys : List (List Nat)) (iv : Nat) (aad cipher : List Nat) : Nat :=
  let h := bytesNat (aesEnc keys (List.replicate 16 0))
  let bl := (blocks16 (aad.length + 1) aad ++ blocks16 (cipher.length + 1) cipher).map bytesNat
  let s := ghash h (bl ++ [8 * aad.length * 2 ^ 64 + 8 * cipher.length])
  s ^^^ bytesNat (aesEnc keys (natBytes 16 (iv * 2 ^ 32 + 1)))

/-- Encryption or decryption: the two are the same in counter mode. -/
def gcmText (keys : List (List Nat)) (iv : Nat) (text : List Nat) : List Nat :=
  (gcmCtr keys iv 2 (blocks16 (text.length + 1) text)).take text.length

/-! ### XTS -/

/-- The tweak of the next block: multiplication by x, little-endian. -/
def xtsNext (t : Nat) : Nat := if 2 ^ 127 ≤ t then (2 * t - 2 ^ 128) ^^^ 0x87 else 2 * t

/-- XTS over whole 16-byte blocks with running tweak `t` (little-endian numbers). -/
def xtsBlocks (f : List Nat → List Nat) : Nat → List (List Nat) → List Nat
  | _, [] => []
  | t, b :: bs =>
    let tb := (leBytes 16 t).map (·.toNat)
    xorBytes (f (xorBytes b tb)) tb ++ xtsBlocks f (xtsNext t) bs

/-- AES-256-XTS of a data unit whose number is `unit`. -/
def xts (decrypt : Bool) (k1 k2 : List (List Nat)) (unit : Nat) (text : List Nat) : List Nat :=
  let t0 := leNat ((aesEnc k2 ((leBytes 16 unit).map (·.toNat))).map (BitVec.ofNat 8))
  xtsBlocks (if decrypt then aesDec k1 else aesEnc k1) t0 (blocks16 (text.length + 1) text)

/-! ### CRC-32C -/

/-- One byte into the reflected CRC-32C. -/
def crcByte (c : Nat) (b : Byte) : Nat :=
  (List.range 8).foldl (fun c _ => if c % 2 = 1 then c / 2 ^^^ 0x82F63B78 else c / 2) (c ^^^ b.toNat)

def crc32c (m : List Byte) : Nat := m.foldl crcByte 0xFFFF_FFFF ^^^ 0xFFFF_FFFF

end Sys2Proof.Machine
end

