-- ==== Sys2Proof/Config.lean ====
section
/-!
DEFINITION. What one part fixes, and the values that the spec leaves open. Each is a constant with no body: nothing
can be proved of its value, and a statement about the machine holds for every value of it.
-/
namespace Sys2Proof.Config

/-- Free value `n`: the value of an unstated or random word (assumption 2). -/
opaque freeWord : Nat → W64

/-- Free value `n` of any size: a random key or nonce (assumption 2). -/
opaque freeNat : Nat → Nat

/-- The byte at an address of a tier whose contents of free epoch `n` the spec leaves open (assumption 2). -/
opaque freeByte : Nat → Nat → Byte

/-- Word `i` of a unit's internal registers in a scan, in the part's own order (R186, assumption 2). -/
opaque scanWord : Nat → Nat → W64

/-- The check bits of a 64-bit word under the DEC-TED code, whose matrix the spec does not give (R464, assumption 7). -/
opaque checkBits : W64 → BitVec 16

/-- The serial number (R463). -/
opaque serial : W64

/-- The stepping number, from eFuse (R463). -/
opaque stepping : BitVec 8

/-- The identity private key, as a number (R510). -/
opaque identityKey : Nat

/-- Sundior's identity certificate (R510). -/
opaque identityCert : List Byte

/-- The Sundior key that signs identity certificates (R510). -/
opaque sundiorKeyX : Nat
opaque sundiorKeyY : Nat

/-- The integrator key, whose digest the integrator fuses once (R508, R520). -/
opaque integratorKeyX : Nat
opaque integratorKeyY : Nat

/-- KEY_ID and public key of the integrator key and of the Sundior debug key (R525). -/
opaque integratorKeyId : Nat
opaque debugKeyId : Nat
opaque debugKeyX : Nat
opaque debugKeyY : Nat

/-- The torus position `x + 4y + 16z` that the rack plan gives a serial number: ROUTE_SELF says that the plan gives it,
and no record of R519 holds it (assumption 16). -/
opaque planPosition : Nat → Nat

/-- The number of the tray that holds the chip, which a hello carries and no record of the plan gives (assumption 16). -/
opaque trayNumber : BitVec 4

/-- Bits of the JTAG instruction register, the codes of IDCODE, SAMPLE/PRELOAD, EXTEST and the four debug instructions, and
the cells of the boundary-scan chain, which the spec does not give (R524, R550, assumption 54). -/
opaque tapIrBits : Nat
opaque tapCode : Nat → Nat
opaque boundaryCells : Nat

end Sys2Proof.Config
end

