-- ==== Sys2Proof/Machine/KMap.lean ====
section
/-!
DEFINITION. Sparse data by a numeric key, as a list of pairs in one canonical form: keys strictly rising, and no
entry equal to what an unlisted key reads as. Control registers, memory bytes and every indexed unit of the chip
are held in this form, so that equal contents are equal data.
-/
namespace Sys2Proof.Machine

/-- Sparse data over numeric keys. -/
abbrev KMap (α : Type) := List (Nat × α)

/-- What key `k` holds; `d k` when it is not listed. -/
def KMap.get {α : Type} (d : Nat → α) : KMap α → Nat → α
  | [], k => d k
  | e :: m, k => if e.1 = k then e.2 else KMap.get d m k

/-- Removes key `k`. -/
def KMap.erase {α : Type} : KMap α → Nat → KMap α
  | [], _ => []
  | e :: m, k => if e.1 = k then KMap.erase m k else e :: KMap.erase m k

/-- Lists `v` at key `k`, before the first greater key. -/
def KMap.insert {α : Type} : KMap α → Nat → α → KMap α
  | [], k, v => [(k, v)]
  | e :: m, k, v => if k < e.1 then (k, v) :: e :: m else e :: KMap.insert m k v

/-- Makes key `k` hold `v`: a value equal to what the unlisted key reads as is not listed. -/
def KMap.set {α : Type} [DecidableEq α] (d : Nat → α) (m : KMap α) (k : Nat) (v : α) : KMap α :=
  if v = d k then KMap.erase m k else KMap.insert (KMap.erase m k) k v

/-- Forgets every key of `[lo, lo + n)`: those keys then read as unlisted. -/
def KMap.clear {α : Type} (m : KMap α) (lo n : Nat) : KMap α :=
  m.filter fun e => !(decide (lo ≤ e.1) && decide (e.1 < lo + n))

/-- The keys rise strictly from above `lo`. -/
def KMap.rising {α : Type} : Option Nat → KMap α → Bool
  | _, [] => true
  | none, e :: m => KMap.rising (some e.1) m
  | some lo, e :: m => decide (lo < e.1) && KMap.rising (some e.1) m

/-- The canonical form. -/
def KMap.wf {α : Type} [DecidableEq α] (d : Nat → α) (m : KMap α) : Bool :=
  KMap.rising none m && m.all fun e => decide (e.2 ≠ d e.1)

/-- The keys that are listed. -/
def KMap.keys {α : Type} (m : KMap α) : List Nat := m.map (·.1)

end Sys2Proof.Machine
end

