-- ==== Sys2Proof/Machine/BistTypes.lean ====
section
/-!
DEFINITION. The state of BIST and repair (R528 to R545) outside the BIST registers: plot repairs, spares, the repair
list and eFuse.
-/
namespace Sys2Proof.Machine

/-- An entry of a repair list or of eFuse (R539). -/
structure RepEntry where
  w0 : W64
  w1 : W64
  deriving DecidableEq, Repr

/-- A copy of the repair list whose digest passes (R539). -/
structure RepList where
  seq : Nat
  entries : List RepEntry
  deriving DecidableEq, Repr

/-- The plot repair of a strip (R28, R30). -/
structure StripRep where
  active : Bool
  bad : Bool
  frow : Nat
  fcol : Nat
  fused : Bool
  deriving DecidableEq, Repr

def StripRep.clear : StripRep := ⟨false, false, 0, 0, false⟩

structure BistSt where
  /-- Burned entries, in order, and how many of them the last start sensed (R542). -/
  fuses : List RepEntry
  sensed : Nat
  /-- The two copies of the repair list. -/
  list0 : Option RepList
  list1 : Option RepList
  /-- The list that the last start read (R540); its plot, Seedbed and plane entries wait for APPLY. -/
  boot : Option RepList
  strips : KMap StripRep
  /-- Soft assignments in effect: list entries applied and assignments of R538. -/
  soft : List RepEntry
  /-- A Field reset waits for the end of a Field run (R543). -/
  resetWait : Bool
  /-- The run in progress was aborted. -/
  aborted : Bool
  deriving DecidableEq, Repr

def BistSt.reset : BistSt := ⟨[], 0, some ⟨0, []⟩, some ⟨0, []⟩, none, [], [], false, false⟩

end Sys2Proof.Machine
end

