-- ==== Sys2Proof/Machine/Operands.lean ====
section
/-!
DEFINITION. The operand forms of the Field: the number formats of R57 to R63, exact arithmetic on their values, the
roundings to Tallow and to every output format (R60, R65, R78 to R83), and the canonical tree (R73, R75).
-/
namespace Sys2Proof.Machine

/-- A Tallow value (R60). -/
abbrev Tallow := BitVec 80

/-- An exact value: `fin neg m e` is `(-1)^neg * m * 2^e`, and `m = 0` is a signed zero. -/
inductive Num where
  | nan
  | inf (neg : Bool)
  | fin (neg : Bool) (m : Nat) (e : Int)
  deriving DecidableEq, Repr

/-- Exact positive zero. -/
def Num.zero : Num := .fin false 0 0

/-- The integer `i` times `2^e`. -/
def Num.ofInt (i : Int) (e : Int) : Num := .fin (decide (i < 0)) i.natAbs e

def Num.isNan : Num → Bool
  | .nan => true
  | _ => false

def Num.neg : Num → Num
  | .nan => .nan
  | .inf s => .inf (!s)
  | .fin s m e => .fin (!s) m e

def Num.abs : Num → Num
  | .nan => .nan
  | .inf _ => .inf false
  | .fin _ m e => .fin false m e

/-- The value times `2^k`. -/
def Num.scale2 (k : Int) : Num → Num
  | .fin s m e => .fin s m (e + k)
  | n => n

/-- The signed significand brought to exponent `q`, for `q` at most the value's own exponent. -/
def alignInt (neg : Bool) (m : Nat) (e q : Int) : Int :=
  let v : Int := (m * 2 ^ (e - q).toNat : Nat)
  if neg then -v else v

/-- Exact sum; opposite infinities give NaN. A zero sum is `-0` only when both addends are negative zero. -/
def Num.add : Num → Num → Num
  | .nan, _ => .nan
  | _, .nan => .nan
  | .inf s, .inf t => if s == t then .inf s else .nan
  | .inf s, _ => .inf s
  | _, .inf t => .inf t
  | .fin s m e, .fin t n f =>
    if m = 0 ∧ n = 0 then .fin (s && t) 0 0
    else
      let q := min e f
      let v := alignInt s m e q + alignInt t n f q
      if v = 0 then .fin false 0 0 else .ofInt v q

/-- Exact product; `0 * infinity` gives NaN. -/
def Num.mul : Num → Num → Num
  | .nan, _ => .nan
  | _, .nan => .nan
  | .inf s, .inf t => .inf (s != t)
  | .inf s, .fin t n _ => if n = 0 then .nan else .inf (s != t)
  | .fin s m _, .inf t => if m = 0 then .nan else .inf (s != t)
  | .fin s m e, .fin t n f => .fin (s != t) (m * n) (e + f)

/-- Strict order with `-0` below `+0` (R72); both operands are numbers. -/
def Num.lt : Num → Num → Bool
  | .nan, _ => false
  | _, .nan => false
  | .inf s, .inf t => s && !t
  | .inf s, _ => s
  | _, .inf t => !t
  | .fin s m e, .fin t n f =>
    if m = 0 ∧ n = 0 then s && !t
    else
      let q := min e f
      decide (alignInt s m e q < alignInt t n f q)

/-! ### Encodings (R57, R58, R60) -/

/-- The shape of a binary format: fraction bits, exponent bits and bias. -/
structure FloatFmt where
  mb : Nat
  eb : Nat
  bias : Nat
  deriving DecidableEq, Repr

/-- The shape of the float formats of R57, by format code. -/
def floatFmt : Nat → Option FloatFmt
  | 0x0 => some ⟨23, 8, 127⟩
  | 0x1 => some ⟨7, 8, 127⟩
  | 0x2 => some ⟨10, 5, 15⟩
  | 0x3 => some ⟨3, 4, 7⟩
  | 0x4 => some ⟨2, 5, 15⟩
  | 0x5 => some ⟨3, 4, 7⟩
  | 0x6 => some ⟨2, 3, 3⟩
  | 0x7 => some ⟨3, 2, 1⟩
  | 0x8 => some ⟨1, 2, 1⟩
  | 0xC => some ⟨64, 15, 16383⟩
  | _ => none

/-- Bits of one element of a format as it lies in a beat; a Tallow container is 128 bits (R61, R129). -/
def elemBits : Nat → Nat
  | 0x0 => 32
  | 0x1 => 16
  | 0x2 => 16
  | 0x6 => 6
  | 0x7 => 6
  | 0x8 => 4
  | 0xB => 32
  | 0xC => 128
  | _ => 8

/-- Elements per beat, EV (R129). -/
def elemsPerBeat : Nat → Nat
  | 0x0 => 16
  | 0x1 => 32
  | 0x2 => 32
  | 0x8 => 128
  | 0xB => 16
  | 0xC => 4
  | _ => 64

/-- Whether the code names an MX format, whose elements share a block scale (R58). -/
def isMx (fmt : Nat) : Bool := decide (0x5 ≤ fmt ∧ fmt ≤ 0x9)

/-- Whether the code is reserved (R13). -/
def fmtReserved (fmt : Nat) : Bool := decide (0xD ≤ fmt)

/-- Blocks per beat of an MX format (R136). -/
def blocksPerBeat (fmt : Nat) : Nat := elemsPerBeat fmt / 32

/-- The value of a float pattern of shape `f`, before infinities and NaNs are taken out. -/
def floatValue (f : FloatFmt) (bits : Nat) : Num :=
  let m := bits % 2 ^ f.mb
  let e := bits / 2 ^ f.mb % 2 ^ f.eb
  let s := decide (bits / 2 ^ (f.mb + f.eb) % 2 = 1)
  if e = 0 then .fin s m (1 - (f.bias : Int) - f.mb)
  else .fin s (2 ^ f.mb + m) ((e : Int) - f.bias - f.mb)

/-- Whether a pattern is an infinity or a NaN of its format: IEEE-style for codes 0x0, 0x1, 0x2, 0x4 and
Tallow, only 0x7F and 0xFF for E4M3, none for the small MX elements (R57). -/
def floatSpecial (fmt : Nat) (f : FloatFmt) (bits : Nat) : Option Num :=
  let m := bits % 2 ^ f.mb
  let e := bits / 2 ^ f.mb % 2 ^ f.eb
  let s := decide (bits / 2 ^ (f.mb + f.eb) % 2 = 1)
  if fmt = 0x3 ∨ fmt = 0x5 then (if e = 15 ∧ m = 7 then some .nan else none)
  else if fmt = 0x6 ∨ fmt = 0x7 ∨ fmt = 0x8 then none
  else if e = 2 ^ f.eb - 1 then (if m = 0 then some (.inf s) else some .nan)
  else none

/-- The element value of a pattern under a format code, without a block scale (R57, R60). -/
def decodeElem (fmt bits : Nat) : Num :=
  match floatFmt fmt with
  | some f => (floatSpecial fmt f bits).getD (floatValue f bits)
  | none =>
    if fmt = 0x9 then .ofInt (sext 8 bits) (-6)
    else if fmt = 0xA then .ofInt (sext 8 bits) 0
    else .ofInt (sext 32 bits) 0

/-- Applies an E8M0 block scale: `0xFF` makes the element NaN (R58). -/
def applyScale (e : Nat) (n : Num) : Num := if e = 0xFF then .nan else n.scale2 ((e : Int) - 127)

/-- The value of a Tallow pattern (R60). -/
def tallowNum (t : Tallow) : Num := decodeElem 0xC t.toNat

/-! ### Rounding (R79) -/

/-- The rounding modes of R78. -/
inductive Rnd where
  | nearestEven
  | towardZero
  /-- With the 24-bit number of R80. -/
  | stochastic (r : Nat)
  deriving DecidableEq, Repr

/-- `m * 2^e` in units of `2^q`, rounded (R79). -/
def roundUnits (rnd : Rnd) (m : Nat) (e q : Int) : Nat :=
  if q ≤ e then m * 2 ^ (e - q).toNat
  else
    let d := 2 ^ (q - e).toNat
    let lo := m / d
    let rem := m % d
    if rem = 0 then lo
    else match rnd with
      | .towardZero => lo
      | .nearestEven =>
        if d < 2 * rem ∨ (2 * rem = d ∧ lo % 2 = 1) then lo + 1 else lo
      | .stochastic r => if r < rem * 2 ^ 24 / d then lo + 1 else lo

/-- The exponent of the unit in the last place of `m * 2^e` in a format with `f`'s significand and range. -/
def ulpExp (f : FloatFmt) (m : Nat) (e : Int) : Int :=
  max (1 - (f.bias : Int) - f.mb) ((Nat.log2 m : Int) + e - f.mb)

/-- The magnitude code (exponent and fraction fields as one number) of `m * 2^e` rounded into a format whose
exponent range has no upper bound (R79). -/
def roundMag (f : FloatFmt) (rnd : Rnd) (m : Nat) (e : Int) : Nat :=
  if m = 0 then 0
  else
    let q := ulpExp f m e
    let n := roundUnits rnd m e q
    let k := (q - (1 - (f.bias : Int) - f.mb)).toNat
    -- `n` lies below `2^(mb+1)` or equals it; the code of `n` units at step `k` is `k * 2^mb + n`
    k * 2 ^ f.mb + n

/-- A sign and a magnitude code as a pattern of the format. -/
def packSign (f : FloatFmt) (neg : Bool) (mag : Nat) : Nat := mag + (if neg then 2 ^ (f.mb + f.eb) else 0)

/-- The Tallow shape. -/
def tallowFmt : FloatFmt := ⟨64, 15, 16383⟩

/-- The canonical NaN of Tallow (R62). -/
def tallowNan : Tallow := 0x7FFF_8000_0000_0000_0000

/-- `round_T`: rounds an exact value once to Tallow, to nearest with ties to even (R65). -/
def roundT : Num → Tallow
  | .nan => tallowNan
  | .inf s => BitVec.ofNat 80 (packSign tallowFmt s (0x7FFF * 2 ^ 64))
  | .fin s m e =>
    BitVec.ofNat 80 (packSign tallowFmt s (min (roundMag tallowFmt .nearestEven m e) (0x7FFF * 2 ^ 64)))

/-- The FP32 shape. -/
def fp32Fmt : FloatFmt := ⟨23, 8, 127⟩

/-- Rounds an exact value once to FP32, to nearest with ties to even, with the canonical NaN (R62, R70). -/
def roundFp32 : Num → Nat
  | .nan => 0x7FC0_0000
  | .inf s => packSign fp32Fmt s (255 * 2 ^ 23)
  | .fin s m e => packSign fp32Fmt s (min (roundMag fp32Fmt .nearestEven m e) (255 * 2 ^ 23))

/-- SUM addition of R73: Tallow addition. -/
def addT (a b : Tallow) : Tallow := roundT ((tallowNum a).add (tallowNum b))

/-- The larger or the smaller of two values, one of the operands unrounded; NaN when either is NaN (R72). -/
def pickT (wantMax : Bool) (a b : Tallow) : Tallow :=
  let x := tallowNum a
  let y := tallowNum b
  if x.isNan || y.isNan then tallowNan
  else if x.lt y == wantMax then b else a

/-- One level of the canonical tree: neighbours are combined, an odd last one passes up (R75). -/
def treeLevel : List Tallow → List Tallow
  | a :: b :: rest => addT a b :: treeLevel rest
  | l => l

/-- The canonical tree `T(n)`; `fuel` bounds the levels (R75). -/
def treeSumFuel : Nat → List Tallow → Tallow
  | _, [] => 0
  | _, [a] => a
  | 0, a :: _ => a
  | fuel + 1, l => treeSumFuel fuel (treeLevel l)

/-- The canonical tree over the partials in logical shard order (R75). -/
def treeSum (l : List Tallow) : Tallow := treeSumFuel 13 l

/-! ### Output conversion (R78 to R84) -/

/-- The three kinds of event that an output conversion counts (R84). -/
inductive ConvEvent where
  | nan
  | overflow
  | toZero
  deriving DecidableEq, Repr

/-- An output conversion word (R78). -/
structure ConvWord where
  fmt : Nat
  rnd : Nat
  ovf : Bool
  seed : Nat
  deriving DecidableEq, Repr

def ConvWord.ofWord (w : W64) : ConvWord :=
  ⟨bitsOf w 0 4, bitsOf w 4 2, bitOf w 6, bitsOf w 32 32⟩

/-- A word with RND 11, a reserved format code or a nonzero reserved bit is a reserved code (R78). -/
def convWordBad (w : W64) : Bool :=
  fmtReserved (bitsOf w 0 4) || decide (bitsOf w 4 2 = 3) || decide (bitsOf w 7 25 ≠ 0)

/-- The random number of stochastic rounding, modulo 2^64 throughout (R80). -/
def srBits (seed step pos : Nat) : Nat :=
  let z0 : W64 := BitVec.ofNat 64 seed ^^^ (BitVec.ofNat 64 step * 0x9E37_79B9_7F4A_7C15#64) ^^^
    (BitVec.ofNat 64 pos * 0xD1B5_4A32_D192_ED03#64)
  let z1 := (z0 ^^^ (z0 >>> 30)) * 0xBF58_476D_1CE4_E5B9#64
  let z2 := (z1 ^^^ (z1 >>> 27)) * 0x94D0_49BB_1331_11EB#64
  (z2 ^^^ (z2 >>> 31)).toNat / 2 ^ 40

/-- The rounding mode of a conversion word for one element (R78, R80). -/
def ConvWord.mode (c : ConvWord) (step pos : Nat) : Rnd :=
  if c.rnd = 0 then .nearestEven
  else if c.rnd = 1 then .stochastic (srBits c.seed step pos)
  else .towardZero

/-- The magnitude code of the largest finite value of a float output format (R57). -/
def maxMag : Nat → Nat
  | 0x0 => 0x7F7F_FFFF
  | 0x1 => 0x7F7F
  | 0x2 => 0x7BFF
  | 0x3 => 0x7E
  | 0x4 => 0x7B
  | 0x5 => 0x7E
  | 0x6 => 0x1F
  | 0x7 => 0x1F
  | 0x8 => 0x7
  | _ => 0

/-- The magnitude code of infinity, and the canonical NaN, of a float output format (R57, R62). -/
def canonNan : Nat → Nat
  | 0x0 => 0x7FC0_0000
  | 0x1 => 0x7FC0
  | 0x2 => 0x7E00
  | 0x3 => 0x7F
  | 0x4 => 0x7E
  | _ => 0

/-- One converted element. -/
structure Conv where
  bits : Nat
  ev : Option ConvEvent
  deriving DecidableEq, Repr

/-- Conversion of a finite value or infinity to a plain float format, codes 0x0 to 0x4 (R79, R81). -/
def convFloat (fmt : Nat) (f : FloatFmt) (ovf : Bool) (rnd : Rnd) : Num → Conv
  | .nan => ⟨canonNan fmt, some .nan⟩
  | .inf s =>
    if fmt = 0x3 then
      if ovf then ⟨packSign f s (maxMag fmt), some .overflow⟩ else ⟨canonNan fmt, some .nan⟩
    else ⟨packSign f s ((2 ^ f.eb - 1) * 2 ^ f.mb), none⟩
  | .fin s m e =>
    let g := roundMag f rnd m e
    if maxMag fmt < g then
      if rnd = .towardZero ∨ ovf = true then ⟨packSign f s (maxMag fmt), some .overflow⟩
      else if fmt = 0x3 then ⟨canonNan fmt, some .nan⟩
      else ⟨packSign f s ((2 ^ f.eb - 1) * 2 ^ f.mb), some .overflow⟩
    else ⟨packSign f s g, if g = 0 ∧ m ≠ 0 then some .toZero else none⟩

/-- Conversion to a two's complement integer of `n` bits, which always saturates, within `-2^(n-1)` (or `-hi`
for MXINT8 elements) and `hi = 2^(n-1) - 1` (R81 to R83). -/
def convInt (n : Nat) (symmetric : Bool) (rnd : Rnd) : Num → Conv
  | .nan => ⟨0, some .nan⟩
  | .inf s =>
    let hi := 2 ^ (n - 1) - 1
    let low := if symmetric then 2 ^ n - hi else hi + 1
    ⟨if s then low else hi, some .overflow⟩
  | .fin s m e =>
    let hi := 2 ^ (n - 1) - 1
    let low := if symmetric then hi else hi + 1
    let u := roundUnits rnd m e 0
    if s then
      if low < u then ⟨2 ^ n - low, some .overflow⟩
      else ⟨(2 ^ n - u) % 2 ^ n, if u = 0 ∧ m ≠ 0 then some .toZero else none⟩
    else
      if hi < u then ⟨hi, some .overflow⟩
      else ⟨u, if u = 0 ∧ m ≠ 0 then some .toZero else none⟩

/-- One element converted to a format without block scales (R78, R83). A Tallow output writes the value as it
is. -/
def convElem (c : ConvWord) (step pos : Nat) (v : Num) : Conv :=
  match floatFmt c.fmt with
  | some f => if c.fmt = 0xC then ⟨(roundT v).toNat, if v.isNan then some .nan else none⟩
      else convFloat c.fmt f c.ovf (c.mode step pos) v
  | none => convInt (if c.fmt = 0xB then 32 else 8) false (c.mode step pos) v

/-- `emax` of the MX formats (R82). -/
def mxEmax : Nat → Int
  | 0x5 => 8
  | 0x6 => 4
  | 0x7 => 2
  | 0x8 => 2
  | _ => 0

/-- The finite magnitude as a significand and an exponent; `none` for NaN and infinity. -/
def Num.mag : Num → Option (Nat × Int)
  | .fin _ m e => some (m, e)
  | _ => none

/-- `floor(log2)` of the largest magnitude of a block, if any is nonzero (R82). -/
def blockLog2 : List Num → Option Int
  | [] => none
  | v :: vs =>
    match v, blockLog2 vs with
    | .fin _ m e, some l => if m = 0 then some l else some (max ((Nat.log2 m : Int) + e) l)
    | .fin _ m e, none => if m = 0 then none else some ((Nat.log2 m : Int) + e)
    | _, r => r

/-- One element of an MX block at block exponent `x` (R82 step 4). -/
def convMxElem (c : ConvWord) (rnd : Rnd) (x : Int) (v : Num) : Conv :=
  match floatFmt c.fmt with
  | some f =>
    match v.scale2 (-x) with
    | .fin s m e =>
      let g := roundMag f rnd m e
      if maxMag c.fmt < g then ⟨packSign f s (maxMag c.fmt), some .overflow⟩
      else ⟨packSign f s g, if g = 0 ∧ m ≠ 0 then some .toZero else none⟩
    | _ => ⟨0, none⟩
  | none => convInt 8 true rnd (v.scale2 (6 - x))

/-- Conversion of the block whose first element has logical index `pos` (R82): the scale byte, the elements, and
the events. -/
def convBlock (c : ConvWord) (step : Nat) (pos : List Nat) (vs : List Num) : Nat × List Conv :=
  if vs.any (fun v => v.mag.isNone) then (0xFF, (vs.map fun _ => ⟨0, none⟩ : List Conv).set 0 ⟨0, some .nan⟩)
  else match blockLog2 vs with
    | none => (0, vs.map fun _ => ⟨0, none⟩)
    | some l =>
      let x := max (-127) (min (l - mxEmax c.fmt) 127)
      ((x + 127).toNat, List.zipWith (fun v p => convMxElem c (c.mode step p) x v) vs pos)

/-! ### Elements in a beat (R59, R129) -/

/-- Bit offset of element `i` in a beat of the format: MXFP6 packs two 24-byte blocks in bytes 0 to 47. -/
def elemOffset (fmt i : Nat) : Nat := elemBits fmt * i

/-- Element `i` of a beat. -/
def beatElem (fmt : Nat) (p : Payload) (i : Nat) : Nat := payBits p (elemOffset fmt i) (elemBits fmt)

/-- The beat that holds the given element patterns from element 0. -/
def packBeat (fmt : Nat) (elems : List Nat) : Payload :=
  BitVec.ofNat 512 ((elems.zipIdx.map fun e => e.1 % 2 ^ elemBits fmt * 2 ^ elemOffset fmt e.2).foldl (· + ·) 0)

/-- The scale byte of element `i` of an MX beat with its scale sideband (R157). -/
def beatScale (side : BitVec 32) (i : Nat) : Nat := bitsOf side (8 * (i / 32)) 8

/-- The exact value of element `i` of a beat, with its block scale for an MX format (R58). -/
def beatNum (fmt : Nat) (p : Payload) (side : BitVec 32) (i : Nat) : Num :=
  let v := decodeElem fmt (beatElem fmt p i)
  if isMx fmt then applyScale (beatScale side i) v else v

end Sys2Proof.Machine
end

