-- ==== Sys2Proof/Machine/ImageTypes.lean ====
section
/-!
DEFINITION. What a configuration plane holds (R55, R88, R120, R167 to R169, R193 to R199) and the fields of the
words in it: loop descriptors (R126, R127), bindings (R123) and Pass descriptors (R219).
-/
namespace Sys2Proof.Machine

/-- A Furrow Unit's configuration (R193, type FURROW). -/
structure FurrowCfg where
  stages : List W64
  lantern : W64
  port : W64
  slotIn : List Byte
  slotOut : List Byte
  elems : List W64
  shuf : List (List Byte)
  deriving DecidableEq, Repr

/-- A Hopper Unit's configuration (R120): 64 descriptors of 8 words, 64 bindings of 4 words in the order stage 0
AG0, stage 0 AG1, ..., stage 15 AG3. -/
structure HopperCfg where
  desc : List W64
  bind : List W64
  slotIn : List Byte
  slotOut : List Byte
  deriving DecidableEq, Repr

/-- A Stile's entries, by slot (R48). -/
structure StileCfg where
  slotIn : List Byte
  slotOut : List Byte
  deriving DecidableEq, Repr

/-- The idle configuration of R195. -/
def FurrowCfg.idle : FurrowCfg := ⟨[], 0, 0, [], [], [], []⟩
def HopperCfg.idle : HopperCfg := ⟨[], [], [], []⟩
def StileCfg.idle : StileCfg := ⟨[], []⟩

/-- A step-time record (R199). -/
structure StepTime where
  bucket : Nat
  requests : Nat
  context : Nat
  floors : List Nat
  wcst : Nat
  deriving DecidableEq, Repr

/-- The contents of one configuration plane with its template store (R195, R206, R218). Units are keyed
`2 * plot + unit`, Headlands by plot and Stiles `2 * row + side`. -/
structure Image where
  mask : Nat
  imageId : W64
  modelId : W64
  /-- Bytes 0 to 7 of TABLE_DIGEST (R205). -/
  digest8 : W64
  pwrPeak : Nat
  pwrIdle : Nat
  compat : Bool
  furrow : KMap FurrowCfg
  hopper : KMap HopperCfg
  headland : KMap (List Byte)
  stile : KMap StileCfg
  credits : List W64
  passes : List (List W64)
  steptimes : List StepTime
  deriving DecidableEq, Repr

/-- A cleared plane: the idle configuration everywhere (R195, R211). -/
def Image.cleared : Image :=
  ⟨0, 0, 0, 0, 0, 0, false, [], [], [], [], [], [], []⟩

def Image.furrowAt (m : Image) (unit : Nat) : FurrowCfg := m.furrow.get (fun _ => .idle) unit
def Image.hopperAt (m : Image) (unit : Nat) : HopperCfg := m.hopper.get (fun _ => .idle) unit
def Image.stileAt (m : Image) (k : Nat) : StileCfg := m.stile.get (fun _ => .idle) k

/-- A slot entry byte: its target when it is enabled (R51, R167). -/
def slotEntry (b : Byte) : Option Nat := if b.getLsbD 7 then some (b.toNat % 16) else none

/-- The input that output `o` of a plot's Headland names in slot `s` (R38). -/
def Image.hlEntry (m : Image) (plot o s : Nat) : Option Nat :=
  slotEntry ((m.headland.get (fun _ => []) plot).getD (16 * o + s) 0)

/-- The output that input `i` of a plot's Headland goes to in slot `s`: an input is named by at most one. -/
def Image.hlOut (m : Image) (plot i s : Nat) : Option Nat :=
  (List.range 10).find? fun o => m.hlEntry plot o s == some i

/-- PLOT_STATUS.IN_IMAGE: the plot has a record of type FURROW, HOPPER or HEADLAND (R195). -/
def Image.usesPlot (m : Image) (plot : Nat) : Bool :=
  m.headland.any (fun e => e.1 == plot) || m.furrow.any (fun e => e.1 / 2 == plot) ||
    m.hopper.any (fun e => e.1 / 2 == plot)

/-! ### Loop descriptors and bindings -/

/-- A loop descriptor (R126, R127). -/
structure LoopDesc where
  extent : List Nat
  stride : List Int
  fmt : Nat
  beats : Nat
  kind : Nat
  orderS : List Nat
  orderF : List Nat
  side : Nat
  mask : List Nat
  limit0 : Nat
  limit1 : Nat
  tileLines : Nat
  deriving DecidableEq, Repr

/-- The descriptor of eight words (R126, R127). -/
def LoopDesc.ofWords (w : List W64) : LoopDesc :=
  let h := w.getD 6 0
  let t := w.getD 7 0
  { extent := (List.range 6).map fun i => bitsOf (w.getD i 0) 0 24
    stride := (List.range 6).map fun i => sext 40 (bitsOf (w.getD i 0) 24 40)
    fmt := bitsOf h 0 4
    beats := bitsOf h 4 2 + 1
    kind := bitsOf h 6 2
    orderS := (List.range 6).map fun k => bitsOf h (8 + 3 * k) 3
    orderF := (List.range 6).map fun k => bitsOf h (26 + 3 * k) 3
    side := bitsOf h 44 6
    mask := (List.range 6).map fun i => bitsOf h (50 + 2 * i) 2
    limit0 := bitsOf t 0 24
    limit1 := bitsOf t 24 24
    tileLines := bitsOf t 48 14 }

def HopperCfg.descWords (c : HopperCfg) (i : Nat) : List W64 := (c.desc.drop (8 * i)).take 8
def HopperCfg.descAt (c : HopperCfg) (i : Nat) : LoopDesc := .ofWords (c.descWords i)

/-- Whether level `i` is an F level (R127). -/
def LoopDesc.isF (d : LoopDesc) (i : Nat) : Bool := d.side / 2 ^ i % 2 = 1

/-- The S levels in walk order, and the F levels in walk order (R130). -/
def LoopDesc.sLevels (d : LoopDesc) : List Nat := d.orderS.filter fun i => !d.isF i
def LoopDesc.fLevels (d : LoopDesc) : List Nat := d.orderF.filter fun i => d.isF i

/-- The vector level: the first S level in ORDER_S (R129). -/
def LoopDesc.vector (d : LoopDesc) : Nat := d.sLevels.headD 0

/-- Iterations of a level (R129). -/
def LoopDesc.iters (d : LoopDesc) (i : Nat) : Nat :=
  if i = d.vector then cdiv (d.extent.getD i 0) (d.beats * elemsPerBeat d.fmt)
  else d.extent.getD i 0

/-- The request-axis level, if any (R127). -/
def LoopDesc.requestLevel (d : LoopDesc) : Option Nat := (List.range 6).find? fun i => d.mask.getD i 0 == 3

/-- The indexed level of KIND INDEXED: the last F level in ORDER_F, else the last S level in ORDER_S (R139). -/
def LoopDesc.indexedLevel (d : LoopDesc) : Option Nat :=
  match d.fLevels.getLast? with
  | some i => some i
  | none => d.sLevels.getLast?

/-- The paged level of KIND PAGED: the F level in constraint 0 (R142). -/
def LoopDesc.pagedLevel (d : LoopDesc) : Option Nat :=
  d.fLevels.find? fun i => d.mask.getD i 0 == 1

/-- A binding entry (R123). -/
structure Binding where
  en : Bool
  write : Bool
  desc : Nat
  port : Nat
  role : Nat
  far : Bool
  baseSel : Nat
  sbBase : Nat
  sbScale : Nat
  idxLine : Nat
  farOff : Int
  farScaleOff : Int
  posOff : Nat
  deriving DecidableEq, Repr

/-- The binding of four words (R123). -/
def Binding.ofWords (w : List W64) : Binding :=
  let a := w.getD 0 0
  { en := bitOf a 0
    write := bitOf a 1
    desc := bitsOf a 2 6
    port := bitsOf a 8 2
    role := bitsOf a 10 3
    far := bitOf a 13
    baseSel := bitsOf a 14 3
    sbBase := bitsOf a 17 14
    sbScale := bitsOf a 31 14
    idxLine := bitsOf a 45 14
    farOff := sext 40 (bitsOf (w.getD 1 0) 0 40)
    farScaleOff := sext 40 (bitsOf (w.getD 2 0) 0 40)
    posOff := bitsOf (w.getD 3 0) 0 48 }

def HopperCfg.bindWords (c : HopperCfg) (stage ag : Nat) : List W64 := (c.bind.drop (4 * (4 * stage + ag))).take 4
def HopperCfg.binding (c : HopperCfg) (stage ag : Nat) : Binding := .ofWords (c.bindWords stage ag)

/-- Whether the binding steps a hand-over ring: FAR 0 with F levels (R123, R150). -/
def isRing (b : Binding) (d : LoopDesc) : Bool := !b.far && d.side != 0

/-! ### Pass descriptors (R219) -/

def passWord (p : List W64) (i : Nat) : W64 := p.getD i 0
def passTemplate (p : List W64) : Nat := bitsOf (passWord p 0) 0 10
def passStageMask (p : List W64) : Nat := bitsOf (passWord p 0) 10 16
def passMb (p : List W64) : Bool := bitOf (passWord p 0) 26
def passStepEnd (p : List W64) : Bool := bitOf (passWord p 0) 27
def passQraise (p : List W64) : Bool := bitOf (passWord p 0) 28
def passBucketed (p : List W64) : Bool := bitOf (passWord p 0) 29
def passNbM1 (p : List W64) : Nat := bitsOf (passWord p 0) 30 4
def passQtag (p : List W64) : Nat := bitsOf (passWord p 0) 34 4
def passLayer (p : List W64) : Nat := bitsOf (passWord p 0) 38 16
def passWcc (p : List W64) : Nat := bitsOf (passWord p 1) 0 40
def passUses (p : List W64) (k : Nat) : Bool := passStageMask p / 2 ^ k % 2 = 1
def passBase (p : List W64) (i : Nat) : W64 := passWord p (8 + i)
def passOcw (p : List W64) (k : Nat) : W64 := passWord p (16 + k)
def passRowActive (p : List W64) (r : Nat) : Bool := bitOf (passWord p (32 + r / 64)) (r % 64)

/-- The RECT entry of stage `k`. -/
def passRect (p : List W64) (k : Nat) : Nat := bitsOf (passWord p (40 + k / 2)) (32 * (k % 2)) 32

/-- A plot rectangle. -/
structure Rect where
  rowLo : Nat
  rowHi : Nat
  colLo : Nat
  colHi : Nat
  fuEn : Bool
  deriving DecidableEq, Repr

def Rect.ofBits (r : Nat) : Rect :=
  ⟨r % 32, r / 32 % 32, r / 2 ^ 10 % 16, r / 2 ^ 14 % 16, decide (r / 2 ^ 18 % 2 = 1)⟩

def passRectOf (p : List W64) (k : Nat) : Rect := .ofBits (passRect p k)

/-- Whether the rectangle has Furrow Units and holds the plot. -/
def Rect.holds (r : Rect) (plot : Nat) : Bool :=
  r.fuEn && decide (r.rowLo ≤ plot / 16 ∧ plot / 16 ≤ r.rowHi ∧ r.colLo ≤ plot % 16 ∧ plot % 16 ≤ r.colHi)

/-- Two rectangles with Furrow Units that share a plot. -/
def Rect.meets (a b : Rect) : Bool :=
  a.fuEn && b.fuEn && decide (a.rowLo ≤ b.rowHi ∧ b.rowLo ≤ a.rowHi ∧ a.colLo ≤ b.colHi ∧ b.colLo ≤ a.colHi)

end Sys2Proof.Machine
end

