-- ==== Sys2Proof/Machine/FieldTypes.lean ====
section
/-!
DEFINITION. The dynamic state of the Field: queues and their credits (R160, R161, R186), steering elements, pipelines
with their Lanterns, address generators, rings and Headland registers.
-/
namespace Sys2Proof.Machine

/-- One queue (R160). Its writer's credit counter is the depth less `out`, so that a flush sets every field to its
default (R161, R166). -/
structure Queue where
  toks : List Token
  /-- Credits that the writer has used and that have not returned. -/
  out : Nat
  /-- Freed credits not yet driven on the return sideband (R163). -/
  undriven : Nat
  /-- Credits driven on the return sideband that have not reached the sender (R163). -/
  wires : Nat
  /-- The next SEQ that the queue's circuit sender stamps (R159). -/
  seqTx : Nat
  /-- The next SEQ that the receiver expects (R159). -/
  seqRx : Nat
  /-- Control values already used from the head control token (R186). -/
  used : Nat
  deriving DecidableEq, Repr

def Queue.empty : Queue := ⟨[], 0, 0, 0, 0, 0, 0⟩

/-- One steering element (R186). -/
structure ElemSt where
  /-- MERGE's next input. -/
  next : Nat
  rowOpen : Bool
  /-- The held GRAIN 1 control value. -/
  held : Nat
  /-- The once-per-row input consumed for the open row. -/
  once : Bool
  deriving DecidableEq, Repr

def ElemSt.clear : ElemSt := ⟨0, false, 0, false⟩

/-- The marks of a token header (R153). -/
structure Marks where
  chS : Bool
  chE : Bool
  rowS : Bool
  rowE : Bool
  deriving DecidableEq, Repr

def Marks.none : Marks := ⟨false, false, false, false⟩

/-- A lane value as it passes between stages: a format code, the pattern, and the block scale of an MX value. -/
structure LaneVal where
  fmt : Nat
  bits : Nat
  scale : Option Nat
  deriving DecidableEq, Repr

/-- The accumulators of the lanes in the open chain, and which lanes it has given a chunk (R67). -/
structure Chain where
  acc : List Tallow
  fed : List Bool
  deriving DecidableEq, Repr

def Chain.none : Chain := ⟨[], []⟩

/-- One cycle's values from stage 6 as the Lantern has joined them: the mask bits of the elements, and the marks (R90,
R91). -/
structure LBeat where
  vals : List Tallow
  mask : Nat
  marks : Marks
  deriving DecidableEq, Repr

/-- A Furrow Unit's pipeline and Lantern. -/
structure PipeSt where
  chain : Chain
  chainOpen : Bool
  /-- Start marks seen since values last left stage 6. -/
  inMarks : Marks
  /-- A result of stage 6 that waits for a Pass with its output conversion (R216). -/
  held : Option (List LaneVal × Marks)
  /-- Cycles in the Lantern. -/
  lin : List LBeat
  /-- A row has begun at the Lantern and not ended. -/
  rowOpen : Bool
  /-- Denominator tokens of the rows in the Lantern (R90). -/
  dens : List Token
  /-- Result and status tokens of the row that drains, each with its queue (R111). -/
  drain : List (Nat × Token)
  /-- Values of the open result token, before conversion (R78, R154). -/
  outVals : List LaneVal
  /-- Marks to set on the open result token. -/
  outMarks : Marks
  /-- Element places of result tokens used so far, for their positions (R80). -/
  outPos : Nat
  /-- Block scales of the beats of the open scale group of the results (R157). -/
  group : List (List Byte)
  deriving DecidableEq, Repr

def PipeSt.clear : PipeSt := ⟨.none, false, .none, none, [], false, [], [], [], .none, 0, []⟩

/-- An address generator's walk (R130). -/
structure AgSt where
  running : Bool
  /-- The PSEQ of its Pass, and the stage whose binding it runs. -/
  pseq : Nat
  stage : Nat
  /-- F iterations and S accesses done. -/
  t : Nat
  si : Nat
  /-- Far tiles fetched into the ring slots, or drained from them. -/
  far : Nat
  /-- A far tile waits for a scoreboard entry under this ticket plus 1; 0 when none. -/
  wait : Nat
  /-- Byte offsets stored by the walk of the tile in slot 0 and in slot 1 (R132). -/
  stored0 : List Nat
  stored1 : List Nat
  /-- Block scales of the beats of the open scale group (R157). -/
  group : List (List Byte)
  /-- Length words read, by request row (R145). -/
  lens : KMap Nat
  /-- Mask tokens of the open row sent (R149). -/
  sub : Nat
  /-- The walk has ended. -/
  ended : Bool
  deriving DecidableEq, Repr

def AgSt.idle : AgSt := ⟨false, 0, 0, 0, 0, 0, 0, [], [], [], [], 0, false⟩

/-- A hand-over ring slot (R151): the generators whose S walk of its tile has ended. -/
structure RingSlot where
  full : Bool
  done : List Nat
  deriving DecidableEq, Repr

def RingSlot.empty : RingSlot := ⟨false, []⟩

/-- The dynamic state of the Field. -/
structure FieldSt where
  /-- Field cycles since the last rotation (R37). -/
  cycle : Nat
  /-- Parts of 1/6400 of a Field cycle, carried between ticks. -/
  frac : Nat
  /-- ROT_SEQ of every plot (R52). -/
  rotSeq : Nat
  /-- Queues by key (R160). -/
  queues : KMap Queue
  /-- Elements by `8 * unit + element`, pipelines by unit. -/
  elems : KMap ElemSt
  pipes : KMap PipeSt
  /-- Generators by `4 * Hopper + AG`. -/
  ags : KMap AgSt
  /-- Ring slots by `2 * (16384 * Hopper + SB_BASE) + slot`. -/
  rings : KMap RingSlot
  /-- Headland output registers with their tokens by `10 * plot + port` (R39). -/
  hlOut : KMap Token
  /-- The Field is halted by BIST: senders, elements, pipelines and generators stand still (R184). -/
  halted : Bool
  /-- The halt is complete, and the strips have been scanned out (R184, R533). -/
  scanned : Bool
  /-- The Field clock is gated by a rotation or a warm reset. -/
  gated : Bool
  /-- Strips outside the mask of the image that a rotation has lit: their clock stays gated (R206). -/
  darkStrips : BitVec 8
  deriving DecidableEq, Repr

def FieldSt.clear : FieldSt := ⟨0, 0, 0, [], [], [], [], [], [], false, false, false, 0⟩

/-- A header (R153). -/
def mkHdr (cls : Nat) (m : Marks) (vcount fmt : Nat) : BitVec 32 :=
  BitVec.ofNat 32 (1 + 2 * cls + 8 * bit m.chS + 16 * bit m.chE + 32 * bit m.rowS + 64 * bit m.rowE +
    128 * (vcount % 256) + 2 ^ 15 * (fmt % 16))

end Sys2Proof.Machine

namespace Sys2Proof

/-- A bubble (R153). -/
def Token.bubble : Token := ⟨0, 0, 0⟩

/-! ### Token headers (R153) -/

def Token.valid (t : Token) : Bool := Machine.bitOf t.hdr 0
def Token.cls (t : Token) : Nat := Machine.bitsOf t.hdr 1 2
def Token.vcount (t : Token) : Nat := Machine.bitsOf t.hdr 7 8
def Token.fmt (t : Token) : Nat := Machine.bitsOf t.hdr 15 4
def Token.sidx (t : Token) : Nat := Machine.bitsOf t.hdr 19 5
def Token.seq (t : Token) : Nat := Machine.bitsOf t.hdr 24 8
def Token.marks (t : Token) : Machine.Marks := ⟨Machine.bitOf t.hdr 3, Machine.bitOf t.hdr 4, Machine.bitOf t.hdr 5, Machine.bitOf t.hdr 6⟩
def Token.withSeq (t : Token) (n : Nat) : Token := { t with hdr := Machine.withBits t.hdr 24 8 n }

end Sys2Proof
end

