-- ==== Sys2Proof/Machine/MoeTypes.lean ====
section
/-!
DEFINITION. The state of the Sower and the Gleaner (R245 to R271) outside their registers.
-/
namespace Sys2Proof.Machine

/-- A layer entry (R246). -/
structure LayerCfg where
  e : Nat
  k : Nat
  gmode : Nat
  sfmt : Nat
  rfmt : Nat
  xfmt : Nat
  init : Bool
  resfmt : Nat
  ne : Nat
  gleanTpl : Nat
  xmode : Bool
  omode : Bool
  rowElems : Nat
  rowsMax : Nat
  stile : Nat
  nslot : Nat
  nbM1 : Nat
  gscale : Nat
  route : Nat
  res : Nat
  wslot : Nat
  wslotBytes : Nat
  expBytes : Nat
  act : Nat
  disp : Nat
  dispRows : Nat
  ewt : Nat
  resid : Nat
  xout : Nat
  out : Nat
  ocw : W64
  cap : List Nat
  deriving DecidableEq, Repr

/-- A row's chosen experts in ascending order with their gates (R253, R254). -/
structure Routed where
  row : Nat
  gates : List (Nat × Tallow)
  deriving DecidableEq, Repr

/-- The Sower's work for one Pass (R250 to R264). -/
structure SowerSt where
  pseq : Nat
  order : Nat
  layer : Nat
  cfg : LayerCfg
  /-- Present rows whose scores are still expected, ascending. -/
  expected : List Nat
  routed : List Routed
  sent : Bool
  /-- Segments accepted, in ascending SRC. -/
  received : List Segment
  /-- The QID of its query, once it is raised. -/
  qid : Option Nat
  queried : Bool
  bucket : Option Nat
  /-- Slots assigned: local expert, slot. -/
  assigned : List (Nat × Nat)
  /-- Local experts whose fetch is in flight. -/
  fetching : List Nat
  tableDone : Bool
  deriving DecidableEq, Repr

/-- The Gleaner's work for one Pass (R265 to R270). -/
structure GleanSt where
  pseq : Nat
  layer : Nat
  cfg : LayerCfg
  bucket : Nat
  present : List Nat
  /-- Output rows still expected: local expert, row of the expert. -/
  expected : List (Nat × Nat)
  /-- Rows taken: local expert, row of the expert, bytes. -/
  taken : List (Nat × Nat × List Byte)
  sent : Bool
  received : List Segment
  done : Bool
  deriving DecidableEq, Repr

/-- Both engines. What the Sower learnt of a micro-batch stays for the Gleaner Pass. -/
structure MoeSt where
  sowerA : Option SowerSt
  sowerB : Option SowerSt
  gleanA : Option GleanSt
  gleanB : Option GleanSt
  /-- The Sower's Pass holds its entry, by micro-batch A and B. -/
  busyA : Bool
  busyB : Bool
  /-- Passes that wait for an engine (R251): Gleaner?, micro-batch, PSEQ. -/
  waiting : List (Bool × Bool × Nat)
  /-- Weight slots assigned in this step: layer, slot (R261). -/
  stepSlots : List (Nat × Nat)
  /-- Tokens that an agent will write into its Stile inbound queue, by queue. -/
  agentOut : List (Nat × List Token)
  deriving DecidableEq, Repr

def MoeSt.reset : MoeSt := ⟨none, none, none, none, false, false, [], [], []⟩

end Sys2Proof.Machine
end

