-- ==== Sys2Proof/Machine/SchedTypes.lean ====
section
/-!
DEFINITION. The state of the Step Scheduler (R214 to R242): Passes in flight, queries, the memory scoreboard and the
step boundary.
-/
namespace Sys2Proof.Machine

/-- A Pass's event counts, as words 3 to 5 of its completion record hold them (R222). -/
structure PassCnt where
  nan : Nat
  ovf : Nat
  toZero : Nat
  sbCe : Nat
  indexF : Nat
  xlateF : Nat
  treeF : Nat
  handoverF : Nat
  steerF : Nat
  msbWait : Nat
  deriving DecidableEq, Repr

def PassCnt.zero : PassCnt := ⟨0, 0, 0, 0, 0, 0, 0, 0, 0, 0⟩

/-- A Pass in flight. -/
structure PassSt where
  pseq : Nat
  queue : Nat
  /-- The position of its descriptor in its queue. -/
  pos : Nat
  /-- The descriptor as it runs: the static fields of the template run, the dynamic fields of the descriptor
  (R221). -/
  desc : List W64
  /-- The template run. -/
  template : Nat
  bucket : Nat
  byDefault : Bool
  issueCycle : Nat
  /-- Its place in the issue order of Passes and streams (R228, R332). -/
  order : Nat
  /-- Its query has been raised (R230). -/
  queried : Bool
  cnt : PassCnt
  deriving DecidableEq, Repr

/-- A step query (R230 to R234). -/
structure Query where
  qid : Nat
  qtag : Nat
  mb : Bool
  nbM1 : Nat
  deadline : Nat
  /-- The core to which it is dispatched. -/
  core : Option Nat
  /-- Recorded, and neither answered, nor past its deadline, nor withdrawn. -/
  outstanding : Bool
  /-- The settled bucket, and whether it was taken by default (R232). -/
  settled : Option (Nat × Bool)
  deriving DecidableEq, Repr

/-- What a memory-scoreboard entry or a waiting operation belongs to (R227). -/
inductive Owner where
  /-- A far tile of a generator (`4 * Hopper + AG`). -/
  | tile (ag : Nat)
  /-- The next chunk of a Harrow stream. -/
  | stream (queue1 : Bool) (pos : Nat)
  /-- A Sower fetch. -/
  | fetch (mb : Bool) (j : Nat)
  /-- The engines' entries without a line range, by micro-batch (R250, R298). -/
  | sower (mb : Bool)
  | gleaner (mb : Bool)
  | serve (mb : Bool)
  deriving DecidableEq, Repr

/-- An operation in the memory scoreboard or waiting for it (R227, R228). -/
structure MemOp where
  ticket : Nat
  owner : Owner
  /-- The place of its Pass or stream in the issue order. -/
  order : Nat
  /-- PSEQ of the Pass whose MSB_WAIT its wait counts in. -/
  pseq : Option Nat
  write : Bool
  /-- First and last 64-byte line of the global fabric address space. -/
  first : Nat
  last : Nat
  /-- The Field cycle at which it began to wait. -/
  since : Nat
  deriving DecidableEq, Repr

/-- The state of the scheduler outside its registers. -/
structure SchedSt where
  inflight : List PassSt
  nextPseq : Nat
  nextOrder : Nat
  nextTicket : Nat
  entries : List MemOp
  waiting : List MemOp
  queries : List Query
  nextQid : Nat
  /-- The query that each core holds, plus one; 0 for an idle core (R233). -/
  coreHolds : KMap Nat
  /-- Its deadline in STEP_QCLK ticks. -/
  coreDeadline : KMap Nat
  /-- Supervisor external interrupts raised and not taken, by core (R233, R497). -/
  coreIrq : BitVec 16
  /-- The Lamplighter has been notified of a record (R497). -/
  lampNotice : Bool
  /-- Queues that have issued their STEP_END Pass in this step. -/
  endIssued : BitVec 4
  savedTags0 : W64
  savedTags1 : W64
  /-- Passes completed in this step. -/
  passesDone : Nat
  /-- The step in progress is a replay. -/
  replay : Bool
  /-- HARROW_NOW at the issue of the step's first Pass (R333). -/
  firstNow : Option Nat
  /-- The Ward flush of the step is running (R238 step 1). -/
  flushing : Bool
  /-- This chip has sent FLUSHED for the step. -/
  flushedSent : Bool
  /-- COMMIT has been received and the boundary continues (R238 steps 4 to 8). -/
  committed : Bool
  /-- The boundary waits for ring space before the Sheaf (R306). -/
  ringWait : Bool
  /-- This chip has sent ABANDONED. -/
  abandonedSent : Bool
  /-- The cause of the abandonment in progress. -/
  abCause : Nat
  /-- Abandonments in succession, which REPLAYS shows up to 15 (R240). -/
  abandons : Nat
  /-- A refused descriptor has set HALTED, and the abandonment that it asked for has not ended (R220). -/
  descHalt : Bool
  /-- A cause charged to a step that has not begun (R239). -/
  chargeNext : Option Nat
  /-- HALT is pending (R242), and the step of a HALT_AT, if one was received (R490). -/
  haltReq : Bool
  haltAt : Option Nat
  /-- A Field reset ended this chip's part of a step in progress (R470). -/
  resetRejoin : Bool
  /-- Leader: slice-relative index and step number of each FLUSHED held. -/
  flushedFrom : List (Nat × Nat)
  abandonedFrom : List Nat
  /-- Leader: its boundary wait runs (R241). -/
  bndWait : Bool
  /-- Leader: COMMIT or ABANDON of the step has been multicast. -/
  commitSent : Bool
  abandonMcast : Bool
  /-- An ABANDON of the next step, received before this chip has begun it: step, cause, detecting chip. -/
  heldAbandon : Option (Nat × Nat × Nat)
  deriving DecidableEq, Repr

def SchedSt.reset : SchedSt :=
  { inflight := [], nextPseq := 0, nextOrder := 0, nextTicket := 0, entries := [], waiting := [], queries := [],
    nextQid := 0, coreHolds := [], coreDeadline := [], coreIrq := 0, lampNotice := false, endIssued := 0, savedTags0 := 0,
    savedTags1 := 0, passesDone := 0, replay := false, firstNow := none, flushing := false, flushedSent := false,
    committed := false, ringWait := false, abandonedSent := false, abCause := 0, abandons := 0, descHalt := false,
    chargeNext := none, haltReq := false, haltAt := none, resetRejoin := false, flushedFrom := [], abandonedFrom := [],
    bndWait := false, commitSent := false, abandonMcast := false, heldAbandon := none }

end Sys2Proof.Machine
end

