-- ==== Sys2Proof/Machine/NetTypes.lean ====
section
/-!
DEFINITION. The state of the links, ports, packets, routes and slice (R369 to R410), and the rack plan (R386, R519).
-/
namespace Sys2Proof.Machine

/-- A LINK record of the rack plan, for one link of one chip (R386, R519). -/
structure LinkRec where
  serial : Nat
  link : Nat
  port : Nat
  role : Nat
  peerSerial : Nat
  peerLink : Nat
  peerPort : Nat
  fwdig : Nat
  revMin : Nat
  deriving DecidableEq, Repr

/-- A PUBKEY record (R519). -/
structure PubKey where
  keyId : Nat
  x : Nat
  y : Nat
  deriving DecidableEq, Repr

/-- A rack plan in effect (R519). -/
structure Plan where
  rack : Nat
  seq : Nat
  digest : Nat
  rackKeyX : Nat
  rackKeyY : Nat
  rackKeyId : Nat
  links : List LinkRec
  /-- Port wheels: serial, port, the 64 entries. -/
  wheels : List (Nat × Nat × List Nat)
  pubkeys : List PubKey
  standby : List Nat
  bridges : List Nat
  deriving DecidableEq, Repr

/-- An applied slice descriptor (R392). -/
structure Slice where
  ox : Nat
  oy : Nat
  oz : Nat
  exM1 : Nat
  eyM1 : Nat
  ezM1 : Nat
  job : Nat
  gen : Nat
  keyslot : Nat
  detourEn : Bool
  deriving DecidableEq, Repr

/-- One link's state outside LINK_STATE, LINK_PEER, LINK_PEERPOS and LINK_FEC. -/
structure LinkSt where
  /-- FSEQ of the next DATA frame. -/
  txSeq : Nat
  /-- Frames not yet acknowledged, oldest first (R374). -/
  replay : List Frame
  /-- Successive replays without ACK progress. -/
  noProgress : Nat
  /-- The next FSEQ expected. -/
  rxSeq : Nat
  /-- NACK is set in every frame sent. -/
  nack : Bool
  /-- The last hello from the peer. -/
  lastHello : Option HelloMsg
  /-- The hello on which the link's state rests. -/
  basis : Option HelloMsg
  /-- Frames sent and not yet taken by the peer: DATA, then hellos and departures by kind. -/
  sentHellos : List HelloMsg
  sentDepart : Option (BitVec 8)
  deriving DecidableEq, Repr

def LinkSt.reset : LinkSt := ⟨0, [], 0, 0, false, none, none, [], none⟩

/-- A packet that waits at this chip for a port (R399, R400). -/
structure TxPacket where
  port : Nat
  vc : Nat
  d1 : Bool
  pkt : Packet
  /-- One branch of a multicast. -/
  mcast : Bool
  /-- The input buffer that it holds, as a credit key plus one; 0 for a packet of this chip (R399). -/
  held : Nat
  deriving DecidableEq, Repr

/-- What an unanswered request of this chip is for (R378, R400). -/
inductive ReqKind where
  | wardDelta
  | drill
  /-- Lines of the Commons that an operation of the scoreboard writes or reads; no owner: background zeroing and reclaim
  moves. -/
  | commonsWrite (owner : Option Owner)
  | commonsRead (owner : Option Owner)
  | segment (combine : Bool) (mb : Bool)
  | chain
  | control
  deriving DecidableEq, Repr

/-- A request that awaits its answer. -/
structure Request where
  tag : Nat
  vc : Nat
  kind : ReqKind
  addr : Nat
  deriving DecidableEq, Repr

/-- The links, ports and slice outside their registers. -/
structure NetSt where
  links : KMap LinkSt
  /-- PSEQ of the next frame of each port, and of the next frame read. -/
  pseqTx : KMap Nat
  pseqRx : KMap Nat
  /-- Flit credits spent and not returned, by `256 * port + 2 * vc + class` (R381). -/
  spent : KMap Nat
  /-- Flit credits to return, by the same key. -/
  owed : KMap Nat
  tx : List TxPacket
  /-- Frames taken by a port and not yet read in PSEQ order, by port (R371). -/
  portBuf : KMap (List (Nat × List (Packet × Bool)))
  /-- Packets whose last flit has been read: port, class, packet. -/
  rx : List (Nat × Bool × Packet)
  /-- CTR by VC (R377). -/
  ctr : KMap Nat
  nextTag : Nat
  requests : List Request
  /-- Packets that the part has made and that wait for injection. -/
  outbox : List Packet
  /-- Packets delivered to this chip and not yet acted on. -/
  delivered : List Packet
  /-- Packets of segments not yet taken, with the credit key plus one of the input buffer that each holds (R257). -/
  segHeld : List (Nat × Packet)
  slice : Option Slice
  /-- The substitutions that the last APPLY took: replaced position, substitute (R484). -/
  subst : List (Nat × Nat)
  lastIssued : Nat
  plan : Option Plan
  /-- The plan in the Fallow system area (R520). -/
  stored : Option Plan
  /-- Links decided anew that await a boundary before the tables use them (R404), by link. -/
  returning : KMap Bool
  /-- Failed marks as the tables see them (R404). -/
  failedSeen : W64
  /-- Links as the tables see them: state 3 UP or 4 MGMT. -/
  inTable : KMap Nat
  deriving DecidableEq, Repr

def NetSt.reset : NetSt :=
  ⟨[], [], [], [], [], [], [], [], [], 0, [], [], [], [], none, [], 0, none, none, [], 0, []⟩

end Sys2Proof.Machine
end

