-- ==== Sys2Proof/Machine/PowerTypes.lean ====
section
/-!
DEFINITION. The state of the Candle (R411 to R446) outside its registers: power sequencing, governor, meters and
records.
-/
namespace Sys2Proof.Machine

/-- A minute record, open or queued (R437). -/
structure MinuteRec where
  seq : Nat
  msFirst : Nat
  msCount : Nat
  minutes : Nat
  energy : Nat
  glow : Nat
  /-- Highest and lowest 1 ms average, in mW. -/
  pmax : Nat
  pmin : Nat
  capMax : Nat
  capMin : Nat
  floorMin : Nat
  capWrites : Nat
  holds : Nat
  fastPin : Nat
  snuff : Bool
  refLost : Bool
  meterFault : Bool
  merged : Bool
  eTotal : Nat
  deriving DecidableEq, Repr

/-- The Candle. Draws are in hundredths of a watt where a comment says cW. -/
structure PowerSt where
  /-- lvl, tgt and peak in cW (R425, R426). -/
  lvl : Nat
  tgt : Nat
  peak : Nat
  /-- PWR_IDLE of the lit image, in W. -/
  idle : Nat
  /-- A tick has run since the Candle rail powered on (R575). -/
  ticked : Bool
  /-- Glow in cW before it is rounded down to whole cells, and the setting to restore after the boundary (R425, R434). -/
  glow : Nat
  savedGlow : Option Nat
  /-- Glow draws of the samples of the running tick, in cW, and how many there were (R424). -/
  glowSum : Nat
  glowSamples : Nat
  /-- Ticks until a hold may end, and consecutive ticks above CAP since a CAP write (R428, R430). -/
  holdLeft : Nat
  overCap : Nat
  capWritten : Bool
  minute : MinuteRec
  queue : List MinuteRec
  /-- Energies in µJ of the closed 1 ms intervals, newest first, at most 60,000. -/
  hist : List Nat
  epoch : Option Nat
  nextSeq : Nat
  /-- Signed slots that await the ledger ring (R438). -/
  signed : List (List Byte)
  /-- Domains whose switch is closing. -/
  closing : List Nat
  /-- The Field PLL in effect, in MHz (R418). -/
  mhz : Nat
  /-- SNUFF_N or REF_LOST has turned the part off until a cold start (R439). -/
  snuffed : Bool
  asleep : Bool
  /-- A GO, and a Field reset, that await the release of a power hold (R431). -/
  goHeld : Option Nat
  resetHeld : Bool
  /-- RESET_N is low. -/
  resetLow : Bool
  /-- THERM_N is asserted (R559). -/
  therm : Bool
  /-- CHIP_RESET.CAUSE of the next start, and whether it is a warm one (R447). -/
  cause : Nat
  warm : Bool
  /-- SUBSOIL_CFG as a warm reset recorded it (R448). -/
  subCfg : Option W64
  /-- The boot stage in progress: 1 Lamplighter firmware, 2 management firmware, 0 none. -/
  boot : Nat
  /-- The first Fallow training since the start settles the pointer (R462). -/
  falStart : Bool
  /-- What training still zeroes after a cold start: bit k stack k, bit 4 Subsoil (R453). -/
  fresh : Nat
  /-- Subsoil trains (R453, R454, R460). -/
  subTrain : Bool
  /-- A restore of CHIP_RESTORE0 waits for Subsoil (R460). -/
  restoreSub : Bool
  /-- Strips that a BIST run has powered (R529). -/
  bistStrips : Nat
  /-- Control writes that wait for their domain, oldest first: source, offset, value (R412). -/
  waits : List (Source × Nat × W64)
  deriving DecidableEq, Repr

def MinuteRec.start (ms cap floor : Nat) : MinuteRec :=
  ⟨0, ms, 0, 1, 0, 0, 0, 2 ^ 24 - 1, cap, cap, floor, 0, 0, 0, false, false, false, false, 0⟩

def PowerSt.reset : PowerSt :=
  ⟨0, 0, 60000, 0, false, 0, none, 0, 0, 0, 0, false, .start 0 1200 600, [], [], none, 0, [], [], 1500, false, false, none, false,
    true, false, 0, false, none, 0, false, 0, false, false, 0, []⟩

end Sys2Proof.Machine
end

