-- ==== Sys2Proof/Machine/RegMap.lean ====
section
/-!
DEFINITION. The control registers (R565, R571): the table of every register's offset, fields, access codes, reset
values and stated ranges, as the register tables of the spec's chapters list them, and a name for every field.
-/
namespace Sys2Proof.Machine

/-- Access codes of R7. A reserved bit is in no field. -/
inductive Acc where
  | ro
  | rw
  | w1c
  | wo
  deriving DecidableEq, Repr

/-- What an RW field stores when it is written: R574, or the rule of its own description. -/
inductive Norm where
  /-- Every value is stored. -/
  | any
  /-- The nearest bound of `lo` to `hi` (R574). -/
  | clamp (lo hi : Nat)
  /-- A value outside `lo` to `hi` stores `dflt`. -/
  | orElse (lo hi dflt : Nat)
  /-- The next lower multiple of `step`, within `lo` to `hi`. -/
  | down (lo hi step : Nat)
  /-- Rounded up to a multiple of 10, within `lo` to `hi`. -/
  | up10 (lo hi : Nat)
  deriving DecidableEq, Repr

/-- The value stored for a written value `x` (R574). -/
def Norm.apply : Norm → Nat → Nat
  | .any, x => x
  | .clamp lo hi, x => max lo (min x hi)
  | .orElse lo hi dflt, x => if lo ≤ x ∧ x ≤ hi then x else dflt
  | .down lo hi step, x => max lo (min (x / step * step) hi)
  | .up10 lo hi, x => max lo (min ((x + 9) / 10 * 10) hi)

/-- One field of a register. -/
structure FieldSpec where
  lo : Nat
  len : Nat
  acc : Acc
  reset : Nat
  norm : Norm
  deriving DecidableEq, Repr

/-- One register, or one array of `n1 * n2` registers at strides `s1` and `s2`, at an offset in its block. -/
structure RegSpec where
  off : Nat
  n1 : Nat
  s1 : Nat
  n2 : Nat
  s2 : Nat
  fields : List FieldSpec
  deriving DecidableEq, Repr

/-- The registers of the CHIP block (R463). -/
def regsChip : List RegSpec := [
  -- CHIP_ID
  ⟨0, 1, 0, 1, 0, [⟨0, 8, .ro, 1, .any⟩, ⟨8, 8, .ro, 0, .any⟩]⟩,
  -- CHIP_SERIAL
  ⟨8, 1, 0, 1, 0, [⟨0, 64, .ro, 0, .any⟩]⟩,
  -- CHIP_STRAPS
  ⟨0x10, 1, 0, 1, 0, [⟨0, 2, .ro, 0, .any⟩, ⟨2, 1, .ro, 0, .any⟩, ⟨3, 2, .ro, 0, .any⟩, ⟨5, 1, .ro, 0, .any⟩]⟩,
  -- CHIP_RESET
  ⟨0x18, 1, 0, 1, 0, [⟨0, 3, .ro, 0, .any⟩, ⟨16, 16, .ro, 0, .any⟩, ⟨32, 32, .ro, 0, .any⟩]⟩,
  -- CHIP_CTRL
  ⟨0x20, 1, 0, 1, 0, [⟨0, 1, .wo, 0, .any⟩, ⟨1, 1, .rw, 1, .any⟩, ⟨2, 1, .wo, 0, .any⟩]⟩,
  -- CHIP_STATUS
  ⟨0x28, 1, 0, 1, 0, [⟨0, 3, .ro, 0, .any⟩, ⟨3, 1, .ro, 1, .any⟩, ⟨4, 1, .ro, 0, .any⟩]⟩,
  -- CHIP_COMPAT
  ⟨0x30, 1, 0, 1, 0, [⟨0, 1, .rw, 0, .any⟩]⟩,
  -- CHIP_ERR
  ⟨0x38, 1, 0, 1, 0, [⟨0, 1, .w1c, 0, .any⟩, ⟨1, 1, .w1c, 0, .any⟩, ⟨2, 1, .w1c, 0, .any⟩, ⟨3, 1, .w1c, 0, .any⟩,
    ⟨4, 1, .w1c, 0, .any⟩]⟩,
  -- CHIP_RESTORE0
  ⟨0x40, 1, 0, 1, 0, [⟨0, 1, .ro, 0, .any⟩, ⟨1, 1, .ro, 0, .any⟩, ⟨2, 1, .ro, 0, .any⟩, ⟨3, 26, .ro, 0, .any⟩,
    ⟨29, 26, .ro, 0, .any⟩]⟩,
  -- CHIP_RESTORE1
  ⟨0x48, 1, 0, 1, 0, [⟨0, 32, .ro, 0, .any⟩, ⟨32, 8, .ro, 0, .any⟩]⟩]

/-- The registers of the CANDLE block (R443). -/
def regsCandle : List RegSpec := [
  -- CANDLE_CAP
  ⟨0, 1, 0, 1, 0, [⟨0, 12, .rw, 0x4B0, .any⟩, ⟨12, 12, .rw, 0x32, .any⟩, ⟨24, 12, .rw, 0x258, .any⟩,
    ⟨36, 10, .rw, 0x12C, .any⟩]⟩,
  -- CANDLE_GOV
  ⟨8, 1, 0, 1, 0, [⟨0, 6, .ro, 0, .any⟩, ⟨6, 1, .ro, 0, .any⟩, ⟨7, 3, .ro, 0, .any⟩, ⟨10, 12, .ro, 0, .any⟩,
    ⟨22, 12, .ro, 0, .any⟩, ⟨34, 9, .ro, 0, .any⟩, ⟨43, 12, .ro, 0x258, .any⟩]⟩,
  -- CANDLE_DOM
  ⟨0x10, 1, 0, 1, 0, [⟨0, 2, .ro, 1, .any⟩, ⟨2, 2, .rw, 1, .any⟩, ⟨4, 2, .rw, 1, .any⟩, ⟨6, 2, .rw, 2, .any⟩,
    ⟨8, 2, .rw, 2, .any⟩, ⟨10, 2, .rw, 2, .any⟩, ⟨12, 2, .rw, 2, .any⟩, ⟨14, 2, .rw, 2, .any⟩,
    ⟨16, 2, .rw, 2, .any⟩, ⟨18, 2, .rw, 2, .any⟩, ⟨20, 2, .rw, 2, .any⟩, ⟨22, 2, .rw, 2, .any⟩,
    ⟨24, 2, .rw, 1, .any⟩, ⟨26, 2, .rw, 1, .any⟩, ⟨28, 2, .rw, 1, .any⟩, ⟨30, 2, .rw, 1, .any⟩,
    ⟨32, 2, .rw, 1, .any⟩, ⟨34, 2, .rw, 2, .any⟩, ⟨36, 2, .rw, 1, .any⟩, ⟨38, 2, .rw, 1, .any⟩,
    ⟨40, 2, .rw, 1, .any⟩, ⟨42, 2, .rw, 1, .any⟩, ⟨44, 2, .rw, 1, .any⟩, ⟨46, 2, .rw, 2, .any⟩]⟩,
  -- CANDLE_DSTAT
  ⟨0x18, 1, 0, 1, 0, [⟨0, 24, .ro, 1, .any⟩, ⟨24, 24, .ro, 0, .any⟩]⟩,
  -- CANDLE_PINS
  ⟨0x20, 1, 0, 1, 0, [⟨0, 2, .ro, 0, .any⟩, ⟨2, 1, .ro, 0, .any⟩, ⟨3, 1, .ro, 0, .any⟩, ⟨4, 1, .ro, 0, .any⟩,
    ⟨5, 1, .ro, 0, .any⟩, ⟨6, 1, .ro, 0, .any⟩]⟩,
  -- CANDLE_EVT
  ⟨0x28, 1, 0, 1, 0, [⟨0, 1, .w1c, 0, .any⟩, ⟨1, 1, .w1c, 0, .any⟩, ⟨16, 16, .ro, 0, .any⟩, ⟨32, 16, .ro, 0, .any⟩,
    ⟨48, 16, .ro, 0, .any⟩]⟩,
  -- CANDLE_ERR
  ⟨0x30, 1, 0, 1, 0, [⟨0, 1, .w1c, 0, .any⟩, ⟨1, 1, .w1c, 0, .any⟩, ⟨2, 1, .w1c, 0, .any⟩, ⟨3, 1, .w1c, 0, .any⟩,
    ⟨4, 1, .w1c, 0, .any⟩, ⟨5, 1, .w1c, 0, .any⟩, ⟨6, 1, .w1c, 0, .any⟩]⟩,
  -- CANDLE_MS
  ⟨0x38, 1, 0, 1, 0, [⟨0, 64, .ro, 0, .any⟩]⟩,
  -- CANDLE_E_TOTAL
  ⟨0x40, 1, 0, 1, 0, [⟨0, 64, .ro, 0, .any⟩]⟩,
  -- CANDLE_E_GLOW
  ⟨0x48, 1, 0, 1, 0, [⟨0, 64, .ro, 0, .any⟩]⟩,
  -- CANDLE_E_1S
  ⟨0x50, 1, 0, 1, 0, [⟨0, 32, .ro, 0, .any⟩]⟩,
  -- CANDLE_E_60S
  ⟨0x58, 1, 0, 1, 0, [⟨0, 48, .ro, 0, .any⟩]⟩,
  -- CANDLE_P1MS
  ⟨0x60, 1, 0, 1, 0, [⟨0, 24, .ro, 0, .any⟩, ⟨24, 24, .ro, 0, .any⟩]⟩,
  -- CANDLE_LEDGER
  ⟨0x68, 1, 0, 1, 0, [⟨12, 30, .rw, 0, .any⟩, ⟨48, 4, .rw, 6, .clamp 6 14⟩]⟩,
  -- CANDLE_LPTR
  ⟨0x70, 1, 0, 1, 0, [⟨0, 32, .ro, 0, .any⟩, ⟨32, 32, .rw, 0, .any⟩]⟩,
  -- CANDLE_LAMP
  ⟨0x78, 1, 0, 1, 0, [⟨0, 2, .rw, 0, .any⟩, ⟨2, 1, .ro, 0, .any⟩]⟩,
  -- CANDLE_WAKE
  ⟨0x80, 1, 0, 1, 0, [⟨0, 1, .wo, 0, .any⟩, ⟨1, 4, .ro, 0, .any⟩, ⟨5, 1, .rw, 0, .any⟩, ⟨32, 32, .rw, 0, .any⟩]⟩]

/-- The registers of the CLOCK block (R445). -/
def regsClock : List RegSpec := [
  -- CLOCK_FIELD
  ⟨0, 1, 0, 1, 0, [⟨0, 11, .rw, 0x5DC, .down 750 1500 25⟩, ⟨11, 11, .ro, 0x5DC, .any⟩, ⟨22, 1, .ro, 0, .any⟩,
    ⟨23, 1, .ro, 0, .any⟩]⟩,
  -- CLOCK_CORE
  ⟨8, 2, 8, 1, 0, [⟨0, 12, .rw, 0x7D0, .down 400 3000 100⟩, ⟨12, 1, .ro, 0, .any⟩]⟩,
  -- CLOCK_STATUS
  ⟨0x18, 1, 0, 1, 0, [⟨0, 1, .ro, 0, .any⟩, ⟨1, 1, .ro, 0, .any⟩, ⟨2, 4, .ro, 0, .any⟩, ⟨6, 1, .ro, 0, .any⟩,
    ⟨7, 1, .ro, 0, .any⟩, ⟨8, 1, .ro, 0, .any⟩]⟩]

/-- The registers of the LAMP block (R526). -/
def regsLamp : List RegSpec := [
  -- LAMP_CMD
  ⟨0, 1, 0, 1, 0, [⟨0, 4, .wo, 0, .any⟩]⟩,
  -- LAMP_ARG
  ⟨8, 2, 8, 1, 0, [⟨0, 64, .rw, 0, .any⟩]⟩,
  -- LAMP_STATUS
  ⟨0x18, 1, 0, 1, 0, [⟨0, 1, .ro, 0, .any⟩, ⟨1, 2, .ro, 0, .any⟩, ⟨3, 4, .ro, 0, .any⟩, ⟨7, 5, .ro, 0x1F, .any⟩]⟩,
  -- LAMP_SEC
  ⟨0x20, 1, 0, 1, 0, [⟨0, 1, .ro, 0, .any⟩, ⟨1, 1, .ro, 0, .any⟩, ⟨2, 1, .ro, 0, .any⟩, ⟨3, 1, .w1c, 0, .any⟩,
    ⟨4, 1, .ro, 0, .any⟩, ⟨5, 4, .ro, 0, .any⟩, ⟨32, 16, .ro, 0, .any⟩, ⟨48, 16, .ro, 0, .any⟩]⟩,
  -- LAMP_JOB
  ⟨0x28, 1, 0, 1, 0, [⟨0, 16, .ro, 0, .any⟩, ⟨16, 1, .ro, 0, .any⟩, ⟨17, 1, .ro, 0, .any⟩, ⟨18, 1, .ro, 1, .any⟩,
    ⟨19, 1, .w1c, 0, .any⟩, ⟨20, 4, .ro, 0, .any⟩, ⟨24, 16, .ro, 0, .any⟩]⟩,
  -- LAMP_HNONCE
  ⟨0x30, 1, 0, 1, 0, [⟨0, 64, .ro, 0, .any⟩]⟩,
  -- LAMP_HSIG
  ⟨0x38, 12, 8, 1, 0, [⟨0, 64, .wo, 0, .any⟩]⟩,
  -- LAMP_HSESS
  ⟨0x98, 1, 0, 1, 0, [⟨0, 2, .ro, 0, .any⟩, ⟨2, 16, .ro, 0, .any⟩]⟩]

/-- The registers of the STEP block (R243). -/
def regsStep : List RegSpec := [
  -- STEP_CTRL
  ⟨0, 1, 0, 1, 0, [⟨0, 1, .wo, 0, .any⟩, ⟨1, 1, .wo, 0, .any⟩, ⟨2, 1, .wo, 0, .any⟩, ⟨3, 1, .wo, 0, .any⟩,
    ⟨4, 4, .rw, 0, .any⟩]⟩,
  -- STEP_STATUS
  ⟨8, 1, 0, 1, 0, [⟨0, 3, .ro, 0, .any⟩, ⟨3, 1, .ro, 0, .any⟩, ⟨4, 4, .ro, 0, .any⟩, ⟨8, 4, .ro, 0, .any⟩,
    ⟨12, 4, .ro, 0, .any⟩]⟩,
  -- STEP_NUM
  ⟨0x10, 1, 0, 1, 0, [⟨0, 64, .rw, 0, .any⟩]⟩,
  -- STEP_QBASE
  ⟨0x20, 4, 8, 1, 0, [⟨12, 30, .rw, 0, .any⟩, ⟨48, 4, .rw, 4, .orElse 4 14 4⟩]⟩,
  -- STEP_QHEAD
  ⟨0x40, 4, 8, 1, 0, [⟨0, 16, .ro, 0, .any⟩, ⟨16, 16, .ro, 0, .any⟩]⟩,
  -- STEP_QTAIL
  ⟨0x60, 4, 8, 1, 0, [⟨0, 16, .rw, 0, .any⟩]⟩,
  -- STEP_TAGS
  ⟨0x80, 2, 8, 1, 0, [⟨0, 64, .rw, 0, .any⟩]⟩,
  -- STEP_TAGINIT
  ⟨0xF0, 2, 8, 1, 0, [⟨0, 64, .rw, 0, .any⟩]⟩,
  -- STEP_MSB
  ⟨0x90, 1, 0, 1, 0, [⟨0, 15, .ro, 0, .any⟩, ⟨16, 15, .ro, 0, .any⟩]⟩,
  -- STEP_QCFG
  ⟨0x98, 1, 0, 1, 0, [⟨0, 16, .rw, 0xFA0, .up10 100 65530⟩, ⟨16, 16, .rw, 0xFFFF, .any⟩]⟩,
  -- STEP_QRING
  ⟨0xA0, 1, 0, 1, 0, [⟨12, 30, .rw, 0, .any⟩]⟩,
  -- STEP_QTAKE
  ⟨0xA8, 1, 0, 1, 0, [⟨0, 16, .ro, 0, .any⟩, ⟨16, 1, .ro, 0, .any⟩]⟩,
  -- STEP_QANS
  ⟨0xB0, 1, 0, 1, 0, [⟨0, 16, .wo, 0, .any⟩, ⟨16, 4, .wo, 0, .any⟩, ⟨20, 1, .wo, 0, .any⟩, ⟨21, 9, .wo, 0, .any⟩]⟩,
  -- STEP_QSTAT
  ⟨0xB8, 1, 0, 1, 0, [⟨0, 16, .ro, 0, .any⟩, ⟨16, 16, .ro, 0, .any⟩, ⟨32, 16, .ro, 0, .any⟩,
    ⟨48, 16, .ro, 0, .any⟩]⟩,
  -- STEP_CRING
  ⟨0xC0, 1, 0, 1, 0, [⟨12, 30, .rw, 0, .any⟩, ⟨48, 4, .rw, 6, .clamp 6 15⟩]⟩,
  -- STEP_CHEAD
  ⟨0xC8, 1, 0, 1, 0, [⟨0, 16, .ro, 0, .any⟩]⟩,
  -- STEP_CTAIL
  ⟨0xD0, 1, 0, 1, 0, [⟨0, 16, .rw, 0, .any⟩]⟩,
  -- STEP_OVR
  ⟨0xD8, 1, 0, 1, 0, [⟨0, 10, .ro, 0, .any⟩, ⟨10, 16, .ro, 0, .any⟩, ⟨26, 32, .ro, 0, .any⟩]⟩,
  -- STEP_ERR
  ⟨0xE0, 1, 0, 1, 0, [⟨0, 1, .w1c, 0, .any⟩, ⟨1, 1, .w1c, 0, .any⟩, ⟨2, 1, .w1c, 0, .any⟩, ⟨3, 2, .ro, 0, .any⟩,
    ⟨5, 1, .w1c, 0, .any⟩, ⟨6, 1, .w1c, 0, .any⟩, ⟨7, 1, .w1c, 0, .any⟩, ⟨8, 3, .ro, 0, .any⟩,
    ⟨11, 1, .w1c, 0, .any⟩, ⟨32, 16, .ro, 0, .any⟩]⟩,
  -- STEP_TMO
  ⟨0xE8, 1, 0, 1, 0, [⟨0, 16, .rw, 0x3E8, .clamp 100 65535⟩, ⟨16, 4, .rw, 4, .clamp 2 15⟩,
    ⟨20, 4, .rw, 2, .clamp 1 15⟩]⟩,
  -- STEP_QCLK
  ⟨0x100, 1, 0, 1, 0, [⟨0, 64, .ro, 0, .any⟩]⟩]

/-- The registers of the ROTATE block (R212). -/
def regsRotate : List RegSpec := [
  -- ROTATE_CTRL
  ⟨0, 1, 0, 1, 0, [⟨0, 1, .wo, 0, .any⟩, ⟨1, 1, .wo, 0, .any⟩, ⟨2, 1, .wo, 0, .any⟩, ⟨3, 1, .wo, 0, .any⟩]⟩,
  -- ROTATE_STATUS
  ⟨8, 1, 0, 1, 0, [⟨0, 3, .ro, 0, .any⟩, ⟨3, 3, .ro, 0, .any⟩, ⟨6, 1, .ro, 0, .any⟩, ⟨7, 1, .ro, 0, .any⟩,
    ⟨8, 1, .ro, 0, .any⟩]⟩,
  -- ROTATE_LOAD_ADDR
  ⟨0x10, 1, 0, 1, 0, [⟨6, 58, .rw, 0, .any⟩]⟩,
  -- ROTATE_LOAD_LEN
  ⟨0x18, 1, 0, 1, 0, [⟨0, 25, .rw, 0, .clamp 0 16777216⟩]⟩,
  -- ROTATE_LOAD_ERR
  ⟨0x20, 1, 0, 1, 0, [⟨0, 8, .ro, 0, .any⟩, ⟨8, 12, .ro, 0, .any⟩, ⟨20, 32, .ro, 0, .any⟩]⟩,
  -- ROTATE_AT_STEP
  ⟨0x28, 1, 0, 1, 0, [⟨0, 64, .rw, 0, .any⟩]⟩,
  -- ROTATE_LIT_ID
  ⟨0x30, 1, 0, 1, 0, [⟨0, 64, .ro, 0, .any⟩]⟩,
  -- ROTATE_DARK_ID
  ⟨0x38, 1, 0, 1, 0, [⟨0, 64, .ro, 0, .any⟩]⟩,
  -- ROTATE_PLANE_INFO
  ⟨0x40, 1, 0, 1, 0, [⟨0, 8, .ro, 0, .any⟩, ⟨8, 1, .ro, 0, .any⟩, ⟨16, 8, .ro, 0, .any⟩, ⟨24, 1, .ro, 0, .any⟩,
    ⟨25, 1, .ro, 0, .any⟩]⟩,
  -- ROTATE_TMO
  ⟨0x48, 1, 0, 1, 0, [⟨0, 16, .rw, 0x3E8, .clamp 100 65535⟩]⟩,
  -- ROTATE_ERR
  ⟨0x50, 1, 0, 1, 0, [⟨0, 1, .w1c, 0, .any⟩, ⟨1, 1, .w1c, 0, .any⟩, ⟨2, 1, .w1c, 0, .any⟩, ⟨3, 1, .w1c, 0, .any⟩,
    ⟨4, 1, .w1c, 0, .any⟩, ⟨5, 1, .w1c, 0, .any⟩, ⟨6, 1, .w1c, 0, .any⟩, ⟨7, 1, .w1c, 0, .any⟩,
    ⟨8, 1, .w1c, 0, .any⟩]⟩,
  -- ROTATE_PLANE_CE
  ⟨0x58, 1, 0, 1, 0, [⟨0, 32, .ro, 0, .any⟩]⟩,
  -- ROTATE_COUNT
  ⟨0x60, 1, 0, 1, 0, [⟨0, 32, .ro, 0, .any⟩, ⟨32, 32, .ro, 0, .any⟩]⟩]

/-- The registers of the SOWER block (R273). -/
def regsSower : List RegSpec := [
  -- SOWER_CTRL
  ⟨0, 1, 0, 1, 0, [⟨0, 1, .wo, 0, .any⟩]⟩,
  -- SOWER_STATUS
  ⟨8, 1, 0, 1, 0, [⟨0, 1, .ro, 0, .any⟩, ⟨1, 1, .ro, 0, .any⟩, ⟨2, 1, .ro, 0, .any⟩, ⟨3, 1, .ro, 0, .any⟩,
    ⟨4, 1, .ro, 0, .any⟩]⟩,
  -- SOWER_LTAB
  ⟨0x10, 1, 0, 1, 0, [⟨12, 30, .rw, 0, .any⟩, ⟨42, 18, .rw, 0, .clamp 0 131072⟩]⟩,
  -- SOWER_HBASE
  ⟨0x18, 1, 0, 1, 0, [⟨21, 21, .rw, 0, .any⟩]⟩,
  -- SOWER_ERR
  ⟨0x20, 1, 0, 1, 0, [⟨0, 1, .w1c, 0, .any⟩, ⟨1, 1, .w1c, 0, .any⟩, ⟨2, 1, .w1c, 0, .any⟩, ⟨3, 1, .w1c, 0, .any⟩,
    ⟨4, 1, .w1c, 0, .any⟩, ⟨5, 1, .w1c, 0, .any⟩]⟩,
  -- SOWER_FAULT_CAP
  ⟨0x28, 1, 0, 1, 0, [⟨0, 16, .ro, 0, .any⟩, ⟨16, 1, .ro, 0, .any⟩, ⟨17, 6, .ro, 0, .any⟩, ⟨23, 2, .ro, 0, .any⟩]⟩,
  -- SOWER_ROWS
  ⟨0x30, 1, 0, 1, 0, [⟨0, 48, .ro, 0, .any⟩]⟩,
  -- SOWER_SEGS
  ⟨0x38, 1, 0, 1, 0, [⟨0, 32, .ro, 0, .any⟩, ⟨32, 32, .ro, 0, .any⟩]⟩,
  -- SOWER_FETCH
  ⟨0x40, 1, 0, 1, 0, [⟨0, 16, .ro, 0, .any⟩, ⟨16, 16, .ro, 0, .any⟩, ⟨32, 16, .ro, 0, .any⟩,
    ⟨48, 16, .ro, 0, .any⟩]⟩]

/-- The registers of the GLEAN block (R274). -/
def regsGlean : List RegSpec := [
  -- GLEAN_CTRL
  ⟨0, 1, 0, 1, 0, [⟨0, 1, .wo, 0, .any⟩]⟩,
  -- GLEAN_STATUS
  ⟨8, 1, 0, 1, 0, [⟨0, 1, .ro, 0, .any⟩, ⟨1, 1, .ro, 0, .any⟩, ⟨2, 1, .ro, 0, .any⟩]⟩,
  -- GLEAN_ERR
  ⟨0x10, 1, 0, 1, 0, [⟨0, 1, .w1c, 0, .any⟩, ⟨1, 1, .w1c, 0, .any⟩, ⟨2, 1, .w1c, 0, .any⟩]⟩,
  -- GLEAN_FAULT_CAP
  ⟨0x18, 1, 0, 1, 0, [⟨0, 16, .ro, 0, .any⟩, ⟨16, 1, .ro, 0, .any⟩, ⟨17, 6, .ro, 0, .any⟩]⟩,
  -- GLEAN_ROWS
  ⟨0x20, 1, 0, 1, 0, [⟨0, 48, .ro, 0, .any⟩]⟩,
  -- GLEAN_SHORT
  ⟨0x28, 1, 0, 1, 0, [⟨0, 32, .ro, 0, .any⟩]⟩]

/-- The registers of the HARROW block (R339). -/
def regsHarrow : List RegSpec := [
  -- HARROW_CTRL
  ⟨0, 1, 0, 1, 0, [⟨0, 1, .wo, 0, .any⟩, ⟨1, 1, .wo, 0, .any⟩, ⟨16, 16, .wo, 0, .any⟩]⟩,
  -- HARROW_STATUS
  ⟨8, 1, 0, 1, 0, [⟨0, 7, .ro, 0, .any⟩, ⟨7, 7, .ro, 0, .any⟩, ⟨14, 1, .ro, 0, .any⟩, ⟨15, 1, .ro, 0, .any⟩]⟩,
  -- HARROW_QBASE
  ⟨0x10, 2, 8, 1, 0, [⟨12, 30, .rw, 0, .any⟩, ⟨48, 4, .rw, 4, .orElse 4 14 4⟩]⟩,
  -- HARROW_QPTR
  ⟨0x20, 2, 8, 1, 0, [⟨0, 16, .ro, 0, .any⟩, ⟨16, 16, .ro, 0, .any⟩, ⟨32, 16, .rw, 0, .any⟩]⟩,
  -- HARROW_ARB
  ⟨0x30, 1, 0, 1, 0, [⟨0, 7, .rw, 0x10, .orElse 2 64 16⟩]⟩,
  -- HARROW_STEP_EST
  ⟨0x38, 1, 0, 1, 0, [⟨0, 40, .rw, 0, .any⟩]⟩,
  -- HARROW_NOW
  ⟨0x40, 1, 0, 1, 0, [⟨0, 48, .ro, 0, .any⟩]⟩,
  -- HARROW_LATE
  ⟨0x48, 1, 0, 1, 0, [⟨0, 32, .ro, 0, .any⟩]⟩,
  -- HARROW_ERR
  ⟨0x50, 1, 0, 1, 0, [⟨0, 1, .w1c, 0, .any⟩, ⟨1, 1, .w1c, 0, .any⟩, ⟨2, 1, .w1c, 0, .any⟩, ⟨3, 1, .w1c, 0, .any⟩]⟩,
  -- HARROW_BYTES
  ⟨0x58, 1, 0, 1, 0, [⟨0, 64, .ro, 0, .any⟩]⟩]

/-- The registers of the TIER block (R340). -/
def regsTier : List RegSpec := [
  -- TIER_HOME
  ⟨0, 1, 0, 1, 0, [⟨12, 30, .rw, 0, .any⟩, ⟨42, 5, .rw, 0xA, .clamp 10 20⟩]⟩,
  -- TIER_CMD
  ⟨8, 1, 0, 1, 0, [⟨0, 2, .wo, 0, .any⟩, ⟨2, 20, .wo, 0, .any⟩]⟩,
  -- TIER_CMDRES
  ⟨0x10, 1, 0, 1, 0, [⟨0, 1, .ro, 0, .any⟩, ⟨1, 2, .ro, 0, .any⟩, ⟨3, 3, .ro, 0, .any⟩]⟩,
  -- TIER_RECLAIM
  ⟨0x18, 1, 0, 1, 0, [⟨0, 1, .wo, 0, .any⟩, ⟨1, 1, .ro, 0, .any⟩, ⟨16, 16, .rw, 0x64, .clamp 10 65535⟩]⟩,
  -- TIER_ERR
  ⟨0x20, 1, 0, 1, 0, [⟨0, 1, .w1c, 0, .any⟩, ⟨1, 1, .w1c, 0, .any⟩, ⟨2, 1, .w1c, 0, .any⟩, ⟨3, 1, .w1c, 0, .any⟩,
    ⟨4, 1, .w1c, 0, .any⟩]⟩,
  -- TIER_QJOB_T
  ⟨0x28, 1, 0, 1, 0, [⟨0, 32, .rw, 0, .any⟩, ⟨32, 32, .ro, 0, .any⟩]⟩,
  -- TIER_QJOB_S
  ⟨0x30, 1, 0, 1, 0, [⟨0, 32, .rw, 0, .any⟩, ⟨32, 32, .ro, 0, .any⟩]⟩,
  -- TIER_SPOOL
  ⟨0x38, 1, 0, 1, 0, [⟨12, 30, .rw, 0, .any⟩, ⟨48, 16, .rw, 0, .any⟩]⟩,
  -- TIER_QT
  ⟨0x100, 16, 8, 1, 0, [⟨0, 32, .rw, 0xFFFFFFFF, .any⟩, ⟨32, 32, .ro, 0, .any⟩]⟩,
  -- TIER_QS
  ⟨0x180, 16, 8, 1, 0, [⟨0, 32, .rw, 0xFFFFFFFF, .any⟩, ⟨32, 32, .ro, 0, .any⟩]⟩,
  -- TIER_GNT_A
  ⟨0x200, 8, 0x10, 1, 0, [⟨0, 1, .rw, 0, .any⟩, ⟨1, 1, .rw, 0, .any⟩, ⟨2, 1, .rw, 0, .any⟩, ⟨3, 2, .ro, 0, .any⟩,
    ⟨5, 6, .rw, 0, .any⟩, ⟨11, 23, .rw, 0, .any⟩]⟩,
  -- TIER_GNT_B
  ⟨0x208, 8, 0x10, 1, 0, [⟨0, 26, .rw, 0, .any⟩, ⟨26, 26, .rw, 0, .any⟩]⟩]

/-- The registers of the TOPSOIL block (R341). -/
def regsTopsoil : List RegSpec := [
  -- TOPSOIL_STATUS
  ⟨0, 1, 0, 1, 0, [⟨0, 1, .ro, 0, .any⟩, ⟨1, 1, .ro, 0, .any⟩, ⟨2, 1, .ro, 0, .any⟩, ⟨3, 1, .ro, 0, .any⟩,
    ⟨4, 1, .ro, 0, .any⟩, ⟨5, 1, .ro, 0, .any⟩, ⟨6, 1, .ro, 0, .any⟩, ⟨7, 1, .ro, 0, .any⟩]⟩,
  -- TOPSOIL_CTRL
  ⟨8, 1, 0, 1, 0, [⟨0, 1, .wo, 0, .any⟩]⟩,
  -- TOPSOIL_CE
  ⟨0x20, 4, 8, 1, 0, [⟨0, 32, .ro, 0, .any⟩]⟩,
  -- TOPSOIL_LINES
  ⟨0x40, 4, 8, 1, 0, [⟨0, 64, .ro, 0, .any⟩]⟩]

/-- The registers of the SUBSOIL block (R341). -/
def regsSubsoil : List RegSpec := [
  -- SUBSOIL_CFG
  ⟨0, 1, 0, 1, 0, [⟨0, 2, .rw, 1, .any⟩, ⟨2, 1, .rw, 0, .any⟩, ⟨8, 6, .rw, 0, .any⟩, ⟨16, 2, .rw, 0, .any⟩]⟩,
  -- SUBSOIL_STATUS
  ⟨8, 1, 0, 1, 0, [⟨0, 1, .ro, 0, .any⟩, ⟨1, 1, .ro, 0, .any⟩, ⟨2, 16, .ro, 0, .any⟩]⟩,
  -- SUBSOIL_CTRL
  ⟨0x10, 1, 0, 1, 0, [⟨0, 1, .wo, 0, .any⟩]⟩,
  -- SUBSOIL_CE
  ⟨0x18, 1, 0, 1, 0, [⟨0, 32, .ro, 0, .any⟩]⟩,
  -- SUBSOIL_LINES
  ⟨0x20, 1, 0, 1, 0, [⟨0, 64, .ro, 0, .any⟩]⟩]

/-- The registers of the FALLOW block (R367). -/
def regsFallow : List RegSpec := [
  -- FALLOW_STATUS
  ⟨0, 1, 0, 1, 0, [⟨0, 1, .ro, 0, .any⟩, ⟨1, 1, .ro, 0, .any⟩, ⟨2, 2, .ro, 0, .any⟩, ⟨4, 1, .ro, 0, .any⟩,
    ⟨5, 1, .ro, 0, .any⟩]⟩,
  -- FALLOW_CMD
  ⟨8, 1, 0, 1, 0, [⟨0, 3, .wo, 0, .any⟩]⟩,
  -- FALLOW_CMDRES
  ⟨0x10, 1, 0, 1, 0, [⟨0, 1, .ro, 0, .any⟩, ⟨1, 2, .ro, 0, .any⟩, ⟨3, 3, .ro, 0, .any⟩]⟩,
  -- FALLOW_MADDR
  ⟨0x18, 1, 0, 1, 0, [⟨6, 58, .rw, 0, .any⟩]⟩,
  -- FALLOW_MLEN
  ⟨0x20, 1, 0, 1, 0, [⟨0, 28, .rw, 0, .any⟩]⟩,
  -- FALLOW_QBASE
  ⟨0x28, 1, 0, 1, 0, [⟨12, 30, .rw, 0, .any⟩, ⟨48, 4, .rw, 4, .clamp 4 14⟩]⟩,
  -- FALLOW_QPTR
  ⟨0x30, 1, 0, 1, 0, [⟨0, 16, .ro, 0, .any⟩, ⟨16, 16, .ro, 0, .any⟩, ⟨32, 16, .rw, 0, .any⟩]⟩,
  -- FALLOW_SCRUB
  ⟨0x38, 1, 0, 1, 0, [⟨0, 16, .rw, 0xA8, .clamp 1 65535⟩, ⟨16, 16, .rw, 0xC8, .clamp 10 51200⟩,
    ⟨32, 7, .rw, 0x30, .clamp 1 72⟩]⟩,
  -- FALLOW_ERR
  ⟨0x40, 1, 0, 1, 0, [⟨0, 1, .w1c, 0, .any⟩, ⟨1, 1, .w1c, 0, .any⟩, ⟨2, 1, .w1c, 0, .any⟩, ⟨3, 1, .w1c, 0, .any⟩,
    ⟨4, 1, .w1c, 0, .any⟩, ⟨5, 1, .w1c, 0, .any⟩]⟩,
  -- FALLOW_GEOM
  ⟨0x48, 1, 0, 1, 0, [⟨0, 3, .ro, 0, .any⟩, ⟨3, 21, .ro, 0, .any⟩, ⟨24, 20, .ro, 0, .any⟩]⟩,
  -- FALLOW_SEQ
  ⟨0x50, 1, 0, 1, 0, [⟨0, 64, .ro, 0, .any⟩]⟩,
  -- FALLOW_CE
  ⟨0x58, 1, 0, 1, 0, [⟨0, 48, .ro, 0, .any⟩]⟩]

/-- The registers of the DRILL block (R367). -/
def regsDrill : List RegSpec := [
  -- DRILL_CTRL
  ⟨0, 1, 0, 1, 0, [⟨0, 1, .wo, 0, .any⟩, ⟨1, 1, .wo, 0, .any⟩, ⟨2, 1, .rw, 0, .any⟩, ⟨3, 1, .wo, 0, .any⟩]⟩,
  -- DRILL_STATUS
  ⟨8, 1, 0, 1, 0, [⟨0, 2, .ro, 0, .any⟩, ⟨2, 2, .ro, 0, .any⟩, ⟨4, 6, .ro, 0, .any⟩]⟩,
  -- DRILL_JOB
  ⟨0x10, 1, 0, 1, 0, [⟨12, 30, .rw, 0, .any⟩]⟩,
  -- DRILL_CFG
  ⟨0x18, 1, 0, 1, 0, [⟨0, 16, .rw, 0x1F4, .clamp 50 65535⟩, ⟨16, 16, .rw, 0x64, .clamp 10 65535⟩]⟩,
  -- DRILL_BUF
  ⟨0x20, 1, 0, 1, 0, [⟨20, 22, .rw, 0, .any⟩]⟩,
  -- DRILL_ERR
  ⟨0x28, 1, 0, 1, 0, [⟨0, 1, .w1c, 0, .any⟩, ⟨1, 1, .w1c, 0, .any⟩, ⟨2, 1, .w1c, 0, .any⟩, ⟨3, 1, .w1c, 0, .any⟩]⟩,
  -- DRILL_BYTES
  ⟨0x30, 1, 0, 1, 0, [⟨0, 64, .ro, 0, .any⟩]⟩]

/-- The registers of the LINK block (R408). -/
def regsLink : List RegSpec := [
  -- LINK_CTRL
  ⟨0, 1, 0, 1, 0, [⟨0, 5, .wo, 0, .any⟩, ⟨5, 1, .wo, 0, .any⟩, ⟨6, 1, .wo, 0, .any⟩, ⟨7, 1, .wo, 0, .any⟩]⟩,
  -- LINK_ERR
  ⟨8, 1, 0, 1, 0, [⟨0, 15, .w1c, 0, .any⟩]⟩,
  -- LINK_CAP
  ⟨0x10, 1, 0, 1, 0, [⟨0, 5, .ro, 0, .any⟩, ⟨5, 4, .ro, 0, .any⟩, ⟨16, 48, .ro, 0, .any⟩]⟩,
  -- LINK_REV
  ⟨0x18, 1, 0, 1, 0, [⟨0, 8, .ro, 1, .any⟩, ⟨8, 8, .ro, 0, .any⟩]⟩,
  -- LINK_CFG
  ⟨0x20, 1, 0, 1, 0, [⟨0, 16, .rw, 0xA, .clamp 1 1000⟩, ⟨16, 4, .rw, 8, .clamp 2 15⟩,
    ⟨20, 16, .rw, 0x32, .clamp 10 1000⟩, ⟨36, 16, .rw, 0xA, .clamp 1 65535⟩]⟩,
  -- LINK_RATE
  ⟨0x28, 1, 0, 1, 0, [⟨0, 24, .rw, 0, .any⟩]⟩,
  -- LINK_STATE
  ⟨0x100, 24, 8, 1, 0, [⟨0, 4, .ro, 0, .any⟩, ⟨4, 4, .ro, 0, .any⟩, ⟨8, 4, .ro, 0, .any⟩, ⟨12, 4, .ro, 0, .any⟩,
    ⟨16, 2, .ro, 0, .any⟩, ⟨18, 1, .ro, 0, .any⟩, ⟨19, 8, .ro, 0, .any⟩]⟩,
  -- LINK_PEER
  ⟨0x200, 24, 8, 1, 0, [⟨0, 64, .ro, 0, .any⟩]⟩,
  -- LINK_PEERPOS
  ⟨0x300, 24, 8, 1, 0, [⟨0, 8, .ro, 0, .any⟩, ⟨8, 8, .ro, 0, .any⟩, ⟨16, 6, .ro, 0, .any⟩, ⟨22, 5, .ro, 0, .any⟩,
    ⟨27, 4, .ro, 0, .any⟩, ⟨31, 8, .ro, 0, .any⟩, ⟨39, 8, .ro, 0, .any⟩]⟩,
  -- LINK_FEC
  ⟨0x400, 24, 8, 1, 0, [⟨0, 32, .ro, 0, .any⟩, ⟨32, 16, .ro, 0, .any⟩, ⟨48, 16, .ro, 0, .any⟩]⟩,
  -- LINK_WHEEL
  ⟨0x800, 16, 0x20, 4, 8, [⟨0, 64, .ro, 0, .any⟩]⟩]

/-- The registers of the ROUTE block (R409). -/
def regsRoute : List RegSpec := [
  -- ROUTE_SLICE
  ⟨0, 4, 8, 1, 0, [⟨0, 64, .rw, 0, .any⟩]⟩,
  -- ROUTE_CTRL
  ⟨0x20, 1, 0, 1, 0, [⟨0, 1, .wo, 0, .any⟩, ⟨1, 1, .wo, 0, .any⟩]⟩,
  -- ROUTE_SELF
  ⟨0x28, 1, 0, 1, 0, [⟨0, 8, .ro, 0, .any⟩, ⟨8, 6, .ro, 0, .any⟩, ⟨14, 1, .ro, 0, .any⟩, ⟨15, 6, .ro, 0, .any⟩,
    ⟨21, 1, .ro, 0, .any⟩, ⟨22, 1, .ro, 0, .any⟩]⟩,
  -- ROUTE_STATUS
  ⟨0x30, 1, 0, 1, 0, [⟨0, 16, .ro, 0, .any⟩, ⟨16, 1, .ro, 0, .any⟩, ⟨17, 1, .ro, 0, .any⟩, ⟨18, 1, .w1c, 0, .any⟩]⟩,
  -- ROUTE_FAILED
  ⟨0x38, 1, 0, 1, 0, [⟨0, 64, .rw, 0, .any⟩]⟩,
  -- ROUTE_STAB
  ⟨0x100, 8, 8, 1, 0, [⟨0, 64, .ro, 0, .any⟩]⟩,
  -- ROUTE_RTAB
  ⟨0x140, 8, 8, 1, 0, [⟨0, 64, .ro, 0, .any⟩]⟩,
  -- ROUTE_MC
  ⟨0x200, 64, 8, 1, 0, [⟨0, 16, .rw, 0, .any⟩, ⟨16, 1, .rw, 0, .any⟩, ⟨17, 1, .rw, 0, .any⟩, ⟨18, 1, .rw, 0, .any⟩]⟩]

/-- The registers of the SERVE block (R307). -/
def regsServe : List RegSpec := [
  -- SERVE_CTRL
  ⟨0, 1, 0, 1, 0, [⟨0, 1, .rw, 0, .any⟩, ⟨1, 1, .wo, 0, .any⟩]⟩,
  -- SERVE_STATUS
  ⟨8, 1, 0, 1, 0, [⟨0, 11, .ro, 0, .any⟩, ⟨11, 11, .ro, 0, .any⟩, ⟨22, 11, .ro, 0, .any⟩, ⟨33, 1, .ro, 0, .any⟩]⟩,
  -- SERVE_AREA
  ⟨0x10, 1, 0, 1, 0, [⟨16, 26, .rw, 0, .any⟩]⟩,
  -- SERVE_PTAB
  ⟨0x18, 1, 0, 1, 0, [⟨12, 30, .rw, 0, .any⟩, ⟨42, 12, .rw, 1, .clamp 1 4095⟩]⟩,
  -- SERVE_ROWTAB
  ⟨0x20, 1, 0, 1, 0, [⟨12, 30, .rw, 0, .any⟩]⟩,
  -- SERVE_POOL
  ⟨0x28, 1, 0, 1, 0, [⟨16, 26, .rw, 0, .any⟩]⟩,
  -- SERVE_POOLCFG
  ⟨0x30, 1, 0, 1, 0, [⟨0, 16, .rw, 1, .clamp 1 65535⟩, ⟨16, 16, .rw, 0, .any⟩, ⟨32, 16, .ro, 0, .any⟩]⟩,
  -- SERVE_KVL
  ⟨0x38, 1, 0, 1, 0, [⟨0, 16, .rw, 0, .any⟩, ⟨16, 16, .rw, 0, .any⟩, ⟨32, 32, .rw, 0, .any⟩]⟩,
  -- SERVE_TGT
  ⟨0x40, 1, 0, 1, 0, [⟨0, 16, .rw, 0, .any⟩, ⟨16, 16, .rw, 0, .any⟩, ⟨32, 16, .rw, 0, .any⟩,
    ⟨48, 16, .rw, 0, .any⟩]⟩,
  -- SERVE_RES_TPL
  ⟨0x48, 1, 0, 1, 0, [⟨0, 10, .rw, 0, .any⟩]⟩,
  -- SERVE_CMD
  ⟨0x50, 1, 0, 1, 0, [⟨0, 4, .wo, 0, .any⟩, ⟨4, 10, .wo, 0, .any⟩, ⟨14, 1, .wo, 0, .any⟩, ⟨16, 14, .wo, 0, .any⟩]⟩,
  -- SERVE_CMDRES
  ⟨0x58, 1, 0, 1, 0, [⟨0, 1, .ro, 0, .any⟩, ⟨1, 3, .ro, 0, .any⟩, ⟨4, 4, .ro, 0, .any⟩, ⟨8, 10, .ro, 0, .any⟩,
    ⟨32, 32, .ro, 0, .any⟩]⟩,
  -- SERVE_PLAN
  ⟨0x60, 1, 0, 1, 0, [⟨0, 64, .ro, 2, .any⟩]⟩,
  -- SERVE_RING
  ⟨0x68, 1, 0, 1, 0, [⟨12, 30, .rw, 0, .any⟩, ⟨48, 5, .rw, 0xA, .clamp 6 24⟩]⟩,
  -- SERVE_TRING
  ⟨0x78, 1, 0, 1, 0, [⟨12, 30, .rw, 0, .any⟩, ⟨48, 5, .rw, 0xA, .clamp 10 26⟩]⟩,
  -- SERVE_RPTR
  ⟨0x70, 1, 0, 1, 0, [⟨0, 32, .ro, 0, .any⟩, ⟨32, 32, .rw, 0, .any⟩]⟩,
  -- SERVE_TPTR
  ⟨0x80, 1, 0, 1, 0, [⟨0, 32, .ro, 0, .any⟩, ⟨32, 32, .rw, 0, .any⟩]⟩,
  -- SERVE_ERR
  ⟨0x88, 1, 0, 1, 0, [⟨0, 1, .w1c, 0, .any⟩, ⟨1, 1, .w1c, 0, .any⟩, ⟨2, 1, .w1c, 0, .any⟩, ⟨3, 1, .w1c, 0, .any⟩]⟩,
  -- SERVE_CNT
  ⟨0x90, 1, 0, 1, 0, [⟨0, 32, .ro, 0, .any⟩, ⟨32, 32, .ro, 0, .any⟩]⟩]

/-- The registers of the WARD block (R495). -/
def regsWard : List RegSpec := [
  -- WARD_CTRL
  ⟨0, 1, 0, 1, 0, [⟨0, 4, .wo, 0, .any⟩]⟩,
  -- WARD_STEP
  ⟨8, 1, 0, 1, 0, [⟨0, 64, .rw, 0, .any⟩]⟩,
  -- WARD_STATUS
  ⟨0x10, 1, 0, 1, 0, [⟨0, 3, .ro, 0, .any⟩, ⟨3, 1, .ro, 0, .any⟩, ⟨4, 5, .ro, 0, .any⟩]⟩,
  -- WARD_GROUP
  ⟨0x18, 1, 0, 1, 0, [⟨0, 3, .rw, 5, .clamp 3 5⟩, ⟨3, 3, .rw, 0, .any⟩, ⟨6, 6, .rw, 0, .any⟩,
    ⟨12, 6, .rw, 0, .any⟩, ⟨18, 6, .rw, 0, .any⟩, ⟨24, 6, .rw, 0, .any⟩, ⟨30, 6, .rw, 0, .any⟩]⟩,
  -- WARD_PAR
  ⟨0x20, 1, 0, 1, 0, [⟨0, 26, .rw, 0, .any⟩, ⟨26, 26, .rw, 0, .any⟩]⟩,
  -- WARD_STAGE
  ⟨0x28, 1, 0, 1, 0, [⟨0, 26, .rw, 0, .any⟩, ⟨26, 26, .rw, 0, .any⟩]⟩,
  -- WARD_WDOG
  ⟨0x30, 1, 0, 1, 0, [⟨0, 16, .rw, 0x64, .clamp 10 65535⟩]⟩,
  -- WARD_CORE
  ⟨0x38, 1, 0, 1, 0, [⟨0, 16, .w1c, 0, .any⟩]⟩,
  -- WARD_RANGE
  ⟨0x40, 8, 8, 1, 0, [⟨0, 26, .rw, 0, .any⟩, ⟨26, 26, .rw, 0, .any⟩, ⟨52, 1, .rw, 0, .any⟩]⟩,
  -- WARD_SUBST
  ⟨0x80, 4, 8, 1, 0, [⟨0, 6, .rw, 0, .any⟩, ⟨6, 6, .rw, 0, .any⟩, ⟨12, 1, .rw, 0, .any⟩]⟩,
  -- WARD_ERR
  ⟨0xA0, 1, 0, 1, 0, [⟨0, 1, .w1c, 0, .any⟩, ⟨1, 1, .w1c, 0, .any⟩, ⟨2, 1, .w1c, 0, .any⟩, ⟨3, 1, .w1c, 0, .any⟩,
    ⟨4, 1, .w1c, 0, .any⟩]⟩,
  -- WARD_PEND
  ⟨0xA8, 1, 0, 1, 0, [⟨0, 32, .ro, 0, .any⟩, ⟨32, 32, .ro, 0, .any⟩]⟩,
  -- WARD_BYTES
  ⟨0xB0, 1, 0, 1, 0, [⟨0, 64, .ro, 0, .any⟩]⟩]

/-- The registers of the ERRLOG block (R497). -/
def regsErrlog : List RegSpec := [
  -- ERRLOG_STATUS
  ⟨0, 1, 0, 1, 0, [⟨0, 16, .ro, 0, .any⟩]⟩,
  -- ERRLOG_PTR
  ⟨8, 1, 0, 1, 0, [⟨0, 32, .ro, 0, .any⟩, ⟨32, 32, .rw, 0, .any⟩]⟩,
  -- ERRLOG_IRQ
  ⟨0x10, 1, 0, 1, 0, [⟨0, 16, .rw, 1, .any⟩, ⟨16, 19, .rw, 0x7FFFF, .any⟩]⟩,
  -- ERRLOG_SCRUB
  ⟨0x18, 1, 0, 1, 0, [⟨0, 16, .rw, 0x100, .clamp 0 16000⟩, ⟨16, 16, .rw, 0x40, .clamp 0 4000⟩]⟩,
  -- ERRLOG_REC
  ⟨0x1000, 256, 0x20, 4, 8, [⟨0, 64, .ro, 0, .any⟩]⟩]

/-- The registers of the BIST block (R544). -/
def regsBist : List RegSpec := [
  -- BIST_CMD
  ⟨0, 1, 0, 1, 0, [⟨0, 3, .wo, 0, .any⟩]⟩,
  -- BIST_CFG
  ⟨8, 1, 0, 1, 0, [⟨0, 2, .rw, 0, .any⟩, ⟨2, 8, .rw, 0, .any⟩, ⟨10, 4, .rw, 0xF, .any⟩, ⟨14, 1, .rw, 0, .any⟩]⟩,
  -- BIST_REGION
  ⟨0x10, 1, 0, 1, 0, [⟨0, 26, .rw, 0, .any⟩, ⟨26, 32, .rw, 0, .any⟩]⟩,
  -- BIST_SAVE
  ⟨0x18, 1, 0, 1, 0, [⟨0, 26, .rw, 0, .any⟩, ⟨26, 32, .rw, 0, .any⟩]⟩,
  -- BIST_RES
  ⟨0x20, 1, 0, 1, 0, [⟨12, 30, .rw, 0, .any⟩, ⟨48, 4, .rw, 8, .clamp 6 15⟩]⟩,
  -- BIST_RPTR
  ⟨0x28, 1, 0, 1, 0, [⟨0, 32, .ro, 0, .any⟩, ⟨32, 32, .rw, 0, .any⟩]⟩,
  -- BIST_STATUS
  ⟨0x30, 1, 0, 1, 0, [⟨0, 3, .ro, 0, .any⟩, ⟨3, 2, .ro, 0, .any⟩, ⟨5, 32, .ro, 0, .any⟩, ⟨37, 16, .ro, 0, .any⟩]⟩,
  -- BIST_ERR
  ⟨0x38, 1, 0, 1, 0, [⟨0, 1, .w1c, 0, .any⟩, ⟨1, 1, .w1c, 0, .any⟩, ⟨2, 1, .w1c, 0, .any⟩, ⟨3, 1, .w1c, 0, .any⟩,
    ⟨4, 1, .w1c, 0, .any⟩]⟩,
  -- BIST_LIST
  ⟨0x40, 1, 0, 1, 0, [⟨0, 42, .rw, 0, .any⟩]⟩,
  -- BIST_REPINFO
  ⟨0x48, 1, 0, 1, 0, [⟨0, 10, .ro, 0x200, .any⟩, ⟨10, 14, .ro, 0, .any⟩, ⟨24, 32, .ro, 0, .any⟩]⟩]

/-- The registers of the GLOW block (R445). -/
def regsGlow : List RegSpec := [
  -- GLOW_CTRL
  ⟨0, 1, 0, 1, 0, [⟨0, 1, .rw, 1, .any⟩, ⟨1, 7, .rw, 0x40, .clamp 0 64⟩]⟩,
  -- GLOW_STATUS
  ⟨8, 1, 0, 1, 0, [⟨0, 7, .ro, 0, .any⟩, ⟨7, 1, .ro, 0, .any⟩]⟩]

/-- The registers of the plot window (R51, R52). -/
def regsPlot : List RegSpec := [
  -- PLOT_ID
  ⟨0, 1, 0, 1, 0, [⟨0, 9, .ro, 0, .any⟩, ⟨16, 5, .ro, 0, .any⟩, ⟨21, 3, .ro, 0, .any⟩, ⟨24, 1, .ro, 0, .any⟩]⟩,
  -- PLOT_STATUS
  ⟨8, 1, 0, 1, 0, [⟨0, 1, .ro, 0, .any⟩, ⟨1, 1, .ro, 0, .any⟩, ⟨2, 1, .ro, 1, .any⟩, ⟨3, 1, .ro, 0, .any⟩,
    ⟨16, 16, .ro, 0, .any⟩]⟩,
  -- PLOT_REPAIR
  ⟨0x10, 1, 0, 1, 0, [⟨0, 1, .ro, 0, .any⟩, ⟨1, 1, .ro, 0, .any⟩, ⟨2, 2, .ro, 0, .any⟩, ⟨4, 4, .ro, 0, .any⟩,
    ⟨8, 1, .ro, 0, .any⟩]⟩,
  -- PLOT_CTRL
  ⟨0x18, 1, 0, 1, 0, [⟨0, 1, .wo, 0, .any⟩]⟩,
  -- HL_ERR
  ⟨0x20, 1, 0, 1, 0, [⟨0, 1, .w1c, 0, .any⟩, ⟨1, 1, .w1c, 0, .any⟩, ⟨2, 1, .w1c, 0, .any⟩, ⟨3, 1, .w1c, 0, .any⟩]⟩,
  -- HL_ECC_CNT
  ⟨0x28, 1, 0, 1, 0, [⟨0, 32, .ro, 0, .any⟩]⟩,
  -- HL_FAULT_CAP
  ⟨0x30, 1, 0, 1, 0, [⟨0, 4, .ro, 0, .any⟩, ⟨4, 4, .ro, 0, .any⟩, ⟨8, 2, .ro, 0, .any⟩, ⟨16, 32, .ro, 0, .any⟩]⟩,
  -- HL_LSLOT
  ⟨0x40, 10, 0x10, 2, 8, [⟨0, 8, .ro, 0, .any⟩, ⟨8, 8, .ro, 0, .any⟩, ⟨16, 8, .ro, 0, .any⟩, ⟨24, 8, .ro, 0, .any⟩,
    ⟨32, 8, .ro, 0, .any⟩, ⟨40, 8, .ro, 0, .any⟩, ⟨48, 8, .ro, 0, .any⟩, ⟨56, 8, .ro, 0, .any⟩]⟩,
  -- HL_DSLOT
  ⟨0x100, 10, 0x10, 2, 8, [⟨0, 8, .ro, 0, .any⟩, ⟨8, 8, .ro, 0, .any⟩, ⟨16, 8, .ro, 0, .any⟩,
    ⟨24, 8, .ro, 0, .any⟩, ⟨32, 8, .ro, 0, .any⟩, ⟨40, 8, .ro, 0, .any⟩, ⟨48, 8, .ro, 0, .any⟩,
    ⟨56, 8, .ro, 0, .any⟩]⟩,
  -- HL_TOK_CNT
  ⟨0x200, 10, 8, 1, 0, [⟨0, 48, .ro, 0, .any⟩]⟩,
  -- STILE_CFG
  ⟨0x400, 1, 0, 1, 0, [⟨0, 5, .ro, 0, .any⟩, ⟨5, 1, .ro, 0, .any⟩, ⟨6, 2, .ro, 0, .any⟩]⟩,
  -- STILE_STATUS
  ⟨0x408, 1, 0, 1, 0, [⟨0, 16, .ro, 0, .any⟩, ⟨16, 1, .ro, 1, .any⟩]⟩,
  -- STILE_ERR
  ⟨0x410, 1, 0, 1, 0, [⟨0, 1, .w1c, 0, .any⟩, ⟨1, 1, .w1c, 0, .any⟩, ⟨2, 1, .w1c, 0, .any⟩]⟩,
  -- STILE_LSLOT_IN
  ⟨0x420, 2, 8, 1, 0, [⟨0, 8, .ro, 0, .any⟩, ⟨8, 8, .ro, 0, .any⟩, ⟨16, 8, .ro, 0, .any⟩, ⟨24, 8, .ro, 0, .any⟩,
    ⟨32, 8, .ro, 0, .any⟩, ⟨40, 8, .ro, 0, .any⟩, ⟨48, 8, .ro, 0, .any⟩, ⟨56, 8, .ro, 0, .any⟩]⟩,
  -- STILE_LSLOT_OUT
  ⟨0x430, 2, 8, 1, 0, [⟨0, 8, .ro, 0, .any⟩, ⟨8, 8, .ro, 0, .any⟩, ⟨16, 8, .ro, 0, .any⟩, ⟨24, 8, .ro, 0, .any⟩,
    ⟨32, 8, .ro, 0, .any⟩, ⟨40, 8, .ro, 0, .any⟩, ⟨48, 8, .ro, 0, .any⟩, ⟨56, 8, .ro, 0, .any⟩]⟩,
  -- STILE_DSLOT_IN
  ⟨0x440, 2, 8, 1, 0, [⟨0, 8, .ro, 0, .any⟩, ⟨8, 8, .ro, 0, .any⟩, ⟨16, 8, .ro, 0, .any⟩, ⟨24, 8, .ro, 0, .any⟩,
    ⟨32, 8, .ro, 0, .any⟩, ⟨40, 8, .ro, 0, .any⟩, ⟨48, 8, .ro, 0, .any⟩, ⟨56, 8, .ro, 0, .any⟩]⟩,
  -- STILE_DSLOT_OUT
  ⟨0x450, 2, 8, 1, 0, [⟨0, 8, .ro, 0, .any⟩, ⟨8, 8, .ro, 0, .any⟩, ⟨16, 8, .ro, 0, .any⟩, ⟨24, 8, .ro, 0, .any⟩,
    ⟨32, 8, .ro, 0, .any⟩, ⟨40, 8, .ro, 0, .any⟩, ⟨48, 8, .ro, 0, .any⟩, ⟨56, 8, .ro, 0, .any⟩]⟩]

/-- The blocks in address order, 64 KiB each (R565). -/
def blockRegs : Nat → List RegSpec
  | 0 => regsChip
  | 1 => regsCandle
  | 2 => regsClock
  | 3 => regsLamp
  | 4 => regsStep
  | 5 => regsRotate
  | 6 => regsSower
  | 7 => regsGlean
  | 8 => regsHarrow
  | 9 => regsTier
  | 10 => regsTopsoil
  | 11 => regsSubsoil
  | 12 => regsFallow
  | 13 => regsDrill
  | 14 => regsLink
  | 15 => regsRoute
  | 16 => regsServe
  | 17 => regsWard
  | 18 => regsErrlog
  | 19 => regsBist
  | 20 => regsGlow
  | _ => []

/-- Whether `off` is one of the offsets of `r`. -/
def RegSpec.covers (r : RegSpec) (off : Nat) : Bool :=
  let d := off - r.off
  decide (r.off ≤ off ∧ d / r.s1 < r.n1 ∧ d % r.s1 % r.s2 = 0 ∧ d % r.s1 / r.s2 < r.n2)

/-- The register at offset `off` of the control window, if the spec lists one there (R571). -/
def findReg (off : Nat) : Option RegSpec :=
  if off < 0x200000 then (blockRegs (off / 0x10000)).find? (·.covers (off % 0x10000))
  else if off < 0x400000 then regsPlot.find? (·.covers (off % 0x1000)) else none

/-- The value a register's fields hold at reset. -/
def packReset (fs : List FieldSpec) : Nat := fs.foldl (fun a f => a + f.reset * 2 ^ f.lo) 0

/-- The reset value of the register at a control-window offset (the Reset column of the tables). -/
def regReset (off : Nat) : W64 :=
  match findReg off with
  | some r => BitVec.ofNat 64 (packReset r.fields)
  | none => 0

/-- A field: bits `[lo + len - 1 : lo]` of the register at control-window offset `reg`. -/
structure Fld where
  reg : Nat
  lo : Nat
  len : Nat
  deriving DecidableEq, Repr

/-- CHIP_ID [7:0] (R463). -/
abbrev CHIP_ID.PART : Fld := ⟨0, 0, 8⟩
/-- CHIP_ID [15:8] (R463). -/
abbrev CHIP_ID.STEPPING : Fld := ⟨0, 8, 8⟩
/-- CHIP_SERIAL [63:0] (R463). -/
abbrev CHIP_SERIAL.SERIAL : Fld := ⟨8, 0, 64⟩
/-- CHIP_STRAPS [1:0] (R463). -/
abbrev CHIP_STRAPS.INRUSH : Fld := ⟨0x10, 0, 2⟩
/-- CHIP_STRAPS [2] (R463). -/
abbrev CHIP_STRAPS.BRIDGE_EN : Fld := ⟨0x10, 2, 1⟩
/-- CHIP_STRAPS [4:3] (R463). -/
abbrev CHIP_STRAPS.TRAY_POS : Fld := ⟨0x10, 3, 2⟩
/-- CHIP_STRAPS [5] (R463). -/
abbrev CHIP_STRAPS.COMPAT : Fld := ⟨0x10, 5, 1⟩
/-- CHIP_RESET [2:0] (R463). -/
abbrev CHIP_RESET.CAUSE : Fld := ⟨0x18, 0, 3⟩
/-- CHIP_RESET [31:16] (R463). -/
abbrev CHIP_RESET.FIELD_RESETS : Fld := ⟨0x18, 16, 16⟩
/-- CHIP_RESET [63:32] (R463). -/
abbrev CHIP_RESET.WARMS : Fld := ⟨0x18, 32, 32⟩
/-- CHIP_CTRL [0] (R463). -/
abbrev CHIP_CTRL.FIELD_RST : Fld := ⟨0x20, 0, 1⟩
/-- CHIP_CTRL [1] (R463). -/
abbrev CHIP_CTRL.FIELD_HOLD : Fld := ⟨0x20, 1, 1⟩
/-- CHIP_CTRL [2] (R463). -/
abbrev CHIP_CTRL.SUB_INIT : Fld := ⟨0x20, 2, 1⟩
/-- CHIP_STATUS [2:0] (R463). -/
abbrev CHIP_STATUS.STAGE : Fld := ⟨0x28, 0, 3⟩
/-- CHIP_STATUS [3] (R463). -/
abbrev CHIP_STATUS.FIELD_IN_RESET : Fld := ⟨0x28, 3, 1⟩
/-- CHIP_STATUS [4] (R463). -/
abbrev CHIP_STATUS.RESTORE_PEND : Fld := ⟨0x28, 4, 1⟩
/-- CHIP_COMPAT [0] (R463). -/
abbrev CHIP_COMPAT.LANTERN : Fld := ⟨0x30, 0, 1⟩
/-- CHIP_ERR [0] (R463). -/
abbrev CHIP_ERR.POS_MISMATCH : Fld := ⟨0x38, 0, 1⟩
/-- CHIP_ERR [1] (R463). -/
abbrev CHIP_ERR.RESTORE_LOST : Fld := ⟨0x38, 1, 1⟩
/-- CHIP_ERR [2] (R463). -/
abbrev CHIP_ERR.TRAIN_FAIL : Fld := ⟨0x38, 2, 1⟩
/-- CHIP_ERR [3] (R463). -/
abbrev CHIP_ERR.BOOT_FAIL : Fld := ⟨0x38, 3, 1⟩
/-- CHIP_ERR [4] (R463). -/
abbrev CHIP_ERR.SUB_CFG : Fld := ⟨0x38, 4, 1⟩
/-- CHIP_RESTORE0 [0] (R463). -/
abbrev CHIP_RESTORE0.VALID : Fld := ⟨0x40, 0, 1⟩
/-- CHIP_RESTORE0 [1] (R463). -/
abbrev CHIP_RESTORE0.KIND : Fld := ⟨0x40, 1, 1⟩
/-- CHIP_RESTORE0 [2] (R463). -/
abbrev CHIP_RESTORE0.TIER : Fld := ⟨0x40, 2, 1⟩
/-- CHIP_RESTORE0 [28:3] (R463). -/
abbrev CHIP_RESTORE0.REGION : Fld := ⟨0x40, 3, 26⟩
/-- CHIP_RESTORE0 [54:29] (R463). -/
abbrev CHIP_RESTORE0.SAVE : Fld := ⟨0x40, 29, 26⟩
/-- CHIP_RESTORE1 [31:0] (R463). -/
abbrev CHIP_RESTORE1.LEN : Fld := ⟨0x48, 0, 32⟩
/-- CHIP_RESTORE1 [39:32] (R463). -/
abbrev CHIP_RESTORE1.STRIPS : Fld := ⟨0x48, 32, 8⟩
/-- CANDLE_CAP [11:0] (R443). -/
abbrev CANDLE_CAP.CAP_W : Fld := ⟨0x10000, 0, 12⟩
/-- CANDLE_CAP [23:12] (R443). -/
abbrev CANDLE_CAP.RAMP_WPMS : Fld := ⟨0x10000, 12, 12⟩
/-- CANDLE_CAP [35:24] (R443). -/
abbrev CANDLE_CAP.FLOOR_W : Fld := ⟨0x10000, 24, 12⟩
/-- CANDLE_CAP [45:36] (R443). -/
abbrev CANDLE_CAP.FOLLOW_W : Fld := ⟨0x10000, 36, 10⟩
/-- CANDLE_GOV [5:0] (R443). -/
abbrev CANDLE_GOV.SKIP : Fld := ⟨0x10008, 0, 6⟩
/-- CANDLE_GOV [6] (R443). -/
abbrev CANDLE_GOV.HOLD : Fld := ⟨0x10008, 6, 1⟩
/-- CANDLE_GOV [9:7] (R443). -/
abbrev CANDLE_GOV.HOLD_SRC : Fld := ⟨0x10008, 7, 3⟩
/-- CANDLE_GOV [21:10] (R443). -/
abbrev CANDLE_GOV.LVL_W : Fld := ⟨0x10008, 10, 12⟩
/-- CANDLE_GOV [33:22] (R443). -/
abbrev CANDLE_GOV.DRAW_W : Fld := ⟨0x10008, 22, 12⟩
/-- CANDLE_GOV [42:34] (R443). -/
abbrev CANDLE_GOV.GLOW_W : Fld := ⟨0x10008, 34, 9⟩
/-- CANDLE_GOV [54:43] (R443). -/
abbrev CANDLE_GOV.PEAK_W : Fld := ⟨0x10008, 43, 12⟩
/-- CANDLE_DOM [1:0] (R443). -/
abbrev CANDLE_DOM.MODE_0 : Fld := ⟨0x10010, 0, 2⟩
/-- CANDLE_DOM [3:2] (R443). -/
abbrev CANDLE_DOM.MODE_1 : Fld := ⟨0x10010, 2, 2⟩
/-- CANDLE_DOM [5:4] (R443). -/
abbrev CANDLE_DOM.MODE_2 : Fld := ⟨0x10010, 4, 2⟩
/-- CANDLE_DOM [7:6] (R443). -/
abbrev CANDLE_DOM.MODE_3 : Fld := ⟨0x10010, 6, 2⟩
/-- CANDLE_DOM [9:8] (R443). -/
abbrev CANDLE_DOM.MODE_4 : Fld := ⟨0x10010, 8, 2⟩
/-- CANDLE_DOM [11:10] (R443). -/
abbrev CANDLE_DOM.MODE_5 : Fld := ⟨0x10010, 10, 2⟩
/-- CANDLE_DOM [13:12] (R443). -/
abbrev CANDLE_DOM.MODE_6 : Fld := ⟨0x10010, 12, 2⟩
/-- CANDLE_DOM [15:14] (R443). -/
abbrev CANDLE_DOM.MODE_7 : Fld := ⟨0x10010, 14, 2⟩
/-- CANDLE_DOM [17:16] (R443). -/
abbrev CANDLE_DOM.MODE_8 : Fld := ⟨0x10010, 16, 2⟩
/-- CANDLE_DOM [19:18] (R443). -/
abbrev CANDLE_DOM.MODE_9 : Fld := ⟨0x10010, 18, 2⟩
/-- CANDLE_DOM [21:20] (R443). -/
abbrev CANDLE_DOM.MODE_10 : Fld := ⟨0x10010, 20, 2⟩
/-- CANDLE_DOM [23:22] (R443). -/
abbrev CANDLE_DOM.MODE_11 : Fld := ⟨0x10010, 22, 2⟩
/-- CANDLE_DOM [25:24] (R443). -/
abbrev CANDLE_DOM.MODE_12 : Fld := ⟨0x10010, 24, 2⟩
/-- CANDLE_DOM [27:26] (R443). -/
abbrev CANDLE_DOM.MODE_13 : Fld := ⟨0x10010, 26, 2⟩
/-- CANDLE_DOM [29:28] (R443). -/
abbrev CANDLE_DOM.MODE_14 : Fld := ⟨0x10010, 28, 2⟩
/-- CANDLE_DOM [31:30] (R443). -/
abbrev CANDLE_DOM.MODE_15 : Fld := ⟨0x10010, 30, 2⟩
/-- CANDLE_DOM [33:32] (R443). -/
abbrev CANDLE_DOM.MODE_16 : Fld := ⟨0x10010, 32, 2⟩
/-- CANDLE_DOM [35:34] (R443). -/
abbrev CANDLE_DOM.MODE_17 : Fld := ⟨0x10010, 34, 2⟩
/-- CANDLE_DOM [37:36] (R443). -/
abbrev CANDLE_DOM.MODE_18 : Fld := ⟨0x10010, 36, 2⟩
/-- CANDLE_DOM [39:38] (R443). -/
abbrev CANDLE_DOM.MODE_19 : Fld := ⟨0x10010, 38, 2⟩
/-- CANDLE_DOM [41:40] (R443). -/
abbrev CANDLE_DOM.MODE_20 : Fld := ⟨0x10010, 40, 2⟩
/-- CANDLE_DOM [43:42] (R443). -/
abbrev CANDLE_DOM.MODE_21 : Fld := ⟨0x10010, 42, 2⟩
/-- CANDLE_DOM [45:44] (R443). -/
abbrev CANDLE_DOM.MODE_22 : Fld := ⟨0x10010, 44, 2⟩
/-- CANDLE_DOM [47:46] (R443). -/
abbrev CANDLE_DOM.MODE_23 : Fld := ⟨0x10010, 46, 2⟩
/-- CANDLE_DSTAT [23:0] (R443). -/
abbrev CANDLE_DSTAT.ON : Fld := ⟨0x10018, 0, 24⟩
/-- CANDLE_DSTAT [47:24] (R443). -/
abbrev CANDLE_DSTAT.PEND : Fld := ⟨0x10018, 24, 24⟩
/-- CANDLE_PINS [1:0] (R443). -/
abbrev CANDLE_PINS.INRUSH : Fld := ⟨0x10020, 0, 2⟩
/-- CANDLE_PINS [2] (R443). -/
abbrev CANDLE_PINS.PWR_GRANT : Fld := ⟨0x10020, 2, 1⟩
/-- CANDLE_PINS [3] (R443). -/
abbrev CANDLE_PINS.CAP_FAST : Fld := ⟨0x10020, 3, 1⟩
/-- CANDLE_PINS [4] (R443). -/
abbrev CANDLE_PINS.LATCH_OPEN : Fld := ⟨0x10020, 4, 1⟩
/-- CANDLE_PINS [5] (R443). -/
abbrev CANDLE_PINS.SYSREF_OK : Fld := ⟨0x10020, 5, 1⟩
/-- CANDLE_PINS [6] (R443). -/
abbrev CANDLE_PINS.LINKREF_OK : Fld := ⟨0x10020, 6, 1⟩
/-- CANDLE_EVT [0] (R443). -/
abbrev CANDLE_EVT.SNUFF : Fld := ⟨0x10028, 0, 1⟩
/-- CANDLE_EVT [1] (R443). -/
abbrev CANDLE_EVT.REF_LOST : Fld := ⟨0x10028, 1, 1⟩
/-- CANDLE_EVT [31:16] (R443). -/
abbrev CANDLE_EVT.HOLDS : Fld := ⟨0x10028, 16, 16⟩
/-- CANDLE_EVT [47:32] (R443). -/
abbrev CANDLE_EVT.ESCALATIONS : Fld := ⟨0x10028, 32, 16⟩
/-- CANDLE_EVT [63:48] (R443). -/
abbrev CANDLE_EVT.CAP_WRITES : Fld := ⟨0x10028, 48, 16⟩
/-- CANDLE_ERR [0] (R443). -/
abbrev CANDLE_ERR.CAP_BAD : Fld := ⟨0x10030, 0, 1⟩
/-- CANDLE_ERR [1] (R443). -/
abbrev CANDLE_ERR.DOM_BAD : Fld := ⟨0x10030, 1, 1⟩
/-- CANDLE_ERR [2] (R443). -/
abbrev CANDLE_ERR.FLOOR_SHORT : Fld := ⟨0x10030, 2, 1⟩
/-- CANDLE_ERR [3] (R443). -/
abbrev CANDLE_ERR.RAMP_SHORT : Fld := ⟨0x10030, 3, 1⟩
/-- CANDLE_ERR [4] (R443). -/
abbrev CANDLE_ERR.PEAK_EXCEED : Fld := ⟨0x10030, 4, 1⟩
/-- CANDLE_ERR [5] (R443). -/
abbrev CANDLE_ERR.METER_FAULT : Fld := ⟨0x10030, 5, 1⟩
/-- CANDLE_ERR [6] (R443). -/
abbrev CANDLE_ERR.LEDGER_MERGED : Fld := ⟨0x10030, 6, 1⟩
/-- CANDLE_MS [63:0] (R443). -/
abbrev CANDLE_MS.MS : Fld := ⟨0x10038, 0, 64⟩
/-- CANDLE_E_TOTAL [63:0] (R443). -/
abbrev CANDLE_E_TOTAL.UJ : Fld := ⟨0x10040, 0, 64⟩
/-- CANDLE_E_GLOW [63:0] (R443). -/
abbrev CANDLE_E_GLOW.UJ : Fld := ⟨0x10048, 0, 64⟩
/-- CANDLE_E_1S [31:0] (R443). -/
abbrev CANDLE_E_1S.UJ : Fld := ⟨0x10050, 0, 32⟩
/-- CANDLE_E_60S [47:0] (R443). -/
abbrev CANDLE_E_60S.UJ : Fld := ⟨0x10058, 0, 48⟩
/-- CANDLE_P1MS [23:0] (R443). -/
abbrev CANDLE_P1MS.LAST_MW : Fld := ⟨0x10060, 0, 24⟩
/-- CANDLE_P1MS [47:24] (R443). -/
abbrev CANDLE_P1MS.MAX60_MW : Fld := ⟨0x10060, 24, 24⟩
/-- CANDLE_LEDGER [41:12] (R443). -/
abbrev CANDLE_LEDGER.BASE : Fld := ⟨0x10068, 12, 30⟩
/-- CANDLE_LEDGER [51:48] (R443). -/
abbrev CANDLE_LEDGER.LOG2N : Fld := ⟨0x10068, 48, 4⟩
/-- CANDLE_LPTR [31:0] (R443). -/
abbrev CANDLE_LPTR.HEAD : Fld := ⟨0x10070, 0, 32⟩
/-- CANDLE_LPTR [63:32] (R443). -/
abbrev CANDLE_LPTR.TAIL : Fld := ⟨0x10070, 32, 32⟩
/-- CANDLE_LAMP [1:0] (R443). -/
abbrev CANDLE_LAMP.MODE : Fld := ⟨0x10078, 0, 2⟩
/-- CANDLE_LAMP [2] (R443). -/
abbrev CANDLE_LAMP.FORCED : Fld := ⟨0x10078, 2, 1⟩
/-- CANDLE_WAKE [0] (R443). -/
abbrev CANDLE_WAKE.SLEEP : Fld := ⟨0x10080, 0, 1⟩
/-- CANDLE_WAKE [4:1] (R443). -/
abbrev CANDLE_WAKE.SRC : Fld := ⟨0x10080, 1, 4⟩
/-- CANDLE_WAKE [5] (R443). -/
abbrev CANDLE_WAKE.HOST_WAKE_EN : Fld := ⟨0x10080, 5, 1⟩
/-- CANDLE_WAKE [63:32] (R443). -/
abbrev CANDLE_WAKE.TIMER_MS : Fld := ⟨0x10080, 32, 32⟩
/-- CLOCK_FIELD [10:0] (R445). -/
abbrev CLOCK_FIELD.MHZ : Fld := ⟨0x20000, 0, 11⟩
/-- CLOCK_FIELD [21:11] (R445). -/
abbrev CLOCK_FIELD.EFF_MHZ : Fld := ⟨0x20000, 11, 11⟩
/-- CLOCK_FIELD [22] (R445). -/
abbrev CLOCK_FIELD.LOCK : Fld := ⟨0x20000, 22, 1⟩
/-- CLOCK_FIELD [23] (R445). -/
abbrev CLOCK_FIELD.PENDING : Fld := ⟨0x20000, 23, 1⟩
/-- CLOCK_CORE [11:0] (R445). -/
abbrev CLOCK_CORE.MHZ (c : Nat) : Fld := ⟨0x20008 + 8 * c, 0, 12⟩
/-- CLOCK_CORE [12] (R445). -/
abbrev CLOCK_CORE.LOCK (c : Nat) : Fld := ⟨0x20008 + 8 * c, 12, 1⟩
/-- CLOCK_STATUS [0] (R445). -/
abbrev CLOCK_STATUS.CTRL_LOCK : Fld := ⟨0x20018, 0, 1⟩
/-- CLOCK_STATUS [1] (R445). -/
abbrev CLOCK_STATUS.LAMP_LOCK : Fld := ⟨0x20018, 1, 1⟩
/-- CLOCK_STATUS [5:2] (R445). -/
abbrev CLOCK_STATUS.TOP_LOCK : Fld := ⟨0x20018, 2, 4⟩
/-- CLOCK_STATUS [6] (R445). -/
abbrev CLOCK_STATUS.SUB_LOCK : Fld := ⟨0x20018, 6, 1⟩
/-- CLOCK_STATUS [7] (R445). -/
abbrev CLOCK_STATUS.FAL_LOCK : Fld := ⟨0x20018, 7, 1⟩
/-- CLOCK_STATUS [8] (R445). -/
abbrev CLOCK_STATUS.CANDLE_INT : Fld := ⟨0x20018, 8, 1⟩
/-- LAMP_CMD [3:0] (R526). -/
abbrev LAMP_CMD.OP : Fld := ⟨0x30000, 0, 4⟩
/-- LAMP_ARG [63:0] (R526). -/
abbrev LAMP_ARG.ARG (k : Nat) : Fld := ⟨0x30008 + 8 * k, 0, 64⟩
/-- LAMP_STATUS [0] (R526). -/
abbrev LAMP_STATUS.BUSY : Fld := ⟨0x30018, 0, 1⟩
/-- LAMP_STATUS [2:1] (R526). -/
abbrev LAMP_STATUS.OUTCOME : Fld := ⟨0x30018, 1, 2⟩
/-- LAMP_STATUS [6:3] (R526). -/
abbrev LAMP_STATUS.REASON : Fld := ⟨0x30018, 3, 4⟩
/-- LAMP_STATUS [11:7] (R526). -/
abbrev LAMP_STATUS.OWNER : Fld := ⟨0x30018, 7, 5⟩
/-- LAMP_SEC [0] (R526). -/
abbrev LAMP_SEC.LFW_OK : Fld := ⟨0x30020, 0, 1⟩
/-- LAMP_SEC [1] (R526). -/
abbrev LAMP_SEC.MFW_OK : Fld := ⟨0x30020, 1, 1⟩
/-- LAMP_SEC [2] (R526). -/
abbrev LAMP_SEC.PLAN_OK : Fld := ⟨0x30020, 2, 1⟩
/-- LAMP_SEC [3] (R526). -/
abbrev LAMP_SEC.PEER_BAD : Fld := ⟨0x30020, 3, 1⟩
/-- LAMP_SEC [4] (R526). -/
abbrev LAMP_SEC.DBG_UNLOCKED : Fld := ⟨0x30020, 4, 1⟩
/-- LAMP_SEC [8:5] (R526). -/
abbrev LAMP_SEC.DBG_RIGHTS : Fld := ⟨0x30020, 5, 4⟩
/-- LAMP_SEC [47:32] (R526). -/
abbrev LAMP_SEC.LFW_SVN : Fld := ⟨0x30020, 32, 16⟩
/-- LAMP_SEC [63:48] (R526). -/
abbrev LAMP_SEC.MFW_SVN : Fld := ⟨0x30020, 48, 16⟩
/-- LAMP_JOB [15:0] (R526). -/
abbrev LAMP_JOB.LAST_JOB : Fld := ⟨0x30028, 0, 16⟩
/-- LAMP_JOB [16] (R526). -/
abbrev LAMP_JOB.SCRUBBED : Fld := ⟨0x30028, 16, 1⟩
/-- LAMP_JOB [17] (R526). -/
abbrev LAMP_JOB.KEYED : Fld := ⟨0x30028, 17, 1⟩
/-- LAMP_JOB [18] (R526). -/
abbrev LAMP_JOB.DRAINED : Fld := ⟨0x30028, 18, 1⟩
/-- LAMP_JOB [19] (R526). -/
abbrev LAMP_JOB.KEY_FAIL : Fld := ⟨0x30028, 19, 1⟩
/-- LAMP_JOB [23:20] (R526). -/
abbrev LAMP_JOB.KEYSLOT : Fld := ⟨0x30028, 20, 4⟩
/-- LAMP_JOB [39:24] (R526). -/
abbrev LAMP_JOB.GEN : Fld := ⟨0x30028, 24, 16⟩
/-- LAMP_HNONCE [63:0] (R526). -/
abbrev LAMP_HNONCE.NONCE : Fld := ⟨0x30030, 0, 64⟩
/-- LAMP_HSIG [63:0] (R526). -/
abbrev LAMP_HSIG.SIG (k : Nat) : Fld := ⟨0x30038 + 8 * k, 0, 64⟩
/-- LAMP_HSESS [1:0] (R526). -/
abbrev LAMP_HSESS.LEVEL : Fld := ⟨0x30098, 0, 2⟩
/-- LAMP_HSESS [17:2] (R526). -/
abbrev LAMP_HSESS.JOB : Fld := ⟨0x30098, 2, 16⟩
/-- STEP_CTRL [0] (R243). -/
abbrev STEP_CTRL.START : Fld := ⟨0x40000, 0, 1⟩
/-- STEP_CTRL [1] (R243). -/
abbrev STEP_CTRL.HALT : Fld := ⟨0x40000, 1, 1⟩
/-- STEP_CTRL [2] (R243). -/
abbrev STEP_CTRL.ABANDON : Fld := ⟨0x40000, 2, 1⟩
/-- STEP_CTRL [3] (R243). -/
abbrev STEP_CTRL.MSB_CLR : Fld := ⟨0x40000, 3, 1⟩
/-- STEP_CTRL [7:4] (R243). -/
abbrev STEP_CTRL.QMASK : Fld := ⟨0x40000, 4, 4⟩
/-- STEP_STATUS [2:0] (R243). -/
abbrev STEP_STATUS.STATE : Fld := ⟨0x40008, 0, 3⟩
/-- STEP_STATUS [3] (R243). -/
abbrev STEP_STATUS.LEADER : Fld := ⟨0x40008, 3, 1⟩
/-- STEP_STATUS [7:4] (R243). -/
abbrev STEP_STATUS.INFLIGHT : Fld := ⟨0x40008, 4, 4⟩
/-- STEP_STATUS [11:8] (R243). -/
abbrev STEP_STATUS.STEP_END_DONE : Fld := ⟨0x40008, 8, 4⟩
/-- STEP_STATUS [15:12] (R243). -/
abbrev STEP_STATUS.REPLAYS : Fld := ⟨0x40008, 12, 4⟩
/-- STEP_NUM [63:0] (R243). -/
abbrev STEP_NUM.STEP : Fld := ⟨0x40010, 0, 64⟩
/-- STEP_QBASE [41:12] (R243). -/
abbrev STEP_QBASE.BASE (q : Nat) : Fld := ⟨0x40020 + 8 * q, 12, 30⟩
/-- STEP_QBASE [51:48] (R243). -/
abbrev STEP_QBASE.LOG2N (q : Nat) : Fld := ⟨0x40020 + 8 * q, 48, 4⟩
/-- STEP_QHEAD [15:0] (R243). -/
abbrev STEP_QHEAD.HEAD (q : Nat) : Fld := ⟨0x40040 + 8 * q, 0, 16⟩
/-- STEP_QHEAD [31:16] (R243). -/
abbrev STEP_QHEAD.ISSUE (q : Nat) : Fld := ⟨0x40040 + 8 * q, 16, 16⟩
/-- STEP_QTAIL [15:0] (R243). -/
abbrev STEP_QTAIL.TAIL (q : Nat) : Fld := ⟨0x40060 + 8 * q, 0, 16⟩
/-- STEP_TAGS [63:0] (R243). -/
abbrev STEP_TAGS.TAG (j : Nat) : Fld := ⟨0x40080 + 8 * j, 0, 64⟩
/-- STEP_TAGINIT [63:0] (R243). -/
abbrev STEP_TAGINIT.TAG (j : Nat) : Fld := ⟨0x400F0 + 8 * j, 0, 64⟩
/-- STEP_MSB [14:0] (R243). -/
abbrev STEP_MSB.USED : Fld := ⟨0x40090, 0, 15⟩
/-- STEP_MSB [30:16] (R243). -/
abbrev STEP_MSB.HIGH : Fld := ⟨0x40090, 16, 15⟩
/-- STEP_QCFG [15:0] (R243). -/
abbrev STEP_QCFG.BUDGET_NS : Fld := ⟨0x40098, 0, 16⟩
/-- STEP_QCFG [31:16] (R243). -/
abbrev STEP_QCFG.CORES : Fld := ⟨0x40098, 16, 16⟩
/-- STEP_QRING [41:12] (R243). -/
abbrev STEP_QRING.BASE : Fld := ⟨0x400A0, 12, 30⟩
/-- STEP_QTAKE [15:0] (R243). -/
abbrev STEP_QTAKE.QID : Fld := ⟨0x400A8, 0, 16⟩
/-- STEP_QTAKE [16] (R243). -/
abbrev STEP_QTAKE.VALID : Fld := ⟨0x400A8, 16, 1⟩
/-- STEP_QANS [15:0] (R243). -/
abbrev STEP_QANS.QID : Fld := ⟨0x400B0, 0, 16⟩
/-- STEP_QANS [19:16] (R243). -/
abbrev STEP_QANS.BUCKET : Fld := ⟨0x400B0, 16, 4⟩
/-- STEP_QANS [20] (R243). -/
abbrev STEP_QANS.NOANS : Fld := ⟨0x400B0, 20, 1⟩
/-- STEP_QANS [29:21] (R243). -/
abbrev STEP_QANS.COUNT : Fld := ⟨0x400B0, 21, 9⟩
/-- STEP_QSTAT [15:0] (R243). -/
abbrev STEP_QSTAT.ONTIME : Fld := ⟨0x400B8, 0, 16⟩
/-- STEP_QSTAT [31:16] (R243). -/
abbrev STEP_QSTAT.LATE : Fld := ⟨0x400B8, 16, 16⟩
/-- STEP_QSTAT [47:32] (R243). -/
abbrev STEP_QSTAT.REFUSED : Fld := ⟨0x400B8, 32, 16⟩
/-- STEP_QSTAT [63:48] (R243). -/
abbrev STEP_QSTAT.DROPPED : Fld := ⟨0x400B8, 48, 16⟩
/-- STEP_CRING [41:12] (R243). -/
abbrev STEP_CRING.BASE : Fld := ⟨0x400C0, 12, 30⟩
/-- STEP_CRING [51:48] (R243). -/
abbrev STEP_CRING.LOG2N : Fld := ⟨0x400C0, 48, 4⟩
/-- STEP_CHEAD [15:0] (R243). -/
abbrev STEP_CHEAD.INDEX : Fld := ⟨0x400C8, 0, 16⟩
/-- STEP_CTAIL [15:0] (R243). -/
abbrev STEP_CTAIL.INDEX : Fld := ⟨0x400D0, 0, 16⟩
/-- STEP_OVR [9:0] (R243). -/
abbrev STEP_OVR.TEMPLATE : Fld := ⟨0x400D8, 0, 10⟩
/-- STEP_OVR [25:10] (R243). -/
abbrev STEP_OVR.LAYER : Fld := ⟨0x400D8, 10, 16⟩
/-- STEP_OVR [57:26] (R243). -/
abbrev STEP_OVR.EXCESS : Fld := ⟨0x400D8, 26, 32⟩
/-- STEP_ERR [0] (R243). -/
abbrev STEP_ERR.OVERRUN : Fld := ⟨0x400E0, 0, 1⟩
/-- STEP_ERR [1] (R243). -/
abbrev STEP_ERR.HANG : Fld := ⟨0x400E0, 1, 1⟩
/-- STEP_ERR [2] (R243). -/
abbrev STEP_ERR.DESC_BAD : Fld := ⟨0x400E0, 2, 1⟩
/-- STEP_ERR [4:3] (R243). -/
abbrev STEP_ERR.DESC_Q : Fld := ⟨0x400E0, 3, 2⟩
/-- STEP_ERR [5] (R243). -/
abbrev STEP_ERR.CREC_LOST : Fld := ⟨0x400E0, 5, 1⟩
/-- STEP_ERR [6] (R243). -/
abbrev STEP_ERR.LOST : Fld := ⟨0x400E0, 6, 1⟩
/-- STEP_ERR [7] (R243). -/
abbrev STEP_ERR.ABANDONED : Fld := ⟨0x400E0, 7, 1⟩
/-- STEP_ERR [10:8] (R243). -/
abbrev STEP_ERR.CAUSE : Fld := ⟨0x400E0, 8, 3⟩
/-- STEP_ERR [11] (R243). -/
abbrev STEP_ERR.MISMATCH : Fld := ⟨0x400E0, 11, 1⟩
/-- STEP_ERR [47:32] (R243). -/
abbrev STEP_ERR.DESC_IDX : Fld := ⟨0x400E0, 32, 16⟩
/-- STEP_TMO [15:0] (R243). -/
abbrev STEP_TMO.BND_TMO_US : Fld := ⟨0x400E8, 0, 16⟩
/-- STEP_TMO [19:16] (R243). -/
abbrev STEP_TMO.HANG_MULT : Fld := ⟨0x400E8, 16, 4⟩
/-- STEP_TMO [23:20] (R243). -/
abbrev STEP_TMO.REPLAY_MAX : Fld := ⟨0x400E8, 20, 4⟩
/-- STEP_QCLK [63:0] (R243). -/
abbrev STEP_QCLK.TICKS : Fld := ⟨0x40100, 0, 64⟩
/-- ROTATE_CTRL [0] (R212). -/
abbrev ROTATE_CTRL.LOAD : Fld := ⟨0x50000, 0, 1⟩
/-- ROTATE_CTRL [1] (R212). -/
abbrev ROTATE_CTRL.LOAD_ABORT : Fld := ⟨0x50000, 1, 1⟩
/-- ROTATE_CTRL [2] (R212). -/
abbrev ROTATE_CTRL.ARM : Fld := ⟨0x50000, 2, 1⟩
/-- ROTATE_CTRL [3] (R212). -/
abbrev ROTATE_CTRL.DISARM : Fld := ⟨0x50000, 3, 1⟩
/-- ROTATE_STATUS [2:0] (R212). -/
abbrev ROTATE_STATUS.LOAD_STATE : Fld := ⟨0x50008, 0, 3⟩
/-- ROTATE_STATUS [5:3] (R212). -/
abbrev ROTATE_STATUS.ROT_STATE : Fld := ⟨0x50008, 3, 3⟩
/-- ROTATE_STATUS [6] (R212). -/
abbrev ROTATE_STATUS.LIT_VALID : Fld := ⟨0x50008, 6, 1⟩
/-- ROTATE_STATUS [7] (R212). -/
abbrev ROTATE_STATUS.DARK_VALID : Fld := ⟨0x50008, 7, 1⟩
/-- ROTATE_STATUS [8] (R212). -/
abbrev ROTATE_STATUS.LEADER : Fld := ⟨0x50008, 8, 1⟩
/-- ROTATE_LOAD_ADDR [63:0] (R212). -/
abbrev ROTATE_LOAD_ADDR.ADDR : Fld := ⟨0x50010, 0, 64⟩
/-- ROTATE_LOAD_LEN [24:0] (R212). -/
abbrev ROTATE_LOAD_LEN.LEN : Fld := ⟨0x50018, 0, 25⟩
/-- ROTATE_LOAD_ERR [7:0] (R212). -/
abbrev ROTATE_LOAD_ERR.CODE : Fld := ⟨0x50020, 0, 8⟩
/-- ROTATE_LOAD_ERR [19:8] (R212). -/
abbrev ROTATE_LOAD_ERR.SECTION : Fld := ⟨0x50020, 8, 12⟩
/-- ROTATE_LOAD_ERR [51:20] (R212). -/
abbrev ROTATE_LOAD_ERR.RECORD : Fld := ⟨0x50020, 20, 32⟩
/-- ROTATE_AT_STEP [63:0] (R212). -/
abbrev ROTATE_AT_STEP.STEP : Fld := ⟨0x50028, 0, 64⟩
/-- ROTATE_LIT_ID [63:0] (R212). -/
abbrev ROTATE_LIT_ID.IMAGE_ID : Fld := ⟨0x50030, 0, 64⟩
/-- ROTATE_DARK_ID [63:0] (R212). -/
abbrev ROTATE_DARK_ID.IMAGE_ID : Fld := ⟨0x50038, 0, 64⟩
/-- ROTATE_PLANE_INFO [7:0] (R212). -/
abbrev ROTATE_PLANE_INFO.LIT_MASK : Fld := ⟨0x50040, 0, 8⟩
/-- ROTATE_PLANE_INFO [8] (R212). -/
abbrev ROTATE_PLANE_INFO.LIT_COMPAT : Fld := ⟨0x50040, 8, 1⟩
/-- ROTATE_PLANE_INFO [23:16] (R212). -/
abbrev ROTATE_PLANE_INFO.DARK_MASK : Fld := ⟨0x50040, 16, 8⟩
/-- ROTATE_PLANE_INFO [24] (R212). -/
abbrev ROTATE_PLANE_INFO.DARK_COMPAT : Fld := ⟨0x50040, 24, 1⟩
/-- ROTATE_PLANE_INFO [25] (R212). -/
abbrev ROTATE_PLANE_INFO.DARK_FORMER : Fld := ⟨0x50040, 25, 1⟩
/-- ROTATE_TMO [15:0] (R212). -/
abbrev ROTATE_TMO.TMO_US : Fld := ⟨0x50048, 0, 16⟩
/-- ROTATE_ERR [0] (R212). -/
abbrev ROTATE_ERR.TIMEOUT : Fld := ⟨0x50050, 0, 1⟩
/-- ROTATE_ERR [1] (R212). -/
abbrev ROTATE_ERR.MISMATCH : Fld := ⟨0x50050, 1, 1⟩
/-- ROTATE_ERR [2] (R212). -/
abbrev ROTATE_ERR.NOT_LOADED : Fld := ⟨0x50050, 2, 1⟩
/-- ROTATE_ERR [3] (R212). -/
abbrev ROTATE_ERR.LOST : Fld := ⟨0x50050, 3, 1⟩
/-- ROTATE_ERR [4] (R212). -/
abbrev ROTATE_ERR.STALE : Fld := ⟨0x50050, 4, 1⟩
/-- ROTATE_ERR [5] (R212). -/
abbrev ROTATE_ERR.DARK_UE : Fld := ⟨0x50050, 5, 1⟩
/-- ROTATE_ERR [6] (R212). -/
abbrev ROTATE_ERR.LIT_UE : Fld := ⟨0x50050, 6, 1⟩
/-- ROTATE_ERR [7] (R212). -/
abbrev ROTATE_ERR.BAD_CMD : Fld := ⟨0x50050, 7, 1⟩
/-- ROTATE_ERR [8] (R212). -/
abbrev ROTATE_ERR.REFUSED : Fld := ⟨0x50050, 8, 1⟩
/-- ROTATE_PLANE_CE [31:0] (R212). -/
abbrev ROTATE_PLANE_CE.CE_COUNT : Fld := ⟨0x50058, 0, 32⟩
/-- ROTATE_COUNT [31:0] (R212). -/
abbrev ROTATE_COUNT.ROTATIONS : Fld := ⟨0x50060, 0, 32⟩
/-- ROTATE_COUNT [63:32] (R212). -/
abbrev ROTATE_COUNT.LAST_NS : Fld := ⟨0x50060, 32, 32⟩
/-- SOWER_CTRL [0] (R273). -/
abbrev SOWER_CTRL.CNT_CLR : Fld := ⟨0x60000, 0, 1⟩
/-- SOWER_STATUS [0] (R273). -/
abbrev SOWER_STATUS.BUSY_A : Fld := ⟨0x60008, 0, 1⟩
/-- SOWER_STATUS [1] (R273). -/
abbrev SOWER_STATUS.BUSY_B : Fld := ⟨0x60008, 1, 1⟩
/-- SOWER_STATUS [2] (R273). -/
abbrev SOWER_STATUS.WAIT_HDR : Fld := ⟨0x60008, 2, 1⟩
/-- SOWER_STATUS [3] (R273). -/
abbrev SOWER_STATUS.WAIT_ANS : Fld := ⟨0x60008, 3, 1⟩
/-- SOWER_STATUS [4] (R273). -/
abbrev SOWER_STATUS.FETCHING : Fld := ⟨0x60008, 4, 1⟩
/-- SOWER_LTAB [41:12] (R273). -/
abbrev SOWER_LTAB.BASE : Fld := ⟨0x60010, 12, 30⟩
/-- SOWER_LTAB [59:42] (R273). -/
abbrev SOWER_LTAB.COUNT : Fld := ⟨0x60010, 42, 18⟩
/-- SOWER_HBASE [41:21] (R273). -/
abbrev SOWER_HBASE.BASE : Fld := ⟨0x60018, 21, 21⟩
/-- SOWER_ERR [0] (R273). -/
abbrev SOWER_ERR.LAYER_BAD : Fld := ⟨0x60020, 0, 1⟩
/-- SOWER_ERR [1] (R273). -/
abbrev SOWER_ERR.ROW_LEN : Fld := ⟨0x60020, 1, 1⟩
/-- SOWER_ERR [2] (R273). -/
abbrev SOWER_ERR.ROW_EXTRA : Fld := ⟨0x60020, 2, 1⟩
/-- SOWER_ERR [3] (R273). -/
abbrev SOWER_ERR.SEG_BAD : Fld := ⟨0x60020, 3, 1⟩
/-- SOWER_ERR [4] (R273). -/
abbrev SOWER_ERR.STALE_SEG : Fld := ⟨0x60020, 4, 1⟩
/-- SOWER_ERR [5] (R273). -/
abbrev SOWER_ERR.GATE_NAN : Fld := ⟨0x60020, 5, 1⟩
/-- SOWER_FAULT_CAP [15:0] (R273). -/
abbrev SOWER_FAULT_CAP.LAYER : Fld := ⟨0x60028, 0, 16⟩
/-- SOWER_FAULT_CAP [16] (R273). -/
abbrev SOWER_FAULT_CAP.MB : Fld := ⟨0x60028, 16, 1⟩
/-- SOWER_FAULT_CAP [22:17] (R273). -/
abbrev SOWER_FAULT_CAP.CHIP : Fld := ⟨0x60028, 17, 6⟩
/-- SOWER_FAULT_CAP [24:23] (R273). -/
abbrev SOWER_FAULT_CAP.KIND : Fld := ⟨0x60028, 23, 2⟩
/-- SOWER_ROWS [47:0] (R273). -/
abbrev SOWER_ROWS.ROWS : Fld := ⟨0x60030, 0, 48⟩
/-- SOWER_SEGS [31:0] (R273). -/
abbrev SOWER_SEGS.SENT : Fld := ⟨0x60038, 0, 32⟩
/-- SOWER_SEGS [63:32] (R273). -/
abbrev SOWER_SEGS.RECEIVED : Fld := ⟨0x60038, 32, 32⟩
/-- SOWER_FETCH [15:0] (R273). -/
abbrev SOWER_FETCH.ACCEPTED : Fld := ⟨0x60040, 0, 16⟩
/-- SOWER_FETCH [31:16] (R273). -/
abbrev SOWER_FETCH.REFUSED : Fld := ⟨0x60040, 16, 16⟩
/-- SOWER_FETCH [47:32] (R273). -/
abbrev SOWER_FETCH.AUTO : Fld := ⟨0x60040, 32, 16⟩
/-- SOWER_FETCH [63:48] (R273). -/
abbrev SOWER_FETCH.EVICTED : Fld := ⟨0x60040, 48, 16⟩
/-- GLEAN_CTRL [0] (R274). -/
abbrev GLEAN_CTRL.CNT_CLR : Fld := ⟨0x70000, 0, 1⟩
/-- GLEAN_STATUS [0] (R274). -/
abbrev GLEAN_STATUS.BUSY_A : Fld := ⟨0x70008, 0, 1⟩
/-- GLEAN_STATUS [1] (R274). -/
abbrev GLEAN_STATUS.BUSY_B : Fld := ⟨0x70008, 1, 1⟩
/-- GLEAN_STATUS [2] (R274). -/
abbrev GLEAN_STATUS.WAIT_SEG : Fld := ⟨0x70008, 2, 1⟩
/-- GLEAN_ERR [0] (R274). -/
abbrev GLEAN_ERR.COUNT_BAD : Fld := ⟨0x70010, 0, 1⟩
/-- GLEAN_ERR [1] (R274). -/
abbrev GLEAN_ERR.SHORT : Fld := ⟨0x70010, 1, 1⟩
/-- GLEAN_ERR [2] (R274). -/
abbrev GLEAN_ERR.STALE_SEG : Fld := ⟨0x70010, 2, 1⟩
/-- GLEAN_FAULT_CAP [15:0] (R274). -/
abbrev GLEAN_FAULT_CAP.LAYER : Fld := ⟨0x70018, 0, 16⟩
/-- GLEAN_FAULT_CAP [16] (R274). -/
abbrev GLEAN_FAULT_CAP.MB : Fld := ⟨0x70018, 16, 1⟩
/-- GLEAN_FAULT_CAP [22:17] (R274). -/
abbrev GLEAN_FAULT_CAP.CHIP : Fld := ⟨0x70018, 17, 6⟩
/-- GLEAN_ROWS [47:0] (R274). -/
abbrev GLEAN_ROWS.ROWS : Fld := ⟨0x70020, 0, 48⟩
/-- GLEAN_SHORT [31:0] (R274). -/
abbrev GLEAN_SHORT.SHORT : Fld := ⟨0x70028, 0, 32⟩
/-- HARROW_CTRL [0] (R339). -/
abbrev HARROW_CTRL.CANCEL : Fld := ⟨0x80000, 0, 1⟩
/-- HARROW_CTRL [1] (R339). -/
abbrev HARROW_CTRL.CNT_CLR : Fld := ⟨0x80000, 1, 1⟩
/-- HARROW_CTRL [31:16] (R339). -/
abbrev HARROW_CTRL.POS : Fld := ⟨0x80000, 16, 16⟩
/-- HARROW_STATUS [6:0] (R339). -/
abbrev HARROW_STATUS.ACTIVE : Fld := ⟨0x80008, 0, 7⟩
/-- HARROW_STATUS [13:7] (R339). -/
abbrev HARROW_STATUS.RANGES : Fld := ⟨0x80008, 7, 7⟩
/-- HARROW_STATUS [14] (R339). -/
abbrev HARROW_STATUS.ROT_HOLD : Fld := ⟨0x80008, 14, 1⟩
/-- HARROW_STATUS [15] (R339). -/
abbrev HARROW_STATUS.RECLAIM : Fld := ⟨0x80008, 15, 1⟩
/-- HARROW_QBASE [41:12] (R339). -/
abbrev HARROW_QBASE.BASE (q : Nat) : Fld := ⟨0x80010 + 8 * q, 12, 30⟩
/-- HARROW_QBASE [51:48] (R339). -/
abbrev HARROW_QBASE.LOG2N (q : Nat) : Fld := ⟨0x80010 + 8 * q, 48, 4⟩
/-- HARROW_QPTR [15:0] (R339). -/
abbrev HARROW_QPTR.HEAD (q : Nat) : Fld := ⟨0x80020 + 8 * q, 0, 16⟩
/-- HARROW_QPTR [31:16] (R339). -/
abbrev HARROW_QPTR.ISSUE (q : Nat) : Fld := ⟨0x80020 + 8 * q, 16, 16⟩
/-- HARROW_QPTR [47:32] (R339). -/
abbrev HARROW_QPTR.TAIL (q : Nat) : Fld := ⟨0x80020 + 8 * q, 32, 16⟩
/-- HARROW_ARB [6:0] (R339). -/
abbrev HARROW_ARB.BG_EVERY : Fld := ⟨0x80030, 0, 7⟩
/-- HARROW_STEP_EST [39:0] (R339). -/
abbrev HARROW_STEP_EST.CYCLES : Fld := ⟨0x80038, 0, 40⟩
/-- HARROW_NOW [47:0] (R339). -/
abbrev HARROW_NOW.CYCLES : Fld := ⟨0x80040, 0, 48⟩
/-- HARROW_LATE [31:0] (R339). -/
abbrev HARROW_LATE.LATE : Fld := ⟨0x80048, 0, 32⟩
/-- HARROW_ERR [0] (R339). -/
abbrev HARROW_ERR.DESC_BAD : Fld := ⟨0x80050, 0, 1⟩
/-- HARROW_ERR [1] (R339). -/
abbrev HARROW_ERR.ADDR : Fld := ⟨0x80050, 1, 1⟩
/-- HARROW_ERR [2] (R339). -/
abbrev HARROW_ERR.CB_BAD : Fld := ⟨0x80050, 2, 1⟩
/-- HARROW_ERR [3] (R339). -/
abbrev HARROW_ERR.QUOTA : Fld := ⟨0x80050, 3, 1⟩
/-- HARROW_BYTES [63:0] (R339). -/
abbrev HARROW_BYTES.BYTES : Fld := ⟨0x80058, 0, 64⟩
/-- TIER_HOME [41:12] (R340). -/
abbrev TIER_HOME.BASE : Fld := ⟨0x90000, 12, 30⟩
/-- TIER_HOME [46:42] (R340). -/
abbrev TIER_HOME.LOG2N : Fld := ⟨0x90000, 42, 5⟩
/-- TIER_CMD [1:0] (R340). -/
abbrev TIER_CMD.OP : Fld := ⟨0x90008, 0, 2⟩
/-- TIER_CMD [21:2] (R340). -/
abbrev TIER_CMD.INDEX : Fld := ⟨0x90008, 2, 20⟩
/-- TIER_CMDRES [0] (R340). -/
abbrev TIER_CMDRES.DONE : Fld := ⟨0x90010, 0, 1⟩
/-- TIER_CMDRES [2:1] (R340). -/
abbrev TIER_CMDRES.OUTCOME : Fld := ⟨0x90010, 1, 2⟩
/-- TIER_CMDRES [5:3] (R340). -/
abbrev TIER_CMDRES.REASON : Fld := ⟨0x90010, 3, 3⟩
/-- TIER_RECLAIM [0] (R340). -/
abbrev TIER_RECLAIM.START : Fld := ⟨0x90018, 0, 1⟩
/-- TIER_RECLAIM [1] (R340). -/
abbrev TIER_RECLAIM.BUSY : Fld := ⟨0x90018, 1, 1⟩
/-- TIER_RECLAIM [31:16] (R340). -/
abbrev TIER_RECLAIM.TMO_MS : Fld := ⟨0x90018, 16, 16⟩
/-- TIER_ERR [0] (R340). -/
abbrev TIER_ERR.QUOTA : Fld := ⟨0x90020, 0, 1⟩
/-- TIER_ERR [1] (R340). -/
abbrev TIER_ERR.ACCESS : Fld := ⟨0x90020, 1, 1⟩
/-- TIER_ERR [2] (R340). -/
abbrev TIER_ERR.RECLAIM : Fld := ⟨0x90020, 2, 1⟩
/-- TIER_ERR [3] (R340). -/
abbrev TIER_ERR.LOST : Fld := ⟨0x90020, 3, 1⟩
/-- TIER_ERR [4] (R340). -/
abbrev TIER_ERR.GRANT : Fld := ⟨0x90020, 4, 1⟩
/-- TIER_QJOB_T [31:0] (R340). -/
abbrev TIER_QJOB_T.LIMIT : Fld := ⟨0x90028, 0, 32⟩
/-- TIER_QJOB_T [63:32] (R340). -/
abbrev TIER_QJOB_T.USED : Fld := ⟨0x90028, 32, 32⟩
/-- TIER_QJOB_S [31:0] (R340). -/
abbrev TIER_QJOB_S.LIMIT : Fld := ⟨0x90030, 0, 32⟩
/-- TIER_QJOB_S [63:32] (R340). -/
abbrev TIER_QJOB_S.USED : Fld := ⟨0x90030, 32, 32⟩
/-- TIER_SPOOL [41:12] (R340). -/
abbrev TIER_SPOOL.BASE : Fld := ⟨0x90038, 12, 30⟩
/-- TIER_SPOOL [63:48] (R340). -/
abbrev TIER_SPOOL.PAGES : Fld := ⟨0x90038, 48, 16⟩
/-- TIER_QT [31:0] (R340). -/
abbrev TIER_QT.LIMIT (c : Nat) : Fld := ⟨0x90100 + 8 * c, 0, 32⟩
/-- TIER_QT [63:32] (R340). -/
abbrev TIER_QT.USED (c : Nat) : Fld := ⟨0x90100 + 8 * c, 32, 32⟩
/-- TIER_QS [31:0] (R340). -/
abbrev TIER_QS.LIMIT (c : Nat) : Fld := ⟨0x90180 + 8 * c, 0, 32⟩
/-- TIER_QS [63:32] (R340). -/
abbrev TIER_QS.USED (c : Nat) : Fld := ⟨0x90180 + 8 * c, 32, 32⟩
/-- TIER_GNT_A [0] (R340). -/
abbrev TIER_GNT_A.EN (k : Nat) : Fld := ⟨0x90200 + 0x10 * k, 0, 1⟩
/-- TIER_GNT_A [1] (R340). -/
abbrev TIER_GNT_A.ROLE (k : Nat) : Fld := ⟨0x90200 + 0x10 * k, 1, 1⟩
/-- TIER_GNT_A [2] (R340). -/
abbrev TIER_GNT_A.LTIER (k : Nat) : Fld := ⟨0x90200 + 0x10 * k, 2, 1⟩
/-- TIER_GNT_A [4:3] (R340). -/
abbrev TIER_GNT_A.STATE (k : Nat) : Fld := ⟨0x90200 + 0x10 * k, 3, 2⟩
/-- TIER_GNT_A [10:5] (R340). -/
abbrev TIER_GNT_A.PEER (k : Nat) : Fld := ⟨0x90200 + 0x10 * k, 5, 6⟩
/-- TIER_GNT_A [33:11] (R340). -/
abbrev TIER_GNT_A.LEN (k : Nat) : Fld := ⟨0x90200 + 0x10 * k, 11, 23⟩
/-- TIER_GNT_B [25:0] (R340). -/
abbrev TIER_GNT_B.BASE (k : Nat) : Fld := ⟨0x90208 + 0x10 * k, 0, 26⟩
/-- TIER_GNT_B [51:26] (R340). -/
abbrev TIER_GNT_B.RESERVE (k : Nat) : Fld := ⟨0x90208 + 0x10 * k, 26, 26⟩
/-- TOPSOIL_STATUS [0] (R341). -/
abbrev TOPSOIL_STATUS.READY_0 : Fld := ⟨0xA0000, 0, 1⟩
/-- TOPSOIL_STATUS [1] (R341). -/
abbrev TOPSOIL_STATUS.SREF_0 : Fld := ⟨0xA0000, 1, 1⟩
/-- TOPSOIL_STATUS [2] (R341). -/
abbrev TOPSOIL_STATUS.READY_1 : Fld := ⟨0xA0000, 2, 1⟩
/-- TOPSOIL_STATUS [3] (R341). -/
abbrev TOPSOIL_STATUS.SREF_1 : Fld := ⟨0xA0000, 3, 1⟩
/-- TOPSOIL_STATUS [4] (R341). -/
abbrev TOPSOIL_STATUS.READY_2 : Fld := ⟨0xA0000, 4, 1⟩
/-- TOPSOIL_STATUS [5] (R341). -/
abbrev TOPSOIL_STATUS.SREF_2 : Fld := ⟨0xA0000, 5, 1⟩
/-- TOPSOIL_STATUS [6] (R341). -/
abbrev TOPSOIL_STATUS.READY_3 : Fld := ⟨0xA0000, 6, 1⟩
/-- TOPSOIL_STATUS [7] (R341). -/
abbrev TOPSOIL_STATUS.SREF_3 : Fld := ⟨0xA0000, 7, 1⟩
/-- TOPSOIL_CTRL [0] (R341). -/
abbrev TOPSOIL_CTRL.CNT_CLR : Fld := ⟨0xA0008, 0, 1⟩
/-- TOPSOIL_CE [31:0] (R341). -/
abbrev TOPSOIL_CE.CE (s : Nat) : Fld := ⟨0xA0020 + 8 * s, 0, 32⟩
/-- TOPSOIL_LINES [63:0] (R341). -/
abbrev TOPSOIL_LINES.LINES (s : Nat) : Fld := ⟨0xA0040 + 8 * s, 0, 64⟩
/-- SUBSOIL_CFG [1:0] (R341). -/
abbrev SUBSOIL_CFG.STRIPE : Fld := ⟨0xB0000, 0, 2⟩
/-- SUBSOIL_CFG [2] (R341). -/
abbrev SUBSOIL_CFG.NCH : Fld := ⟨0xB0000, 2, 1⟩
/-- SUBSOIL_CFG [13:8] (R341). -/
abbrev SUBSOIL_CFG.CH_GB : Fld := ⟨0xB0000, 8, 6⟩
/-- SUBSOIL_CFG [17:16] (R341). -/
abbrev SUBSOIL_CFG.RATE : Fld := ⟨0xB0000, 16, 2⟩
/-- SUBSOIL_STATUS [0] (R341). -/
abbrev SUBSOIL_STATUS.READY : Fld := ⟨0xB0008, 0, 1⟩
/-- SUBSOIL_STATUS [1] (R341). -/
abbrev SUBSOIL_STATUS.SREF : Fld := ⟨0xB0008, 1, 1⟩
/-- SUBSOIL_STATUS [17:2] (R341). -/
abbrev SUBSOIL_STATUS.CH_OK : Fld := ⟨0xB0008, 2, 16⟩
/-- SUBSOIL_CTRL [0] (R341). -/
abbrev SUBSOIL_CTRL.CNT_CLR : Fld := ⟨0xB0010, 0, 1⟩
/-- SUBSOIL_CE [31:0] (R341). -/
abbrev SUBSOIL_CE.CE : Fld := ⟨0xB0018, 0, 32⟩
/-- SUBSOIL_LINES [63:0] (R341). -/
abbrev SUBSOIL_LINES.LINES : Fld := ⟨0xB0020, 0, 64⟩
/-- FALLOW_STATUS [0] (R367). -/
abbrev FALLOW_STATUS.READY : Fld := ⟨0xC0000, 0, 1⟩
/-- FALLOW_STATUS [1] (R367). -/
abbrev FALLOW_STATUS.SLOT : Fld := ⟨0xC0000, 1, 1⟩
/-- FALLOW_STATUS [3:2] (R367). -/
abbrev FALLOW_STATUS.INST : Fld := ⟨0xC0000, 2, 2⟩
/-- FALLOW_STATUS [4] (R367). -/
abbrev FALLOW_STATUS.SCRUB_BUSY : Fld := ⟨0xC0000, 4, 1⟩
/-- FALLOW_STATUS [5] (R367). -/
abbrev FALLOW_STATUS.SLOT_BAD : Fld := ⟨0xC0000, 5, 1⟩
/-- FALLOW_CMD [2:0] (R367). -/
abbrev FALLOW_CMD.OP : Fld := ⟨0xC0008, 0, 3⟩
/-- FALLOW_CMDRES [0] (R367). -/
abbrev FALLOW_CMDRES.DONE : Fld := ⟨0xC0010, 0, 1⟩
/-- FALLOW_CMDRES [2:1] (R367). -/
abbrev FALLOW_CMDRES.OUTCOME : Fld := ⟨0xC0010, 1, 2⟩
/-- FALLOW_CMDRES [5:3] (R367). -/
abbrev FALLOW_CMDRES.REASON : Fld := ⟨0xC0010, 3, 3⟩
/-- FALLOW_MADDR [63:0] (R367). -/
abbrev FALLOW_MADDR.ADDR : Fld := ⟨0xC0018, 0, 64⟩
/-- FALLOW_MLEN [27:0] (R367). -/
abbrev FALLOW_MLEN.LEN : Fld := ⟨0xC0020, 0, 28⟩
/-- FALLOW_QBASE [41:12] (R367). -/
abbrev FALLOW_QBASE.BASE : Fld := ⟨0xC0028, 12, 30⟩
/-- FALLOW_QBASE [51:48] (R367). -/
abbrev FALLOW_QBASE.LOG2N : Fld := ⟨0xC0028, 48, 4⟩
/-- FALLOW_QPTR [15:0] (R367). -/
abbrev FALLOW_QPTR.HEAD : Fld := ⟨0xC0030, 0, 16⟩
/-- FALLOW_QPTR [31:16] (R367). -/
abbrev FALLOW_QPTR.ISSUE : Fld := ⟨0xC0030, 16, 16⟩
/-- FALLOW_QPTR [47:32] (R367). -/
abbrev FALLOW_QPTR.TAIL : Fld := ⟨0xC0030, 32, 16⟩
/-- FALLOW_SCRUB [15:0] (R367). -/
abbrev FALLOW_SCRUB.PERIOD_H : Fld := ⟨0xC0038, 0, 16⟩
/-- FALLOW_SCRUB [31:16] (R367). -/
abbrev FALLOW_SCRUB.MBPS : Fld := ⟨0xC0038, 16, 16⟩
/-- FALLOW_SCRUB [38:32] (R367). -/
abbrev FALLOW_SCRUB.REFRESH_BITS : Fld := ⟨0xC0038, 32, 7⟩
/-- FALLOW_ERR [0] (R367). -/
abbrev FALLOW_ERR.MIRROR_DIFF : Fld := ⟨0xC0040, 0, 1⟩
/-- FALLOW_ERR [1] (R367). -/
abbrev FALLOW_ERR.ECC_UE : Fld := ⟨0xC0040, 1, 1⟩
/-- FALLOW_ERR [2] (R367). -/
abbrev FALLOW_ERR.LOST : Fld := ⟨0xC0040, 2, 1⟩
/-- FALLOW_ERR [3] (R367). -/
abbrev FALLOW_ERR.MANIFEST : Fld := ⟨0xC0040, 3, 1⟩
/-- FALLOW_ERR [4] (R367). -/
abbrev FALLOW_ERR.NOSPACE : Fld := ⟨0xC0040, 4, 1⟩
/-- FALLOW_ERR [5] (R367). -/
abbrev FALLOW_ERR.DESC_BAD : Fld := ⟨0xC0040, 5, 1⟩
/-- FALLOW_GEOM [2:0] (R367). -/
abbrev FALLOW_GEOM.TARGETS : Fld := ⟨0xC0048, 0, 3⟩
/-- FALLOW_GEOM [23:3] (R367). -/
abbrev FALLOW_GEOM.BLOCKS : Fld := ⟨0xC0048, 3, 21⟩
/-- FALLOW_GEOM [43:24] (R367). -/
abbrev FALLOW_GEOM.FREE : Fld := ⟨0xC0048, 24, 20⟩
/-- FALLOW_SEQ [63:0] (R367). -/
abbrev FALLOW_SEQ.SEQ : Fld := ⟨0xC0050, 0, 64⟩
/-- FALLOW_CE [47:0] (R367). -/
abbrev FALLOW_CE.CE : Fld := ⟨0xC0058, 0, 48⟩
/-- DRILL_CTRL [0] (R367). -/
abbrev DRILL_CTRL.START : Fld := ⟨0xD0000, 0, 1⟩
/-- DRILL_CTRL [1] (R367). -/
abbrev DRILL_CTRL.ABORT : Fld := ⟨0xD0000, 1, 1⟩
/-- DRILL_CTRL [2] (R367). -/
abbrev DRILL_CTRL.ACCEPT : Fld := ⟨0xD0000, 2, 1⟩
/-- DRILL_CTRL [3] (R367). -/
abbrev DRILL_CTRL.CNT_CLR : Fld := ⟨0xD0000, 3, 1⟩
/-- DRILL_STATUS [1:0] (R367). -/
abbrev DRILL_STATUS.ROLE : Fld := ⟨0xD0008, 0, 2⟩
/-- DRILL_STATUS [3:2] (R367). -/
abbrev DRILL_STATUS.STATE : Fld := ⟨0xD0008, 2, 2⟩
/-- DRILL_STATUS [9:4] (R367). -/
abbrev DRILL_STATUS.MEMBER : Fld := ⟨0xD0008, 4, 6⟩
/-- DRILL_JOB [41:12] (R367). -/
abbrev DRILL_JOB.BASE : Fld := ⟨0xD0010, 12, 30⟩
/-- DRILL_CFG [15:0] (R367). -/
abbrev DRILL_CFG.BYPASS_US : Fld := ⟨0xD0018, 0, 16⟩
/-- DRILL_CFG [31:16] (R367). -/
abbrev DRILL_CFG.IDLE_MS : Fld := ⟨0xD0018, 16, 16⟩
/-- DRILL_BUF [41:20] (R367). -/
abbrev DRILL_BUF.BASE : Fld := ⟨0xD0020, 20, 22⟩
/-- DRILL_ERR [0] (R367). -/
abbrev DRILL_ERR.BYPASS : Fld := ⟨0xD0028, 0, 1⟩
/-- DRILL_ERR [1] (R367). -/
abbrev DRILL_ERR.FAILED : Fld := ⟨0xD0028, 1, 1⟩
/-- DRILL_ERR [2] (R367). -/
abbrev DRILL_ERR.REFUSED : Fld := ⟨0xD0028, 2, 1⟩
/-- DRILL_ERR [3] (R367). -/
abbrev DRILL_ERR.DESC_BAD : Fld := ⟨0xD0028, 3, 1⟩
/-- DRILL_BYTES [63:0] (R367). -/
abbrev DRILL_BYTES.BYTES : Fld := ⟨0xD0030, 0, 64⟩
/-- LINK_CTRL [4:0] (R408). -/
abbrev LINK_CTRL.LINK : Fld := ⟨0xE0000, 0, 5⟩
/-- LINK_CTRL [5] (R408). -/
abbrev LINK_CTRL.RESET : Fld := ⟨0xE0000, 5, 1⟩
/-- LINK_CTRL [6] (R408). -/
abbrev LINK_CTRL.DISABLE : Fld := ⟨0xE0000, 6, 1⟩
/-- LINK_CTRL [7] (R408). -/
abbrev LINK_CTRL.ENABLE : Fld := ⟨0xE0000, 7, 1⟩
/-- LINK_ERR [14:0] (R408). -/
abbrev LINK_ERR.FLAGS : Fld := ⟨0xE0008, 0, 15⟩
/-- LINK_CAP [4:0] (R408). -/
abbrev LINK_CAP.LINK : Fld := ⟨0xE0010, 0, 5⟩
/-- LINK_CAP [8:5] (R408). -/
abbrev LINK_CAP.CAUSE : Fld := ⟨0xE0010, 5, 4⟩
/-- LINK_CAP [63:16] (R408). -/
abbrev LINK_CAP.TIME : Fld := ⟨0xE0010, 16, 48⟩
/-- LINK_REV [7:0] (R408). -/
abbrev LINK_REV.MAJOR : Fld := ⟨0xE0018, 0, 8⟩
/-- LINK_REV [15:8] (R408). -/
abbrev LINK_REV.MINOR : Fld := ⟨0xE0018, 8, 8⟩
/-- LINK_CFG [15:0] (R408). -/
abbrev LINK_CFG.HELLO_MS : Fld := ⟨0xE0020, 0, 16⟩
/-- LINK_CFG [19:16] (R408). -/
abbrev LINK_CFG.DOWN_REPLAYS : Fld := ⟨0xE0020, 16, 4⟩
/-- LINK_CFG [35:20] (R408). -/
abbrev LINK_CFG.AGE_US : Fld := ⟨0xE0020, 20, 16⟩
/-- LINK_CFG [51:36] (R408). -/
abbrev LINK_CFG.MC_WARN_US : Fld := ⟨0xE0020, 36, 16⟩
/-- LINK_RATE [23:0] (R408). -/
abbrev LINK_RATE.STD : Fld := ⟨0xE0028, 0, 24⟩
/-- LINK_STATE [3:0] (R408). -/
abbrev LINK_STATE.STATE (l : Nat) : Fld := ⟨0xE0100 + 8 * l, 0, 4⟩
/-- LINK_STATE [7:4] (R408). -/
abbrev LINK_STATE.VERDICT (l : Nat) : Fld := ⟨0xE0100 + 8 * l, 4, 4⟩
/-- LINK_STATE [11:8] (R408). -/
abbrev LINK_STATE.PEER_VERDICT (l : Nat) : Fld := ⟨0xE0100 + 8 * l, 8, 4⟩
/-- LINK_STATE [15:12] (R408). -/
abbrev LINK_STATE.PORT (l : Nat) : Fld := ⟨0xE0100 + 8 * l, 12, 4⟩
/-- LINK_STATE [17:16] (R408). -/
abbrev LINK_STATE.ROLE (l : Nat) : Fld := ⟨0xE0100 + 8 * l, 16, 2⟩
/-- LINK_STATE [18] (R408). -/
abbrev LINK_STATE.RATE (l : Nat) : Fld := ⟨0xE0100 + 8 * l, 18, 1⟩
/-- LINK_STATE [26:19] (R408). -/
abbrev LINK_STATE.MINOR (l : Nat) : Fld := ⟨0xE0100 + 8 * l, 19, 8⟩
/-- LINK_PEER [63:0] (R408). -/
abbrev LINK_PEER.SERIAL (l : Nat) : Fld := ⟨0xE0200 + 8 * l, 0, 64⟩
/-- LINK_PEERPOS [7:0] (R408). -/
abbrev LINK_PEERPOS.RACK (l : Nat) : Fld := ⟨0xE0300 + 8 * l, 0, 8⟩
/-- LINK_PEERPOS [15:8] (R408). -/
abbrev LINK_PEERPOS.TRAY (l : Nat) : Fld := ⟨0xE0300 + 8 * l, 8, 8⟩
/-- LINK_PEERPOS [21:16] (R408). -/
abbrev LINK_PEERPOS.XYZ (l : Nat) : Fld := ⟨0xE0300 + 8 * l, 16, 6⟩
/-- LINK_PEERPOS [26:22] (R408). -/
abbrev LINK_PEERPOS.LINK (l : Nat) : Fld := ⟨0xE0300 + 8 * l, 22, 5⟩
/-- LINK_PEERPOS [30:27] (R408). -/
abbrev LINK_PEERPOS.PORT (l : Nat) : Fld := ⟨0xE0300 + 8 * l, 27, 4⟩
/-- LINK_PEERPOS [38:31] (R408). -/
abbrev LINK_PEERPOS.MAJOR (l : Nat) : Fld := ⟨0xE0300 + 8 * l, 31, 8⟩
/-- LINK_PEERPOS [46:39] (R408). -/
abbrev LINK_PEERPOS.MINOR (l : Nat) : Fld := ⟨0xE0300 + 8 * l, 39, 8⟩
/-- LINK_FEC [31:0] (R408). -/
abbrev LINK_FEC.CORR (l : Nat) : Fld := ⟨0xE0400 + 8 * l, 0, 32⟩
/-- LINK_FEC [47:32] (R408). -/
abbrev LINK_FEC.UNCORR (l : Nat) : Fld := ⟨0xE0400 + 8 * l, 32, 16⟩
/-- LINK_FEC [63:48] (R408). -/
abbrev LINK_FEC.REPLAYS (l : Nat) : Fld := ⟨0xE0400 + 8 * l, 48, 16⟩
/-- LINK_WHEEL [63:0] (R408). -/
abbrev LINK_WHEEL.ENTRIES (p : Nat) (h : Nat) : Fld := ⟨0xE0800 + 0x20 * p + 8 * h, 0, 64⟩
/-- ROUTE_SLICE [63:0] (R409). -/
abbrev ROUTE_SLICE.WORD (k : Nat) : Fld := ⟨0xF0000 + 8 * k, 0, 64⟩
/-- ROUTE_CTRL [0] (R409). -/
abbrev ROUTE_CTRL.APPLY : Fld := ⟨0xF0020, 0, 1⟩
/-- ROUTE_CTRL [1] (R409). -/
abbrev ROUTE_CTRL.CLEAR : Fld := ⟨0xF0020, 1, 1⟩
/-- ROUTE_SELF [7:0] (R409). -/
abbrev ROUTE_SELF.RACK : Fld := ⟨0xF0028, 0, 8⟩
/-- ROUTE_SELF [13:8] (R409). -/
abbrev ROUTE_SELF.XYZ : Fld := ⟨0xF0028, 8, 6⟩
/-- ROUTE_SELF [14] (R409). -/
abbrev ROUTE_SELF.IN_SLICE : Fld := ⟨0xF0028, 14, 1⟩
/-- ROUTE_SELF [20:15] (R409). -/
abbrev ROUTE_SELF.INDEX : Fld := ⟨0xF0028, 15, 6⟩
/-- ROUTE_SELF [21] (R409). -/
abbrev ROUTE_SELF.LEADER : Fld := ⟨0xF0028, 21, 1⟩
/-- ROUTE_SELF [22] (R409). -/
abbrev ROUTE_SELF.BRIDGE : Fld := ⟨0xF0028, 22, 1⟩
/-- ROUTE_STATUS [15:0] (R409). -/
abbrev ROUTE_STATUS.PORT_UP : Fld := ⟨0xF0030, 0, 16⟩
/-- ROUTE_STATUS [16] (R409). -/
abbrev ROUTE_STATUS.RETURN_PEND : Fld := ⟨0xF0030, 16, 1⟩
/-- ROUTE_STATUS [17] (R409). -/
abbrev ROUTE_STATUS.DETOURING : Fld := ⟨0xF0030, 17, 1⟩
/-- ROUTE_STATUS [18] (R409). -/
abbrev ROUTE_STATUS.APPLY_BAD : Fld := ⟨0xF0030, 18, 1⟩
/-- ROUTE_FAILED [63:0] (R409). -/
abbrev ROUTE_FAILED.FAILED : Fld := ⟨0xF0038, 0, 64⟩
/-- ROUTE_STAB [63:0] (R409). -/
abbrev ROUTE_STAB.ENTRIES (k : Nat) : Fld := ⟨0xF0100 + 8 * k, 0, 64⟩
/-- ROUTE_RTAB [63:0] (R409). -/
abbrev ROUTE_RTAB.ENTRIES (k : Nat) : Fld := ⟨0xF0140 + 8 * k, 0, 64⟩
/-- ROUTE_MC [15:0] (R409). -/
abbrev ROUTE_MC.PORTS (g : Nat) : Fld := ⟨0xF0200 + 8 * g, 0, 16⟩
/-- ROUTE_MC [16] (R409). -/
abbrev ROUTE_MC.LOCAL (g : Nat) : Fld := ⟨0xF0200 + 8 * g, 16, 1⟩
/-- ROUTE_MC [17] (R409). -/
abbrev ROUTE_MC.EN (g : Nat) : Fld := ⟨0xF0200 + 8 * g, 17, 1⟩
/-- ROUTE_MC [18] (R409). -/
abbrev ROUTE_MC.JOB (g : Nat) : Fld := ⟨0xF0200 + 8 * g, 18, 1⟩
/-- SERVE_CTRL [0] (R307). -/
abbrev SERVE_CTRL.EN : Fld := ⟨0x100000, 0, 1⟩
/-- SERVE_CTRL [1] (R307). -/
abbrev SERVE_CTRL.CNT_CLR : Fld := ⟨0x100000, 1, 1⟩
/-- SERVE_STATUS [10:0] (R307). -/
abbrev SERVE_STATUS.ACTIVE : Fld := ⟨0x100008, 0, 11⟩
/-- SERVE_STATUS [21:11] (R307). -/
abbrev SERVE_STATUS.QUEUED : Fld := ⟨0x100008, 11, 11⟩
/-- SERVE_STATUS [32:22] (R307). -/
abbrev SERVE_STATUS.PAUSED : Fld := ⟨0x100008, 22, 11⟩
/-- SERVE_STATUS [33] (R307). -/
abbrev SERVE_STATUS.RING_WAIT : Fld := ⟨0x100008, 33, 1⟩
/-- SERVE_AREA [41:12] (R307). -/
abbrev SERVE_AREA.BASE : Fld := ⟨0x100010, 12, 30⟩
/-- SERVE_PTAB [41:12] (R307). -/
abbrev SERVE_PTAB.BASE : Fld := ⟨0x100018, 12, 30⟩
/-- SERVE_PTAB [53:42] (R307). -/
abbrev SERVE_PTAB.MAXPAGES : Fld := ⟨0x100018, 42, 12⟩
/-- SERVE_ROWTAB [41:12] (R307). -/
abbrev SERVE_ROWTAB.BASE : Fld := ⟨0x100020, 12, 30⟩
/-- SERVE_POOL [41:12] (R307). -/
abbrev SERVE_POOL.BASE : Fld := ⟨0x100028, 12, 30⟩
/-- SERVE_POOLCFG [15:0] (R307). -/
abbrev SERVE_POOLCFG.PAGE_UNITS : Fld := ⟨0x100030, 0, 16⟩
/-- SERVE_POOLCFG [31:16] (R307). -/
abbrev SERVE_POOLCFG.PAGES : Fld := ⟨0x100030, 16, 16⟩
/-- SERVE_POOLCFG [47:32] (R307). -/
abbrev SERVE_POOLCFG.FREE : Fld := ⟨0x100030, 32, 16⟩
/-- SERVE_KVL [15:0] (R307). -/
abbrev SERVE_KVL.RUNS : Fld := ⟨0x100038, 0, 16⟩
/-- SERVE_KVL [31:16] (R307). -/
abbrev SERVE_KVL.RUN_BYTES : Fld := ⟨0x100038, 16, 16⟩
/-- SERVE_KVL [63:32] (R307). -/
abbrev SERVE_KVL.RUN_STRIDE : Fld := ⟨0x100038, 32, 32⟩
/-- SERVE_TGT [15:0] (R307). -/
abbrev SERVE_TGT.TGT_0 : Fld := ⟨0x100040, 0, 16⟩
/-- SERVE_TGT [31:16] (R307). -/
abbrev SERVE_TGT.TGT_1 : Fld := ⟨0x100040, 16, 16⟩
/-- SERVE_TGT [47:32] (R307). -/
abbrev SERVE_TGT.TGT_2 : Fld := ⟨0x100040, 32, 16⟩
/-- SERVE_TGT [63:48] (R307). -/
abbrev SERVE_TGT.TGT_3 : Fld := ⟨0x100040, 48, 16⟩
/-- SERVE_RES_TPL [9:0] (R307). -/
abbrev SERVE_RES_TPL.TEMPLATE : Fld := ⟨0x100048, 0, 10⟩
/-- SERVE_CMD [3:0] (R307). -/
abbrev SERVE_CMD.OP : Fld := ⟨0x100050, 0, 4⟩
/-- SERVE_CMD [13:4] (R307). -/
abbrev SERVE_CMD.SLOT : Fld := ⟨0x100050, 4, 10⟩
/-- SERVE_CMD [14] (R307). -/
abbrev SERVE_CMD.MAYPAUSE : Fld := ⟨0x100050, 14, 1⟩
/-- SERVE_CMD [29:16] (R307). -/
abbrev SERVE_CMD.ARG : Fld := ⟨0x100050, 16, 14⟩
/-- SERVE_CMDRES [0] (R307). -/
abbrev SERVE_CMDRES.DONE : Fld := ⟨0x100058, 0, 1⟩
/-- SERVE_CMDRES [3:1] (R307). -/
abbrev SERVE_CMDRES.OUTCOME : Fld := ⟨0x100058, 1, 3⟩
/-- SERVE_CMDRES [7:4] (R307). -/
abbrev SERVE_CMDRES.REASON : Fld := ⟨0x100058, 4, 4⟩
/-- SERVE_CMDRES [17:8] (R307). -/
abbrev SERVE_CMDRES.NPAUSED : Fld := ⟨0x100058, 8, 10⟩
/-- SERVE_CMDRES [63:32] (R307). -/
abbrev SERVE_CMDRES.STEP : Fld := ⟨0x100058, 32, 32⟩
/-- SERVE_PLAN [63:0] (R307). -/
abbrev SERVE_PLAN.STEP : Fld := ⟨0x100060, 0, 64⟩
/-- SERVE_RING [41:12] (R307). -/
abbrev SERVE_RING.BASE : Fld := ⟨0x100068, 12, 30⟩
/-- SERVE_RING [52:48] (R307). -/
abbrev SERVE_RING.LOG2N : Fld := ⟨0x100068, 48, 5⟩
/-- SERVE_TRING [41:12] (R307). -/
abbrev SERVE_TRING.BASE : Fld := ⟨0x100078, 12, 30⟩
/-- SERVE_TRING [52:48] (R307). -/
abbrev SERVE_TRING.LOG2N : Fld := ⟨0x100078, 48, 5⟩
/-- SERVE_RPTR [31:0] (R307). -/
abbrev SERVE_RPTR.HEAD : Fld := ⟨0x100070, 0, 32⟩
/-- SERVE_RPTR [63:32] (R307). -/
abbrev SERVE_RPTR.TAIL : Fld := ⟨0x100070, 32, 32⟩
/-- SERVE_TPTR [31:0] (R307). -/
abbrev SERVE_TPTR.HEAD : Fld := ⟨0x100080, 0, 32⟩
/-- SERVE_TPTR [63:32] (R307). -/
abbrev SERVE_TPTR.TAIL : Fld := ⟨0x100080, 32, 32⟩
/-- SERVE_ERR [0] (R307). -/
abbrev SERVE_ERR.RES_BAD : Fld := ⟨0x100088, 0, 1⟩
/-- SERVE_ERR [1] (R307). -/
abbrev SERVE_ERR.SPEC_CUT : Fld := ⟨0x100088, 1, 1⟩
/-- SERVE_ERR [2] (R307). -/
abbrev SERVE_ERR.STALLED : Fld := ⟨0x100088, 2, 1⟩
/-- SERVE_ERR [3] (R307). -/
abbrev SERVE_ERR.STRAY : Fld := ⟨0x100088, 3, 1⟩
/-- SERVE_CNT [31:0] (R307). -/
abbrev SERVE_CNT.SHEAVES : Fld := ⟨0x100090, 0, 32⟩
/-- SERVE_CNT [63:32] (R307). -/
abbrev SERVE_CNT.DROPPED : Fld := ⟨0x100090, 32, 32⟩
/-- WARD_CTRL [3:0] (R495). -/
abbrev WARD_CTRL.OP : Fld := ⟨0x110000, 0, 4⟩
/-- WARD_STEP [63:0] (R495). -/
abbrev WARD_STEP.K : Fld := ⟨0x110008, 0, 64⟩
/-- WARD_STATUS [2:0] (R495). -/
abbrev WARD_STATUS.STATE : Fld := ⟨0x110010, 0, 3⟩
/-- WARD_STATUS [3] (R495). -/
abbrev WARD_STATUS.BUSY : Fld := ⟨0x110010, 3, 1⟩
/-- WARD_STATUS [8:4] (R495). -/
abbrev WARD_STATUS.LOST : Fld := ⟨0x110010, 4, 5⟩
/-- WARD_GROUP [2:0] (R495). -/
abbrev WARD_GROUP.G : Fld := ⟨0x110018, 0, 3⟩
/-- WARD_GROUP [5:3] (R495). -/
abbrev WARD_GROUP.SELF : Fld := ⟨0x110018, 3, 3⟩
/-- WARD_GROUP [11:6] (R495). -/
abbrev WARD_GROUP.MEMBER_0 : Fld := ⟨0x110018, 6, 6⟩
/-- WARD_GROUP [17:12] (R495). -/
abbrev WARD_GROUP.MEMBER_1 : Fld := ⟨0x110018, 12, 6⟩
/-- WARD_GROUP [23:18] (R495). -/
abbrev WARD_GROUP.MEMBER_2 : Fld := ⟨0x110018, 18, 6⟩
/-- WARD_GROUP [29:24] (R495). -/
abbrev WARD_GROUP.MEMBER_3 : Fld := ⟨0x110018, 24, 6⟩
/-- WARD_GROUP [35:30] (R495). -/
abbrev WARD_GROUP.MEMBER_4 : Fld := ⟨0x110018, 30, 6⟩
/-- WARD_PAR [25:0] (R495). -/
abbrev WARD_PAR.BASE : Fld := ⟨0x110020, 0, 26⟩
/-- WARD_PAR [51:26] (R495). -/
abbrev WARD_PAR.LEN : Fld := ⟨0x110020, 26, 26⟩
/-- WARD_STAGE [25:0] (R495). -/
abbrev WARD_STAGE.BASE : Fld := ⟨0x110028, 0, 26⟩
/-- WARD_STAGE [51:26] (R495). -/
abbrev WARD_STAGE.LEN : Fld := ⟨0x110028, 26, 26⟩
/-- WARD_WDOG [15:0] (R495). -/
abbrev WARD_WDOG.QUERY_US : Fld := ⟨0x110030, 0, 16⟩
/-- WARD_CORE [15:0] (R495). -/
abbrev WARD_CORE.STUCK : Fld := ⟨0x110038, 0, 16⟩
/-- WARD_RANGE [25:0] (R495). -/
abbrev WARD_RANGE.BASE (j : Nat) : Fld := ⟨0x110040 + 8 * j, 0, 26⟩
/-- WARD_RANGE [51:26] (R495). -/
abbrev WARD_RANGE.LEN (j : Nat) : Fld := ⟨0x110040 + 8 * j, 26, 26⟩
/-- WARD_RANGE [52] (R495). -/
abbrev WARD_RANGE.EN (j : Nat) : Fld := ⟨0x110040 + 8 * j, 52, 1⟩
/-- WARD_SUBST [5:0] (R495). -/
abbrev WARD_SUBST.REPLACED (k : Nat) : Fld := ⟨0x110080 + 8 * k, 0, 6⟩
/-- WARD_SUBST [11:6] (R495). -/
abbrev WARD_SUBST.BY (k : Nat) : Fld := ⟨0x110080 + 8 * k, 6, 6⟩
/-- WARD_SUBST [12] (R495). -/
abbrev WARD_SUBST.EN (k : Nat) : Fld := ⟨0x110080 + 8 * k, 12, 1⟩
/-- WARD_ERR [0] (R495). -/
abbrev WARD_ERR.CFG : Fld := ⟨0x1100A0, 0, 1⟩
/-- WARD_ERR [1] (R495). -/
abbrev WARD_ERR.STAGE_FULL : Fld := ⟨0x1100A0, 1, 1⟩
/-- WARD_ERR [2] (R495). -/
abbrev WARD_ERR.REBUILD_FAIL : Fld := ⟨0x1100A0, 2, 1⟩
/-- WARD_ERR [3] (R495). -/
abbrev WARD_ERR.UNRECOVERABLE : Fld := ⟨0x1100A0, 3, 1⟩
/-- WARD_ERR [4] (R495). -/
abbrev WARD_ERR.LATCH_LATE : Fld := ⟨0x1100A0, 4, 1⟩
/-- WARD_PEND [31:0] (R495). -/
abbrev WARD_PEND.UNACKED : Fld := ⟨0x1100A8, 0, 32⟩
/-- WARD_PEND [63:32] (R495). -/
abbrev WARD_PEND.STAGED : Fld := ⟨0x1100A8, 32, 32⟩
/-- WARD_BYTES [63:0] (R495). -/
abbrev WARD_BYTES.BYTES : Fld := ⟨0x1100B0, 0, 64⟩
/-- ERRLOG_STATUS [15:0] (R497). -/
abbrev ERRLOG_STATUS.DROPPED : Fld := ⟨0x120000, 0, 16⟩
/-- ERRLOG_PTR [31:0] (R497). -/
abbrev ERRLOG_PTR.HEAD : Fld := ⟨0x120008, 0, 32⟩
/-- ERRLOG_PTR [63:32] (R497). -/
abbrev ERRLOG_PTR.TAIL : Fld := ⟨0x120008, 32, 32⟩
/-- ERRLOG_IRQ [15:0] (R497). -/
abbrev ERRLOG_IRQ.CORES : Fld := ⟨0x120010, 0, 16⟩
/-- ERRLOG_IRQ [34:16] (R497). -/
abbrev ERRLOG_IRQ.CLASSES : Fld := ⟨0x120010, 16, 19⟩
/-- ERRLOG_SCRUB [15:0] (R497). -/
abbrev ERRLOG_SCRUB.TOP_MBPS : Fld := ⟨0x120018, 0, 16⟩
/-- ERRLOG_SCRUB [31:16] (R497). -/
abbrev ERRLOG_SCRUB.SUB_MBPS : Fld := ⟨0x120018, 16, 16⟩
/-- ERRLOG_REC [63:0] (R497). -/
abbrev ERRLOG_REC.WORD (i : Nat) (w : Nat) : Fld := ⟨0x121000 + 0x20 * i + 8 * w, 0, 64⟩
/-- BIST_CMD [2:0] (R544). -/
abbrev BIST_CMD.OP : Fld := ⟨0x130000, 0, 3⟩
/-- BIST_CFG [1:0] (R544). -/
abbrev BIST_CFG.TARGET : Fld := ⟨0x130008, 0, 2⟩
/-- BIST_CFG [9:2] (R544). -/
abbrev BIST_CFG.STRIPS : Fld := ⟨0x130008, 2, 8⟩
/-- BIST_CFG [13:10] (R544). -/
abbrev BIST_CFG.TESTS : Fld := ⟨0x130008, 10, 4⟩
/-- BIST_CFG [14] (R544). -/
abbrev BIST_CFG.AUTO_REP : Fld := ⟨0x130008, 14, 1⟩
/-- BIST_REGION [25:0] (R544). -/
abbrev BIST_REGION.BASE : Fld := ⟨0x130010, 0, 26⟩
/-- BIST_REGION [57:26] (R544). -/
abbrev BIST_REGION.LEN : Fld := ⟨0x130010, 26, 32⟩
/-- BIST_SAVE [25:0] (R544). -/
abbrev BIST_SAVE.BASE : Fld := ⟨0x130018, 0, 26⟩
/-- BIST_SAVE [57:26] (R544). -/
abbrev BIST_SAVE.LEN : Fld := ⟨0x130018, 26, 32⟩
/-- BIST_RES [41:12] (R544). -/
abbrev BIST_RES.BASE : Fld := ⟨0x130020, 12, 30⟩
/-- BIST_RES [51:48] (R544). -/
abbrev BIST_RES.LOG2N : Fld := ⟨0x130020, 48, 4⟩
/-- BIST_RPTR [31:0] (R544). -/
abbrev BIST_RPTR.HEAD : Fld := ⟨0x130028, 0, 32⟩
/-- BIST_RPTR [63:32] (R544). -/
abbrev BIST_RPTR.TAIL : Fld := ⟨0x130028, 32, 32⟩
/-- BIST_STATUS [2:0] (R544). -/
abbrev BIST_STATUS.STATE : Fld := ⟨0x130030, 0, 3⟩
/-- BIST_STATUS [4:3] (R544). -/
abbrev BIST_STATUS.OUTCOME : Fld := ⟨0x130030, 3, 2⟩
/-- BIST_STATUS [36:5] (R544). -/
abbrev BIST_STATUS.FAILS : Fld := ⟨0x130030, 5, 32⟩
/-- BIST_STATUS [52:37] (R544). -/
abbrev BIST_STATUS.DROPPED : Fld := ⟨0x130030, 37, 16⟩
/-- BIST_ERR [0] (R544). -/
abbrev BIST_ERR.REFUSED : Fld := ⟨0x130038, 0, 1⟩
/-- BIST_ERR [1] (R544). -/
abbrev BIST_ERR.RESTORE_FAIL : Fld := ⟨0x130038, 1, 1⟩
/-- BIST_ERR [2] (R544). -/
abbrev BIST_ERR.LIST_BAD : Fld := ⟨0x130038, 2, 1⟩
/-- BIST_ERR [3] (R544). -/
abbrev BIST_ERR.LIST_CONFLICT : Fld := ⟨0x130038, 3, 1⟩
/-- BIST_ERR [4] (R544). -/
abbrev BIST_ERR.UNREPAIRABLE : Fld := ⟨0x130038, 4, 1⟩
/-- BIST_LIST [41:0] (R544). -/
abbrev BIST_LIST.ADDR : Fld := ⟨0x130040, 0, 42⟩
/-- BIST_REPINFO [9:0] (R544). -/
abbrev BIST_REPINFO.FUSE_FREE : Fld := ⟨0x130048, 0, 10⟩
/-- BIST_REPINFO [23:10] (R544). -/
abbrev BIST_REPINFO.LIST_COUNT : Fld := ⟨0x130048, 10, 14⟩
/-- BIST_REPINFO [55:24] (R544). -/
abbrev BIST_REPINFO.LIST_SEQ : Fld := ⟨0x130048, 24, 32⟩
/-- GLOW_CTRL [0] (R445). -/
abbrev GLOW_CTRL.EN : Fld := ⟨0x140000, 0, 1⟩
/-- GLOW_CTRL [7:1] (R445). -/
abbrev GLOW_CTRL.MAX_CELLS : Fld := ⟨0x140000, 1, 7⟩
/-- GLOW_STATUS [6:0] (R445). -/
abbrev GLOW_STATUS.CELLS_ON : Fld := ⟨0x140008, 0, 7⟩
/-- GLOW_STATUS [7] (R445). -/
abbrev GLOW_STATUS.FAULT : Fld := ⟨0x140008, 7, 1⟩
/-- PLOT_ID [8:0] (R51). -/
abbrev PLOT_ID.LOGICAL (n : Nat) : Fld := ⟨0x200000 + 0x1000 * n, 0, 9⟩
/-- PLOT_ID [20:16] (R51). -/
abbrev PLOT_ID.PCOL (n : Nat) : Fld := ⟨0x200000 + 0x1000 * n, 16, 5⟩
/-- PLOT_ID [23:21] (R51). -/
abbrev PLOT_ID.STRIP (n : Nat) : Fld := ⟨0x200000 + 0x1000 * n, 21, 3⟩
/-- PLOT_ID [24] (R51). -/
abbrev PLOT_ID.SPARE (n : Nat) : Fld := ⟨0x200000 + 0x1000 * n, 24, 1⟩
/-- PLOT_STATUS [0] (R51). -/
abbrev PLOT_STATUS.LIT_VALID (n : Nat) : Fld := ⟨0x200008 + 0x1000 * n, 0, 1⟩
/-- PLOT_STATUS [1] (R51). -/
abbrev PLOT_STATUS.DARK_VALID (n : Nat) : Fld := ⟨0x200008 + 0x1000 * n, 1, 1⟩
/-- PLOT_STATUS [2] (R51). -/
abbrev PLOT_STATUS.HL_EMPTY (n : Nat) : Fld := ⟨0x200008 + 0x1000 * n, 2, 1⟩
/-- PLOT_STATUS [3] (R51). -/
abbrev PLOT_STATUS.IN_IMAGE (n : Nat) : Fld := ⟨0x200008 + 0x1000 * n, 3, 1⟩
/-- PLOT_STATUS [31:16] (R51). -/
abbrev PLOT_STATUS.ROT_SEQ (n : Nat) : Fld := ⟨0x200008 + 0x1000 * n, 16, 16⟩
/-- PLOT_REPAIR [0] (R52). -/
abbrev PLOT_REPAIR.ACTIVE (n : Nat) : Fld := ⟨0x200010 + 0x1000 * n, 0, 1⟩
/-- PLOT_REPAIR [1] (R52). -/
abbrev PLOT_REPAIR.STRIP_BAD (n : Nat) : Fld := ⟨0x200010 + 0x1000 * n, 1, 1⟩
/-- PLOT_REPAIR [3:2] (R52). -/
abbrev PLOT_REPAIR.FROW (n : Nat) : Fld := ⟨0x200010 + 0x1000 * n, 2, 2⟩
/-- PLOT_REPAIR [7:4] (R52). -/
abbrev PLOT_REPAIR.FCOL (n : Nat) : Fld := ⟨0x200010 + 0x1000 * n, 4, 4⟩
/-- PLOT_REPAIR [8] (R52). -/
abbrev PLOT_REPAIR.SOURCE (n : Nat) : Fld := ⟨0x200010 + 0x1000 * n, 8, 1⟩
/-- PLOT_CTRL [0] (R52). -/
abbrev PLOT_CTRL.CNT_CLR (n : Nat) : Fld := ⟨0x200018 + 0x1000 * n, 0, 1⟩
/-- HL_ERR [0] (R52). -/
abbrev HL_ERR.UNCLAIMED (n : Nat) : Fld := ⟨0x200020 + 0x1000 * n, 0, 1⟩
/-- HL_ERR [1] (R52). -/
abbrev HL_ERR.ECC_UE (n : Nat) : Fld := ⟨0x200020 + 0x1000 * n, 1, 1⟩
/-- HL_ERR [2] (R52). -/
abbrev HL_ERR.ECC_CE (n : Nat) : Fld := ⟨0x200020 + 0x1000 * n, 2, 1⟩
/-- HL_ERR [3] (R52). -/
abbrev HL_ERR.ROT_NOT_EMPTY (n : Nat) : Fld := ⟨0x200020 + 0x1000 * n, 3, 1⟩
/-- HL_ECC_CNT [31:0] (R52). -/
abbrev HL_ECC_CNT.CE_COUNT (n : Nat) : Fld := ⟨0x200028 + 0x1000 * n, 0, 32⟩
/-- HL_FAULT_CAP [3:0] (R52). -/
abbrev HL_FAULT_CAP.PORT (n : Nat) : Fld := ⟨0x200030 + 0x1000 * n, 0, 4⟩
/-- HL_FAULT_CAP [7:4] (R52). -/
abbrev HL_FAULT_CAP.SLOT (n : Nat) : Fld := ⟨0x200030 + 0x1000 * n, 4, 4⟩
/-- HL_FAULT_CAP [9:8] (R52). -/
abbrev HL_FAULT_CAP.KIND (n : Nat) : Fld := ⟨0x200030 + 0x1000 * n, 8, 2⟩
/-- HL_FAULT_CAP [47:16] (R52). -/
abbrev HL_FAULT_CAP.CYCLE (n : Nat) : Fld := ⟨0x200030 + 0x1000 * n, 16, 32⟩
/-- HL_TOK_CNT [47:0] (R52). -/
abbrev HL_TOK_CNT.COUNT (n : Nat) (p : Nat) : Fld := ⟨0x200200 + 0x1000 * n + 8 * p, 0, 48⟩
/-- STILE_CFG [4:0] (R52). -/
abbrev STILE_CFG.ROW (n : Nat) : Fld := ⟨0x200400 + 0x1000 * n, 0, 5⟩
/-- STILE_CFG [5] (R52). -/
abbrev STILE_CFG.SIDE (n : Nat) : Fld := ⟨0x200400 + 0x1000 * n, 5, 1⟩
/-- STILE_CFG [7:6] (R52). -/
abbrev STILE_CFG.HOME_STACK (n : Nat) : Fld := ⟨0x200400 + 0x1000 * n, 6, 2⟩
/-- STILE_STATUS [15:0] (R52). -/
abbrev STILE_STATUS.FEED_BUSY (n : Nat) : Fld := ⟨0x200408 + 0x1000 * n, 0, 16⟩
/-- STILE_STATUS [16] (R52). -/
abbrev STILE_STATUS.EDGE_EMPTY (n : Nat) : Fld := ⟨0x200408 + 0x1000 * n, 16, 1⟩
/-- STILE_ERR [0] (R52). -/
abbrev STILE_ERR.FEED_UE (n : Nat) : Fld := ⟨0x200410 + 0x1000 * n, 0, 1⟩
/-- STILE_ERR [1] (R52). -/
abbrev STILE_ERR.EDGE_UNCLAIMED (n : Nat) : Fld := ⟨0x200410 + 0x1000 * n, 1, 1⟩
/-- STILE_ERR [2] (R52). -/
abbrev STILE_ERR.AGENT_REFUSED (n : Nat) : Fld := ⟨0x200410 + 0x1000 * n, 2, 1⟩

end Sys2Proof.Machine
end

