-- ==== Sys2Proof/Machine/RotTypes.lean ====
section
/-!
DEFINITION. The state of image loading and rotation (R190 to R213) outside the ROTATE registers and the planes.
-/
namespace Sys2Proof.Machine

/-- A READY that the leader holds (R205). -/
structure ReadyMsg where
  idx : Nat
  step : Nat
  imageId : Nat
  digest8 : Nat
  notLoaded : Bool
  deriving DecidableEq, Repr

structure RotSt where
  /-- The image that has passed steps 1 to 9 of R198 and awaits the write of the dark plane. -/
  loading : Option Image
  /-- The step of the armed rotation. -/
  armed : Option Nat
  /-- The rotation runs at once, outside a step boundary (R207, R456, R487). -/
  now : Bool
  /-- Leader: the READYs held. -/
  readies : List ReadyMsg
  /-- Leader: GO or ABORT of the armed rotation has been sent. -/
  decided : Bool
  /-- STEP_QCLK when READY was sent. -/
  readyAt : Nat
  /-- The lit plane, or the dark plane since READY, holds an uncorrectable word (R202). -/
  litBad : Bool
  darkBad : Bool
  /-- The steps whose GO or ABORT is discarded (R208). -/
  lost : List Nat
  deriving DecidableEq, Repr

def RotSt.reset : RotSt := ⟨none, none, false, [], false, 0, false, false, []⟩

end Sys2Proof.Machine
end

