-- ==== Sys2Proof/Machine/ServeTypes.lean ====
section
/-!
DEFINITION. The state of the SERVE block (R276 to R308) outside its registers.
-/
namespace Sys2Proof.Machine

/-- A page move in flight (R294, R295): the page index, whether it goes to Subsoil, its source and its destination as
global fabric addresses. -/
structure PageMove where
  page : Nat
  toSub : Bool
  src : Nat
  dst : Nat
  deriving DecidableEq, Repr

/-- A request slot (R278). -/
structure SlotSt where
  /-- R279. -/
  st : Nat
  prio : Nat
  cls : Nat
  mb : Bool
  row : Nat
  cancelled : Bool
  ending : Nat
  resumePend : Bool
  reqTag : Nat
  len : Nat
  limit : Nat
  stepPos : Nat
  admSeq : Nat
  /-- MB_FORCE and MB of the request. -/
  mbForce : Option Bool
  /-- The order of the command that is retried (R288). -/
  cmdSeq : Nat
  /-- A PAUSE has taken it out of the plans from the planning step on (R294). -/
  leaving : Bool
  /-- Pages that the coming steps need (R291). -/
  want : Nat
  move : Option PageMove
  /-- Commits until the pages of an ended slot are freed; `none` once they are. -/
  freeIn : Option Nat
  /-- RELEASE has been accepted and waits for the pages. -/
  releasing : Bool
  deriving DecidableEq, Repr

def SlotSt.free : SlotSt :=
  ⟨0, 0, 0, false, 0, false, 0, false, 0, 0, 0, 0, 0, none, 0, false, 0, none, none, false⟩

/-- A slot's place in one plan. -/
structure PlanEntry where
  slot : Nat
  mb : Bool
  row : Nat
  stepPos : Nat
  stalled : Bool
  /-- Its slot has ended (R302). -/
  dead : Bool
  deriving DecidableEq, Repr

/-- A checked result (R299 to R301). -/
structure ResultSt where
  slot : Nat
  adv : Nat
  tokens : List Nat
  stop : Bool
  bad : Bool
  cut : Bool
  deriving DecidableEq, Repr

/-- A Sheaf record that waits for ring space: what its header says but for TIME, entries, and tokens (R304 to R306). -/
structure SheafSt where
  step : Nat
  present : Nat
  queued : Nat
  paused : Nat
  dropped : Nat
  /-- Word 0 of each entry and its tokens, with the committed length. -/
  entries : List (Nat × List Nat × Nat)
  deriving DecidableEq, Repr

/-- A write of SERVE_CMD (R307): the core that writes, OP, SLOT, MAYPAUSE and ARG. -/
structure ServeCmd where
  src : Source
  op : Nat
  slot : Nat
  mayPause : Bool
  arg : Nat
  deriving DecidableEq, Repr

/-- SERVE. The plans are those of STEP_NUM, STEP_NUM + 1 and the planning step. -/
structure ServeSt where
  slots : KMap SlotSt
  planNow : List PlanEntry
  planNext : List PlanEntry
  planNew : List PlanEntry
  nextAdm : Nat
  nextCmd : Nat
  /-- Zeroed pages of the pool, and pages that await zeroing. -/
  poolFree : List Nat
  poolDirty : List Nat
  /-- Pages of the Subsoil pool in use. -/
  subUsed : List Nat
  results : List ResultSt
  /-- Sheaf records that wait for ring space, oldest first (R306). -/
  sheaf : List SheafSt
  /-- Commands that wait for the end of a step boundary, in order of arrival (R282). -/
  held : List ServeCmd
  deriving DecidableEq, Repr

def ServeSt.reset : ServeSt := ⟨[], [], [], [], 0, 0, [], [], [], [], [], []⟩

end Sys2Proof.Machine
end

