-- ==== Sys2Proof/Machine/StoreTypes.lean ====
section
/-!
DEFINITION. The state of the Fallow store (R343 to R359) and of the Drill (R360 to R366) outside their registers.
-/
namespace Sys2Proof.Machine

/-- One copy of an object: its bytes, and the superblocks that hold it, `target * BLOCKS + block` (R346). -/
structure FalCopy where
  data : List Byte
  sbs : List Nat
  deriving DecidableEq, Repr

/-- An object of a slot with its manifest entry; a copy that is not written is `none` (R346, R348). -/
structure FalObj where
  num : Nat
  kind : Nat
  len : Nat
  digest : Nat
  c0 : Option FalCopy
  c1 : Option FalCopy
  deriving DecidableEq, Repr

/-- A slot: its two manifest copies and its objects (R347, R348). -/
structure FalSlot where
  man0 : List Byte
  man1 : List Byte
  objs : List FalObj
  deriving DecidableEq, Repr

def FalSlot.empty : FalSlot := ⟨[], [], []⟩

/-- A pointer record: SEQ and ACTIVE (R350). -/
structure PtrRec where
  seq : Nat
  active : Bool
  deriving DecidableEq, Repr

/-- A READ descriptor that runs (R352). -/
structure ReadSt where
  pos : Nat
  addr : Nat
  len : Nat
  /-- The cause with which it ends, or 0, and the bytes delivered. -/
  cause : Nat
  data : List Byte
  deriving DecidableEq, Repr

structure FallowSt where
  /-- The parameter page: chip enables per channel, blocks per target, pages per block. -/
  targets : Nat
  blocks : Nat
  pages : Nat
  slot0 : FalSlot
  slot1 : FalSlot
  /-- The three journals: the last valid record of each (R350). -/
  ptr0 : Option PtrRec
  ptr1 : Option PtrRec
  ptr2 : Option PtrRec
  reads : List ReadSt
  /-- Copies queued for repair: object number and copy 1. -/
  repairs : List (Nat × Bool)
  /-- Superblocks to free when the reads at the given positions have ended (R347, R356). -/
  held : List (List Nat × List Nat)
  /-- Queue positions that were queued at L2 or above hold 1 (R354). -/
  atL2 : KMap Nat
  deriving DecidableEq, Repr

def FallowSt.reset : FallowSt :=
  ⟨4, 2048, 1024, .empty, .empty, some ⟨0, false⟩, some ⟨0, false⟩, some ⟨0, false⟩, [], [], [], []⟩

/-- A result of a Drill job (R360). -/
structure DrillRes where
  state : Nat
  cause : Nat
  bypassed : Bool
  watermark : Nat
  /-- The member refused its role. -/
  refused : Bool
  deriving DecidableEq, Repr

def DrillRes.pending : DrillRes := ⟨0, 0, false, 0, false⟩

/-- The job of which this chip is head (R360, R361, R366). -/
structure DrillHead where
  jobId : Nat
  srcKind : Bool
  src : Nat
  len : Nat
  members : List (List W64)
  results : List DrillRes
  /-- Members not bypassed, from the next one on: index and word 0 of the entry. -/
  later : List (Nat × W64)
  /-- Credit of the next member, and the next chunk to send to it. -/
  credit : Nat
  nextChunk : Nat
  /-- The member served by a catch-up, the next chunk of it, and its credit. -/
  catchUp : Option (Nat × Nat × Nat)
  deriving DecidableEq, Repr

/-- The role of a member (R361 to R366). -/
structure DrillMember where
  jobId : Nat
  idx : Nat
  /-- The chips of the head and of the sender of the last chunk. -/
  head : Nat
  up : Nat
  entry : List W64
  len : Nat
  /-- The members after it, and those of them that it has not bypassed: index and word 0 of the entry. -/
  all : List (Nat × W64)
  later : List (Nat × W64)
  /-- The next chunk to come; chunks below it are discarded. -/
  want : Nat
  /-- Chunks held in DRILL_BUF, ascending: those to forward, and the 64 forwarded last. -/
  held : List Nat
  /-- The next chunk to forward, and the next member's credit. -/
  fwd : Nat
  credit : Nat
  /-- Chunks kept so far, and their bytes. -/
  kept : Nat
  bytes : List Byte
  /-- Bypassed: it forwards no more. -/
  bypassed : Bool
  reported : Bool
  deriving DecidableEq, Repr

structure DrillSt where
  head : Option DrillHead
  member : Option DrillMember
  deriving DecidableEq, Repr

def DrillSt.reset : DrillSt := ⟨none, none⟩

end Sys2Proof.Machine
end

