-- ==== Sys2Proof/Machine/TapTypes.lean ====
section
/-!
DEFINITION. The state of the JTAG port (R524, R550).
-/
namespace Sys2Proof.Machine

/-- The states of the IEEE 1149.1 test access port. -/
inductive TapCtl where
  | testLogicReset | runTestIdle
  | selectDr | captureDr | shiftDr | exit1Dr | pauseDr | exit2Dr | updateDr
  | selectIr | captureIr | shiftIr | exit1Ir | pauseIr | exit2Ir | updateIr
  deriving DecidableEq, Repr

/-- The instructions of the port: those open at all times, and those that a debug token opens, by the bit of its RIGHTS
(R524, R525). -/
inductive TapInstr where
  | bypass
  | idcode
  | sample
  | extest
  | debug (right : Nat)
  deriving DecidableEq, Repr

structure TapSt where
  ctl : TapCtl
  /-- The instruction in force. -/
  instr : TapInstr
  /-- The shift stages of the instruction register and of the selected data register, the bit nearest TDO first. -/
  irShift : List Bool
  drShift : List Bool
  /-- The output latches of the boundary-scan chain. -/
  latches : List Bool
  deriving DecidableEq, Repr

def TapSt.reset : TapSt := ⟨.testLogicReset, .idcode, [], [], []⟩

end Sys2Proof.Machine
end

