-- ==== Sys2Proof/Machine/TierTypes.lean ====
section
/-!
DEFINITION. Memory tiers as sparse bytes, and the state of the Harrow (R314 to R336).
-/
namespace Sys2Proof.Machine

/-- The bytes of one tier, by byte offset. -/
structure Mem where
  cells : KMap Byte
  /-- Granules with an uncorrectable codeword (R466). -/
  bad : KMap Bool
  /-- 0: what nothing has written reads as zero; `n + 1`: it reads as the free bytes of epoch `n` (R517). -/
  epoch : Nat
  deriving DecidableEq, Repr

def Mem.zero : Mem := ⟨[], [], 0⟩

/-- The kinds of entry of the range list (R318). -/
inductive RangeKind where
  | moving
  | vacated
  deriving DecidableEq, Repr

/-- A range of the range list: global fabric address and bytes. -/
structure Range where
  kind : RangeKind
  addr : Nat
  len : Nat
  deriving DecidableEq, Repr

/-- An issued Harrow stream (R332). -/
structure StreamSt where
  queue1 : Bool
  pos : Nat
  desc : List W64
  /-- Bytes of the destination or blocks of 4,096 bytes done so far. -/
  done : Nat
  order : Nat
  /-- The cause with which the stream has failed, or 0. -/
  cause : Nat
  /-- CANCEL has stopped it at its next chunk boundary (R335). -/
  cancelled : Bool
  /-- A MOVE whose destination is charged and whose source is listed (R317). -/
  started : Bool
  /-- A MOVE that has flipped. -/
  flipped : Bool
  deriving DecidableEq, Repr

/-- A reclaim move of a home entry (R324): its index and its destination. -/
structure ReclaimMove where
  index : Nat
  dst : Nat
  grant : Nat
  /-- Its source is in the range list. -/
  started : Bool
  deriving DecidableEq, Repr

/-- The state of the Harrow outside its registers. -/
structure HarrowSt where
  streams : List StreamSt
  ranges : List Range
  /-- Ranges of DROP and other background zeroing not yet zeroed. -/
  zeroing : List Range
  reclaims : List ReclaimMove
  /-- STEPNUM of the queue-0 descriptor before ISSUE, and of the one before HEAD (R331). -/
  lastStep : Nat
  headStep : Nat
  /-- Streams of the slice's next image are held above this step (R334). -/
  rotHold : Option Nat
  deriving DecidableEq, Repr

def HarrowSt.reset : HarrowSt := ⟨[], [], [], [], 0, 0, none⟩

end Sys2Proof.Machine
end

