-- ==== Sys2Proof/Machine/WardTypes.lean ====
section
/-!
DEFINITION. The state of the Ward (R474 to R492) and of the Lamplighter (R499 to R527) outside their registers.
-/
namespace Sys2Proof.Machine

/-- A delta sent and not yet acknowledged (R477). -/
structure Delta where
  epoch : Nat
  /-- The holder's member index. -/
  holder : Nat
  /-- The parity line: byte offset in the holder's parity area, divided by 64. -/
  line : Nat
  delta : Payload
  /-- TAG of the packet that carries it. -/
  tag : Nat
  deriving DecidableEq, Repr

/-- A staging entry of a holder (R479). -/
structure Staged where
  source : Nat
  epoch : Nat
  line : Nat
  delta : Payload
  deriving DecidableEq, Repr

/-- A WARD_CFG message as received: its sender's member index, P, G and member list (R476). -/
structure WardCfg where
  member : Nat
  p : Nat
  g : Nat
  members : List Nat
  deriving DecidableEq, Repr

/-- The Ward outside its registers. -/
structure WardSt where
  unacked : List Delta
  staged : List Staged
  /-- WARD_CFG messages received (R476). -/
  cfgFrom : List WardCfg
  /-- Units of stripes (b, q) that chains have brought here, by INIT or by REBUILD. -/
  units : List (Nat × Nat)
  /-- The epoch in progress of this member (R478). -/
  epoch : Nat
  /-- Positions written by REBUILD chains that failed. -/
  rebuildBad : List (Nat × Nat)
  /-- A latch drain is running, and its HALT_AT has been taken (R490). -/
  latch : Bool
  /-- The seal runs: its record is written and deltas await acknowledgement; and it has ended. -/
  sealing : Bool
  sealed : Bool
  /-- The missing members of the last FREEZE, as slice indexes. -/
  missing : W64
  deriving DecidableEq, Repr

def WardSt.reset : WardSt := ⟨[], [], [], [], 0, [], false, false, false, 0⟩

/-- What the identity block and the fuses give the part and nothing changes (R463, R493, R508, R510, R525): keys are
numbers. -/
structure PartSt where
  serial : W64
  stepping : BitVec 8
  identityKey : Nat
  identityCert : List Byte
  sundiorKeyX : Nat
  sundiorKeyY : Nat
  integratorKeyId : Nat
  integratorKeyX : Nat
  integratorKeyY : Nat
  debugKeyId : Nat
  debugKeyX : Nat
  debugKeyY : Nat
  deriving DecidableEq, Repr

/-- The values of one part. -/
def PartSt.fused : PartSt :=
  { serial := Config.serial, stepping := Config.stepping, identityKey := Config.identityKey, identityCert := Config.identityCert
    sundiorKeyX := Config.sundiorKeyX, sundiorKeyY := Config.sundiorKeyY, integratorKeyId := Config.integratorKeyId
    integratorKeyX := Config.integratorKeyX, integratorKeyY := Config.integratorKeyY, debugKeyId := Config.debugKeyId
    debugKeyX := Config.debugKeyX, debugKeyY := Config.debugKeyY }

/-- A pairwise key (R513): the peer's SERIAL and alias public key, the key, the KEY messages sent under it, and the least
COUNT that is accepted (R514). -/
structure PairKey where
  serial : Nat
  aliasX : Nat
  aliasY : Nat
  key : Nat
  sent : Nat
  next : Nat
  deriving DecidableEq, Repr

/-- What the Lamplighter holds. Keys are numbers; an absent key is `none`. -/
structure LampSt where
  /-- Link keys by slot, plus one; 0 for an empty slot. -/
  linkKeys : KMap Nat
  /-- The slot that a drain retires, and its GEN (R505). -/
  prevSlot : Option Nat
  /-- A generation drain runs (R505). -/
  draining : Bool
  /-- The chip has joined and waits for its key (R506). -/
  joining : Bool
  fabricKey : Option Nat
  /-- Fabric keys of other chips by rack index, plus one. -/
  peerFabric : KMap Nat
  /-- The chips, by rack index, that have acknowledged the current fabric key (R512). -/
  acked : List Nat
  pairs : KMap PairKey
  subKey : Option Nat
  aliasKey : Option Nat
  aliasCert : List Byte
  /-- The identity private key and fuse gate of the seed (R510, R525). -/
  identity : Bool
  lfwDigest : Nat
  mfwDigest : Nat
  /-- The fused security versions of the Lamplighter and the management firmware (R509). -/
  lfwFuse : Nat
  mfwFuse : Nat
  /-- B, the count of starts, in D0. -/
  starts : BitVec 32
  /-- Debug has been unlocked since the Candle rail powered on, in D0. -/
  dbgSince : Bool
  dbgNonce : Option Nat
  /-- The command that runs until a later event: its OP, or 0. -/
  running : Nat
  /-- Rights to open when the scrub of DEBUG_UNLOCK ends. -/
  grantRights : Nat
  /-- Link keys being installed await their 10 ms bound. -/
  keyWait : Bool
  deriving DecidableEq, Repr

def LampSt.reset : LampSt :=
  ⟨[], none, false, false, none, [], [], [], none, none, [], false, 0, 0, 0, 0, 0, false, none, 0, 0, false⟩

end Sys2Proof.Machine
end

