-- ==== Sys2Proof/Machine/State.lean ====
section
/-!
DEFINITION. The state of the block: control registers, memories, configuration planes, the Field, the agents, the
links, the power and security state, and the queue of waiting commands.
-/
namespace Sys2Proof.Machine

/-- Faults. None: no rule of the spec makes this block stop. The one constructor is for a command queue that
names no command; nothing raises it. Safe. -/
inductive Fault where
  | none
  deriving DecidableEq, Repr

/-- Refusals. -/
inductive Refusal where
  /-- Raised by the dispatcher for a command that has no meaning in the model yet. Safe: the run stops. -/
  | notModelled (mnemonic : String)
  deriving DecidableEq, Repr

/-- The state. -/
structure State where
  /-- Control registers by control-window offset; an unlisted register holds its reset value (R565, R571). -/
  regs : KMap W64
  /-- Result registers by source: `32 * register offset + source`, sources as in R570. -/
  results : KMap W64
  seedbed : Mem
  topsoil : Mem
  subsoil : Mem
  lit : Image
  dark : Image
  rot : RotSt
  field : FieldSt
  sched : SchedSt
  moe : MoeSt
  serve : ServeSt
  harrow : HarrowSt
  net : NetSt
  ward : WardSt
  lamp : LampSt
  power : PowerSt
  bist : BistSt
  fallow : FallowSt
  drill : DrillSt
  /-- The JTAG port. -/
  tap : TapSt
  /-- What is fused into the part. -/
  part : PartSt
  /-- Free values drawn so far: the model's own. -/
  freeCtr : Nat
  /-- Commands waiting, first in first out. -/
  pending : List Instr
  deriving DecidableEq, Repr

/-- The machine right after the Candle rail has powered on: D0 alone is powered, every register holds its reset value,
and nothing waits (R446, R447, R571). -/
def State.reset : State :=
  { regs := [], results := [], seedbed := .zero, topsoil := .zero, subsoil := .zero, lit := .cleared, dark := .cleared,
    rot := .reset, field := .clear, sched := .reset, moe := .reset, serve := .reset, harrow := .reset, net := .reset,
    ward := .reset, lamp := .reset, power := .reset, bist := .reset, fallow := .reset, drill := .reset, tap := .reset, part := .fused,
    freeCtr := 0, pending := [] }

end Sys2Proof.Machine
end

