-- ==== Sys2Proof/Machine/Ops.lean ====
section
/-!
DEFINITION. The named operations over registers, memories, the error log and outgoing messages that every meaning
uses.
-/
namespace Sys2Proof.Machine

/-! ### Registers (R6, R7) -/

/-- The control register at a control-window offset. -/
def State.reg (s : State) (off : Nat) : W64 := KMap.get regReset s.regs off

/-- Replaces a whole register. -/
def State.setReg (s : State) (off : Nat) (w : W64) : State :=
  { s with regs := KMap.set regReset s.regs off w }

/-- The value of a field. -/
def State.get (s : State) (f : Fld) : Nat := bitsOf (s.reg f.reg) f.lo f.len

/-- Sets a field. -/
def State.put (s : State) (f : Fld) (v : Nat) : State :=
  s.setReg f.reg (withBits (s.reg f.reg) f.lo f.len v)

/-- Whether a one-bit field is 1. -/
def State.flag (s : State) (f : Fld) : Bool := decide (s.get f ≠ 0)

/-- Adds to a counter that saturates at all ones. -/
def State.bump (s : State) (f : Fld) (n : Nat) : State := s.put f (min (2 ^ f.len - 1) (s.get f + n))

/-- Adds to a counter that wraps. -/
def State.advance (s : State) (f : Fld) (n : Nat) : State := s.put f (s.get f + n)

/-- Returns every register of `[lo, lo + n)` to its reset value. -/
def State.resetRegs (s : State) (lo n : Nat) : State := { s with regs := KMap.clear s.regs lo n }

/-- The next free value (assumption 2). -/
def State.free (s : State) : W64 := Config.freeWord s.freeCtr
def State.freeNat (s : State) : Nat := Config.freeNat s.freeCtr
def State.drawn (s : State) : State := { s with freeCtr := s.freeCtr + 1 }

/-- Applies an operation for each element in order. -/
def State.each {α : Type} (s : State) (l : List α) (f : State → α → State) : State := l.foldl f s

/-! ### Own position (R9, R394, R409) -/

/-- Torus coordinates `x + 4y + 16z` as the coordinate bits of R9. -/
def coordBits (d : Nat) : Nat := d % 4 * 256 + d / 4 % 4 * 16 + d / 16 % 4

/-- The rack index `x + 4y + 16z` of the coordinate bits of R9. -/
def rackIndex (src : Nat) : Nat := src / 256 % 16 + 4 * (src / 16 % 16) + 16 * (src % 16)

/-- Rack and coordinates of this chip, as bits [63:44] of R9. -/
def State.self (s : State) : Nat := s.get ROUTE_SELF.RACK * 4096 + coordBits (s.get ROUTE_SELF.XYZ)

/-- The rack and coordinates of rack chip `d`. -/
def State.chipAt (s : State) (d : Nat) : Nat := s.get ROUTE_SELF.RACK * 4096 + coordBits d

/-- The global fabric address of a byte of this chip. -/
def State.gaddr (s : State) (tier off : Nat) : Nat := s.self * 2 ^ 44 + tier * 2 ^ 42 + off

/-- The relative coordinates of rack chip `d` in a slice (R394). -/
def Slice.rel (c : Slice) (d : Nat) : Nat × Nat × Nat :=
  ((d % 4 + 4 - c.ox) % 4, (d / 4 % 4 + 4 - c.oy) % 4, (d / 16 % 4 + 4 - c.oz) % 4)

/-- Whether rack chip `d` lies in a slice by its geometry (R394). -/
def Slice.has (c : Slice) (d : Nat) : Bool :=
  let r := c.rel d
  decide (r.1 ≤ c.exM1 ∧ r.2.1 ≤ c.eyM1 ∧ r.2.2 ≤ c.ezM1)

/-- The slice-relative index of rack chip `d` (R394). -/
def Slice.index (c : Slice) (d : Nat) : Nat :=
  let r := c.rel d
  r.1 + (c.exM1 + 1) * (r.2.1 + (c.eyM1 + 1) * r.2.2)

/-- The rack chip at a slice-relative index. -/
def Slice.chip (c : Slice) (i : Nat) : Nat :=
  let rx := i % (c.exM1 + 1)
  let ry := i / (c.exM1 + 1) % (c.eyM1 + 1)
  let rz := i / (c.exM1 + 1) / (c.eyM1 + 1)
  (c.ox + rx) % 4 + 4 * ((c.oy + ry) % 4) + 16 * ((c.oz + rz) % 4)

def Slice.size (c : Slice) : Nat := (c.exM1 + 1) * (c.eyM1 + 1) * (c.ezM1 + 1)

/-- The origin of a slice, as rack chip. -/
def Slice.origin (c : Slice) : Nat := c.ox + 4 * c.oy + 16 * c.oz

/-- The substitutions that WARD_SUBST names (R484). -/
def State.substRegs (s : State) : List (Nat × Nat) :=
  ((List.range 4).filter fun k => s.flag (WARD_SUBST.EN k)).map fun k =>
    (s.get (WARD_SUBST.REPLACED k), s.get (WARD_SUBST.BY k))

/-- The chip that stands at rack position `d`: its substitute, when the last APPLY took one (R484). -/
def State.standIn (s : State) (d : Nat) : Nat := ((s.net.subst.find? fun e => e.1 == d).map (·.2)).getD d

/-- The position in the slice of rack chip `d`, which may be a substitute (R484). -/
def State.position (s : State) (d : Nat) : Nat := ((s.net.subst.find? fun e => e.2 == d).map (·.1)).getD d

/-- JOB, GEN and size of the own slice; outside a slice the chip is alone with JOB 0 (assumption 12). -/
def State.job (s : State) : Nat := (s.net.slice.map (·.job)).getD 0
def State.gen (s : State) : Nat := (s.net.slice.map (·.gen)).getD 0
def State.sliceSize (s : State) : Nat := (s.net.slice.map (·.size)).getD 1

/-- This chip leads its slice; a chip outside any slice leads itself (R394, assumption 12). -/
def State.leads (s : State) : Bool := decide (s.get ROUTE_SELF.INDEX = 0)

/-- The leader's rack and coordinates. -/
def State.leaderAt (s : State) : Nat :=
  match s.net.slice with
  | some c => s.chipAt (s.standIn c.origin)
  | none => s.self

/-- The slice-relative index of a sender, if it lies in the slice. -/
def State.indexOf (s : State) (src : Nat) : Option Nat :=
  match s.net.slice with
  | some c =>
    let d := s.position (rackIndex src)
    if src / 4096 = s.get ROUTE_SELF.RACK ∧ c.has d then some (c.index d) else none
  | none => if src = s.self then some 0 else none

/-! ### Domains (R411, R565) -/

/-- The power domain that holds a register. -/
def regDomain (off : Nat) : Nat :=
  if 0x200000 ≤ off then 4 + (off - 0x200000) / 0x1000 / 64
  else if off = 0x18 ∨ off = 0x40 ∨ off = 0x48 then 0
  else
    let b := off / 0x10000
    if b = 1 ∨ b = 2 ∨ b = 0x14 then 0 else if b = 3 then 1 else 22

/-- Whether a domain is powered. -/
def State.domOn (s : State) (d : Nat) : Bool := decide (s.get CANDLE_DSTAT.ON / 2 ^ d % 2 = 1)

/-! ### ERRLOG (R496, R497) -/

/-- An error record before its ring position and times. -/
structure ErrRec where
  cls : Nat
  block : Nat
  plot : Nat := 0
  detail : Nat := 0
  stepErr : Bool := false
  repaired : Bool := false
  unrecovered : Bool := false
  addr : Nat := 0
  bitPos : Nat := 0x7F
  nbits : Nat := 0
  deriving DecidableEq, Repr

def ErrRec.word0 (r : ErrRec) : Nat :=
  r.cls % 256 + r.block % 256 * 2 ^ 8 + r.plot % 512 * 2 ^ 16 + r.detail % 65536 * 2 ^ 32 + bit r.stepErr * 2 ^ 48 +
    bit r.repaired * 2 ^ 49 + bit r.unrecovered * 2 ^ 50

/-- The `n` low bits of a difference of two free-running indices. -/
def idxSub (n a b : Nat) : Nat := (a + 2 ^ n - b % 2 ^ n) % 2 ^ n

/-- Interrupts and notice of R497 for a record of class `cls`. -/
def State.errIrq (s : State) (cls : Nat) : State :=
  let hit := s.get ERRLOG_IRQ.CLASSES / 2 ^ (cls - 1) % 2 = 1
  { s with sched := { s.sched with
      coreIrq := if hit then s.sched.coreIrq ||| BitVec.ofNat 16 (s.get ERRLOG_IRQ.CORES) else s.sched.coreIrq
      lampNotice := true } }

/-- Writes an error record, or drops it when the ring is full (R497). While D22 is off nothing is recorded
(assumption 13). -/
def State.errlog (s : State) (r : ErrRec) : State :=
  if !s.domOn 22 then s
  else
    let h := s.get ERRLOG_PTR.HEAD
    if idxSub 32 h (s.get ERRLOG_PTR.TAIL) = 256 then s.bump ERRLOG_STATUS.DROPPED 1
    else
      let i := h % 256
      ((((s.put (ERRLOG_REC.WORD i 0) r.word0).put (ERRLOG_REC.WORD i 1) r.addr).put (ERRLOG_REC.WORD i 2)
        (s.get STEP_NUM.STEP)).put (ERRLOG_REC.WORD i 3)
        (s.get STEP_QCLK.TICKS % 2 ^ 48 + r.bitPos % 128 * 2 ^ 48 + r.nbits % 8 * 2 ^ 55)).put ERRLOG_PTR.HEAD (h + 1)
        |>.errIrq r.cls

/-- The BLOCK code of a control-window offset, and its plot. -/
def blockOf (off : Nat) : Nat := off / 0x10000
def plotOf (off : Nat) : Nat := if 0x200000 ≤ off then (off - 0x200000) / 0x1000 else 0

/-- An address fault at a global fabric address (R10). -/
def State.addrFault (s : State) (block addr : Nat) : State :=
  s.errlog { cls := 1, block := block, plot := if 0x20 ≤ block then plotOf (addr % 2 ^ 42) else 0, addr := addr }

/-! ### Access to control space (R412, R502, R568) -/

/-- The privilege of a source (R501, R523). -/
def State.level (s : State) : Source → Nat
  | .lamp => 3
  | .core _ m => if m then 2 else 1
  | .host => s.get LAMP_HSESS.LEVEL
  | .chip _ p => p.toNat

/-- The instance of the result registers that a source reads (R570). -/
def sourceIdx : Source → Nat
  | .core i _ => i.toNat
  | .lamp => 16
  | _ => 17

/-- A source's instance of a result register (R570). -/
def State.result (s : State) (off : Nat) (src : Source) : W64 := KMap.get (fun _ => 0) s.results (32 * off + sourceIdx src)
def State.setResult (s : State) (off : Nat) (src : Source) (w : W64) : State :=
  { s with results := KMap.set (fun _ => 0) s.results (32 * off + sourceIdx src) w }

/-- The privilege that a write requires (R565); CHIP_CTRL, CANDLE_DOM and LAMP_CMD add their own rules. -/
def writeLevel (off : Nat) : Nat :=
  let b := off / 0x10000
  let o := off % 0x10000
  if 0x200000 ≤ off then 1
  else if b = 0 then (if o = 0x20 ∨ o = 0x30 then 1 else 2)
  else if b = 1 then (if o = 0x80 then 3 else if o = 0 ∨ o = 0x10 ∨ o = 0x68 ∨ o = 0x78 then 2 else 1)
  else if b = 2 ∨ b = 0x13 ∨ b = 0x14 then 2
  else if b = 3 then (if 0x38 ≤ o ∧ o < 0x98 then 0 else 1)
  else if b = 9 then (if o = 0x18 ∨ o = 0x28 ∨ o = 0x30 ∨ 0x200 ≤ o then 2 else 1)
  else if b = 0xC then (if o = 8 ∨ o = 0x18 ∨ o = 0x20 then 2 else 1)
  else if b = 0xE then (if o = 0 ∨ o = 0x28 then 2 else 1)
  else if b = 0xF then (if o ≤ 0x20 ∨ o = 0x38 then 2 else 1)
  else if b = 0x11 then (if 0x80 ≤ o ∧ o < 0xA0 then 2 else 1)
  else if b = 0x12 then (if o = 0x18 then 2 else 1)
  else 1

/-- A write below its level is discarded and recorded (R502). -/
def State.refusePriv (s : State) (off lvl : Nat) : State :=
  s.errlog { cls := 1, block := blockOf off, plot := plotOf off, detail := lvl, addr := s.gaddr 3 off }

/-- A write to a domain that is off is discarded and recorded (R26, R412). -/
def State.refuseGated (s : State) (off : Nat) : State :=
  s.errlog { cls := 2, block := blockOf off, plot := plotOf off, addr := s.gaddr 3 off }

/-- An access meets a target that is off: its domain, or a plot of a strip under a Field run of BIST (R26, R412, R529). -/
def State.gatedAt (s : State) (off : Nat) : Bool :=
  !s.domOn (regDomain off) ||
    decide (0x200000 ≤ off) && s.field.halted && decide (s.get CHIP_RESTORE1.STRIPS / 2 ^ (plotOf off / 64) % 2 = 1)

/-- An access to a register whose domain is in ON or AUTO and not powered waits for it; a plot window never waits
(R412). -/
def State.waitsFor (s : State) (off : Nat) : Bool :=
  let d := regDomain off
  !s.domOn d && decide (1 ≤ d ∧ d < 4 ∨ 11 < d) && s.get ⟨0x10010, 2 * d, 2⟩ != 0

/-- A control-space write of `val` at an offset: its privilege, then its domain, then `act` (R412, R502). -/
def State.ctlWrite (s : State) (src : Source) (off lvl : Nat) (val : W64) (act : State → State) : State :=
  if s.level src < lvl then s.refusePriv off lvl
  else if s.waitsFor off then { s with power := { s.power with waits := s.power.waits ++ [(src, off, val)] } }
  else if s.gatedAt off then s.refuseGated off
  else act s

/-- One field of a written register (R7, R574). -/
def writeField (old new : W64) (f : FieldSpec) (w : W64) : W64 :=
  match f.acc with
  | .rw => withBits w f.lo f.len (f.norm.apply (bitsOf new f.lo f.len))
  | .w1c => withBits w f.lo f.len (bitsOf (old &&& ~~~new) f.lo f.len)
  | _ => w

/-- The fields of a write that `allow` names by their low bit take their written values (R7, R574). -/
def State.storeFields (s : State) (off : Nat) (val : W64) (allow : Nat → Bool) : State :=
  match findReg off with
  | none => s
  | some r =>
    let old := s.reg off
    s.setReg off ((r.fields.filter fun f => allow f.lo).foldl (fun w f => writeField old val f w) old)

/-- Every field takes its written value. -/
def State.store (s : State) (off : Nat) (val : W64) : State := s.storeFields off val fun _ => true

/-! ### Memory (R309 to R312, R466) -/

/-- What an unlisted byte of a tier reads as: zero, as every start leaves it (R25, R453, R454), until a new tenancy key makes
the tier's contents free (R517). -/
def memDefault (epoch : Nat) (a : Nat) : Byte := if epoch = 0 then 0 else Config.freeByte (epoch - 1) a

/-- The stored byte at an offset. -/
def Mem.stored (m : Mem) (a : Nat) : Byte := KMap.get (memDefault m.epoch) m.cells a

def Mem.isBad (m : Mem) (g : Nat) : Bool := KMap.get (fun _ => false) m.bad g

/-- The byte that a read delivers: zero from a granule with an uncorrectable codeword (R466). -/
def Mem.byte (m : Mem) (gran a : Nat) : Byte := if m.isBad (a / gran) then 0 else m.stored a

def Mem.read (m : Mem) (gran a n : Nat) : List Byte := (List.range n).map fun i => m.byte gran (a + i)

/-- Stores one byte. -/
def Mem.poke (m : Mem) (a : Nat) (b : Byte) : Mem := { m with cells := KMap.set (memDefault m.epoch) m.cells a b }

/-- Marks or clears a granule. -/
def Mem.mark (m : Mem) (g : Nat) (b : Bool) : Mem := { m with bad := KMap.set (fun _ => false) m.bad g b }

/-- Whether `[a, a + n)` covers granule `g` whole. -/
def covers (gran a n g : Nat) : Bool := decide (a ≤ g * gran ∧ (g + 1) * gran ≤ a + n)

/-- Clears the marks of the granules from `g` on that a write covers whole. -/
def Mem.heal (m : Mem) (gran a n : Nat) : Mem :=
  (List.range (n / gran + 2)).foldl (fun m k =>
    let g := a / gran + k
    if covers gran a n g && m.isBad g then m.mark g false else m) m

/-- Stores the bytes from offset `a` on, but for the bytes of a bad granule that is not written whole (R466). -/
def Mem.pokes (m : Mem) (gran : Nat) : Nat → List Byte → Mem
  | _, [] => m
  | a, b :: bs => (if m.isBad (a / gran) then m else m.poke a b).pokes gran (a + 1) bs

def Mem.write (m : Mem) (gran a : Nat) (bs : List Byte) : Mem := (m.heal gran a bs.length).pokes gran a bs

/-- Zeroes a range. -/
def Mem.zeroed (m : Mem) (gran a n : Nat) : Mem :=
  if m.epoch = 0 then { (m.heal gran a n) with cells := KMap.clear m.cells a n }
  else m.write gran a (List.replicate n 0)

/-- R311 for one byte offset. -/
def topOk (o : Nat) : Bool := decide (o / 2 ^ 37 ≤ 3 ∧ o % 2 ^ 37 < 96000000000)

/-- R311 for an access of `n` bytes. -/
def topRange (o n : Nat) : Bool := n == 0 || topOk o && topOk (o + n - 1) && o / 2 ^ 37 == (o + n - 1) / 2 ^ 37

/-- Channels and stripe bytes of Subsoil (R312, R341). -/
def State.subChannels (s : State) : Nat := if s.flag SUBSOIL_CFG.NCH then 8 else 16
def State.subStripe (s : State) : Nat := if s.get SUBSOIL_CFG.STRIPE = 0 then 256 else if s.get SUBSOIL_CFG.STRIPE = 1 then 1024 else 4096

/-- The channel of a Subsoil offset, and the offset in the channel (R312). -/
def State.subPlace (s : State) (o : Nat) : Nat × Nat :=
  (o / s.subStripe % s.subChannels, o / (s.subStripe * s.subChannels) * s.subStripe + o % s.subStripe)

/-- Whether channel `c` holds part of `[o, o + n)` of Subsoil: the first stripes of the range reach every channel. -/
def State.subHolds (s : State) (c o n : Nat) : Bool :=
  (List.range (min s.subChannels (if n = 0 then 0 else (o + n - 1) / s.subStripe - o / s.subStripe + 1))).any fun i =>
    (s.subPlace ((o / s.subStripe + i) * s.subStripe)).1 == c

/-- Data capacity of Subsoil (R312, R572). -/
def State.subSize (s : State) : Nat := s.subChannels * s.get SUBSOIL_CFG.CH_GB * 10 ^ 9

def State.subRange (s : State) (o n : Nat) : Bool := decide (n = 0 ∨ o + n ≤ s.subSize)

/-- 64-byte lines that an access touches. -/
def lineCount (o n : Nat) : Nat := if n = 0 then 0 else (o + n - 1) / 64 - o / 64 + 1

/-- A read of the chip's own Topsoil: zeros outside the tier (R311). -/
def State.topPeek (s : State) (o n : Nat) : List Byte :=
  if topRange o n then s.topsoil.read 64 o n else List.replicate n 0

def State.topNat (s : State) (o n : Nat) : Nat := leNat (s.topPeek o n)
def State.topWord (s : State) (o : Nat) : W64 := BitVec.ofNat 64 (s.topNat o 8)
def State.topWords (s : State) (o n : Nat) : List W64 := (List.range n).map fun i => s.topWord (o + 8 * i)

/-- Counts an access, or records its address fault (R311, R341). -/
def State.topTouch (s : State) (o n : Nat) : State :=
  if topRange o n then s.bump (TOPSOIL_LINES.LINES (o / 2 ^ 37)) (lineCount o n)
  else s.addrFault 0xA (s.gaddr 1 o)

def State.subPeek (s : State) (o n : Nat) : List Byte :=
  if s.subRange o n then s.subsoil.read 64 o n else List.replicate n 0

def State.subTouch (s : State) (o n : Nat) : State :=
  if s.subRange o n then s.bump SUBSOIL_LINES.LINES (lineCount o n) else s.addrFault 0xB (s.gaddr 2 o)

def State.subWrite (s : State) (o : Nat) (bs : List Byte) : State :=
  (if s.subRange o bs.length then { s with subsoil := s.subsoil.write 64 o bs } else s).subTouch o bs.length

/-- A Seedbed offset: Hopper `h` holds 768 KiB at `h * 2^20` (R116). -/
def seedbedOk (o : Nat) : Bool := decide (o / 2 ^ 20 < 1024 ∧ o % 2 ^ 20 < 0xC0000)

/-! ### Packets and messages (R376, R384, R385) -/

/-- Bytes as 64-byte flits. -/
def flitsOf : Nat → List Byte → List Payload
  | 0, _ => []
  | n + 1, bs => payOfBytes (bs.take 64) :: flitsOf n (bs.drop 64)

/-- A packet of this chip, before injection: its CTR and tag flit are set at injection (R377). -/
def State.mkPacket (s : State) (vc op dst addr tag : Nat) (bs : List Byte) : Packet :=
  { dst := BitVec.ofNat 20 dst, mcast := false, group := 0, vc := BitVec.ofNat 3 vc, op := BitVec.ofNat 4 op,
    detour := false, priv := 1, job := BitVec.ofNat 16 s.job, addr := BitVec.ofNat 64 addr,
    src := BitVec.ofNat 20 s.self, tag := BitVec.ofNat 16 tag, gen := BitVec.ofNat 16 s.gen, ctr := 0,
    payload := flitsOf (cdiv bs.length 64) bs, gcmTag := 0 }

def State.post (s : State) (p : Packet) : State := { s with net := { s.net with outbox := s.net.outbox ++ [p] } }

/-- Answers a request packet with operation `op`: its TAG is echoed, and REFUSED carries no address (R376, R378). -/
def State.reply (s : State) (p : Packet) (op : Nat) (bs : List Byte) : State :=
  s.post (s.mkPacket p.vc.toNat op p.src.toNat (if op = 6 then 0 else p.addr.toNat) p.tag.toNat bs)

/-- A refused READ or WRITE is answered by REFUSED (R378). -/
def State.replyRefused (s : State) (p : Packet) : State := if p.op = 1 ∨ p.op = 2 then s.reply p 6 [] else s

/-- A message to one chip. -/
def State.send (s : State) (vc kind dst : Nat) (bs : List Byte) : State := s.post (s.mkPacket vc 4 dst kind 0 bs)

/-- A message of the leader to every chip of its slice, on group 0 of VC 3 (R398); a chip in no slice is alone
(assumption 12). -/
def State.sendAll (s : State) (kind : Nat) (bs : List Byte) : State :=
  if s.net.slice.isNone then s.send 3 kind s.self bs
  else s.post { s.mkPacket 3 4 s.self kind 0 bs with mcast := true }

/-- A request that awaits an answer, under the next transaction tag (R378). -/
def State.request (s : State) (vc op dst addr : Nat) (bs : List Byte) (kind : ReqKind) : State :=
  let t := s.net.nextTag % 65536
  let s := s.post (s.mkPacket vc op dst addr t bs)
  { s with net := { s.net with nextTag := s.net.nextTag + 1, requests := s.net.requests ++ [Request.mk t vc kind addr] } }

/-- The bytes of a step-boundary message: the step number and further bytes (R385). -/
def stepMsg (n : Nat) (rest : List Byte) : List Byte :=
  let b := leBytes 8 n ++ rest
  b ++ List.replicate (64 - b.length) 0

/-- Sets a flag of LINK_ERR and captures the first (R408). -/
def State.linkErr (s : State) (flag link : Nat) : State :=
  let old := s.get LINK_ERR.FLAGS
  let s := s.put LINK_ERR.FLAGS (old ||| 2 ^ flag)
  if old ≠ 0 then s
  else ((s.put LINK_CAP.LINK link).put LINK_CAP.CAUSE flag).put LINK_CAP.TIME (s.get STEP_QCLK.TICKS)

/-- Who may send a message (R385). -/
inductive Sender3 where
  | fromLeader
  | toLeader
  | inSlice
  deriving DecidableEq, Repr

/-- The test of R384 for a message of a slice-bound kind. -/
def State.msgOk (s : State) (h : MsgHdr) (w : Sender3) : Bool :=
  decide (h.job.toNat = s.job) &&
  match w with
  | .fromLeader => decide (h.src.toNat = s.leaderAt)
  | .toLeader => s.leads && (s.indexOf h.src.toNat).isSome
  | .inSlice => (s.indexOf h.src.toNat).isSome

/-- A slice-bound message: discarded and counted when it fails R384. -/
def State.onMsg (s : State) (h : MsgHdr) (w : Sender3) (act : State → State) : State :=
  if s.msgOk h w then act s else s.linkErr 9 0

/-! ### Ward deltas (R475 to R478) -/

/-- The units of a range register that is enabled. -/
def State.wardRange (s : State) (j : Nat) : Option (Nat × Nat) :=
  if s.flag (WARD_RANGE.EN j) then some (s.get (WARD_RANGE.BASE j), s.get (WARD_RANGE.LEN j)) else none

/-- P, the units that this member protects (R475). -/
def State.wardUnits (s : State) : Nat := ((List.range 8).filterMap s.wardRange).foldl (fun a r => a + r.2) 0

/-- The unit number of a 64 KiB unit of Topsoil, if it is protected. -/
def unitInRanges : List (Nat × Nat) → Nat → Nat → Option Nat
  | [], _, _ => none
  | r :: rs, u, k => if r.1 ≤ u ∧ u < r.1 + r.2 then some (k + (u - r.1)) else unitInRanges rs u (k + r.2)

def State.wardUnitOf (s : State) (off : Nat) : Option Nat := unitInRanges ((List.range 8).filterMap s.wardRange) (off / 65536) 0

/-- The Topsoil offset of protected unit `k`. -/
def unitOff : List (Nat × Nat) → Nat → Option Nat
  | [], _ => none
  | r :: rs, k => if k < r.2 then some (65536 * (r.1 + k)) else unitOff rs (k - r.2)

def State.wardUnitAt (s : State) (k : Nat) : Option Nat := unitOff ((List.range 8).filterMap s.wardRange) k

/-- The stripe of unit `k` of member `m` in a group of `g`: (b, q) (R475). -/
def stripeOf (g m k : Nat) : Nat × Nat :=
  let i := k % (g - 1)
  (k / (g - 1), if i < m then i else i + 1)

/-- The unit of data member `m` in stripe (b, q). -/
def unitOfStripe (g m b q : Nat) : Nat := b * (g - 1) + (if q < m then q else q - 1)

/-- WARD_GROUP.MEMBER_i (R495). -/
def wardMemberFld (i : Nat) : Fld := ⟨0x110018, 6 + 6 * i, 6⟩

/-- The rack chip of a member. -/
def State.wardMember (s : State) (i : Nat) : Nat := s.standIn (s.get (wardMemberFld i))

/-- Whether protected writes send deltas: from ENABLE on (R478). -/
def State.wardOn (s : State) : Bool := decide (s.get WARD_STATUS.STATE ≠ 0)

/-- The epoch of a write made now: one that is made between FLUSHED and COMMIT belongs to the next (R478). -/
def State.deltaEpoch (s : State) : Nat := s.ward.epoch + bit (s.sched.flushedSent && !s.sched.committed)

/-- Sends the delta of one protected line, with its epoch in a second flit (R477, R478, assumption 42). -/
def State.sendDelta (s : State) (off k : Nat) (d : Payload) : State :=
  let g := s.get WARD_GROUP.G
  let bq := stripeOf g (s.get WARD_GROUP.SELF) k
  let po := bq.1 * 65536 + off % 65536
  let tag := s.net.nextTag % 65536
  let dst := s.chipAt (s.wardMember bq.2)
  let ep := s.deltaEpoch
  let s := s.request 5 1 dst (dst * 2 ^ 44 + 2 ^ 42 + 65536 * s.get WARD_PAR.BASE + po) (payBytes d ++ leBytes 64 ep) .wardDelta
  let s := { s with ward := { s.ward with unacked := s.ward.unacked ++ [Delta.mk ep bq.2 (po / 64) d tag] } }
  (s.put WARD_PEND.UNACKED s.ward.unacked.length).bump WARD_BYTES.BYTES 64

/-- The bytes of a line as a payload, as they are stored. -/
def Mem.line (m : Mem) (l : Nat) : Payload := payOfBytes ((List.range 64).map fun i => m.stored (64 * l + i))

/-- Deltas of the lines `l, l + 1, ...` that a write has changed. -/
def State.deltas (s : State) (old : Mem) : Nat → Nat → State
  | _, 0 => s
  | l, n + 1 =>
    let d := old.line l ^^^ s.topsoil.line l
    let s := match s.wardUnitOf (64 * l) with
      | some k => if d = 0 then s else s.sendDelta (64 * l) k d
      | none => s
    s.deltas old (l + 1) n

/-- Whether a write of `[o, o + n)` must wait: a protected line between FLUSHED and COMMIT (R478), or with the delta
queue of 4,096 lines full (R477). -/
def State.wardHolds (s : State) (o n : Nat) : Bool :=
  s.wardOn && (List.range (lineCount o n)).any (fun i => (s.wardUnitOf (64 * (o / 64 + i))).isSome) &&
    (s.sched.flushedSent && !s.sched.committed || decide (4096 ≤ s.ward.unacked.length))

/-- Stores some bytes of line `l` under byte enables: an uncorrectable line takes them only when they are all of it
(R466). -/
def Mem.pokeSome (m : Mem) (gran l : Nat) (bs : List (Nat × Byte)) : Mem :=
  let m := if bs.length = 64 then m.heal gran (64 * l) 64 else m
  bs.foldl (fun m b => if m.isBad ((64 * l + b.1) / gran) then m else m.poke (64 * l + b.1) b.2) m

/-- A write to the chip's own Topsoil: refused whole outside the tier (R311); a protected line sends its delta
(R477). -/
def State.topWrite (s : State) (o : Nat) (bs : List Byte) : State :=
  if topRange o bs.length then
    let old := s.topsoil
    let s := ({ s with topsoil := s.topsoil.write 64 o bs }).topTouch o bs.length
    if s.wardOn then s.deltas old (o / 64) (lineCount o bs.length) else s
  else s.topTouch o bs.length

/-- Zeroes a range of Topsoil. -/
def State.topZero (s : State) (o n : Nat) : State :=
  if topRange o n then
    let old := s.topsoil
    let s := ({ s with topsoil := s.topsoil.zeroed 64 o n }).topTouch o n
    if s.wardOn then s.deltas old (o / 64) (lineCount o n) else s
  else s.topTouch o n

/-- A write of some bytes of one line of Topsoil or Subsoil under byte enables (R132). -/
def State.topWriteSome (s : State) (l : Nat) (bs : List (Nat × Byte)) : State :=
  if topRange (64 * l) 64 then
    let old := s.topsoil
    let s := ({ s with topsoil := s.topsoil.pokeSome 64 l bs }).topTouch (64 * l) 64
    if s.wardOn then s.deltas old l 1 else s
  else s.topTouch (64 * l) 64

def State.subWriteSome (s : State) (l : Nat) (bs : List (Nat × Byte)) : State :=
  (if s.subRange (64 * l) 64 then { s with subsoil := s.subsoil.pokeSome 64 l bs } else s).subTouch (64 * l) 64

def State.topPutWord (s : State) (o : Nat) (w : Nat) : State := s.topWrite o (leBytes 8 w)

def State.subZero (s : State) (o n : Nat) : State :=
  (if s.subRange o n then { s with subsoil := s.subsoil.zeroed 64 o n } else s).subTouch o n

/-! ### Addresses (R9 to R12, R318, R322) -/

/-- Where a global fabric address leads. -/
inductive Loc where
  | seedbed (o : Nat)
  | top (o : Nat)
  | sub (o : Nat)
  | control (o : Nat)
  /-- Another chip's Topsoil or Subsoil. -/
  | commons (dst : Nat) (subTier : Bool) (o : Nat)
  | refused
  deriving DecidableEq, Repr

/-- R10 and R11 for an access by this chip. -/
def State.locate (s : State) (a : Nat) : Loc :=
  let chip := a / 2 ^ 44 % 2 ^ 20
  let tier := a / 2 ^ 42 % 4
  let o := a % 2 ^ 42
  if chip / 4096 ≠ s.get ROUTE_SELF.RACK ∨ 3 < chip / 256 % 16 ∨ 3 < chip / 16 % 16 ∨ 3 < chip % 16 then .refused
  else if chip = s.self then
    match tier with
    | 0 => if seedbedOk o then .seedbed o else .refused
    | 1 => if topOk o then .top o else .refused
    | 2 => if s.subRange o 1 then .sub o else .refused
    | _ => .control o
  else
    match tier with
    | 1 => .commons chip false o
    | 2 => .commons chip true o
    | _ => .refused

/-- The borrower grant that holds a Commons range, if any (R322): active, or reclaiming. -/
def State.borrowed (s : State) (dst : Nat) (subTier : Bool) (o n : Nat) : Option Nat :=
  (List.range 8).find? fun k =>
    s.flag (TIER_GNT_A.EN k) && !s.flag (TIER_GNT_A.ROLE k) && s.flag (TIER_GNT_A.LTIER k) == subTier &&
    decide (s.get (TIER_GNT_A.STATE k) = 1 ∨ s.get (TIER_GNT_A.STATE k) = 2) &&
    decide (s.get (TIER_GNT_A.PEER k) = rackIndex dst ∧ 65536 * s.get (TIER_GNT_B.BASE k) ≤ o ∧
      o + n ≤ 65536 * (s.get (TIER_GNT_B.BASE k) + s.get (TIER_GNT_A.LEN k)))

/-- Whether the range list refuses an operation (R318). -/
def State.rangeRefuses (s : State) (write : Bool) (a n : Nat) : Bool :=
  s.harrow.ranges.any fun r => decide (a < r.addr + r.len ∧ r.addr < a + n) &&
    (decide (r.kind = .vacated) || write)

/-- Whether an access of `n` bytes at a global fabric address is refused (R10, R311, R312, R318, R322). -/
def State.accessRefused (s : State) (write : Bool) (a n : Nat) : Bool :=
  s.rangeRefuses write a n ||
  match s.locate a with
  | .seedbed o => !seedbedOk (o + n - 1) || decide (o / 2 ^ 20 ≠ (o + n - 1) / 2 ^ 20)
  | .top o => !topRange o n
  | .sub o => !s.subRange o n
  | .commons dst t o => (s.borrowed dst t o n).isNone
  | _ => true

/-- Whether a write at an address must wait for the Ward (R477, R478). -/
def State.writeWaits (s : State) (a n : Nat) : Bool :=
  match s.locate a with
  | .top o => s.wardHolds o n
  | _ => false

/-- The bytes at an address of this chip's own tiers. -/
def State.peek (s : State) (a n : Nat) : List Byte :=
  match s.locate a with
  | .seedbed o => s.seedbed.read 8 o n
  | .top o => s.topPeek o n
  | .sub o => s.subPeek o n
  | _ => List.replicate n 0

def State.touch (s : State) (a n : Nat) : State :=
  match s.locate a with
  | .top o => s.topTouch o n
  | .sub o => s.subTouch o n
  | _ => s

/-- Writes bytes at an address of this chip's own tiers. -/
def State.pokeAt (s : State) (a : Nat) (bs : List Byte) : State :=
  match s.locate a with
  | .seedbed o => { s with seedbed := s.seedbed.write 8 o bs }
  | .top o => s.topWrite o bs
  | .sub o => s.subWrite o bs
  | _ => s

def State.zeroAt (s : State) (a n : Nat) : State :=
  match s.locate a with
  | .seedbed o => { s with seedbed := s.seedbed.zeroed 8 o n }
  | .top o => s.topZero o n
  | .sub o => s.subZero o n
  | _ => s

/-! ### Steps (R239, R467) -/

def stepStopped : Nat := 0
def stepRunning : Nat := 1
def stepBoundary : Nat := 2
def stepAbandoning : Nat := 3
def stepHalted : Nat := 4

def State.stepState (s : State) : Nat := s.get STEP_STATUS.STATE

/-- Sends ABANDON of the current step with a cause to the leader (R239, R385). -/
def State.sendAbandon (s : State) (cause : Nat) : State :=
  s.send 3 0x0202 s.leaderAt
    (stepMsg (s.get STEP_NUM.STEP) [BitVec.ofNat 8 cause, BitVec.ofNat 8 (s.get ROUTE_SELF.INDEX)])

/-- An event that abandons a step, with its cause (R239): charged to the step in progress before FLUSHED, to the
next one after it, absorbed while ABANDONING, and kept for a step that has not begun. -/
def State.charge (s : State) (cause : Nat) : State :=
  let st := s.stepState
  if st = stepAbandoning ∨ s.sched.descHalt then s
  else if st = stepRunning ∨ st = stepBoundary then
    if s.sched.flushedSent && !s.sched.committed then { s with sched := { s.sched with chargeNext := some cause } }
    else s.sendAbandon cause
  else { s with sched := { s.sched with chargeNext := some cause } }

/-- Records an uncorrectable error of the step in progress and charges it (R467). -/
def State.stepError (s : State) (r : ErrRec) : State := (s.errlog { r with stepErr := true }).charge 1

/-- Adds to an event count of a Pass in flight; the counts saturate in the completion record (R222). -/
def State.countPass (s : State) (pseq : Nat) (f : PassCnt → PassCnt) : State :=
  { s with sched := { s.sched with
      inflight := s.sched.inflight.map fun p => if p.pseq = pseq then { p with cnt := f p.cnt } else p } }

/-- What a Field-clocked unit works on: nothing in a power hold (R429). -/
def State.clocked {α : Type} (s : State) (o : Option α) : Option α := if s.flag CANDLE_GOV.HOLD then none else o

/-! ### The memory scoreboard (R227, R228) -/

def boardSize : Nat := 16384

/-- Whether operation `o` is ordered after `e`: `e` is earlier-issued work, one of the two writes, and they overlap. -/
def MemOp.after (o e : MemOp) : Bool :=
  decide (e.order < o.order) && (e.write || o.write) && decide (e.first ≤ o.last ∧ o.first ≤ e.last)

/-- The operations that wait before `o`: a waiting operation keeps its place (R228). -/
def State.waitingBefore (s : State) (o : MemOp) : List MemOp := s.sched.waiting.filter fun e => decide (e.ticket < o.ticket)

/-- Whether an operation must wait: for an entry of earlier-issued work, for earlier-issued work that waits before it, or
for room, which goes first to those that wait before it for nothing else (assumption 58). -/
def State.boardBlocks (s : State) (o : MemOp) : Bool :=
  s.sched.entries.any o.after || (s.waitingBefore o).any o.after ||
    decide (boardSize ≤ s.sched.entries.length + ((s.waitingBefore o).filter fun e => !s.sched.entries.any e.after).length)

/-- Keeps STEP_MSB as the scoreboard stands. -/
def State.boardCount (s : State) : State :=
  let n := s.sched.entries.length
  (s.put STEP_MSB.USED n).put STEP_MSB.HIGH (max n (s.get STEP_MSB.HIGH))

/-- An operation takes an entry. -/
def State.boardTake (s : State) (o : MemOp) : State :=
  State.boardCount { s with sched := { s.sched with entries := s.sched.entries ++ [o] } }

/-- The lines of `[a, a + n)`; an entry without a line range overlaps nothing. -/
def lineRange (a n : Nat) : Nat × Nat := if n = 0 then (2 ^ 60, 0) else (a / 64, (a + n - 1) / 64)

/-- Requests an entry for `[a, a + n)`: the operation takes it, or waits. -/
def State.boardRequest (s : State) (owner : Owner) (order : Nat) (pseq : Option Nat) (write : Bool) (a n : Nat) : State :=
  let r := lineRange a n
  let o : MemOp := ⟨s.sched.nextTicket, owner, order, pseq, write, r.1, r.2, s.field.cycle⟩
  let s := { s with sched := { s.sched with nextTicket := s.sched.nextTicket + 1 } }
  if s.boardBlocks o then { s with sched := { s.sched with waiting := s.sched.waiting ++ [o] } } else s.boardTake o

/-- Whether a Commons access of an owner is unanswered (R227, R322). -/
def State.ownerPending (s : State) (o : Owner) : Bool :=
  s.net.requests.any fun r => decide (r.kind = .commonsWrite (some o) ∨ r.kind = .commonsRead (some o))

/-- The entry that an owner holds. -/
def State.boardHeld (s : State) (owner : Owner) : Bool := s.sched.entries.any fun e => decide (e.owner = owner)

/-- An owner's entry retires. -/
def State.boardRetire (s : State) (owner : Owner) : State :=
  State.boardCount { s with sched := { s.sched with
    entries := s.sched.entries.filter (fun e => decide (e.owner ≠ owner))
    waiting := s.sched.waiting.filter (fun e => decide (e.owner ≠ owner)) } }

/-- A refused descriptor at `addr`, position `idx` of queue `q` (R220): recorded, and the step in progress is abandoned
without replay. Where DETAIL holds the queue and the index the spec does not say: bits [1:0] and above (assumption 58). -/
def State.refuseDesc (s : State) (q idx addr : Nat) : State :=
  let s := ((s.put STEP_ERR.DESC_BAD 1).put STEP_ERR.DESC_Q q).put STEP_ERR.DESC_IDX idx
  let s := s.errlog { cls := 0xB, block := 4, detail := q + 4 * idx, addr := addr }
  let st := s.stepState
  if (st = stepRunning ∨ st = stepBoundary) ∧ !(s.sched.flushedSent && !s.sched.committed) then
    let s := s.sendAbandon 6
    { s.put STEP_STATUS.STATE stepHalted with sched := { s.sched with descHalt := true } }
  else s.charge 6

/-! ### Tags (R226) -/

def State.tagReady (s : State) (t : Nat) : Bool := decide (s.get (STEP_TAGS.TAG (t / 64)) / 2 ^ (t % 64) % 2 = 1)

def State.setTag (s : State) (t : Nat) : State := s.put (STEP_TAGS.TAG (t / 64)) (s.get (STEP_TAGS.TAG (t / 64)) ||| 2 ^ (t % 64))

end Sys2Proof.Machine
end

