-- ==== Sys2Proof/Machine/Route.lean ====
section
/-!
DEFINITION. Route tables, multicast groups and the slice descriptor (R392 to R404, R409).
-/
namespace Sys2Proof.Machine

/-- LINK_STATE values (R408). -/
def linkOff : Nat := 0
def linkTraining : Nat := 1
def linkHello : Nat := 2
def linkUp : Nat := 3
def linkMgmt : Nat := 4
def linkIsDown : Nat := 8
def linkDeparted : Nat := 9

/-- The member links of a port (R370). -/
def State.portLinks (s : State) (p : Nat) : List Nat :=
  (List.range 24).filter fun l => s.get (LINK_STATE.PORT l) == p && s.get (LINK_STATE.ROLE l) != 0

/-- How the tables see a link: UP, MGMT or nothing (R404). -/
def State.tableLink (s : State) (l : Nat) : Nat := KMap.get (fun _ => 0) s.net.inTable l

/-- Whether the tables treat a port as up; a MGMT member counts for VCs 3 and 4 only (R401). -/
def State.portUsable (s : State) (mgmt : Bool) (p : Nat) : Bool :=
  (s.portLinks p).any fun l => s.tableLink l == linkUp || mgmt && s.tableLink l == linkMgmt

/-- Coordinate `k` (0 for x) of rack chip `d`. -/
def coord (d k : Nat) : Nat := d / 4 ^ k % 4

/-- The neighbour of rack chip `d` by one step of dimension `k`. -/
def neighbour (d k : Nat) (positive : Bool) : Nat :=
  let c := coord d k
  d - c * 4 ^ k + (if positive then (c + 1) % 4 else (c + 3) % 4) * 4 ^ k

/-- The shorter way round the ring, the positive way on a tie (R396). -/
def ringPositive (a b : Nat) : Bool := decide ((b + 4 - a) % 4 ≤ 2)

/-- The first dimension in which two chips differ (R396). -/
def firstDim (a b : Nat) : Option Nat := (List.range 3).find? fun k => coord a k != coord b k

/-- The extent minus one and the origin of a slice's dimension. -/
def Slice.ext (c : Slice) (k : Nat) : Nat := if k = 0 then c.exM1 else if k = 1 then c.eyM1 else c.ezM1
def Slice.org (c : Slice) (k : Nat) : Nat := if k = 0 then c.ox else if k = 1 then c.oy else c.oz

/-- The direction of the next hop in dimension `k` (R396). -/
def hopPositive (slice : Option Slice) (me d k : Nat) : Bool :=
  match slice with
  | none => ringPositive (coord me k) (coord d k)
  | some c =>
    if c.ext k = 3 then ringPositive (coord me k) (coord d k)
    else decide ((coord me k + 4 - c.org k) % 4 < (coord d k + 4 - c.org k) % 4)

/-- The torus port of a direction (R370). -/
def torusPort (k : Nat) (positive : Bool) : Nat := 2 * k + (if positive then 0 else 1)

/-- An entry of a route table (R409). -/
structure RouteEntry where
  port : Nat
  detour : Bool
  unreach : Bool
  loc : Bool
  outside : Bool
  deriving DecidableEq, Repr

def RouteEntry.bits (e : RouteEntry) : Nat :=
  e.port + 16 * bit e.detour + 32 * bit e.unreach + 64 * bit e.loc + 128 * bit e.outside

def State.failed (s : State) (d : Nat) : Bool := bitOf s.net.failedSeen d

/-- The first UP switch port from switch chip (d + s) mod 8 on, in ascending order (R402, assumption 14). -/
def State.switchPort (s : State) (mgmt : Bool) (d me : Nat) : Option Nat :=
  ((List.range 8).map fun i => 6 + (d + me + i) % 8).find? (s.portUsable mgmt)

/-- The entry for rack chip `d`, over the slice table of `slice` or, with none, the rack table (R396, R402). -/
def State.routeTo (s : State) (slice : Option Slice) (mgmt : Bool) (d : Nat) : RouteEntry :=
  let me := s.get ROUTE_SELF.XYZ
  match firstDim me d with
  | none => ⟨0, false, false, true, false⟩
  | some k =>
    let pos := hopPositive slice me d k
    let port := torusPort k pos
    let detourEn := (slice.map (·.detourEn)).getD true
    if s.failed d then ⟨port, false, true, false, false⟩
    else if s.portUsable mgmt port && !s.failed (neighbour me k pos) then ⟨port, false, false, false, false⟩
    else match s.switchPort mgmt d me with
      | some p => if detourEn then ⟨p, true, false, false, false⟩ else ⟨port, false, true, false, false⟩
      | none => ⟨port, false, true, false, false⟩

/-- The slice-table entry for rack chip `d`: a replaced position leads to its substitute, which the rack table
reaches (R396, R484). -/
def State.sliceEntry (s : State) (c : Slice) (mgmt : Bool) (d : Nat) : RouteEntry :=
  let t := s.standIn d
  if !c.has d && s.position d == d then ⟨0, false, false, false, true⟩
  else if c.has t && c.has (s.get ROUTE_SELF.XYZ) then s.routeTo (some c) mgmt t
  else s.routeTo none mgmt t

/-- The children of a chip in the tree of group 0 (R398). -/
def Slice.children (c : Slice) (d : Nat) : List Nat :=
  let r := c.rel d
  let at_ (x y z : Nat) : Nat := (c.ox + x) % 4 + 4 * ((c.oy + y) % 4) + 16 * ((c.oz + z) % 4)
  (if r.2.1 = 0 ∧ r.2.2 = 0 ∧ r.1 < c.exM1 then [at_ (r.1 + 1) r.2.1 r.2.2] else []) ++
  (if r.2.2 = 0 ∧ r.2.1 < c.eyM1 then [at_ r.1 (r.2.1 + 1) r.2.2] else []) ++
  (if r.2.2 < c.ezM1 then [at_ r.1 r.2.1 (r.2.2 + 1)] else [])

/-- The live chips that stand for a list of tree children: a failed one gives its own children (R398). -/
def State.liveChildren (s : State) (c : Slice) : Nat → List Nat → List Nat
  | 0, _ => []
  | fuel + 1, ds => ds.flatMap fun d =>
    if s.failed (s.standIn d) then s.liveChildren c fuel (c.children d) else [s.standIn d]

/-- The chips to which this chip copies a group 0 packet. -/
def State.group0 (s : State) : List Nat :=
  match s.net.slice with
  | some c => s.liveChildren c 64 (c.children (s.position (s.get ROUTE_SELF.XYZ)))
  | none => []

/-- Eight table entries as a register. -/
def tableWord (f : Nat → RouteEntry) (k : Nat) : Nat :=
  (List.range 8).foldl (fun a j => a + (f (8 * k + j)).bits * 2 ^ (8 * j)) 0

/-- Recomputes both tables, group 0 and ROUTE_STATUS from their inputs (R396, R398). -/
def State.recompute (s : State) : State :=
  let rack := fun d => s.routeTo none false d
  let sl := fun d => match s.net.slice with
    | some c => s.sliceEntry c false d
    | none => ⟨0, false, false, false, false⟩
  let t := s.each (List.range 8) fun t k =>
    (t.put (ROUTE_RTAB.ENTRIES k) (tableWord rack k)).put (ROUTE_STAB.ENTRIES k) (tableWord sl k)
  let ports := s.group0.foldl (fun a d => a ||| 2 ^ (sl d).port) 0
  let inSlice := s.net.slice.isSome
  let t := (((t.put (ROUTE_MC.PORTS 0) ports).put (ROUTE_MC.LOCAL 0) (bit inSlice)).put (ROUTE_MC.EN 0)
    (bit inSlice)).put (ROUTE_MC.JOB 0) 0
  let up := (List.range 16).foldl (fun a p =>
    if (s.portLinks p).any fun l => s.get (LINK_STATE.STATE l) == linkUp then a + 2 ^ p else a) 0
  let det := (List.range 64).any fun d => (rack d).detour || (sl d).detour
  (t.put ROUTE_STATUS.PORT_UP up).put ROUTE_STATUS.DETOURING (bit det)

/-- A link or a failed mark is taken off the tables at once (R404). -/
def State.dropLink (s : State) (l : Nat) : State :=
  let s := { s with net := { s.net with
    inTable := KMap.set (fun _ => 0) s.net.inTable l 0, returning := KMap.set (fun _ => false) s.net.returning l false } }
  s.recompute

/-- Every return that awaits a boundary takes effect (R404). -/
def State.routeReturn (s : State) : State :=
  let back := (List.range 24).filter fun l => KMap.get (fun _ => false) s.net.returning l
  let s := s.each back fun s l => { s with net := { s.net with
    inTable := KMap.set (fun _ => 0) s.net.inTable l (s.get (LINK_STATE.STATE l))
    returning := KMap.set (fun _ => false) s.net.returning l false } }
  let s := { s with net := { s.net with failedSeen := BitVec.ofNat 64 (s.get ROUTE_FAILED.FAILED) } }
  (s.put ROUTE_STATUS.RETURN_PEND 0).recompute

/-- A link returns: at once outside a slice, else at the next boundary (R404). -/
def State.returnLink (s : State) (l : Nat) : State :=
  let s := { s with net := { s.net with returning := KMap.set (fun _ => false) s.net.returning l true } }
  if s.net.slice.isSome then (s.put ROUTE_STATUS.RETURN_PEND 1).recompute else s.routeReturn

/-- Marks of failed chips change: new marks act at once, cleared ones as returns (R401, R404). -/
def State.setFailed (s : State) (marks : Nat) : State :=
  let s := s.put ROUTE_FAILED.FAILED marks
  let s := { s with net := { s.net with failedSeen := s.net.failedSeen ||| BitVec.ofNat 64 marks } }
  if s.net.failedSeen = BitVec.ofNat 64 marks then s.recompute
  else if s.net.slice.isSome then (s.put ROUTE_STATUS.RETURN_PEND 1).recompute else s.routeReturn

/-! ### The slice descriptor (R392 to R394) -/

/-- The descriptor in ROUTE_SLICE0 to ROUTE_SLICE3. -/
def State.sliceWord (s : State) (k : Nat) : W64 := s.reg (0xF0000 + 8 * k)

def sliceOf (w0 w1 w2 : W64) : Slice :=
  { ox := bitsOf w0 0 2, oy := bitsOf w0 2 2, oz := bitsOf w0 4 2, exM1 := bitsOf w0 6 2, eyM1 := bitsOf w0 8 2,
    ezM1 := bitsOf w0 10 2, job := bitsOf w0 16 16, gen := bitsOf w0 32 16, keyslot := bitsOf w1 0 16,
    detourEn := bitOf w2 0 }

/-- The zero bits of a descriptor (R392). -/
def sliceZeroBad (w0 w1 w2 : W64) : Bool :=
  bitsOf w0 13 3 != 0 || bitsOf w0 48 16 != 0 || bitsOf w1 16 48 != 0 || bitsOf w2 1 63 != 0

/-- A lender grant that is enabled (R322, R393), and one that is not revoked (R325, R516). -/
def State.lenderEnabled (s : State) : Bool :=
  (List.range 8).any fun k => s.flag (TIER_GNT_A.EN k) && s.flag (TIER_GNT_A.ROLE k)

def State.lenderHolds (s : State) : Bool :=
  (List.range 8).any fun k => s.flag (TIER_GNT_A.EN k) && s.flag (TIER_GNT_A.ROLE k) &&
    s.get (TIER_GNT_A.STATE k) != 3

/-- Whether STATE is STOPPED or HALTED. -/
def State.idleState (s : State) : Bool := decide (s.stepState = stepStopped ∨ s.stepState = stepHalted)

/-- Whether a WARD_SUBST entry names this chip as BY for a position of the slice (R484). -/
def State.isSubstitute (s : State) (c : Slice) : Bool :=
  s.substRegs.any fun e => e.2 == s.get ROUTE_SELF.XYZ && c.has e.1

/-- R393 and R504: the reasons that refuse an APPLY. -/
def State.applyBad (s : State) : Bool :=
  let w0 := s.sliceWord 0
  let w1 := s.sliceWord 1
  let w2 := s.sliceWord 2
  let c := sliceOf w0 w1 w2
  let me := s.get ROUTE_SELF.XYZ
  let geometry (a : Slice) := (a.ox, a.oy, a.oz, a.exM1, a.eyM1, a.ezM1)
  !s.idleState || !(c.has me || s.isSubstitute c) || s.lenderEnabled ||
  decide ((s.sliceWord 3).toNat ≤ s.net.lastIssued) || sliceZeroBad w0 w1 w2 || c.job == 0 || !bitOf w0 12 ||
  decide (15 < c.keyslot) || s.lamp.prevSlot == some c.keyslot ||
  (match s.net.slice with
   | some o => c.job == o.job &&
      (!(c.gen == o.gen || c.gen == (o.gen + 1) % 65536) || (c.gen == o.gen && geometry c != geometry o))
   | none => false) ||
  (c.job != s.get LAMP_JOB.LAST_JOB && !s.flag LAMP_JOB.SCRUBBED) || s.flag LAMP_SEC.DBG_UNLOCKED || s.lamp.draining

/-- Puts the chip in a slice, as ROUTE_SELF and STEP_STATUS show it. -/
def State.enterSlice (s : State) (c : Slice) : State :=
  let me := s.position (s.get ROUTE_SELF.XYZ)
  let i := c.index me
  let s := { s with net := { s.net with slice := some c } }
  ((((s.put ROUTE_SELF.IN_SLICE 1).put ROUTE_SELF.INDEX i).put ROUTE_SELF.LEADER (bit (i == 0))).put STEP_STATUS.LEADER
    (bit (i == 0))).recompute

/-- Takes the chip out of its slice (R393). -/
def State.leaveSlice (s : State) : State :=
  let s := { s with net := { s.net with slice := none } }
  ((((s.put ROUTE_SELF.IN_SLICE 0).put ROUTE_SELF.INDEX 0).put ROUTE_SELF.LEADER 0).put STEP_STATUS.LEADER 0).routeReturn

/-- An APPLY that is accepted (R393, R504 to R506, R517). One on a chip that still waits for the key of its join is the join
again (R506). -/
def State.applySlice (s : State) : State :=
  let c := sliceOf (s.sliceWord 0) (s.sliceWord 1) (s.sliceWord 2)
  let join := (s.net.slice.isNone || s.lamp.joining) && s.isSubstitute c
  let same := match s.net.slice with
    | some o => c.job == o.job && c.gen == o.gen && !join
    | none => false
  let s := { s with net := { s.net with lastIssued := (s.sliceWord 3).toNat, subst := s.substRegs } }
  let s := if c.job = s.get LAMP_JOB.LAST_JOB then s else (s.put LAMP_JOB.LAST_JOB c.job).put LAMP_JOB.SCRUBBED 0
  let old := s.net.slice.map (·.keyslot)
  let s := s.enterSlice (if same then { c with keyslot := old.getD c.keyslot } else c)
  if same then s
  else
    let s := ((s.put LAMP_JOB.GEN c.gen).put LAMP_JOB.KEYSLOT c.keyslot).put LAMP_JOB.KEYED 0 |>.put LAMP_JOB.DRAINED 0
    if join then { s with lamp := { s.lamp with joining := true, keyWait := true } }
    else { s with lamp := { s.lamp with draining := true, prevSlot := old, keyWait := true } }

end Sys2Proof.Machine
end

