-- ==== Sys2Proof/Machine/Packet.lean ====
section
/-!
DEFINITION. Packets: injection, encryption, forwarding, multicast copies and delivery (R376 to R383, R395 to R402,
R407).
-/
namespace Sys2Proof.Machine

/-! ### Encryption (R377) -/

/-- The head flit as 64 bytes. DETOUR counts as 0, since a chip on the way may set it, and so does DST of a multicast packet,
which is ignored (R398, assumption 15). -/
def headBytes (p : Packet) : List Byte :=
  leBytes 8 ((if p.mcast then 0 else p.dst.toNat) + 2 ^ 20 * bit p.mcast + 2 ^ 21 * p.group.toNat + 2 ^ 27 * p.vc.toNat +
    2 ^ 30 * p.payload.length + 2 ^ 36 * p.op.toNat + 2 ^ 41 * p.priv.toNat + 2 ^ 48 * p.job.toNat) ++
  leBytes 8 p.addr.toNat ++
  leBytes 8 (p.src.toNat + 2 ^ 20 * p.tag.toNat + 2 ^ 36 * p.gen.toNat) ++ leBytes 8 p.ctr.toNat ++
  List.replicate 32 0

/-- The 96-bit IV. -/
def packetIv (p : Packet) : Nat := p.src.toNat % 4096 * 2 ^ 84 + p.vc.toNat * 2 ^ 81 + p.ctr.toNat

def bytesToNats (bs : List Byte) : List Nat := bs.map (·.toNat)
def payloadNats (p : Packet) : List Nat := p.payload.flatMap fun f => bytesToNats (payBytes f)
def natsToFlits (n : Nat) (l : List Nat) : List Payload := flitsOf n (l.map (BitVec.ofNat 8))

def keySchedule (key : Nat) : List (List Nat) := aesKeys (natBytes 32 key)

/-- Whether a VC is encrypted (R379). -/
def vcEncrypted (vc : Nat) : Bool := decide (vc = 0 ∨ vc = 1 ∨ 5 ≤ vc)

/-- Whether a VC is slice-bound (R379). -/
def vcSliceBound (vc : Nat) : Bool := decide (vc = 0 ∨ vc = 1 ∨ vc = 5)

def encryptPacket (key : Nat) (p : Packet) : Packet :=
  let ks := keySchedule key
  let c := gcmText ks (packetIv p) (payloadNats p)
  { p with payload := natsToFlits p.payload.length c,
           gcmTag := BitVec.ofNat 128 (gcmTag ks (packetIv p) (bytesToNats (headBytes p)) c) }

/-- The decrypted packet, when its tag verifies. -/
def decryptPacket (key : Nat) (p : Packet) : Option Packet :=
  let ks := keySchedule key
  let c := payloadNats p
  if gcmTag ks (packetIv p) (bytesToNats (headBytes p)) c = p.gcmTag.toNat then
    some { p with payload := natsToFlits p.payload.length (gcmText ks (packetIv p) c), gcmTag := 0 }
  else none

/-- A link key by slot. -/
def State.linkKey (s : State) (slot : Nat) : Option Nat :=
  let k := KMap.get (fun _ => 0) s.lamp.linkKeys slot
  if k = 0 then none else some (k - 1)

/-- This chip's key for the packets of a VC (R377, R512). -/
def State.sendKey (s : State) (vc : Nat) : Option Nat :=
  if vcSliceBound vc then s.linkKey (s.get LAMP_JOB.KEYSLOT) else s.lamp.fabricKey

/-- The key of a received packet (R377, R395, R505): the current or the draining link key, or the sender's. -/
def State.recvKey (s : State) (p : Packet) : Option Nat :=
  if vcSliceBound p.vc.toNat then
    if p.gen.toNat = s.gen then s.linkKey (s.get LAMP_JOB.KEYSLOT) else s.lamp.prevSlot.bind s.linkKey
  else if p.src.toNat = s.self then s.lamp.fabricKey
  else
    let k := KMap.get (fun _ => 0) s.lamp.peerFabric (rackIndex p.src.toNat)
    if k = 0 then none else some (k - 1)

/-! ### Routing one packet -/

/-- Whether the packet travels by the slice table at this chip: a slice-bound packet of its own slice. -/
def State.ownSlice (s : State) (p : Packet) : Bool :=
  vcSliceBound p.vc.toNat && s.net.slice.isSome && decide (p.job.toNat = s.job)

/-- The route of a packet toward rack chip `d` (R396, R402): a copy on group 0 of its slice goes by the slice table (R398), and
a packet with DETOUR set does not detour again. -/
def State.packetRoute (s : State) (p : Packet) (d : Nat) : RouteEntry :=
  let mgmt := decide (p.vc = 3 ∨ p.vc = 4)
  let e := match s.net.slice with
    | some c =>
      if s.ownSlice p || p.mcast && p.group == 0 && decide (p.job.toNat = s.job) then s.sliceEntry c mgmt d else s.routeTo none mgmt d
    | none => s.routeTo none mgmt d
  if p.detour && e.detour then { e with detour := false, unreach := true } else e

/-- The chip that a port leads to from rack chip `me`; switch ports lead to none. -/
def portChip (me port : Nat) : Option Nat := if port < 6 then some (neighbour me (port / 2) (port % 2 == 0)) else none

/-- The VC of a hop: VC 2 when its receiver lies outside the packet's slice (R397). -/
def State.hopVc (s : State) (p : Packet) (port d : Nat) : Nat :=
  if !vcSliceBound p.vc.toNat then p.vc.toNat
  else match portChip (s.get ROUTE_SELF.XYZ) port with
    | none => 2
    | some n =>
      let inSlice := if s.ownSlice p then (s.net.slice.map fun c => c.has n).getD false else decide (n = d)
      if inSlice then p.vc.toNat else 2

/-- The buffer class at the receiver of a hop (R382); `d1` is the class in which the packet arrived in dimension
`from_`. -/
def hopD1 (me port : Nat) (detour : Bool) (arrival : Option (Nat × Bool)) : Bool :=
  match portChip me port with
  | none => false
  | some n =>
    let k := port / 2
    let wrap := decide ((coord me k = 3 ∧ coord n k = 0) ∨ (coord me k = 0 ∧ coord n k = 3))
    let kept := match arrival with
      | some (port', d1) => d1 && decide (port' / 2 = k)
      | none => false
    detour || wrap || kept

/-- Queues a packet at a port. -/
def State.enqueue (s : State) (p : Packet) (port d : Nat) (mcast : Bool) (arrival : Option (Nat × Bool)) (held : Nat) : State :=
  let t : TxPacket := ⟨port, s.hopVc p port d, hopD1 (s.get ROUTE_SELF.XYZ) port p.detour arrival, p, mcast, held⟩
  { s with net := { s.net with tx := s.net.tx ++ [t] } }

/-- The message kinds of R385. -/
def messageKinds : List Nat :=
  [0x0101, 0x0102, 0x0103, 0x0201, 0x0202, 0x0203, 0x0204, 0x0205, 0x0206, 0x0207, 0x0301, 0x0302, 0x0303, 0x0304, 0x0401,
    0x0402, 0x0403, 0x0501, 0x0502, 0x0503, 0x0504, 0x0505, 0x0506, 0x0507, 0x0508, 0x0601, 0x0602]

/-- Whether a port is the host port (R406). -/
def State.isHostPort (s : State) (port : Nat) : Bool :=
  s.flag ROUTE_SELF.BRIDGE && (s.portLinks port).any fun l => l == 23 && s.get (LINK_STATE.ROLE l) == 3

/-- Delivers a packet to this chip. What a message does is the command of its kind; one of an unknown kind is discarded
and counted (R384). A reserved OP is discarded. An answer on VC 4 goes on through the host port (R384, R407). -/
def State.deliver (s : State) (p : Packet) : State :=
  if p.vc = 4 ∧ (p.op = 3 ∨ p.op = 5 ∨ p.op = 6) then
    match (List.range 16).find? s.isHostPort with
    | some q => s.enqueue p q 64 false none 0
    | none => s
  else if p.op = 4 then (if messageKinds.contains (p.addr.toNat % 65536) then s else s.linkErr 9 0)
  else if p.op = 0 ∨ 6 < p.op.toNat then s
  else { s with net := { s.net with delivered := s.net.delivered ++ [p] } }

/-- Sends a packet on its way to rack chip `d`, or discards it as unreachable (R402). -/
def State.forward (s : State) (p : Packet) (d : Nat) (mcast : Bool) (arrival : Option (Nat × Bool)) (held : Nat) : State :=
  let e := s.packetRoute p d
  if e.unreach || e.outside then s.linkErr 13 0
  else s.enqueue { p with detour := p.detour || e.detour } e.port d mcast arrival held

/-- The ports of a group other than 0. -/
def State.groupPorts (s : State) (g : Nat) : List Nat :=
  (List.range 16).filter fun q => s.get (ROUTE_MC.PORTS g) / 2 ^ q % 2 = 1

/-- The plain packet for local delivery: as it was before encryption, or as its authentication gives it (R377,
R395). -/
def State.accept (s : State) (p : Packet) : State :=
  let vc := p.vc.toNat
  if vcSliceBound vc && !(decide (p.job.toNat = s.job) && s.net.slice.isSome &&
      (decide (p.gen.toNat = s.gen) || s.lamp.draining && decide ((p.gen.toNat + 1) % 65536 = s.gen))) then s.linkErr 8 0
  else if vcEncrypted vc then
    match (s.recvKey p).bind fun k => decryptPacket k p with
    | some q => s.deliver q
    | none => s.linkErr 7 0
  else if vc = 4 ∧ 2 ≤ p.priv.toNat ∧
      !((s.net.plan.map fun pl => pl.bridges.any fun b => Config.planPosition b % 64 == rackIndex p.src.toNat).getD false) then
    (s.addrFault 0xE p.addr.toNat).replyRefused p
  else s.deliver p

/-- Copies of a multicast packet at this chip (R398, R399). -/
def State.copyOut (s : State) (p : Packet) (arrival : Option (Nat × Bool)) (held : Nat) (loc : State → State) : State :=
  let g := p.group.toNat
  if g = 0 then
    let s := s.each s.group0 fun s d => s.forward { p with dst := BitVec.ofNat 20 (s.chipAt d) } d true arrival held
    loc s
  else if s.flag (ROUTE_MC.EN g) then
    let s := s.each (s.groupPorts g) fun s q => s.enqueue p q ((portChip (s.get ROUTE_SELF.XYZ) q).getD 64) true arrival held
    if s.flag (ROUTE_MC.LOCAL g) then loc s else s
  else s

/-! ### Injection (R377, R395, R398, R402, R505) -/

/-- Whether a packet goes to another chip under this chip's fabric key (R377, R512). -/
def State.fabricBound (s : State) (p : Packet) : Bool :=
  vcEncrypted p.vc.toNat && !vcSliceBound p.vc.toNat && !p.mcast && decide (p.dst.toNat ≠ s.self)

/-- Whether injection of a packet must wait: slice-bound packets during a drain or without a key, fabric packets
without a key or until the destination has acknowledged it (R505, R506, R512). -/
def State.injectHeld (s : State) (p : Packet) (acked : Bool) : Bool :=
  let vc := p.vc.toNat
  vcSliceBound vc && (s.lamp.draining || s.lamp.joining) || vcEncrypted vc && (s.sendKey vc).isNone ||
    s.fabricBound p && !acked && !s.lamp.acked.contains (rackIndex p.dst.toNat)

/-- Keeps that the destination of a fabric packet has acknowledged the current key (R512). -/
def State.keepAck (s : State) (p : Packet) : State :=
  let d := rackIndex p.dst.toNat
  if s.fabricBound p && !s.lamp.acked.contains d then { s with lamp := { s.lamp with acked := s.lamp.acked ++ [d] } } else s

/-- A packet of a segment, whose address is the offset in the segment: it is acknowledged when the whole segment has been
taken (R264, R270, assumption 17). -/
def isSegment (p : Packet) : Bool := decide (p.vc.toNat < 2 ∧ p.addr.toNat < 2 ^ 42)

/-- Whether a READ or WRITE names an address that R10 refuses at the issuer: another chip's Seedbed, its control space below
L2, or no chip of this rack. -/
def State.addrRefused (s : State) (p : Packet) : Bool :=
  let a := p.addr.toNat
  let chip := a / 2 ^ 44 % 2 ^ 20
  decide (p.op = 1 ∨ p.op = 2) && !isSegment p &&
    (decide (chip / 4096 ≠ s.get ROUTE_SELF.RACK ∨ 3 < chip / 256 % 16 ∨ 3 < chip / 16 % 16 ∨ 3 < chip % 16) ||
      decide (chip ≠ s.self) && (decide (a / 2 ^ 42 % 4 = 0) || decide (a / 2 ^ 42 % 4 = 3 ∧ p.priv.toNat < 2)))

/-- Why an injection is refused: an address fault, with LINK_ERR.SLICE for a slice-bound packet that would leave its
slice or a group 0 packet of another chip than the origin (R10, R395, R398). -/
def State.injectRefused (s : State) (p : Packet) : Option Bool :=
  let d := p.dst.toNat
  if p.mcast then
    if p.group = 0 ∧ !(s.net.slice.isSome && s.leads) then some true else none
  else if d / 4096 ≠ s.get ROUTE_SELF.RACK ∨ 3 < d / 256 % 16 ∨ 3 < d / 16 % 16 ∨ 3 < d % 16 then some false
  else if s.addrRefused p then some false
  else if vcSliceBound p.vc.toNat && (s.indexOf d).isNone then some true
  else none

/-- The packet as it leaves the source: CTR taken, payload encrypted (R377). -/
def State.sealPacket (s : State) (p : Packet) : Packet :=
  let vc := p.vc.toNat
  let p := { p with ctr := BitVec.ofNat 64 (KMap.get (fun _ => 0) s.net.ctr vc) }
  if vcEncrypted vc then
    match s.sendKey vc with
    | some k => encryptPacket k p
    | none => p
  else p

/-- Takes the packet out of the outbox, if it is there. -/
def State.unpost (s : State) (p : Packet) : State := { s with net := { s.net with outbox := s.net.outbox.erase p } }

/-- A READ or WRITE of this chip that is refused at injection is answered here (R10, R378). -/
def State.refuseOwn (s : State) (p : Packet) : State := s.replyRefused { p with src := BitVec.ofNat 20 s.self }

/-- A packet of this chip for another one goes out, or is refused as unreachable (R402). -/
def State.sendOut (s : State) (p q : Packet) : State :=
  let e := s.packetRoute p (rackIndex p.dst.toNat)
  if e.unreach || e.outside then (s.linkErr 13 0).refuseOwn p else s.forward q (rackIndex p.dst.toNat) false none 0

def execPacketInject (i : Injected) (s : State) : Host.Outcome State Fault Refusal :=
  let p := i.pkt
  if s.injectHeld p i.acked then .next s
  else
    let s := (s.keepAck p).unpost p
    match s.injectRefused p with
    | some slice =>
      let s := (s.addrFault 0xE p.addr.toNat).refuseOwn p
      .next (if slice then s.linkErr 9 0 else s)
    | none =>
      let vc := p.vc.toNat
      let q := s.sealPacket p
      let s := { s with net := { s.net with
        ctr := KMap.set (fun _ => 0) s.net.ctr vc (KMap.get (fun _ => 0) s.net.ctr vc + 1) } }
      if p.mcast then .next (s.copyOut q none 0 fun s => s.deliver p)
      else if p.dst.toNat = s.self then .next (s.deliver p)
      else .next (s.sendOut p q)

/-! ### Reception (R397 to R399, R407) -/

def creditKey (port vc : Nat) (d1 : Bool) : Nat := 256 * port + 2 * vc + bit d1

/-- Flits of a packet (R376). -/
def flitCount (p : Packet) : Nat := 1 + p.payload.length + bit (vcEncrypted p.vc.toNat)

/-- Whether the host session refuses a packet of the host port: control space of another chip below L2, or a
destination outside the session job's slice (R10, R523). -/
def State.hostRefuses (s : State) (p : Packet) : Bool :=
  let lvl := s.get LAMP_HSESS.LEVEL
  let away := decide (p.dst.toNat ≠ s.self)
  let control := decide (p.addr.toNat / 2 ^ 42 % 4 = 3)
  (away && control && decide (lvl < 2)) || (away && decide (lvl = 0)) || (!control && decide (lvl = 0)) ||
    (decide (lvl = 1) && away && !(decide (s.get LAMP_HSESS.JOB = s.job) && (s.indexOf p.dst.toNat).isSome))

/-- Returns the credits of a packet that has left its input buffer (R381). -/
def State.freeBuffer (s : State) (held : Nat) (p : Packet) : State :=
  if held = 0 ∨ s.net.tx.any (fun t => t.held == held && decide (t.pkt.ctr = p.ctr ∧ t.pkt.src = p.src ∧ t.pkt.tag = p.tag)) then s
  else { s with net := { s.net with
    owed := KMap.set (fun _ => 0) s.net.owed (held - 1) (KMap.get (fun _ => 0) s.net.owed (held - 1) + flitCount p) } }

/-- The packet of a segment that has just been delivered keeps its input buffer until the segment is taken (R257). -/
def State.holdSegment (s : State) (held : Nat) : State :=
  match s.net.delivered.getLast? with
  | none => s
  | some p => { s with net := { s.net with segHeld := s.net.segHeld ++ [(held, p)] } }

/-- A packet of a segment is taken: it is acknowledged, and its input buffer returns its credits (R264, R378, R381). -/
def State.segmentTaken (s : State) (p : Packet) : State :=
  let h := s.net.segHeld.find? fun e => decide (e.2 = p)
  let s := { s with net := { s.net with
    delivered := s.net.delivered.erase p
    segHeld := s.net.segHeld.filter fun e => some e != h } }
  (h.elim s fun e => s.freeBuffer e.1 p).reply p 5 []

def execPacketReceive (port : Fin 16) (d1 : Bool) (p : Packet) (s : State) : Host.Outcome State Fault Refusal :=
  let s := { s with net := { s.net with rx := s.net.rx.erase (port.val, d1, p) } }
  let host := s.isHostPort port.val
  let p := if host then { p with priv := BitVec.ofNat 2 (s.get LAMP_HSESS.LEVEL), vc := 4 } else p
  let held := creditKey port.val (if vcSliceBound p.vc.toNat && !s.ownSlice p then 2 else p.vc.toNat) d1 + 1
  let arrival := some (port.val, d1)
  let n := s.net.delivered.length
  let s :=
    if host && s.hostRefuses p then (s.addrFault 0xE p.addr.toNat).replyRefused p
    else if p.mcast && p.group == 0 && decide (p.dst.toNat ≠ s.self) then
      s.forward p (rackIndex p.dst.toNat) true arrival held
    else if p.mcast then
      if p.group = 0 ∧ p.src.toNat ≠ s.leaderAt then s.linkErr 9 0
      else s.copyOut p arrival held fun s => s.accept p
    else if p.dst.toNat = s.self then s.accept p
    else s.forward p (rackIndex p.dst.toNat) false arrival held
  .next (if n < s.net.delivered.length ∧ (s.net.delivered.getLast?).any isSegment then s.holdSegment held else s.freeBuffer held p)

/-! ### Age and loss (R399, R400) -/

/-- The loss of a packet: one of VC 0, 1 or 5 of the own slice is an error of the step in which it was sent. -/
def State.lose (s : State) (t : TxPacket) : State :=
  if vcSliceBound t.pkt.vc.toNat then
    let own := decide (t.pkt.job.toNat = s.job)
    let s := s.errlog { cls := 9, block := 0xE, addr := t.pkt.addr.toNat, stepErr := own }
    if own then s.charge 1 else s
  else s

/-- The packet at the head of a VC of a port. -/
def State.headOf (s : State) (port vc : Nat) : Option TxPacket := s.net.tx.find? fun t => t.port == port && t.vc == vc

def execPacketAgeTimeout (port : Fin 16) (vc : BitVec 3) (s : State) : Host.Outcome State Fault Refusal :=
  match s.headOf port.val vc.toNat with
  | none => .next s
  | some t =>
    let s := { s with net := { s.net with tx := s.net.tx.erase t } }
    let s := (s.linkErr (if t.mcast then 12 else 10) ((s.portLinks port.val).headD 0)).lose t
    .next (s.freeBuffer t.held t.pkt)

def execMcStallWarn (port : Fin 16) (vc : BitVec 3) (s : State) : Host.Outcome State Fault Refusal :=
  match s.headOf port.val vc.toNat with
  | some t => .next (if t.mcast then s.linkErr 11 ((s.portLinks port.val).headD 0) else s)
  | none => .next s

end Sys2Proof.Machine
end

