-- ==== Sys2Proof/Machine/Errors.lean ====
section
/-!
DEFINITION. What a read of a memory tier meets: corrected and uncorrectable codewords, their records, the step that
they are charged to, and the repair of protected lines (R464 to R469).
-/
namespace Sys2Proof.Machine

/-- The marked granules of `[a, a + n)`. -/
def Mem.badIn (m : Mem) (gran a n : Nat) : List Nat :=
  if n = 0 then []
  else (m.bad.filter fun e => decide (a / gran ≤ e.1 ∧ e.1 ≤ (a + n - 1) / gran)).map (·.1)

/-- Whether the Ward can rebuild the Topsoil line `l` from its stripe: it lies in a protected range or in the parity
area while the Ward is ON (R469). -/
def State.lineProtected (s : State) (l : Nat) : Bool :=
  decide (s.get WARD_STATUS.STATE = 2) &&
  ((s.wardUnitOf (64 * l)).isSome ||
    decide (s.get WARD_PAR.BASE ≤ l / 1024 ∧ l / 1024 < s.get WARD_PAR.BASE + s.get WARD_PAR.LEN))

/-- Clears a line's mark: the stripe gives its stored value again (R469). -/
def State.repairLine (s : State) (l : Nat) : State := { s with topsoil := s.topsoil.mark l false }

/-- Sets REPAIRED in the error records of a line (R469). -/
def State.markRepaired (s : State) (addr : Nat) : State :=
  s.each (List.range 256) fun s i =>
    if s.get (ERRLOG_REC.WORD i 1) = addr ∧ s.get (ERRLOG_REC.WORD i 0) % 256 = 5 ∧ s.get (ERRLOG_REC.WORD i 0) / 2 ^ 50 % 2 = 0 then
      s.put (ERRLOG_REC.WORD i 0) (s.get (ERRLOG_REC.WORD i 0) ||| 2 ^ 49)
    else s

/-- Repairs every marked protected line before ABANDONED is sent (R469). -/
def State.repairAll (s : State) : State :=
  let ls := (s.topsoil.bad.map (·.1)).filter s.lineProtected
  s.each ls fun s l => (s.repairLine l).markRepaired (s.gaddr 1 (64 * l))

/-- The record of one uncorrectable line and what follows: the step in progress is charged (R467), or the line is
repaired or left as it stands (R468). -/
def State.lineError (s : State) (sub stepBound : Bool) (l : Nat) : State :=
  let r : ErrRec := { cls := if sub then 6 else 5, block := if sub then 0xB else 0xA,
                      addr := s.gaddr (if sub then 2 else 1) (64 * l), nbits := 7 }
  if stepBound then s.stepError r
  else if !sub && s.lineProtected l then (s.repairLine l).errlog { r with repaired := true }
  else s.errlog { r with unrecovered := true }

/-- The record of an uncorrectable Seedbed word, charged to the step in progress (R117, R467). -/
def State.wordError (s : State) (w : Nat) : State :=
  let plot := 8 * w / 2 ^ 21
  s.stepError { cls := 4, block := 0x20 + plot / 16, plot := plot, addr := s.gaddr 0 (8 * w), nbits := 7 }

/-- Counts a corrected codeword of a tier. -/
def State.countCe (s : State) (a : Nat) : State :=
  match s.locate a with
  | .top o => s.bump (TOPSOIL_CE.CE (o / 2 ^ 37)) 1
  | .sub _ => s.bump SUBSOIL_CE.CE 1
  | _ => s

/-- The codeword at an address becomes uncorrectable. -/
def State.spoil (s : State) (a : Nat) : State :=
  match s.locate a with
  | .seedbed o => { s with seedbed := s.seedbed.mark (o / 8) true }
  | .top o => { s with topsoil := s.topsoil.mark (o / 64) true }
  | .sub o => { s with subsoil := s.subsoil.mark (o / 64) true }
  | _ => s

/-- The errors that a read of `[a, a + n)` meets: the record of each. -/
def State.readErrors (s : State) (a n : Nat) (stepBound : Bool) : State × Bool :=
  match s.locate a with
  | .seedbed o =>
    let ws := s.seedbed.badIn 8 o n
    (s.each ws fun s w => s.wordError w, !ws.isEmpty)
  | .top o =>
    let ls := s.topsoil.badIn 64 o n
    (s.each ls fun s l => s.lineError false stepBound l, !ls.isEmpty)
  | .sub o =>
    let ls := s.subsoil.badIn 64 o n
    (s.each ls fun s l => s.lineError true stepBound l, !ls.isEmpty)
  | _ => (s, false)

/-- A read of the chip's own Topsoil by the part itself: its lines count, an offset outside the tier is an address fault,
and the errors that it meets are recorded (R311, R341, R464 to R468). -/
def State.partReads (s : State) (o n : Nat) (stepBound : Bool) : State := ((s.topTouch o n).readErrors (s.gaddr 1 o) n stepBound).1

/-- `n` free bytes (assumption 2). -/
def State.freeBytes (s : State) (n : Nat) : List Byte := (List.range n).map fun i => Config.freeByte s.freeCtr i

/-- A read of this chip's own tiers with the outcome of its code check: the state, the bytes delivered, and whether it
met an uncorrectable codeword (R464 to R468). -/
def State.readChecked (s : State) (a n : Nat) (code : CodeResult) (stepBound : Bool) : State × List Byte × Bool :=
  let s := match code with
    | .ue => s.spoil a
    | .one _ => s.countCe a
    | .two => s.countCe a
    | _ => s
  let bs := match code with
    | .miscorrected => s.freeBytes n
    | _ => s.peek a n
  let s := match code with
    | .miscorrected => s.drawn
    | _ => s
  let r := (s.touch a n).readErrors a n stepBound
  (r.1, bs, r.2)

/-! ### Refusals (R318, R323) -/

/-- The refusal of an access leaves its mark in both error registers (R339, R340). -/
def State.accessRefusal (s : State) : State := (s.put HARROW_ERR.ADDR 1).put TIER_ERR.ACCESS 1

/-- An operation of a Pass, of a step-bound stream or of a fetch is refused: an error of its step (R318, R467). -/
def State.stepRefusal (s : State) (block addr : Nat) : State :=
  (s.stepError { cls := 8, block := block, addr := addr }).accessRefusal

/-! ### Commons (R322, R515) -/

/-- The XTS ciphertext or plaintext of whole lines at a Commons address under the tenancy Subsoil key. -/
def State.commonsXts (s : State) (decrypt : Bool) (a : Nat) (bs : List Byte) : List Byte :=
  let k := s.lamp.subKey.getD s.freeNat
  let k1 := aesKeys (natBytes 32 (k / 2 ^ 256 % 2 ^ 256))
  let k2 := aesKeys (natBytes 32 (k % 2 ^ 256))
  (List.range (cdiv bs.length 64)).flatMap fun i =>
    (xts decrypt k1 k2 (a / 64 + i) (bytesToNats ((bs.drop (64 * i)).take 64))).map (BitVec.ofNat 8)

/-- Writes bytes to Commons space: encrypted WRITE packets on VC 7 of up to 32 flits (R322, R379). -/
def State.commonsSend (s : State) (kind : ReqKind) (dst : Nat) : Nat → Nat → List Byte → State
  | 0, _, _ => s
  | n + 1, a, bs =>
    if bs.isEmpty then s
    else (s.request 7 1 dst a (s.commonsXts false a (bs.take 2048)) kind).commonsSend kind dst n (a + 2048) (bs.drop 2048)

/-- A write of `bs` at an address of this chip's tiers or of Commons space. -/
def State.writeAny (s : State) (kind : ReqKind) (a : Nat) (bs : List Byte) : State :=
  match s.locate a with
  | .commons dst _ _ => s.commonsSend kind dst (cdiv bs.length 2048) a bs
  | _ => s.pokeAt a bs

/-- A read of `n` bytes for an owner: `remote` is what a Commons read brings, as ciphertext. -/
def State.readAny (s : State) (owner : Option Owner) (a n : Nat) (code : CodeResult) (stepBound : Bool) (remote : List Byte) :
    State × List Byte × Bool :=
  match s.locate a with
  | .commons dst _ _ =>
    let s := s.each (List.range (cdiv n 64)) fun s i => s.request 7 2 dst (a + 64 * i) [] (.commonsRead owner)
    (s, s.commonsXts true a ((remote ++ List.replicate n 0).take n), false)
  | _ => s.readChecked a n code stepBound

end Sys2Proof.Machine
end

