-- ==== Sys2Proof/Machine/Reals.lean ====
section
/-!
DEFINITION. The exact mathematical functions that R92 and R94 name, evaluated in fixed point with `realBits`
fraction bits, so that one rounding to Tallow gives the rounding of the exact value (assumption 20).
-/
namespace Sys2Proof.Machine

/-- Fraction bits of the fixed-point reals: past the smallest value of any seam (gelu-tanh at -32) by more than 500
bits. -/
def realBits : Nat := 4096

/-- A real in fixed point: the integer stands for itself times `2^-realBits`. -/
abbrev Fix := Int

def Fix.one : Fix := 2 ^ realBits

def Fix.mul (a b : Fix) : Fix := a * b / 2 ^ realBits

def Fix.div (a b : Fix) : Fix := a * 2 ^ realBits / b

/-- The exact value `m * 2^e` with sign, in fixed point (truncated below the last bit). -/
def Fix.ofDyadic (neg : Bool) (m : Nat) (e : Int) : Fix :=
  let k := e + realBits
  let v : Int := if 0 ≤ k then (m * 2 ^ k.toNat : Nat) else (m / 2 ^ (-k).toNat : Nat)
  if neg then -v else v

/-- The fixed-point real as an exact number. -/
def Fix.num (x : Fix) : Num := .ofInt x (-(realBits : Int))

/-- Sum of the series whose next term is `term * factor i`; `fuel` bounds the terms. -/
def seriesSum (factor : Nat → Fix → Fix) : Nat → Nat → Fix → Fix → Fix
  | 0, _, _, acc => acc
  | fuel + 1, i, term, acc =>
    if term = 0 then acc
    else
      let t := factor i term
      seriesSum factor fuel (i + 1) t (acc + t)

/-- `atanh(1/n)` for a whole number `n`. -/
def fixAtanhInv (n : Nat) : Fix :=
  let step (i : Nat) (p : Int × Int) : Int × Int := (p.1 / ((n * n : Nat) : Int), p.2 + p.1 / ((n * n : Nat) : Int) / ((2 * i + 3 : Nat) : Int))
  ((List.range realBits).foldl (fun p i => if p.1 = 0 then p else step i p)
    (Fix.one / (n : Int), Fix.one / (n : Int))).2

/-- `atan(1/n)` for a whole number `n`. -/
def fixAtanInv (n : Nat) : Fix :=
  let step (i : Nat) (p : Int × Int) : Int × Int :=
    let q := p.1 / ((n * n : Nat) : Int)
    (q, if i % 2 = 0 then p.2 - q / ((2 * i + 3 : Nat) : Int) else p.2 + q / ((2 * i + 3 : Nat) : Int))
  ((List.range realBits).foldl (fun p i => if p.1 = 0 then p else step i p)
    (Fix.one / (n : Int), Fix.one / (n : Int))).2

/-- `ln 2`. -/
def fixLn2 : Fix := 18 * fixAtanhInv 26 - 2 * fixAtanhInv 4801 + 8 * fixAtanhInv 8749

/-- Pi. -/
def fixPi : Fix := 16 * fixAtanInv 5 - 4 * fixAtanInv 239

/-- `e^r` for a small `r`, by its series. -/
def fixExpSmall (r : Fix) : Fix :=
  seriesSum (fun i t => Fix.mul t r / ((i + 1 : Nat) : Int)) 4096 0 Fix.one Fix.one

/-- `e^x`. -/
def fixExp (x : Fix) : Fix :=
  let k := x / fixLn2
  let e := fixExpSmall (x - k * fixLn2)
  if 0 ≤ k then e * 2 ^ k.toNat else e / 2 ^ (-k).toNat

/-- `ln y` for `1 ≤ y < 2`. -/
def fixLnUnit (y : Fix) : Fix :=
  let z := Fix.div (y - Fix.one) (y + Fix.one)
  let z2 := Fix.mul z z
  let step (i : Nat) (p : Int × Int) : Int × Int :=
    let q := Fix.mul p.1 z2
    (q, p.2 + q / ((2 * i + 3 : Nat) : Int))
  2 * ((List.range realBits).foldl (fun p i => if p.1 = 0 then p else step i p) (z, z)).2

/-- `ln y` for `y ≥ 1`. -/
def fixLn (y : Fix) : Fix :=
  let k := Nat.log2 (y / 2 ^ realBits).toNat
  fixLnUnit (y / 2 ^ k) + (k : Int) * fixLn2

/-- `sqrt y`. -/
def fixSqrt (y : Fix) : Fix := (Nat.sqrt (y.toNat * 2 ^ realBits) : Nat)

/-- `sin r` for `|r| < 1`. -/
def fixSin (r : Fix) : Fix :=
  seriesSum (fun i t => -(Fix.mul (Fix.mul t r) r / (((2 * i + 2) * (2 * i + 3) : Nat) : Int))) 4096 0 r r

/-- `cos r` for `|r| < 1`. -/
def fixCos (r : Fix) : Fix :=
  seriesSum (fun i t => -(Fix.mul (Fix.mul t r) r / (((2 * i + 1) * (2 * i + 2) : Nat) : Int))) 4096 0 Fix.one Fix.one

/-- `1 / (1 + e^-x)`. -/
def fixSigmoid (x : Fix) : Fix := Fix.div Fix.one (Fix.one + fixExp (-x))

/-- `1 + tanh x`. -/
def fixOneTanh (x : Fix) : Fix := Fix.div (2 * Fix.one) (Fix.one + fixExp (-2 * x))

/-- `erf x` for `x ≥ 0`, by the series with positive terms. -/
def fixErfPos (x : Fix) : Fix :=
  let x2 := Fix.mul x x
  let s := seriesSum (fun i t => 2 * Fix.mul t x2 / ((2 * i + 3 : Nat) : Int)) 65536 0 x x
  Fix.mul (Fix.div (2 * s) (fixSqrt fixPi)) (fixExp (-x2))

/-- `erf x`. -/
def fixErf (x : Fix) : Fix := if x < 0 then -(fixErfPos (-x)) else fixErfPos x

end Sys2Proof.Machine
end

