-- ==== Sys2Proof/Machine/Lantern.lean ====
section
/-!
DEFINITION. The Lantern: its sixteen functions (R92 to R95), the row statistics (R98 to R103), softmax and its sum
(R104 to R109), their COMPAT forms (R113, R114) and the row status (R110).
-/
namespace Sys2Proof.Machine

/-- A function code of R94. -/
abbrev LFunc := Nat

/-! ### Segments and cubics (R92, R93) -/

/-- The reduced function of a code and its derivative at a point of fixed-point value `x` (R92, R94). Code 0x10
is the core of sin and 0x11 the core of cos. -/
def reducedAt (f : LFunc) (x : Fix) : Fix × Fix :=
  match f with
  | 0x1 => let y := fixExp (Fix.mul x fixLn2); (y, Fix.mul y fixLn2)
  | 0x3 => (Fix.div (fixLn x) fixLn2, Fix.div Fix.one (Fix.mul x fixLn2))
  | 0x4 => let y := fixSqrt x; (y, Fix.div Fix.one (2 * y))
  | 0x5 => let y := Fix.div Fix.one (fixSqrt x); (y, -(Fix.div y (2 * x)))
  | 0x6 => (Fix.div Fix.one x, -(Fix.div Fix.one (Fix.mul x x)))
  | 0x7 => let y := fixSigmoid x; (y, Fix.mul y (fixSigmoid (-x)))
  | 0x8 => let a := fixOneTanh x; let b := fixOneTanh (-x); (a - Fix.one, Fix.mul a b)
  | 0x9 =>
    let y := fixSigmoid x
    (Fix.mul x y, Fix.mul y (Fix.one + Fix.mul x (fixSigmoid (-x))))
  | 0xA =>
    let r := fixSqrt (Fix.div (2 * Fix.one) fixPi)
    let c := 44715 * Fix.one / 1000000
    let x2 := Fix.mul x x
    let u := Fix.mul r (x + Fix.mul c (Fix.mul x2 x))
    let a := fixOneTanh u
    let b := fixOneTanh (-u)
    (Fix.mul x a / 2, a / 2 + Fix.mul (Fix.mul (Fix.mul x a) b) (Fix.mul r (Fix.one + 3 * Fix.mul c x2)) / 2)
  | 0xB =>
    let y := Fix.one + fixErf (Fix.div x (fixSqrt (2 * Fix.one)))
    let phi := Fix.div (fixExp (-(Fix.mul x x / 2))) (fixSqrt (2 * fixPi))
    (Fix.mul x y / 2, y / 2 + Fix.mul x phi)
  | 0xC =>
    let y := if x < 0 then fixLn (Fix.one + fixExp x) else x + fixLn (Fix.one + fixExp (-x))
    (y, fixSigmoid x)
  | 0xD => (fixErf x, Fix.mul (Fix.div (2 * Fix.one) (fixSqrt fixPi)) (fixExp (-(Fix.mul x x))))
  | 0x10 => (fixSin x, fixCos x)
  | _ => (fixCos x, -(fixSin x))

/-- Whether R93 limits the slopes of a function. -/
def slopesLimited (f : LFunc) : Bool := f ≠ 0x9 && f ≠ 0xA && f ≠ 0xB && f ≠ 0x10 && f ≠ 0x11

/-- An exact value rounded once to Tallow, as an exact value. -/
def rT (n : Num) : Num := tallowNum (roundT n)

def Num.sub (a b : Num) : Num := a.add b.neg

def numIsZero : Num → Bool
  | .fin _ m _ => m = 0
  | _ => false

/-- `d` clamped into the closed interval between 0 and `3 * delta` (R93). -/
def limitSlope (delta d : Num) : Num :=
  let hi := delta.mul (.ofInt 3 0)
  if delta.lt .zero then
    if d.lt hi then hi else if Num.zero.lt d then .zero else d
  else if hi.lt d then hi else if d.lt .zero then .zero else d

/-- The cubic of the segment `[a, a + w)` at `v`, exact (R92, R93); `flip` reads the function at `-x`. The points
are dyadic: `a = am * 2^ae`, `w = 2^we`. -/
def segmentCubic (f : LFunc) (flip : Bool) (am : Nat) (ae we : Int) (v : Num) : Num :=
  let sgn : Fix := if flip then -1 else 1
  let a := Fix.ofDyadic false am ae
  let w := Fix.ofDyadic false 1 we
  let pa := reducedAt f (sgn * a)
  let pb := reducedAt f (sgn * (a + w))
  let ya := rT pa.1.num
  let yb := rT pb.1.num
  let da := rT (((sgn * pa.2).num).scale2 we)
  let db := rT (((sgn * pb.2).num).scale2 we)
  let delta := yb.sub ya
  let isZero := numIsZero delta
  let limited := slopesLimited f
  let da := if limited then (if isZero then Num.zero else limitSlope delta da) else da
  let db := if limited then (if isZero then Num.zero else limitSlope delta db) else db
  let t := (v.sub (.fin false am ae)).scale2 (-we)
  let c2 := ((delta.mul (.ofInt 3 0)).sub (da.scale2 1)).sub db
  let c3 := (da.add db).sub (delta.scale2 1)
  ya.add (t.mul (da.add (t.mul (c2.add (t.mul c3)))))

/-- The cubic at the positive value `m * 2^e`, whose seams are `2^k * (1 + j/64)` (R92). -/
def binadeCubic (f : LFunc) (flip : Bool) (m : Nat) (e : Int) : Num :=
  let k := (Nat.log2 m : Int) + e
  -- the leading six fraction bits of the value
  let s := Nat.log2 m
  let j := if s < 6 then m * 2 ^ (6 - s) - 64 else m / 2 ^ (s - 6) - 64
  segmentCubic f flip (64 + j) (k - 6) (k - 6) (.fin false m e)

/-- `floor` of the exact value `(-1)^s * m * 2^e`. -/
def floorNum (s : Bool) (m : Nat) (e : Int) : Int :=
  if 0 ≤ e then (if s then -((m * 2 ^ e.toNat : Nat) : Int) else (m * 2 ^ e.toNat : Nat))
  else
    let d := 2 ^ (-e).toNat
    if s then -((cdiv m d : Nat) : Int) else (m / d : Nat)

/-- exp2 of a Tallow value (R94 code 0x1). -/
def exp2Num : Num → Num
  | .nan => .nan
  | .inf s => if s then .zero else .inf false
  | .fin s m e =>
    if m = 0 then .ofInt 1 0
    else if 15 < (Nat.log2 m : Int) + e then (if s then .zero else .inf false)
    else
      -- below 2^-4096 the fraction is `1 - tiny` or `tiny`; the cubic is still evaluated exactly
      let n := floorNum s m e
      let v := (Num.fin s m e).sub (.ofInt n 0)
      match v with
      | .fin _ vm ve =>
        let j := (floorNum false vm (ve + 6)).toNat
        let p := if vm = 0 then segmentCubic 0x1 false 0 (-6) (-6) .zero
          else segmentCubic 0x1 false j (-6) (-6) v
        if n < -17000 then .zero else p.scale2 n
      | _ => .nan

/-- A mathematical constant rounded once to Tallow (R94). -/
def constT (x : Fix) : Num := rT x.num

def log2eT : Num := constT (Fix.div Fix.one fixLn2)
def ln2T : Num := constT fixLn2
def twoRsqrtPiT : Num := constT (Fix.div (2 * Fix.one) (fixSqrt fixPi))

/-- log2 of a Tallow value, rounded (R94 code 0x3, R95). -/
def log2Num : Num → Num
  | .nan => .nan
  | .inf s => if s then .nan else .inf false
  | .fin s m e =>
    if m = 0 then .inf true
    else if s then .nan
    else
      let k := (Nat.log2 m : Int) + e
      let p := binadeCubic 0x3 false m (e - k)
      rT ((Num.ofInt k 0).add p)

/-- sqrt or rsqrt of a positive finite value (R94 codes 0x4 and 0x5). -/
def sqrtNum (recip : Bool) (m : Nat) (e : Int) : Num :=
  let l := (Nat.log2 m : Int) + e
  let k := l / 2
  let p := binadeCubic (if recip then 0x5 else 0x4) false m (e - 2 * k)
  p.scale2 (if recip then -k else k)

/-- Pi to 192 significant bits (R94). -/
def pi192 : Num := .fin false (roundUnits .nearestEven fixPi.toNat (-(realBits : Int)) (-190)) (-190)

/-- The nearest integer to `m * 2^e / (pm * 2^pe)`, ties to even. -/
def nearestQuot (m : Nat) (e : Int) (pm : Nat) (pe : Int) : Nat :=
  let sh := e - pe
  let a := if 0 ≤ sh then m * 2 ^ sh.toNat else m
  let b := if 0 ≤ sh then pm else pm * 2 ^ (-sh).toNat
  let q := a / b
  let r := a % b
  if b < 2 * r ∨ (2 * r = b ∧ q % 2 = 1) then q + 1 else q

/-- The core `sin r` (`co = false`) or `cos r` of a Tallow value `r` (R94 codes 0xE and 0xF). -/
def sinCore (co : Bool) : Num → Num
  | .fin s m e =>
    let tiny := m = 0 ∨ (Nat.log2 m : Int) + e < -40
    if co then (if tiny then .ofInt 1 0 else binadeCubic 0x11 false m e)
    else if tiny then .fin s m e
    else if s then (binadeCubic 0x10 false m e).neg else binadeCubic 0x10 false m e
  | n => n

/-- sin or cos of a finite nonzero value (R94 codes 0xE and 0xF). -/
def sinCosNum (co : Bool) (s : Bool) (m : Nat) (e : Int) : Num :=
  if (Num.fin false 1 20).lt (.fin false m e) then .nan
  else
    match pi192 with
    | .fin _ pm pe =>
      -- x * 2 / P = x / (P / 2)
      let kMag := nearestQuot m e pm (pe - 1)
      let k : Int := if s then -(kMag : Int) else kMag
      let r := rT ((Num.fin s m e).sub ((Num.ofInt k (-1)).mul pi192))
      let q := (k % 4).toNat
      match (if co then q + 1 else q) % 4 with
      | 0 => sinCore false r
      | 1 => sinCore true r
      | 2 => (sinCore false r).neg
      | _ => (sinCore true r).neg
    | _ => .nan

/-- The first exponent of the saturation region of a function segmented on `|x|` (R94). -/
def satExp : LFunc → Int
  | 0x8 => 6
  | 0xA => 5
  | 0xB => 5
  | 0xD => 3
  | _ => 7

/-- A function segmented on `|x|` itself, at a finite nonzero value (R94 codes 0x7 to 0xD). -/
def segmentedNum (f : LFunc) (s : Bool) (m : Nat) (e : Int) : Num :=
  let x := Num.fin s m e
  let l := (Nat.log2 m : Int) + e
  let odd := f = 0x8 ∨ f = 0xD
  if l < -40 then
    match f with
    | 0x7 => (Num.fin false 1 (-1)).add (x.scale2 (-2))
    | 0x8 => x
    | 0xC => ln2T.add (x.scale2 (-1))
    | 0xD => twoRsqrtPiT.mul x
    | _ => x.scale2 (-1)
  else if satExp f ≤ l then
    match f with
    | 0x7 => if s then .zero else .ofInt 1 0
    | 0x8 => .fin s 1 0
    | 0xD => .fin s 1 0
    | 0xC => if s then .zero else x
    | _ => if s then .fin true 0 0 else x
  else if odd then (if s then (binadeCubic f false m e).neg else binadeCubic f false m e)
  else binadeCubic f s m e

/-- A special value's result (R95); `none` for every other input. -/
def specialFunc (f : LFunc) : Num → Option Num
  | .nan => some .nan
  | .inf s =>
    match f with
    | 0x0 => some (if s then .zero else .inf false)
    | 0x1 => some (if s then .zero else .inf false)
    | 0x2 => some (if s then .nan else .inf false)
    | 0x3 => some (if s then .nan else .inf false)
    | 0x4 => some (if s then .nan else .inf false)
    | 0x5 => some (if s then .nan else .zero)
    | 0x6 => some (.fin s 0 0)
    | 0x7 => some (if s then .zero else .ofInt 1 0)
    | 0x8 => some (.fin s 1 0)
    | 0xC => some (if s then .zero else .inf false)
    | 0xD => some (.fin s 1 0)
    | 0xE => some .nan
    | 0xF => some .nan
    | _ => some (if s then .fin true 0 0 else .inf false)
  | .fin s m _ =>
    if m = 0 then
      match f with
      | 0x0 => some (.ofInt 1 0)
      | 0x1 => some (.ofInt 1 0)
      | 0x2 => some (.inf true)
      | 0x3 => some (.inf true)
      | 0x5 => some (.inf s)
      | 0x6 => some (.inf s)
      | 0x7 => some (.fin false 1 (-1))
      | 0xC => some ln2T
      | 0xF => some (.ofInt 1 0)
      | _ => some (.fin s 0 0)
    else if s ∧ (f = 0x2 ∨ f = 0x3 ∨ f = 0x4 ∨ f = 0x5) then some .nan
    else none

/-- A Lantern function of a Tallow value, rounded once to Tallow (R92 to R95). -/
def lanternFunc (f : LFunc) (t : Tallow) : Tallow :=
  let x := tallowNum t
  match specialFunc f x with
  | some r => roundT r
  | none =>
    match x with
    | .fin s m e =>
      match f with
      | 0x0 => roundT (exp2Num (rT (x.mul log2eT)))
      | 0x1 => roundT (exp2Num x)
      | 0x2 => roundT ((log2Num x).mul ln2T)
      | 0x3 => roundT (log2Num x)
      | 0x4 => roundT (sqrtNum false m e)
      | 0x5 => roundT (sqrtNum true m e)
      | 0x6 =>
        let k := (Nat.log2 m : Int) + e
        let p := (binadeCubic 0x6 false m (e - k)).scale2 (-k)
        roundT (if s then p.neg else p)
      | 0xE => roundT (sinCosNum false s m e)
      | 0xF => roundT (sinCosNum true s m e)
      | _ => roundT (segmentedNum f s m e)
    | _ => tallowNan

/-! ### Tallow arithmetic of the row statistics (R98) -/

def subT (a b : Tallow) : Tallow := roundT ((tallowNum a).sub (tallowNum b))
def mulT (a b : Tallow) : Tallow := roundT ((tallowNum a).mul (tallowNum b))
def ofNatT (n : Nat) : Tallow := roundT (.ofInt n 0)

/-- A quotient with enough bits for one rounding: the last bit is sticky. Division by zero and of infinities
follows the usual special cases. -/
def Num.quot : Num → Num → Num
  | .nan, _ => .nan
  | _, .nan => .nan
  | .inf s, .fin t _ _ => .inf (s != t)
  | .inf _, .inf _ => .nan
  | .fin s _ _, .inf t => .fin (s != t) 0 0
  | .fin s m e, .fin t n f =>
    if n = 0 then (if m = 0 then .nan else .inf (s != t))
    else
      let k := 70 + Nat.log2 n
      let a := m * 2 ^ k
      .fin (s != t) (2 * (a / n) + (if a % n = 0 then 0 else 1)) (e - f - k - 1)

def divT (a b : Tallow) : Tallow := roundT ((tallowNum a).quot (tallowNum b))

/-- A lane's running state, or a merged state (R98). -/
structure WState where
  n : Nat
  mean : Tallow
  m2 : Tallow
  deriving DecidableEq, Repr

def WState.zero : WState := ⟨0, 0, 0⟩

/-- `welford_add` (R98). -/
def welfordAdd (s : WState) (x : Tallow) : WState :=
  let n := s.n + 1
  let d := subT x s.mean
  let mean := addT s.mean (divT d (ofNatT n))
  ⟨n, mean, addT s.m2 (mulT d (subT x mean))⟩

/-- `chan_merge` (R98). -/
def chanMerge (a b : WState) : WState :=
  if b.n = 0 then a
  else if a.n = 0 then b
  else
    let n := a.n + b.n
    let d := subT b.mean a.mean
    let mean := addT a.mean (mulT d (divT (ofNatT b.n) (ofNatT n)))
    let w := divT (mulT (ofNatT a.n) (ofNatT b.n)) (ofNatT n)
    ⟨n, mean, addT (addT a.m2 b.m2) (mulT (mulT d d) w)⟩

/-- One level of a tree of states: neighbours merge, an odd last one passes up (R73, R75). -/
def mergeLevel {α : Type} (f : α → α → α) : List α → List α
  | a :: b :: rest => f a b :: mergeLevel f rest
  | l => l

/-- The canonical tree of states; over 32 lanes it is the lane tree of R73. -/
def mergeTree {α : Type} (f : α → α → α) : Nat → List α → List α
  | 0, l => l
  | fuel + 1, l => if l.length ≤ 1 then l else mergeTree f fuel (mergeLevel f l)

/-- Lane `l`'s elements of a row, in arrival order: elements `l`, `l + 32`, ... (R91). -/
def laneElems {α : Type} (row : List α) (l : Nat) : List α :=
  (row.zipIdx.filter fun e => e.2 % 32 = l).map (·.1)

/-- The 32 lane states of a row, merged by the lane tree (R99). -/
def rowState (row : List Tallow) : WState :=
  ((mergeTree chanMerge 5 ((List.range 32).map fun l => (laneElems row l).foldl welfordAdd .zero)).headD .zero)

/-- The row status flags of R110. -/
structure RowStatus where
  empty : Bool
  range : Bool
  nanIn : Bool
  long : Bool
  denBad : Bool
  count : Nat
  deriving DecidableEq, Repr

def RowStatus.clean (count : Nat) : RowStatus := ⟨false, false, false, false, false, count⟩

/-- The 32-bit status word (R110). -/
def RowStatus.word (r : RowStatus) : Nat :=
  bit r.empty + 2 * bit r.range + 4 * bit r.nanIn + 8 * bit r.long + 16 * bit r.denBad +
    256 * min r.count 0xFF_FFFF

def isFiniteT (t : Tallow) : Bool := (tallowNum t).mag.isSome

/-- Positive infinity in Tallow. -/
def tallowInf : Tallow := 0x7FFF_0000_0000_0000_0000

/-- `stats_finish` with the clamp to `+0` (R98), and the special rows of R101: the mean, the variance, and whether
the row overflowed. -/
def statsFinish (s : WState) : Tallow × Tallow × Bool :=
  if s.n = 0 then (0, 0, false)
  else
    let v := divT s.m2 (ofNatT s.n)
    if !isFiniteT s.mean || !isFiniteT s.m2 || !isFiniteT v then
      (if isFiniteT s.mean then s.mean else tallowNan, tallowInf, true)
    else (s.mean, if v.getLsbD 79 then 0 else v, false)

/-- Rows of STATS, STATS_PART, EXPSUM and STATS_MERGE hold at most this many elements (R109). -/
def longRow : Nat := 16777215

/-- STATS of a row in the native mode: the mean, the variance and the status (R98 to R103, R109). -/
def statsRow (row : List Tallow) : Tallow × Tallow × RowStatus :=
  let n := row.length
  let st := RowStatus.clean n
  if longRow < n then (tallowNan, tallowNan, { st with long := true })
  else if row.any (fun x => !isFiniteT x) then (tallowNan, tallowNan, { st with nanIn := true })
  else
    let r := statsFinish (rowState row)
    (r.1, r.2.1, { st with empty := decide (n = 0), range := r.2.2 })

/-- STATS_PART of a row: lanes 0 to 2 of its token, and the status (R100, R101). -/
def statsPartRow (row : List Tallow) : List Tallow × RowStatus :=
  let n := row.length
  let st := RowStatus.clean n
  if longRow < n then ([tallowNan, tallowNan, tallowNan], { st with long := true })
  else if row.any (fun x => !isFiniteT x) then ([ofNatT n, tallowNan, tallowNan], { st with nanIn := true })
  else
    let s := rowState row
    if !isFiniteT s.mean || !isFiniteT s.m2 then
      ([ofNatT n, if isFiniteT s.mean then s.mean else tallowNan, tallowInf], { st with range := true })
    else ([ofNatT n, s.mean, s.m2], { st with empty := decide (n = 0) })

/-- The count in lane 0 of a STATS_MERGE token: `none` for anything but an integer from 0 to 2^24 − 1 (R100). -/
def mergeCount (n : Tallow) : Option Nat :=
  match tallowNum n with
  | .fin s m e =>
    if m = 0 then some 0
    else if s then none
    else if 0 ≤ e then (if (Nat.log2 m : Int) + e < 24 then some (m * 2 ^ e.toNat) else none)
    else if m % 2 ^ (-e).toNat = 0 ∧ m / 2 ^ (-e).toNat < 2 ^ 24 then some (m / 2 ^ (-e).toNat) else none
  | _ => none

/-- A token of STATS_MERGE as a state: `none` when R100 or R101 refuses its n, mean or m2; the flag says that its m2
is `+inf`. -/
def mergeInput (n mean m2 : Tallow) : Option (WState × Bool) :=
  let m2ok := match tallowNum m2 with
    | .nan => false
    | .inf s => !s
    | .fin s m _ => !s || m = 0
  match mergeCount n with
  | some k => if isFiniteT mean && m2ok then some (⟨k, mean, m2⟩, !isFiniteT m2) else none
  | none => none

/-- STATS_MERGE of a row of tokens, in logical shard order (R100, R101, R103). A received m2 of `+inf` makes the row
overflow, whatever its n. The limit of R109 counts the row's tokens, a row beyond it sets LONG alone, and COUNT sums the
counts that R100 accepts (assumption 62). -/
def statsMergeRow (toks : List (Tallow × Tallow × Tallow)) : Tallow × Tallow × RowStatus :=
  let ins := toks.map fun t => mergeInput t.1 t.2.1 t.2.2
  let st := RowStatus.clean ((toks.map fun t => (mergeCount t.1).getD 0).foldl (· + ·) 0)
  if longRow < toks.length then (tallowNan, tallowNan, { st with long := true })
  else if ins.any Option.isNone then (tallowNan, tallowNan, { st with nanIn := true })
  else
    let ss := ins.filterMap id
    let s := (mergeTree chanMerge 64 (ss.map (·.1))).headD .zero
    let r := statsFinish s
    let st := { st with empty := decide (s.n = 0) }
    if ss.any (·.2) then (if isFiniteT s.mean then s.mean else tallowNan, tallowInf, { st with range := true })
    else (r.1, r.2.1, { st with range := r.2.2 })

/-! ### Softmax (R104 to R109) -/

/-- An exact sum rounded to 65 significant bits, with an exponent range that no sum of a row leaves (R104). -/
def addW (a b : Num) : Num :=
  match a.add b with
  | .fin s m e =>
    if m = 0 then .fin s 0 0
    else
      let q := (Nat.log2 m : Int) + e - 64
      if e < q then .fin s (roundUnits .nearestEven m e q) q else .fin s m e
  | n => n

/-- An element of a row with its mask bit. -/
abbrev RowElem := Tallow × Bool

/-- The value that an element of a softmax row is taken as (R104, R106). -/
def softmaxInput (maskEn : Bool) (x : RowElem) : Tallow :=
  if maskEn && x.2 then roundT (.ofInt (-65504) 0) else x.1

/-- The lane tree over 32 sums (R73). -/
def laneTree (s : List Num) : Num := ((mergeTree addW 5 s).headD .zero)

/-- The row's sum S (R104). -/
def softmaxSum (e : List Tallow) : Num :=
  laneTree ((List.range 32).map fun l => (laneElems e l).foldl (fun a x => addW a (tallowNum x)) .zero)

/-- Whether an element makes the row bad, as NaN and as out of range (R105). -/
def badNan (t : Tallow) : Bool := (tallowNum t).isNan
def badRange (t : Tallow) : Bool := (Num.ofInt 11356 0).lt (tallowNum t)

/-- SOFTMAX of a row in the native mode, with the denominator token under DEN_SRC (R104 to R109). A row whose exponentials
are all zero gives zeros and EMPTY, never NaN, whatever its denominator; a refused denominator sets DEN_BAD beside it, and
a row that is too long sets LONG alone (assumption 62). -/
def softmaxRow (maskEn : Bool) (den : Option Tallow) (row : List RowElem) : List Tallow × RowStatus :=
  let xs := row.map (softmaxInput maskEn)
  let count := (row.filter fun x => !(maskEn && x.2)).length
  let st := RowStatus.clean count
  if 8192 < row.length then (row.map fun _ => tallowNan, { st with long := true })
  else
    let isNan := xs.any badNan
    let isRange := xs.any badRange
    let st := { st with nanIn := isNan, range := isRange }
    let e := xs.map (lanternFunc 0x0)
    let own := softmaxSum e
    let s := match den with
      | some d => tallowNum d
      | none => own
    let denBad := den.isSome && (match s with
      | .nan => true
      | .inf _ => true
      | .fin sg _ _ => sg)
    let st := { st with denBad := denBad }
    if isNan || isRange then (row.map fun _ => tallowNan, st)
    else if numIsZero own then (row.map fun _ => 0, { st with empty := true })
    else if denBad then (row.map fun _ => tallowNan, st)
    else if numIsZero s then (row.map fun _ => 0, { st with empty := true })
    else (e.map fun x => roundT ((tallowNum x).quot s), st)

/-- EXPSUM of a row: the value of lane 0 and the status (R108). -/
def expsumRow (maskEn : Bool) (row : List RowElem) : Tallow × RowStatus :=
  let xs := row.map (softmaxInput maskEn)
  let count := (row.filter fun x => !(maskEn && x.2)).length
  let st := RowStatus.clean count
  if longRow < row.length then (tallowNan, { st with long := true })
  else
    let isNan := xs.any badNan
    let isRange := xs.any badRange
    let st := { st with nanIn := isNan, range := isRange }
    if isNan || isRange then (tallowNan, st)
    else
      let s := softmaxSum (xs.map (lanternFunc 0x0))
      let t := roundT s
      (t, { st with range := !isFiniteT t, empty := numIsZero s || decide (count = 0) })

/-! ### COMPAT (R113, R114) -/

/-- A value rounded to FP32 (R113). -/
def r32 (n : Num) : Num := decodeElem 0x0 (roundFp32 n)

def add32 (a b : Num) : Num := r32 (a.add b)

/-- The FP32 quotient. -/
def div32 (a b : Num) : Num := r32 (a.quot b)

/-- SOFTMAX of a row in COMPAT mode (R113). -/
def softmaxCompat (maskEn : Bool) (row : List RowElem) : List Tallow × RowStatus :=
  let masked (x : RowElem) : Bool := maskEn && x.2
  let count := (row.filter fun x => !masked x).length
  let st := RowStatus.clean count
  let xf := row.map fun x => (r32 (tallowNum x.1), masked x)
  if 8192 < row.length then (row.map fun _ => tallowNan, { st with long := true })
  else if count = 0 then (row.map fun _ => tallowNan, { st with empty := true })
  else if xf.any (fun x => !x.2 && x.1.mag.isNone) then (row.map fun _ => tallowNan, { st with nanIn := true })
  else
    let live := (xf.filter fun x => !x.2).map (·.1)
    let mx := live.foldl (fun a x => if a.lt x then x else a) (live.headD .zero)
    let e := xf.map fun x =>
      if x.2 then Num.zero else r32 (tallowNum (lanternFunc 0x0 (roundT (r32 (x.1.sub mx)))))
    let s := (mergeTree add32 5 ((List.range 32).map fun l => (laneElems e l).foldl add32 .zero)).headD .zero
    (List.zipWith (fun x v => if x.2 then (0 : Tallow) else roundT (div32 v s)) xf e, st)

/-- The sum of a row's FP32 values by lanes and the lane tree (R114). -/
def sum32 (xs : List Num) : Num :=
  (mergeTree add32 5 ((List.range 32).map fun l => (laneElems xs l).foldl add32 .zero)).headD .zero

/-- STATS of a row in COMPAT mode (R114). -/
def statsCompat (row : List Tallow) : Tallow × Tallow × RowStatus :=
  let n := row.length
  let st := RowStatus.clean n
  if 8192 < n then (tallowNan, tallowNan, { st with long := true })
  else if n = 0 then (tallowNan, tallowNan, { st with empty := true })
  else if row.any (fun x => !isFiniteT x) then (tallowNan, tallowNan, { st with nanIn := true })
  else
    let xf := row.map fun x => r32 (tallowNum x)
    let nn := Num.ofInt n 0
    let mean := div32 (sum32 xf) nn
    let dev := xf.map fun x => let d := r32 (x.sub mean); r32 (d.mul d)
    let var := div32 (sum32 dev) nn
    if mean.mag.isNone || var.mag.isNone then
      (if mean.mag.isNone then tallowNan else roundT mean, tallowInf, { st with range := true })
    else (roundT mean, roundT var, st)

end Sys2Proof.Machine
end

