-- ==== Sys2Proof/Machine/Power.lean ====
section
/-!
DEFINITION. Power domains as the other units meet them (R411 to R416): modes, requests to power up, and the strips.
-/
namespace Sys2Proof.Machine

/-- CANDLE_DOM.MODE_d. -/
def domModeFld (d : Nat) : Fld := ⟨0x10010, 2 * d, 2⟩
def State.domMode (s : State) (d : Nat) : Nat := s.get (domModeFld d)
def domOff : Nat := 0
def domAuto : Nat := 2

/-- Sets or clears one bit of a mask field. -/
def State.putBit (s : State) (f : Fld) (i : Nat) (b : Bool) : State :=
  s.put f (if b then s.get f ||| 2 ^ i else s.get f &&& (2 ^ f.len - 1 - 2 ^ i % 2 ^ f.len))

def State.domPend (s : State) (d : Nat) : Bool := decide (s.get CANDLE_DSTAT.PEND / 2 ^ d % 2 = 1)

/-- A domain waits to power up. -/
def State.domWait (s : State) (d : Nat) : State :=
  if s.domOn d || s.power.closing.contains d then s else s.putBit CANDLE_DSTAT.PEND d true

/-- A request to power up a domain: D22 before any of D2 to D21, and D2 before D3 (R413). -/
def State.domRequest (s : State) (d : Nat) : State :=
  let s := if 2 ≤ d ∧ d ≤ 21 then s.domWait 22 else s
  let s := if d = 3 then s.domWait 2 else s
  s.domWait d

/-- The strips of a mask. -/
def stripsOf (mask : Nat) : List Nat := (List.range 8).filter fun k => mask / 2 ^ k % 2 == 1

/-- Strips that are unrepairable (R30). -/
def State.stripBadMask (s : State) : Nat :=
  s.bist.strips.foldl (fun m e => if e.2.bad then m ||| 2 ^ e.1 else m) 0

/-- Strips whose domain mode is OFF. -/
def State.stripOffMask (s : State) : Nat :=
  (List.range 8).foldl (fun m k => if s.domMode (4 + k) = domOff then m ||| 2 ^ k else m) 0

/-- Strips that stay powered (R24): those of the lit image and of an image that is being loaded. -/
def State.keptStrips (s : State) : Nat :=
  (if s.flag ROTATE_STATUS.LIT_VALID then s.lit.mask else 0) ||| (s.rot.loading.elim 0 (·.mask))

/-- Strips of either plane (R411, D4 to D11). -/
def State.planeStrips (s : State) : Nat :=
  s.keptStrips ||| (if s.flag ROTATE_STATUS.DARK_VALID then s.dark.mask else 0)

/-- Whether a Drill job headed here runs (R360). -/
def State.headRuns (s : State) : Bool :=
  decide (s.get DRILL_STATUS.ROLE = 1) && decide (s.get DRILL_STATUS.STATE = 1 ∨ s.get DRILL_STATUS.STATE = 2)

/-- The residence entry `j` of a Sower Pass names an object of Fallow (R248). -/
def State.resFallow (s : State) (w : SowerSt) (j : Nat) : Bool := bitsOf (s.topWord (w.cfg.res + 16 * j)) 32 2 != 0

/-- Whether D17 is needed (R411): a descriptor, a scrub pass, an installation, a running Drill job with a Fallow source or
destination, a Sower fetch from Fallow, which is a READ (R353), or a start. -/
def State.fallowNeeded (s : State) : Bool :=
  s.get FALLOW_QPTR.HEAD != s.get FALLOW_QPTR.TAIL || s.flag FALLOW_STATUS.SCRUB_BUSY || s.get FALLOW_STATUS.INST != 0 ||
    s.power.boot != 0 || s.headRuns && (s.drill.head.elim false (·.srcKind)) ||
    (s.drill.member.elim false fun m =>
      !m.reported && bitOf (m.entry.getD 0 0) 6 && bitsOf (m.entry.getD 0 0) 7 2 != 0) ||
    ([s.moe.sowerA, s.moe.sowerB].any fun w => w.elim false fun w => w.fetching.any (s.resFallow w))

/-- D17 in AUTO powers up for work (R411). -/
def State.fallowWake (s : State) : State :=
  if s.domMode 17 = domAuto ∧ !s.domOn 17 ∧ s.fallowNeeded then s.domRequest 17 else s

/-- The effective Field clock in MHz (R418). -/
def State.clockEff (s : State) : State := s.put CLOCK_FIELD.EFF_MHZ (s.power.mhz * (64 - s.get CANDLE_GOV.SKIP) / 64)

/-- The written Field PLL setting takes effect (R418). -/
def State.clockApply (s : State) : State :=
  let s := { s with power := { s.power with mhz := s.get CLOCK_FIELD.MHZ } }
  (s.put CLOCK_FIELD.PENDING 0).clockEff

/-- The COMPAT mode of an image that is loaded now (R112). -/
def State.compatNow (s : State) : Bool := s.flag CHIP_STRAPS.COMPAT || s.flag CHIP_COMPAT.LANTERN

end Sys2Proof.Machine
end

