-- ==== Sys2Proof/Machine/Image.lean ====
section
/-!
DEFINITION. The image container (R188 to R195) and the loader's checks, steps 1 to 9 of R198. Every check is a pure
function of the image's bytes and of what the part knows of its strips.
-/
namespace Sys2Proof.Machine

/-- A failed load step: its code, and the section and record of the fault (R198). -/
structure LoadErr where
  code : Nat
  section_ : Nat
  record : Nat
  deriving DecidableEq, Repr

def rdBytes (rd : List Byte) (off n : Nat) : List Byte := (rd.drop off).take n
def rdNat (rd : List Byte) (off n : Nat) : Nat := leNat (rdBytes rd off n)
def rdWord (rd : List Byte) (off : Nat) : W64 := BitVec.ofNat 64 (rdNat rd off 8)
def rdWords (rd : List Byte) (off n : Nat) : List W64 := (List.range n).map fun i => rdWord rd (off + 8 * i)

/-! ### Majority (R190, R493) -/

/-- Of three copies, each given when its own code passes, the value that two agree on. -/
def majority {α : Type} [DecidableEq α] : Option α → Option α → Option α → Option α
  | some a, b, c =>
    if b = some a ∨ c = some a then some a
    else match b, c with
      | some b, some c => if b = c then some b else none
      | _, _ => none
  | none, some b, some c => if b = c then some b else none
  | none, _, _ => none

/-- All three copies are error-free and all differ: detail DIFFER, else NO_MAJORITY (R493). -/
def allDiffer {α : Type} [DecidableEq α] (a b c : Option α) : Bool :=
  a.isSome && b.isSome && c.isSome && (a != b && b != c && a != c)

/-! ### The container (R188 to R194) -/

/-- A section-table entry (R191). -/
structure Sec where
  type : Nat
  zeros : Nat
  count : Nat
  off : Nat
  len : Nat
  digest : List Byte
  deriving DecidableEq, Repr

def secAt (rd : List Byte) (base i : Nat) : Sec :=
  let o := base + 80 * i
  ⟨rdNat rd o 2, rdNat rd (o + 2) 2 + rdNat rd (o + 0x18) 8, rdNat rd (o + 4) 4, rdNat rd (o + 8) 8,
    rdNat rd (o + 0x10) 8, rdBytes rd (o + 0x20) 48⟩

/-- Record size of a section type; 0 for INFO, whose size is free (R193). -/
def recordSize : Nat → Option Nat
  | 0x0001 => some 360
  | 0x0002 => some 6184
  | 0x0003 => some 168
  | 0x0004 => some 40
  | 0x0005 => some 8
  | 0x0006 => some 512
  | 0x0007 => some 80
  | t => if 0x8000 ≤ t then some 0 else none

/-- The header fields that the loader uses (R189), read from the majority header. -/
structure Header where
  mask : Nat
  imageId : W64
  modelId : W64
  length : Nat
  sections : Nat
  pwrPeak : Nat
  pwrIdle : Nat
  tableOff : Nat
  sigOff : Nat
  keyId : List Byte
  tableDigest : List Byte
  deriving DecidableEq, Repr

def Header.ofBytes (rd : List Byte) : Header :=
  ⟨rdNat rd 7 1, rdWord rd 8, rdWord rd 0x10, rdNat rd 0x18 8, rdNat rd 0x20 2, rdNat rd 0x22 2, rdNat rd 0x24 2,
    rdNat rd 0x28 8, rdNat rd 0x30 8, rdBytes rd 0x38 16, rdBytes rd 0xD0 48⟩

/-- Two byte ranges overlap. -/
def overlaps (a n b m : Nat) : Bool := decide (a < b + m ∧ b < a + n)

/-- Step 1 of R198 on the majority header. -/
def headerBad (rd : List Byte) (len : Nat) : Bool :=
  let f := Header.ofBytes rd
  decide (rdBytes rd 0 4 ≠ [0x59, 0x52, 0x4E, 0x59]) ||
  decide (rdNat rd 4 2 ≠ 1) || decide (rdNat rd 6 1 ≠ 1) ||
  decide (f.length ≠ len) || decide (16 * 2 ^ 20 < f.length) ||
  decide (rdNat rd 0x26 2 ≠ 0) || decide (rdNat rd 0x48 136 ≠ 0) ||
  decide (f.sections = 0) || decide (4096 < f.sections) ||
  decide (f.tableOff < 0x300) || decide (f.length < f.tableOff + 80 * f.sections) ||
  decide (f.sigOff < 0x300) || decide (f.length < f.sigOff + 128) ||
  overlaps f.tableOff (80 * f.sections) f.sigOff 128

/-- The signature block's own faults (R192). -/
def sigBlockBad (rd : List Byte) (f : Header) : Bool :=
  let o := f.sigOff
  decide (rdNat rd o 2 ≠ 1) || decide (rdNat rd (o + 2) 2 ≠ 0) ||
    decide (rdBytes rd (o + 4) 16 ≠ f.keyId) || decide (rdNat rd (o + 0x14) 12 ≠ 0)

/-- The values r and s of the signature block, big-endian (R192). -/
def sigRS (rd : List Byte) (f : Header) : Nat × Nat :=
  (beNat (rdBytes rd (f.sigOff + 0x20) 48), beNat (rdBytes rd (f.sigOff + 0x50) 48))

/-- The key word of a record, by type (R193): its unit key, or `none` when a bit that does not apply is set or the
unit does not fit the type, and whether it lies in the strip mask. -/
def recordKey (type : Nat) (w : W64) (mask : Nat) : Option Nat :=
  let plot := bitsOf w 0 9
  let unit := bitsOf w 9 2
  let row := bitsOf w 11 5
  let side := bitsOf w 16 1
  let inMask (r : Nat) : Bool := mask / 2 ^ (r / 4) % 2 = 1
  if bitsOf w 17 47 ≠ 0 then none
  else match type with
    | 0x0001 => if bitsOf w 11 6 = 0 ∧ unit < 2 ∧ inMask (plot / 16) then some (2 * plot + unit) else none
    | 0x0002 => if bitsOf w 11 6 = 0 ∧ 2 ≤ unit ∧ inMask (plot / 16) then some (2 * plot + unit - 2) else none
    | 0x0003 => if bitsOf w 9 8 = 0 ∧ inMask (plot / 16) then some plot else none
    | _ => if bitsOf w 0 11 = 0 ∧ inMask row then some (2 * row + side) else none

/-- Whether a record without a key word names a plot outside the strip mask: the plot of a CREDIT declaration, or the rows of
a RECT entry of a PASS template (R32, R194). -/
def nonKeyedBad (rd : List Byte) (type mask o : Nat) : Bool :=
  let outside (row : Nat) : Bool := decide (mask / 2 ^ (row / 4) % 2 = 0)
  match type with
  | 5 => outside (bitsOf (rdWord rd o) 0 9 / 16)
  | 6 =>
    let p := rdWords rd o 64
    (List.range 16).any fun k =>
      let r := passRectOf p k
      r.fuEn && (List.range 32).any fun row => decide (r.rowLo ≤ row ∧ row ≤ r.rowHi) && outside row
  | _ => false

/-- The first record of a keyed section that breaks R193 or R194: keys ascend strictly. -/
def keysBad (rd : List Byte) (type mask off size : Nat) : Nat → Nat → Option W64 → Option Nat
  | 0, _, _ => none
  | fuel + 1, i, prev =>
    let w := rdWord rd (off + size * i)
    let ascends := match prev with
      | none => true
      | some p => decide (p.toNat < w.toNat)
    if ascends && (recordKey type w mask).isSome then keysBad rd type mask off size fuel (i + 1) (some w)
    else some i

/-- The ranges that a section may not overlap: header copies, table, signature, earlier sections (R198 step 4). -/
def secOverlaps (f : Header) (s : Sec) (earlier : List Sec) : Bool :=
  overlaps s.off s.len 0 0x300 || overlaps s.off s.len f.tableOff (80 * f.sections) ||
    overlaps s.off s.len f.sigOff 128 || earlier.any fun e => overlaps s.off s.len e.off e.len

/-- One section under step 4 of R198: the failing record, if it fails. -/
def sectionBad (rd : List Byte) (f : Header) (s : Sec) (earlier : List Sec) : Option Nat :=
  if s.off % 64 ≠ 0 ∨ f.length < s.off + s.len ∨ secOverlaps f s earlier then some 0
  else if sha384 (rdBytes rd s.off s.len) ≠ s.digest then some 0
  else match recordSize s.type with
    | none => some 0
    | some size =>
      if s.zeros ≠ 0 then some 0
      else if size = 0 then none
      else if s.len ≠ size * s.count ∨ earlier.any (fun e => e.type == s.type) then some 0
      else if s.type = 6 ∧ 1024 < s.count then some 0
      else if s.type ≤ 4 then keysBad rd s.type f.mask s.off size s.count 0 none
      else (List.range s.count).find? fun i => nonKeyedBad rd s.type f.mask (s.off + size * i)

/-- Step 4 over the sections in table order. -/
def sectionsBad (rd : List Byte) (f : Header) : Nat → List Sec → List Sec → Option LoadErr
  | _, [], _ => none
  | i, s :: rest, earlier =>
    match sectionBad rd f s earlier with
    | some r => some ⟨0x04, i, r⟩
    | none => sectionsBad rd f (i + 1) rest (earlier ++ [s])

/-- Every byte outside the header copies, table, sections and signature is zero (R188, R198 step 4). -/
def strayByte (rd : List Byte) (f : Header) (secs : List Sec) : Bool :=
  rd.zipIdx.any fun e =>
    e.1 != 0 && decide (0x300 ≤ e.2) && !overlaps e.2 1 f.tableOff (80 * f.sections) && !overlaps e.2 1 f.sigOff 128 &&
      !secs.any fun s => overlaps e.2 1 s.off s.len

/-! ### Records -/

def furrowRec (rd : List Byte) (o : Nat) : FurrowCfg :=
  { stages := rdWords rd (o + 8) 6
    lantern := rdWord rd (o + 56)
    port := rdWord rd (o + 64)
    slotIn := rdBytes rd (o + 72) 16
    slotOut := rdBytes rd (o + 88) 16
    elems := rdWords rd (o + 104) 8
    shuf := (List.range 6).map fun k => rdBytes rd (o + 168 + 32 * k) 32 }

def hopperRec (rd : List Byte) (o : Nat) : HopperCfg :=
  { desc := rdWords rd (o + 8) 512
    bind := rdWords rd (o + 8 + 4096) 256
    slotIn := rdBytes rd (o + 8 + 6144) 16
    slotOut := rdBytes rd (o + 8 + 6160) 16 }

def steptimeRec (rd : List Byte) (o : Nat) : StepTime :=
  ⟨rdNat rd o 4, rdNat rd (o + 4) 4, rdNat rd (o + 8) 8, (List.range 7).map (fun i => rdNat rd (o + 16 + 8 * i) 8),
    rdNat rd (o + 72) 8⟩

/-- The records of a section with their keys. -/
def keyedRecs {α : Type} (rd : List Byte) (f : Header) (s : Sec) (size : Nat) (get : Nat → α) : KMap α :=
  (List.range s.count).filterMap fun i =>
    (recordKey s.type (rdWord rd (s.off + size * i)) f.mask).map fun k => (k, get (s.off + size * i))

def secOf (secs : List Sec) (t : Nat) : Sec := (secs.find? fun s => s.type == t).getD ⟨t, 0, 0, 0, 0, []⟩

/-- The plane's contents of an image whose container holds (R195, R196). -/
def buildImage (rd : List Byte) (f : Header) (secs : List Sec) (compat : Bool) : Image :=
  let c := secOf secs 5
  let p := secOf secs 6
  let t := secOf secs 7
  { mask := f.mask
    imageId := f.imageId
    modelId := f.modelId
    digest8 := BitVec.ofNat 64 (leNat (f.tableDigest.take 8))
    pwrPeak := f.pwrPeak
    pwrIdle := f.pwrIdle
    compat := compat
    furrow := keyedRecs rd f (secOf secs 1) 360 (furrowRec rd)
    hopper := keyedRecs rd f (secOf secs 2) 6184 (hopperRec rd)
    headland := keyedRecs rd f (secOf secs 3) 168 (fun o => rdBytes rd (o + 8) 160)
    stile := keyedRecs rd f (secOf secs 4) 40 (fun o => ⟨rdBytes rd (o + 8) 16, rdBytes rd (o + 24) 16⟩)
    credits := (List.range c.count).map fun i => rdWord rd (c.off + 8 * i)
    passes := (List.range p.count).map fun i => rdWords rd (p.off + 512 * i) 64
    steptimes := (List.range t.count).map fun i => steptimeRec rd (t.off + 80 * i) }

/-! ### Step 7: per-record checks -/

/-- An idle pipeline (R195). -/
def FurrowCfg.idlePipe (c : FurrowCfg) : Bool := c.stages.all (fun w => w == 0) && c.lantern == 0

/-- Whether a mode accepts a format as operand A and B (R64, R71, R573). -/
def stageFmtBad (mode fa fb : Nat) (tallow : Bool) : Bool :=
  let narrow (x : Nat) : Bool := decide (0x3 ≤ x ∧ x ≤ 0xA)
  let half (x : Nat) : Bool := decide (x = 1 ∨ x = 2)
  let fp32ok (x : Nat) : Bool := decide (x ≤ 4 ∨ x = 0xA)
  match mode with
  | 0 => !((narrow fa && narrow fb) || (half fa && half fb))
  | 1 => if tallow then fmtReserved fa || fmtReserved fb else !(fp32ok fa && fp32ok fb)
  | _ => fmtReserved fa || fb != 0

/-- R56 for stage `k` (0 to 5). -/
def stageWordBad (k : Nat) (w : W64) : Bool :=
  let mode := bitsOf w 0 2
  let accInit := bitsOf w 10 2
  let elemOp := bitsOf w 12 3
  let prec := bitOf w 15
  let redOp := bitsOf w 16 2
  let redGroup := bitsOf w 18 3
  stageFmtBad mode (bitsOf w 2 4) (bitsOf w 6 4) prec ||
  bitsOf w 23 41 != 0 || (bitOf w 22 && k != 5) ||
  (if mode = 0 then decide (2 ≤ accInit) else accInit != 0) ||
  (if mode = 1 then decide (5 ≤ elemOp) else elemOp != 0 || prec) ||
  (if mode = 2 then redOp == 3 || redGroup == 0 || decide (6 ≤ redGroup) else redOp != 0 || redGroup != 0) ||
  (mode != 3 && bitOf w 21)

/-- R89 and R112 for a Lantern word. -/
def lanternWordBad (compat lanternEn : Bool) (w : W64) : Bool :=
  let op := bitsOf w 0 3
  (!lanternEn && w != 0) || decide (6 ≤ op) || bitsOf w 10 54 != 0 ||
  (op != 0 && bitsOf w 3 4 != 0) || (bitOf w 7 && op != 2 && op != 3) || (bitOf w 8 && op != 2) ||
  (bitOf w 9 && op == 0) ||
  (compat && (op == 3 || op == 4 || op == 5 || bitOf w 8))

/-- A source code of the port word (R168). -/
def srcCodeBad (c : Nat) : Bool := !decide (c ≤ 0xB ∨ c = 0x10 ∨ c = 0x1F)

/-- R168 and the idle-pipeline rule of R195 for a port word. -/
def portWordBad (idle : Bool) (w : W64) : Bool :=
  let srcs := (List.range 5).map fun i => bitsOf w (5 * i) 5
  let res := bitsOf w 25 4
  let stat := bitsOf w 29 4
  bitsOf w 33 31 != 0 ||
  (if idle then srcs.any (fun c => c != 0x1F) || res != 0 || stat != 0
   else srcs.any srcCodeBad || decide (res = 0 ∨ 9 < res) || decide (9 < stat))

/-- R169 for an element word. -/
def elemWordBad (w : W64) : Bool :=
  let op := bitsOf w 0 3
  let nio := bitsOf w 4 4
  let ins := if op = 1 ∨ op = 3 then 1 else nio
  let outs := if op = 4 ∨ op = 5 then 1 else nio
  let once := bitsOf w 8 4
  if op = 0 then w != 0
  else
    decide (6 ≤ op) || (decide (op ≤ 2) && bitOf w 3) || decide (nio < 2 ∨ 4 < nio) ||
    (if op = 2 then once % 2 == 1 || decide (2 ^ nio ≤ once) else once != 0) ||
    (if op = 3 ∨ op = 5 then decide (0xB < bitsOf w 12 4) else bitsOf w 12 4 != 0) ||
    (List.range 4).any (fun j => if j < ins then decide (0xB < bitsOf w (16 + 4 * j) 4)
      else bitsOf w (16 + 4 * j) 4 != 0) ||
    (List.range 4).any (fun j => if j < outs then decide (bitsOf w (32 + 4 * j) 4 = 0 ∨ 8 < bitsOf w (32 + 4 * j) 4)
      else bitsOf w (32 + 4 * j) 4 != 0) ||
    bitsOf w 48 16 != 0

/-- The entry-byte rule of R193, with the highest target of an enabled entry. -/
def slotByteBad (maxTarget : Nat) (b : Byte) : Bool :=
  bitsOf b 4 3 != 0 || (b.getLsbD 7 && decide (maxTarget < b.toNat % 16))

/-- A Hopper entry byte: EN and a generator, every other bit zero (R193). -/
def hopperByteBad (b : Byte) : Bool := bitsOf b 2 5 != 0

def furrowRecBad (compat : Bool) (c : FurrowCfg) : Bool :=
  let idle := c.idlePipe
  (!idle && ((c.stages.zipIdx.any fun e => stageWordBad e.2 e.1) ||
    lanternWordBad compat (bitOf (c.stages.getD 5 0) 22) c.lantern)) ||
  portWordBad idle c.port || c.elems.any elemWordBad ||
  c.slotIn.any (slotByteBad 7) || c.slotOut.any (slotByteBad 3)

/-- Whether a list is a permutation of 0 to 5 (R128). -/
def isPerm6 (l : List Nat) : Bool := (List.range 6).all fun i => l.contains i

/-- The range of a level's contribution to an S walk, in bytes. An indexed level takes index values below LIMIT1, since
every other value masks its iteration (R140); DEDUCED: R128's bound on a buffer holds for the walk of those values
(assumption 29). -/
def levelSpan (d : LoopDesc) (i : Nat) : Int × Int :=
  let n := if d.kind = 1 ∧ d.indexedLevel = some i then max 1 d.limit1 else d.iters i
  let top := ((n : Int) - 1) * d.stride.getD i 0
  (min 0 top, max 0 top)

/-- The lowest offset and the end of an S walk, in bytes (R128, R130). -/
def sWalkSpan (d : LoopDesc) : Int × Int :=
  let spans := d.sLevels.map (levelSpan d)
  ((spans.map (·.1)).foldl (· + ·) 0, (spans.map (·.2)).foldl (· + ·) 0 + 64 * d.beats)

/-- The conditions of R139, R142 and R146 on a descriptor's KIND. -/
def kindBad (d : LoopDesc) : Bool :=
  match d.kind with
  | 1 => d.mask.contains 2 || d.indexedLevel == some d.vector
  | 2 =>
    let paged := d.fLevels.filter fun i => d.mask.getD i 0 == 1
    match paged, d.requestLevel with
    | [p], some r => !d.isF r || d.stride.getD p 0 != 0 || d.stride.getD r 0 != 0 || d.limit0 != 0
    | _, _ => true
  | 3 =>
    let big := (List.range 6).filter fun i => decide (1 < d.extent.getD i 0)
    d.fmt != 0xB || big.length != 1 || d.requestLevel != big.head?
  | _ => false

/-- R128 for a descriptor. -/
def descBad (w : List W64) : Bool :=
  let d := LoopDesc.ofWords w
  let v := d.vector
  let vTag := d.mask.getD v 0
  fmtReserved d.fmt || bitsOf (w.getD 6 0) 62 2 != 0 || bitsOf (w.getD 7 0) 62 2 != 0 ||
  d.extent.any (fun e => e == 0) || d.stride.any (fun s => s % 64 != 0) ||
  !isPerm6 d.orderS || !isPerm6 d.orderF || d.sLevels.isEmpty ||
  (d.side == 0) != (d.tileLines == 0) || decide (12287 < d.tileLines) ||
  decide (1 < (d.mask.filter fun t => t == 3).length) ||
  ((vTag == 1 || vTag == 2) && (List.range v).any fun i => d.mask.getD i 0 == vTag) ||
  (d.side != 0 &&
    (decide ((sWalkSpan d).1 < 0) || decide ((64 * d.tileLines : Int) < (sWalkSpan d).2))) ||
  kindBad d

/-- Request rows of a descriptor. -/
def LoopDesc.rows (d : LoopDesc) : Nat := d.requestLevel.elim 1 fun r => d.extent.getD r 1

/-- The bytes of the element buffer or ring of a binding, or of the depths of a TREE walk (R128, R149, R150). -/
def elemSpan (b : Binding) (d : LoopDesc) : Int × Int :=
  let o : Int := 64 * b.sbBase
  if d.side != 0 then (o, o + 128 * d.tileLines)
  else if d.kind == 3 then (o, o + 1024 * d.rows)
  else (o + (sWalkSpan d).1, o + (sWalkSpan d).2)

/-- The bytes of the other buffers of a binding: block scales (R136), index values (R139), page-table rows (R143), parents
and lengths of a TREE walk (R146). -/
def sideSpans (b : Binding) (d : LoopDesc) : List (Int × Int) :=
  let at_ (line n : Nat) : Int × Int := (64 * line, 64 * line + n)
  let bpb : Int := blocksPerBeat d.fmt
  (if isMx d.fmt && d.kind != 3 then
    [if d.side != 0 then at_ b.sbScale (2 * d.tileLines * blocksPerBeat d.fmt)
     else (64 * b.sbScale + (sWalkSpan d).1 / 64 * bpb, 64 * b.sbScale + (sWalkSpan d).2 / 64 * bpb)] else []) ++
  (match d.kind with
   | 1 => [at_ b.idxLine (4 * (d.indexedLevel.elim 0 fun i => d.extent.getD i 1))]
   | 2 => [at_ b.idxLine (8 * d.rows * (d.limit1 + 1))]
   | 3 => [at_ b.idxLine (1024 * d.rows), at_ b.sbScale (8 * d.rows * (d.limit1 + 1))]
   | _ => [])

/-- Whether bytes lie outside the 12,288 lines of a Hopper (R128). -/
def spanBad (x : Int × Int) : Bool := decide (x.1 < 0) || decide (64 * 12288 < x.2)

/-- Two byte ranges overlap. -/
def spansMeet (x y : Int × Int) : Bool := decide (x.1 < y.2 ∧ y.1 < x.2)

/-- R128 for a binding. -/
def bindBad (c : HopperCfg) (w : List W64) : Bool :=
  let b := Binding.ofWords w
  let d := c.descAt b.desc
  bitsOf (w.getD 0 0) 59 5 != 0 || bitsOf (w.getD 1 0) 40 24 != 0 || bitsOf (w.getD 2 0) 40 24 != 0 ||
  bitsOf (w.getD 3 0) 48 16 != 0 ||
  (b.en && (b.port == 3 || decide (5 < b.role) || (b.port == 2 && decide (1 < d.beats)) ||
    spanBad (elemSpan b d) || (sideSpans b d).any spanBad))

/-- The product of the F-level extents (R150). -/
def fProduct (d : LoopDesc) : Nat := (d.fLevels.map fun i => d.extent.getD i 1).foldl (· * ·) 1

/-- The enabled bindings of a Hopper in the stages of a Pass, with their descriptors, stage and generator. -/
def passBindings (c : HopperCfg) (p : List W64) : List (Nat × Nat × Binding × LoopDesc) :=
  ((List.range 16).filter (passUses p)).flatMap fun k =>
    ((List.range 4).map fun g => (k, g, c.binding k g, c.descAt (c.binding k g).desc)).filter fun e => e.2.2.1.en

/-- R150 for one Hopper under one Pass template. -/
def ringsBad (c : HopperCfg) (p : List W64) : Bool :=
  let bs := (passBindings c p).map fun e => e.2.2
  let rings := bs.filter fun e => isRing e.1 e.2
  rings.any fun e =>
    let same := rings.filter fun x => x.1.sbBase == e.1.sbBase
    let writers := (same.filter fun x => x.1.write).length
    let readers := (same.filter fun x => !x.1.write).length
    writers != 1 || decide (readers < 1 ∨ 3 < readers) ||
    same.any (fun x => x.2.tileLines != e.2.tileLines || fProduct x.2 != fProduct e.2) ||
    bs.any fun x => (sideSpans x.1 x.2).any (spansMeet (elemSpan e.1 e.2)) ||
      !(isRing x.1 x.2 && x.1.sbBase == e.1.sbBase) && spansMeet (elemSpan x.1 x.2) (elemSpan e.1 e.2)

def hopperRecBad (m : Image) (c : HopperCfg) : Bool :=
  ((List.range 64).any fun i => descBad (c.descWords i)) ||
  ((List.range 64).any fun i => bindBad c (c.bindWords (i / 4) (i % 4))) ||
  c.slotIn.any hopperByteBad || c.slotOut.any hopperByteBad || m.passes.any (ringsBad c)

/-- Whether port `p` of a plot's Headland is connected (R35). -/
def portConnected (plot p : Nat) : Bool :=
  let row := plot / 16
  match p with
  | 4 => decide (0 < row)
  | 5 => decide (row < 31)
  | 8 => decide (4 ≤ row)
  | 9 => decide (row < 28)
  | _ => true

/-- R35, R38 and the entry-byte rule for a HEADLAND record of 160 bytes. A SRC of 10 to 15 is refused in a disabled entry
too (R51). -/
def headlandRecBad (plot : Nat) (h : List Byte) : Bool :=
  h.any (slotByteBad 9) || h.any (fun b => decide (9 < b.toNat % 16)) ||
  (List.range 16).any fun s =>
    let used := (List.range 10).filterMap fun o => (slotEntry (h.getD (16 * o + s) 0)).map fun i => (o, i)
    (used.any fun e => !portConnected plot e.1 || !portConnected plot e.2) ||
    (used.any fun e => decide (1 < (used.filter fun x => x.2 == e.2).length))

def stileRecBad (c : StileCfg) : Bool := c.slotIn.any (slotByteBad 6) || c.slotOut.any (slotByteBad 6)

/-- WCST covers every floor of its record (R199). -/
def steptimeBad (t : StepTime) : Bool := t.floors.any fun f => decide (t.wcst < f)

/-! ### Step 8: cross-record checks -/

/-- Where an output port of a plot's Headland leads: the partner plot and its input, and the hop latency; a Stile end and
an unconnected port are none (R33, R35, R40). -/
def hlPartner (plot o : Nat) : Option (Nat × Nat × Nat) :=
  match o with
  | 4 => if plot < 16 then none else some (plot - 16, 5, 2)
  | 5 => if 496 ≤ plot then none else some (plot + 16, 4, 2)
  | 6 => if plot % 16 = 15 then none else some (plot + 1, 7, 2)
  | 7 => if plot % 16 = 0 then none else some (plot - 1, 6, 2)
  | 8 => if plot < 64 then none else some (plot - 64, 9, 3)
  | 9 => if 448 ≤ plot then none else some (plot + 64, 8, 3)
  | _ => none

/-- The Stile at an edge output of a plot, as `2 * row + side`. -/
def edgeStile (plot o : Nat) : Option Nat :=
  if o = 6 ∧ plot % 16 = 15 then some (2 * (plot / 16) + 1)
  else if o = 7 ∧ plot % 16 = 0 then some (2 * (plot / 16))
  else none

/-- A unit's inbound and outbound entries: ports 0 and 1 are Furrow Units, 2 and 3 Hopper Units. -/
def unitIn (m : Image) (plot port s : Nat) : Option Nat :=
  if port < 2 then slotEntry ((m.furrowAt (2 * plot + port)).slotIn.getD s 0)
  else slotEntry ((m.hopperAt (2 * plot + port - 2)).slotIn.getD s 0)

def unitOut (m : Image) (plot port s : Nat) : Option Nat :=
  if port < 2 then slotEntry ((m.furrowAt (2 * plot + port)).slotOut.getD s 0)
  else slotEntry ((m.hopperAt (2 * plot + port - 2)).slotOut.getD s 0)

def stileIn (m : Image) (k s : Nat) : Option Nat := slotEntry ((m.stileAt k).slotIn.getD s 0)
def stileOut (m : Image) (k s : Nat) : Option Nat := slotEntry ((m.stileAt k).slotOut.getD s 0)

/-- Whether the token that leaves a Headland by output `o` in slot `s` is taken at the other end (R41, R48, R122,
R167). -/
def outMatched (m : Image) (plot o s : Nat) : Bool :=
  if o < 4 then (unitIn m plot o ((s + 2) % 16)).isSome
  else match edgeStile plot o with
    | some k => (stileOut m k ((s + 2) % 16)).isSome
    | none =>
      match hlPartner plot o with
      | some (q, i, lat) => (m.hlOut q i ((s + lat) % 16)).isSome
      | none => false

/-- Whether something drives input `i` of a Headland in slot `s` (R41, R48, R122, R167). -/
def inMatched (m : Image) (plot i s : Nat) : Bool :=
  if i < 4 then (unitOut m plot i ((s + 15) % 16)).isSome
  else match edgeStile plot i with
    | some k => (stileIn m k ((s + 15) % 16)).isSome
    | none =>
      match hlPartner plot i with
      | some (q, o, lat) => (m.hlEntry q o ((s + 16 - lat) % 16)).isSome
      | none => false

def headlandCrossBad (m : Image) (plot : Nat) : Bool :=
  (List.range 160).any fun e =>
    match m.hlEntry plot (e / 16) (e % 16) with
    | none => false
    | some i => !outMatched m plot (e / 16) (e % 16) || !inMatched m plot i (e % 16)

/-- Every entry of a unit's tables is matched in its plot's Headland. -/
def unitCrossBad (m : Image) (plot port : Nat) : Bool :=
  (List.range 16).any fun s =>
    ((unitIn m plot port s).isSome && (m.hlEntry plot port ((s + 14) % 16)).isNone) ||
    ((unitOut m plot port s).isSome && (m.hlOut plot port ((s + 1) % 16)).isNone)

def stileCrossBad (m : Image) (k : Nat) : Bool :=
  let plot := 16 * (k / 2) + (if k % 2 = 0 then 0 else 15)
  let port := if k % 2 = 0 then 7 else 6
  (List.range 16).any fun s =>
    ((stileIn m k s).isSome && (m.hlOut plot port ((s + 1) % 16)).isNone) ||
    ((stileOut m k s).isSome && (m.hlEntry plot port ((s + 14) % 16)).isNone)

/-- Output formats that the Pass templates give the Furrow Units of a plot (R216). -/
def plotOutFmts (m : Image) (plot : Nat) : List Nat :=
  m.passes.flatMap fun p => ((List.range 16).filter fun k => (passRectOf p k).holds plot).map fun k =>
    bitsOf (passOcw p k) 0 4

/-- The STATS_PART check of R89. -/
def statsPartBad (m : Image) (plot : Nat) (c : FurrowCfg) : Bool :=
  c.lantern != 0 && bitsOf c.lantern 0 3 == 4 && (plotOutFmts m plot).any fun f => f != 0xC

/-! ### Circuits -/

/-- The key of a queue: `32 * unit + queue` with the queue numbers of R181; a Stile's unit is `2048 + 2 * row +
side`. -/
abbrev QId := Nat

def furrowQ (plot unit q : Nat) : QId := 32 * (4 * plot + unit) + q
def hopperQ (plot unit q : Nat) : QId := 32 * (4 * plot + 2 + unit) + q
def stileQ (k q : Nat) : QId := 32 * (2048 + k) + q

/-- Follows a token on input `i` of a plot's Headland in slot `s` to the queue that receives it, counting the
Headlands (R39 to R41). -/
def traceFwd (m : Image) : Nat → Nat → Nat → Nat → Nat → Option (QId × Nat)
  | 0, _, _, _, _ => none
  | fuel + 1, plot, i, s, h =>
    match m.hlOut plot i s with
    | none => none
    | some o =>
      if o < 4 then
        (unitIn m plot o ((s + 2) % 16)).map fun q =>
          (if o < 2 then furrowQ plot o q else hopperQ plot (o - 2) q, h + 1)
      else match edgeStile plot o with
        | some k => (stileOut m k ((s + 2) % 16)).map fun a => (stileQ k (8 + a), h + 1)
        | none =>
          match hlPartner plot o with
          | some (p, j, lat) => traceFwd m fuel p j ((s + lat) % 16) (h + 1)
          | none => none

/-- More than the Headland inputs and slots of a Field: no circuit is longer. -/
def traceFuel : Nat := 2 ^ 17

/-- The circuits of a sender queue: for every slot of its outbound table, the receiver and the Headlands passed. -/
def senderCircuits (m : Image) (q : QId) : List (Nat × QId × Nat) :=
  let unit := q / 32
  let n := q % 32
  (List.range 16).filterMap fun s =>
    if 2048 ≤ unit then
      let k := unit - 2048
      if stileIn m k s == some n then
        (traceFwd m traceFuel (16 * (k / 2) + (if k % 2 = 0 then 0 else 15)) (if k % 2 = 0 then 7 else 6)
          ((s + 1) % 16) 0).map fun r => (s, r)
      else none
    else
      let plot := unit / 4
      let port := unit % 4
      let base := if port < 2 then 8 else 4
      if base ≤ n ∧ unitOut m plot port s = some (n - base) then
        (traceFwd m traceFuel plot port ((s + 1) % 16) 0).map fun r => (s, r)
      else none

/-- The sender queues of an image (R160): OQs, AG outbound queues and Stile inbound queues that a slot table
names. -/
def imageSenders (m : Image) : List QId :=
  (m.furrow.flatMap fun e => ((List.range 4).filter fun q =>
    (List.range 16).any fun s => unitOut m (e.1 / 2) (e.1 % 2) s == some q).map fun q => furrowQ (e.1 / 2) (e.1 % 2) (8 + q)) ++
  (m.hopper.flatMap fun e => ((List.range 4).filter fun q =>
    (List.range 16).any fun s => unitOut m (e.1 / 2) (2 + e.1 % 2) s == some q).map fun q => hopperQ (e.1 / 2) (e.1 % 2) (4 + q)) ++
  (m.stile.flatMap fun e => ((List.range 7).filter fun a =>
    (List.range 16).any fun s => stileIn m e.1 s == some a).map fun a => stileQ e.1 a)

/-- The queue at the end of a sender's circuit, by the lit slot tables. -/
def circuitEnd (m : Image) (q : QId) : Option QId := (senderCircuits m q).head?.map fun c => c.2.1

/-! ### Step 9: the credit-loop check (R181, R182) -/

/-- A source code of a port word or element as a queue of its Furrow Unit (R168, R169); 0x10 is role `r`'s operand
queue. -/
def srcQ (plot unit c r : Nat) : Option QId :=
  if c < 8 then some (furrowQ plot unit c)
  else if c < 12 then some (furrowQ plot unit (c + 4))
  else if c = 0x10 then some (furrowQ plot unit (16 + r))
  else none

/-- A destination code as a queue of its Furrow Unit. -/
def dstQ (plot unit c : Nat) : Option QId :=
  if 1 ≤ c ∧ c ≤ 4 then some (furrowQ plot unit (7 + c))
  else if 5 ≤ c ∧ c ≤ 8 then some (furrowQ plot unit (7 + c))
  else none

def elemIns (w : W64) : List Nat :=
  let op := bitsOf w 0 3
  (List.range (if op = 1 ∨ op = 3 then 1 else bitsOf w 4 4)).map fun j => bitsOf w (16 + 4 * j) 4

def elemOuts (w : W64) : List Nat :=
  let op := bitsOf w 0 3
  (List.range (if op = 4 ∨ op = 5 then 1 else bitsOf w 4 4)).map fun j => bitsOf w (32 + 4 * j) 4

/-- Whether an element has a control input (R169). -/
def elemHasCtl (w : W64) : Bool := bitsOf w 0 3 == 3 || bitsOf w 0 3 == 5

/-- One link of the token graph between a writer or a reader and a queue. Nodes that are not queues: elements,
pipelines and generators, numbered above every queue key. -/
def elemNode (plot unit e : Nat) : Nat := 10 ^ 6 + 8 * (2 * plot + unit) + e
def pipeNode (plot unit : Nat) : Nat := 2 * 10 ^ 6 + 2 * plot + unit
def agNode (hop g : Nat) : Nat := 3 * 10 ^ 6 + 4 * hop + g
def agentNode (k a : Nat) : Nat := 4 * 10 ^ 6 + 16 * k + a

/-- Every enabled binding of an image: Hopper, generator, binding, descriptor. -/
def imageBindings (m : Image) : List (Nat × Nat × Binding × LoopDesc) :=
  m.hopper.flatMap fun e => ((List.range 64).map fun i =>
    (e.1, i % 4, e.2.binding (i / 4) (i % 4), e.2.descAt (e.2.binding (i / 4) (i % 4)).desc)).filter fun b => b.2.2.1.en

/-- The queue that a binding reads or writes at its port (R121, R160). -/
def bindPortQ (hop g : Nat) (b : Binding) : QId :=
  let plot := hop / 2
  let u := hop % 2
  if b.port = 2 then hopperQ plot u (if b.write then g else 4 + g)
  else if b.write then hopperQ plot u (8 + g)
  else furrowQ plot b.port (16 + b.role)

/-- Pairs (writer node, queue): who writes each queue. -/
def queueWriters (m : Image) : List (Nat × QId) :=
  ((imageSenders m).flatMap fun q => (senderCircuits m q).map fun c => (q, c.2.1)) ++
  (m.furrow.flatMap fun e =>
    let plot := e.1 / 2
    let u := e.1 % 2
    (e.2.elems.zipIdx.flatMap fun w => if w.1 = 0 then [] else
      (elemOuts w.1).filterMap fun c => (dstQ plot u c).map fun q => (elemNode plot u w.2, q)) ++
    ([bitsOf e.2.port 25 4, bitsOf e.2.port 29 4].filterMap fun c => (dstQ plot u c).map fun q => (pipeNode plot u, q)) ++
    (if bitsOf e.2.port 25 4 = 9 ∨ bitsOf e.2.port 29 4 = 9 then
      ((imageBindings m).filter fun b => b.1 / 2 == plot && b.2.2.1.write && b.2.2.1.role == 5 && b.2.2.1.port == u).map
        fun b => (pipeNode plot u, bindPortQ b.1 b.2.1 b.2.2.1)
     else [])) ++
  ((imageBindings m).filterMap fun b =>
    if b.2.2.1.write then none else some (agNode b.1 b.2.1, bindPortQ b.1 b.2.1 b.2.2.1)) ++
  (m.stile.flatMap fun e => (List.range 7).filterMap fun a =>
    if (List.range 16).any (fun s => stileIn m e.1 s == some a) then some (agentNode e.1 a, stileQ e.1 a) else none)

/-- Pairs (queue, reader node): who reads each queue. -/
def queueReaders (m : Image) : List (QId × Nat) :=
  ((imageSenders m).flatMap fun q => (senderCircuits m q).map fun c => (q, c.2.1)) ++
  (m.furrow.flatMap fun e =>
    let plot := e.1 / 2
    let u := e.1 % 2
    (e.2.elems.zipIdx.flatMap fun w => if w.1 = 0 then [] else
      ((elemIns w.1) ++ (if elemHasCtl w.1 then [bitsOf w.1 12 4] else [])).filterMap fun c =>
        (srcQ plot u c 0).map fun q => (q, elemNode plot u w.2)) ++
    (if e.2.idlePipe then [] else (List.range 5).filterMap fun r =>
      (srcQ plot u (bitsOf e.2.port (5 * r) 5) r).map fun q => (q, pipeNode plot u))) ++
  ((imageBindings m).filterMap fun b =>
    if b.2.2.1.write then some (bindPortQ b.1 b.2.1 b.2.2.1, agNode b.1 b.2.1) else none) ++
  (m.stile.flatMap fun e => (List.range 7).filterMap fun a =>
    if (List.range 16).any (fun s => stileOut m e.1 s == some a) then some (stileQ e.1 (8 + a), agentNode e.1 a) else none)

/-- The rings of an image, by writer: queue numbers 12 to 15 (R181). -/
def imageRings (m : Image) : List QId :=
  ((imageBindings m).filter fun b => b.2.2.1.write && isRing b.2.2.1 b.2.2.2).map fun b =>
    hopperQ (b.1 / 2) (b.1 % 2) (12 + b.2.1)

/-- Edges from each ring's writer to its readers (R182). -/
def ringEdges (m : Image) : List (Nat × Nat) :=
  let bs := (imageBindings m).filter fun b => isRing b.2.2.1 b.2.2.2
  (bs.filter fun b => b.2.2.1.write).flatMap fun w =>
    (bs.filter fun b => !b.2.2.1.write && b.1 == w.1 && b.2.2.1.sbBase == w.2.2.1.sbBase).map fun r =>
      (agNode w.1 w.2.1, agNode r.1 r.2.1)

/-- The token graph of R182: circuits, queues to readers, elements and pipelines to destinations, rings. -/
def tokenGraph (m : Image) : List (Nat × Nat) :=
  queueReaders m ++ ((queueWriters m).filter fun e => decide (10 ^ 6 ≤ e.1 ∧ e.1 < 3 * 10 ^ 6)) ++ ringEdges m

/-- Whether edges remain when edges whose source has no incoming edge are removed again and again. -/
def hasCycle : Nat → List (Nat × Nat) → Bool
  | 0, es => !es.isEmpty
  | fuel + 1, es =>
    let es' := es.filter fun e => es.any fun x => x.2 == e.1
    if es'.length = es.length then !es.isEmpty else hasCycle fuel es'

/-- Without repeats. -/
def distinct (l : List Nat) : List Nat := l.foldl (fun acc x => if acc.contains x then acc else acc ++ [x]) []

/-- The queue of a declaration (R181). -/
def declQ (d : W64) : Option QId :=
  let plot := bitsOf d 0 9
  let unit := bitsOf d 9 3
  let q := bitsOf d 12 5
  if unit < 2 then (if q ≤ 20 then some (furrowQ plot unit q) else none)
  else if unit < 4 then (if q ≤ 15 then some (hopperQ plot (unit - 2) q) else none)
  else if unit < 6 then
    (if q ≤ 6 ∨ (8 ≤ q ∧ q ≤ 14) then some (stileQ (2 * (plot / 16) + (unit - 4)) q) else none)
  else none

/-- The depth of a queue (R160). -/
def queueDepth (q : QId) : Nat :=
  let unit := q / 32
  let n := q % 32
  if 2048 ≤ unit then 16
  else if unit % 4 < 2 then (if n < 8 then 64 else if n < 16 then 16 else 32)
  else (if n < 4 then 64 else if n < 8 then 16 else if n < 12 then 32 else 2)

/-- Whether a queue is at the end of a circuit (R160). -/
def isCircuitQ (q : QId) : Bool :=
  let unit := q / 32
  let n := q % 32
  if 2048 ≤ unit then decide (8 ≤ n) else if unit % 4 < 2 then decide (n < 8) else decide (n < 4)

/-- The credit-loop time of R165 and R160, for a circuit of `h` Headlands. -/
def loopTime (q : QId) (h hold : Nat) : Nat :=
  let unit := q / 32
  let n := q % 32
  if isCircuitQ q then 16 * h + 2 + 16 * cdiv (hold - 12) 16
  else if 2048 ≤ unit then 12 + hold
  else if unit % 4 < 2 then (if n < 16 then 2 + hold else 6 + hold)
  else (if n < 8 then 2 + hold else 6 + hold)

/-- Whether a destination code of a Furrow Unit names a queue: code 9 is the operand path, the one way of a Furrow to an AG
result queue (R168). -/
def destNames (plot unit c : Nat) (q : QId) : Bool := dstQ plot unit c == some q || c == 9 && q / 32 != 4 * plot + unit

/-- Formats of the streams that enter a queue, found back through its writers; a JOIN keeps its streams apart (R173), a
status token is INT32 (R110, assumption 35), and agents' streams have none (R178, R182 check 5). -/
def queueFmts (m : Image) : Nat → QId → List Nat
  | 0, _ => []
  | fuel + 1, q =>
    ((queueWriters m).filter fun e => e.2 == q).flatMap fun e =>
      let w := e.1
      if w < 10 ^ 6 then queueFmts m fuel w
      else if w < 2 * 10 ^ 6 then
        let u := (w - 10 ^ 6) / 8
        let el := (m.furrowAt u).elems.getD (w % 8) 0
        let ins := if bitsOf el 0 3 = 2 then
            ((elemIns el).zip (elemOuts el)).filterMap fun c => if dstQ (u / 2) (u % 2) c.2 = some q then some c.1 else none
          else elemIns el
        ins.flatMap fun c => ((srcQ (u / 2) (u % 2) c 0).map fun i => queueFmts m fuel i).getD []
      else if w < 3 * 10 ^ 6 then
        let u := w - 2 * 10 ^ 6
        let port := (m.furrowAt u).port
        (if destNames (u / 2) (u % 2) (bitsOf port 25 4) q then plotOutFmts m (u / 2) else []) ++
          if destNames (u / 2) (u % 2) (bitsOf port 29 4) q then [0xB] else []
      else if w < 4 * 10 ^ 6 then
        ((imageBindings m).filter fun b => agNode b.1 b.2.1 == w && !b.2.2.1.write && bindPortQ b.1 b.2.1 b.2.2.1 == q).map
          fun b => b.2.2.2.fmt
      else []

/-- R178 for a Furrow Unit's elements. -/
def elemFmtsBad (m : Image) (plot unit : Nat) (c : FurrowCfg) : Bool :=
  c.elems.any fun w =>
    let op := bitsOf w 0 3
    let fm (x : Nat) := ((srcQ plot unit x 0).map (queueFmts m 64)).getD []
    (decide (2 ≤ op) && (elemIns w).any fun x => (fm x).any isMx) ||
    (elemHasCtl w && (fm (bitsOf w 12 4)).any fun f => f != 0xA)

/-- Whether a declaration fails checks 3 to 6 of R182, or R181. -/
def declBad (m : Image) (d : W64) : Bool :=
  match declQ d with
  | none => true
  | some q =>
    let rate := bitsOf d 17 7
    let hold := bitsOf d 24 16
    let skew := bitsOf d 40 8
    let ring := q / 32 < 2048 && decide (2 ≤ q / 32 % 4 ∧ 12 ≤ q % 32)
    let circuits := (imageSenders m).flatMap fun s => (senderCircuits m s).filter fun c => c.2.1 == q
    let h := (circuits.map fun c => c.2.2).foldl max 0
    let operand := q / 32 < 2048 &&
      (if q / 32 % 4 < 2 then decide (16 ≤ q % 32) else decide (8 ≤ q % 32 ∧ q % 32 < 12))
    let mx := (queueFmts m 64 q).filter isMx
    bitsOf d 48 16 != 0 || decide (64 < rate) ||
    (if ring then rate != 0 || hold != 0 || decide (1 < skew)
     else
      decide ((if isCircuitQ q then circuits.length else if operand then 64 else 16) < rate) ||
      decide (queueDepth q < cdiv (rate * loopTime q h hold) 16 + skew) || decide (64 < h) ||
      (isCircuitQ q && mx.any fun f => decide (queueDepth q < 64 / blocksPerBeat f + 1)))

/-- Check 1 of R182 for a queue that is used. -/
def queueUseBad (m : Image) (q : QId) : Bool :=
  (distinct (((queueWriters m).filter fun e => e.2 == q).map (·.1))).length != 1 ||
  (distinct (((queueReaders m).filter fun e => e.1 == q).map (·.2))).length != 1 ||
  (m.credits.filter fun d => declQ d == some q).length != 1

/-- Senders with a slot whose circuit does not end, or Furrow results on an operand path that no binding takes. -/
def danglingBad (m : Image) : Bool :=
  (imageSenders m).any (fun q => (senderCircuits m q).length = 0) ||
  m.furrow.any fun e => (bitsOf e.2.port 25 4 == 9 || bitsOf e.2.port 29 4 == 9) &&
    !(imageBindings m).any fun b => b.1 / 2 == e.1 / 2 && b.2.2.1.write && b.2.2.1.role == 5 && b.2.2.1.port == e.1 % 2

/-- Step 9 of R198: the failing declaration's index, or 0. -/
def creditBad (m : Image) : Option Nat :=
  let rings := imageRings m
  let used := distinct ((queueWriters m).map (·.2) ++ (queueReaders m).map (·.1))
  match m.credits.zipIdx.find? fun d =>
      declBad m d.1 || !((declQ d.1).elim false fun q => used.contains q || rings.contains q) with
  | some d => some d.2
  | none =>
    if danglingBad m || used.any (queueUseBad m) ||
      rings.any (fun q => (m.credits.filter fun d => declQ d == some q).length != 1) ||
      hasCycle (2 ^ 20) (tokenGraph m) then some 0
    else none

/-! ### The loader's steps (R198) -/

/-- The first record, in section-table order, that a check on (type, key, index) refuses. -/
def firstBadRec (secs : List Sec) (rd : List Byte) (mask : Nat) (bad : Nat → Nat → Nat → Bool) : Option (Nat × Nat) :=
  (secs.zipIdx.findSome? fun s =>
    match recordSize s.1.type with
    | some size =>
      ((List.range s.1.count).find? fun i =>
        s.1.type ≤ 7 && bad s.1.type (((recordKey s.1.type (rdWord rd (s.1.off + size * i)) mask)).getD 0) i).map fun i => (s.2, i)
    | none => none)

/-- A PASS template with a bad output conversion word, which no Pass may run (R14, R78). -/
def passRecBad (p : List W64) : Bool := (List.range 16).any fun k => convWordBad (passOcw p k)

/-- Step 7 for one record. -/
def recordBad (m : Image) (type key i : Nat) : Bool :=
  match type with
  | 1 => furrowRecBad m.compat (m.furrowAt key) || elemFmtsBad m (key / 2) (key % 2) (m.furrowAt key)
  | 2 => hopperRecBad m (m.hopperAt key)
  | 3 => headlandRecBad key (m.headland.get (fun _ => []) key)
  | 4 => stileRecBad (m.stileAt key)
  | 6 => (m.passes[i]?).elim false passRecBad
  | 7 => (m.steptimes[i]?).elim false steptimeBad
  | _ => false

/-- Step 8 for one record. -/
def crossBad (m : Image) (type key : Nat) : Bool :=
  match type with
  | 1 => unitCrossBad m (key / 2) (key % 2) || statsPartBad m (key / 2) (m.furrowAt key)
  | 2 => unitCrossBad m (key / 2) (2 + key % 2)
  | 3 => headlandCrossBad m key
  | 4 => stileCrossBad m key
  | _ => false

/-- Steps 1 to 9 of R198 on the majority header `hdr`: the plane's contents, or the first failure. `verify` is the
signature check over the header, `stripBad` and `modeOff` are strip masks (R30, R198 step 6). -/
def loadChecks (rd : List Byte) (len : Nat) (hdr : Option (List Byte)) (verify : List Byte → Nat → Nat → List Byte → Bool)
    (stripBad modeOff : Nat) (compat : Bool) : Except LoadErr Image :=
  match hdr with
  | none => .error ⟨0x01, 0, 0⟩
  | some h =>
    if headerBad h len then .error ⟨0x01, 0, 0⟩
    else
      let f := Header.ofBytes h
      let rs := sigRS rd f
      if sigBlockBad rd f || !verify f.keyId rs.1 rs.2 h then .error ⟨0x02, 0, 0⟩
      else if sha384 (rdBytes rd f.tableOff (80 * f.sections)) ≠ f.tableDigest then .error ⟨0x03, 0, 0⟩
      else
        let secs := (List.range f.sections).map (secAt rd f.tableOff)
        match sectionsBad rd f 0 secs [] with
        | some e => .error e
        | none =>
          if (List.range 7).any (fun t => !secs.any fun s => s.type == t + 1) || strayByte rd f secs then
            .error ⟨0x04, f.sections, 0⟩
          else if f.mask &&& stripBad ≠ 0 then .error ⟨0x05, 0, 0⟩
          else if f.mask &&& modeOff ≠ 0 then .error ⟨0x06, 0, 0⟩
          else
            let m := buildImage rd f secs compat
            match firstBadRec secs rd f.mask (recordBad m) with
            | some (s, r) => .error ⟨0x07, s, r⟩
            | none =>
              match firstBadRec secs rd f.mask (fun t k _ => crossBad m t k) with
              | some (s, r) => .error ⟨0x08, s, r⟩
              | none =>
                match creditBad m with
                | some r => .error ⟨0x09, (secs.zipIdx.find? fun s => s.1.type == 5).elim 0 (·.2), r⟩
                | none => .ok m

end Sys2Proof.Machine
end

