-- ==== Sys2Proof/Machine/FieldOps.lean ====
section
/-!
DEFINITION. Queues of the Field: credits, tokens, rows and flushes (R153 to R166).
-/
namespace Sys2Proof.Machine

def State.queue (s : State) (q : QId) : Queue := KMap.get (fun _ => Queue.empty) s.field.queues q
def State.setQueue (s : State) (q : QId) (v : Queue) : State :=
  { s with field := { s.field with queues := KMap.set (fun _ => Queue.empty) s.field.queues q v } }

def State.elem (s : State) (k : Nat) : ElemSt := KMap.get (fun _ => ElemSt.clear) s.field.elems k
def State.setElem (s : State) (k : Nat) (v : ElemSt) : State :=
  { s with field := { s.field with elems := KMap.set (fun _ => ElemSt.clear) s.field.elems k v } }

def State.pipe (s : State) (k : Nat) : PipeSt := KMap.get (fun _ => PipeSt.clear) s.field.pipes k
def State.setPipe (s : State) (k : Nat) (v : PipeSt) : State :=
  { s with field := { s.field with pipes := KMap.set (fun _ => PipeSt.clear) s.field.pipes k v } }

def State.ag (s : State) (k : Nat) : AgSt := KMap.get (fun _ => AgSt.idle) s.field.ags k
def State.setAg (s : State) (k : Nat) (v : AgSt) : State :=
  { s with field := { s.field with ags := KMap.set (fun _ => AgSt.idle) s.field.ags k v } }

def State.ring (s : State) (k : Nat) : RingSlot := KMap.get (fun _ => RingSlot.empty) s.field.rings k
def State.setRing (s : State) (k : Nat) (v : RingSlot) : State :=
  { s with field := { s.field with rings := KMap.set (fun _ => RingSlot.empty) s.field.rings k v } }

/-- Credits that a queue's writer holds (R161). -/
def State.credits (s : State) (q : QId) : Nat := queueDepth q - (s.queue q).out

/-- Whether a writer may write a token (R161). -/
def State.canPush (s : State) (q : QId) : Bool := decide (0 < s.credits q)

/-- A write by the queue's own writer, which spends a credit (R161). -/
def State.push (s : State) (q : QId) (t : Token) : State :=
  let v := s.queue q
  s.setQueue q { v with toks := v.toks ++ [t], out := v.out + 1 }

/-- Removes `n` tokens from the head: at the end of a circuit their credits wait for the return sideband, elsewhere
they return to the writer at once (R161, R163). -/
def State.popN (s : State) (q : QId) (n : Nat) : State :=
  let v := s.queue q
  if isCircuitQ q then s.setQueue q { v with toks := v.toks.drop n, undriven := v.undriven + n }
  else s.setQueue q { v with toks := v.toks.drop n, out := v.out - n }

/-- The tokens of the first row of a list, up to its ROW_E, when the row is whole; its scale tokens included. -/
def rowPrefix : List Token → Option (List Token)
  | [] => none
  | t :: ts =>
    if t.cls = 0 && t.marks.rowE then
      match isMx t.fmt, ts with
      | true, u :: _ => if u.cls = 2 then some [t, u] else some [t]
      | _, _ => some [t]
    else (rowPrefix ts).map fun r => t :: r

/-- The values of a row's unmasked elements; on a circuit the block scales come from the scale tokens (R154, R157). -/
def rowNums (row : List Token) : List Num :=
  (row.filter fun t => t.cls == 0).flatMap fun t => (List.range t.vcount).map fun i => beatNum t.fmt t.payload t.side i

/-- The flush of R166. -/
def State.flushField (s : State) : State :=
  { s with field := { s.field with queues := [], elems := [], pipes := [], ags := [], rings := [], hlOut := [] } }

/-- Whether tokens and credits move between the units: the Field clock runs, the Field is not in Field reset, and no BIST
run has scanned it out. -/
def State.fieldMoves (s : State) : Bool :=
  !s.field.gated && !s.field.scanned && !s.flag CANDLE_GOV.HOLD && !s.flag CHIP_STATUS.FIELD_IN_RESET

/-- Whether they move at a plot: a rotation leaves the strips outside its image's mask gated (R206). -/
def State.plotMoves (s : State) (plot : Nat) : Bool := s.fieldMoves && !s.field.darkStrips.getLsbD (plot / 64)

/-- Whether the units of the Field work: it moves, and BIST has not halted it (R184). -/
def State.fieldRuns (s : State) : Bool := s.fieldMoves && !s.field.halted

/-- Bytes as data tokens of a format, marked as one row (R154, R155). -/
def rowTokens (fmt : Nat) (elems : List Nat) : List Token :=
  let ev := elemsPerBeat fmt
  let n := cdiv elems.length ev
  (List.range n).map fun k =>
    let es := (elems.drop (ev * k)).take ev
    ⟨mkHdr 0 ⟨false, false, k == 0, k + 1 == n⟩ es.length fmt, packBeat fmt es, 0⟩

/-- An MX beat with its block scales as it goes on a circuit: the data token with its index in the open scale group, the
scale token when the group ends, and the group that stays open (R157). -/
def groupTokens (fmt : Nat) (group : List (List Byte)) (t : Token) (scales : List Byte) : List Token × List (List Byte) :=
  let t : Token := { t with hdr := withBits t.hdr 19 5 group.length }
  let g := group ++ [scales]
  if 64 / blocksPerBeat fmt ≤ g.length ∨ t.marks.chE = true ∨ t.marks.rowE = true then
    ([t, ⟨mkHdr 2 .none g.length fmt, payOfBytes g.flatten, 0⟩], [])
  else ([t], g)

/-- Control values as control tokens of at most 64 values (R156). -/
def ctlTokens (vals : List Nat) : List Token :=
  (List.range (cdiv vals.length 64)).map fun k =>
    let vs := (vals.drop (64 * k)).take 64
    ⟨mkHdr 1 .none vs.length 0xA, payOfBytes (vs.map (BitVec.ofNat 8)), 0⟩

end Sys2Proof.Machine
end

