-- ==== Sys2Proof/Machine/Query.lean ====
section
/-!
DEFINITION. Pass descriptors as they lie in Topsoil (R223) and step queries (R230 to R234).
-/
namespace Sys2Proof.Machine

/-- The Topsoil offset of position `i` of Pass queue `q` (R223). -/
def State.descOff (s : State) (q i : Nat) : Nat :=
  4096 * s.get (STEP_QBASE.BASE q) + 512 * (i % 2 ^ s.get (STEP_QBASE.LOG2N q))

def State.descAt (s : State) (q i : Nat) : List W64 := s.topWords (s.descOff q i) 64

/-- Descriptors queued in queue `q` and not issued, of the current step: up to the first STEP_END. -/
def queuedFrom (read : Nat → List W64) : Nat → Nat → List (List W64)
  | 0, _ => []
  | n + 1, i =>
    let d := read (i % 65536)
    if passStepEnd d then [d] else d :: queuedFrom read n (i + 1)

def State.queued (s : State) (q : Nat) : List (List W64) :=
  let n := idxSub 16 (s.get (STEP_QTAIL.TAIL q)) (s.get (STEP_QHEAD.ISSUE q))
  if s.sched.endIssued.getLsbD q || s.get STEP_CTRL.QMASK / 2 ^ q % 2 = 0 then []
  else queuedFrom (s.descAt q) n (s.get (STEP_QHEAD.ISSUE q))

/-- NB_M1 of the queued BUCKETED Pass of a micro-batch that carries a tag (R230). -/
def State.waitingNb (s : State) (mb : Bool) (qtag : Nat) : Option Nat :=
  (((List.range 4).flatMap s.queued).find? fun d => passBucketed d && passMb d == mb && passQtag d == qtag).map passNbM1

/-- Outstanding queries. -/
def State.outstanding (s : State) : List Query := s.sched.queries.filter (·.outstanding)

/-- Changes the query of a QID. -/
def State.updQuery (s : State) (qid : Nat) (f : Query → Query) : State :=
  { s with sched := { s.sched with queries := s.sched.queries.map fun q => if q.qid = qid then f q else q } }

/-- Bytes of eight words. -/
def wordBytes (ws : List Nat) : List Byte := ws.flatMap (leBytes 8)

/-- The query record of R230. -/
def queryRecord (qid qtag : Nat) (mb : Bool) (nb layer step deadline hist n : Nat) : List Byte :=
  wordBytes [qid + qtag * 2 ^ 16 + bit mb * 2 ^ 20 + nb * 2 ^ 21 + layer * 2 ^ 25, step, deadline, hist, n, 0, 0, 0]

/-- Whether a query raised now is dropped (R231). -/
def State.queryDropped (s : State) : Bool := decide (64 ≤ s.outstanding.length)

/-- Raises a query for a Pass (R230), or drops it and settles its bucket by default (R231). -/
def State.raiseQuery (s : State) (d : List W64) (hist n : Nat) : State :=
  let mb := passMb d
  let nb := (s.waitingNb mb (passQtag d)).getD (passNbM1 d)
  let qid := s.sched.nextQid % 65536
  if s.queryDropped then
    let s := s.bump STEP_QSTAT.DROPPED 1
    { s with sched := { s.sched with
      queries := s.sched.queries ++ [⟨65536, passQtag d, mb, nb, 0, none, false, some (nb, true)⟩] } }
  else
    let deadline := s.get STEP_QCLK.TICKS + s.get STEP_QCFG.BUDGET_NS / 10
    let s := s.topWrite (4096 * s.get STEP_QRING.BASE + 64 * (qid % 64))
      (queryRecord qid (passQtag d) mb nb (passLayer d) (s.get STEP_NUM.STEP) deadline hist n)
    { s with sched := { s.sched with
      nextQid := s.sched.nextQid + 1
      queries := s.sched.queries ++ [⟨qid, passQtag d, mb, nb, deadline, none, true, none⟩] } }

/-- The settled bucket for a BUCKETED Pass: that of the most recent query of its micro-batch and tag (R232). -/
def State.settledFor (s : State) (d : List W64) : Option (Nat × Bool) :=
  ((s.sched.queries.filter fun q => q.mb == passMb d && q.qtag == passQtag d).getLast?).bind (·.settled)

/-- The query that a core holds. -/
def State.coreQuery (s : State) (core : Nat) : Option Nat :=
  let k := KMap.get (fun _ => 0) s.sched.coreHolds core
  if k = 0 then none else some (k - 1)

def State.setCore (s : State) (core k : Nat) : State :=
  { s with sched := { s.sched with coreHolds := KMap.set (fun _ => 0) s.sched.coreHolds core k } }

/-- Frees a core, which also clears its STUCK mark (R234, R473). -/
def State.freeCore (s : State) (core : Nat) : State :=
  (s.setCore core 0).put WARD_CORE.STUCK (s.get WARD_CORE.STUCK &&& (65535 - 2 ^ core))

/-- Withdraws every outstanding query of the step (R238 step 4, R240 step 3). -/
def State.withdrawQueries (s : State) : State := { s with sched := { s.sched with queries := [] } }

end Sys2Proof.Machine
end

