-- ==== Sys2Proof/Machine/SegOps.lean ====
section
/-!
DEFINITION. Fields of dispatch and combine segments (R256, R267).
-/
namespace Sys2Proof

def Segment.src (g : Segment) : Nat := Machine.bitsOf g.w0 25 6
def Segment.mb (g : Segment) : Bool := Machine.bitOf g.w0 8
def Segment.layer (g : Segment) : Nat := Machine.bitsOf g.w0 9 16
def Segment.attempt (g : Segment) : Nat := Machine.bitsOf g.w0 4 4
def Segment.count (g : Segment) (j : Nat) : Nat := ((g.counts.getD j 0) : BitVec 16).toNat
def Segment.keptOf (g : Segment) (j : Nat) : Nat := ((g.kept.getD j 0) : BitVec 16).toNat
def Segment.total (g : Segment) : Nat := Machine.bitsOf g.w2 0 32
def Segment.keptTotal (g : Segment) : Nat := Machine.bitsOf g.w2 32 32
def Segment.sum (g : Segment) : Nat := g.counts.foldl (fun a c => a + c.toNat) 0
def Segment.keptSum (g : Segment) : Nat := g.kept.foldl (fun a c => a + c.toNat) 0

/-- Rows of local expert `j` in a dispatch segment. -/
def Segment.rowsOf (g : Segment) (j : Nat) : List (List Byte) :=
  (g.rows.drop (((List.range j).map g.count).foldl (· + ·) 0)).take (g.count j)

end Sys2Proof
end

