-- ==== Sys2Proof/Machine/Moe.lean ====
section
/-!
DEFINITION. The Sower and the Gleaner (R245 to R275): layer tables, choice and gates, dispatch, slots and fetches, the
expert work table, and the combine.
-/
namespace Sys2Proof.Machine

/-! ### Layer entries (R245 to R248) -/

/-- The Topsoil offset of the layer entry of a Pass (R245). -/
def State.layerIdx (d : List W64) : Nat := 2 * passLayer d + bit (passMb d)
def State.layerOff (s : State) (d : List W64) : Nat := 4096 * s.get SOWER_LTAB.BASE + 256 * State.layerIdx d

/-- The layer entry of 32 words (R246). -/
def LayerCfg.ofWords (w : List W64) : LayerCfg :=
  let a := w.getD 0 0
  let b := w.getD 1 0
  let x (i : Nat) : Nat := (w.getD i 0).toNat
  { e := bitsOf a 1 12 + 1, k := bitsOf a 13 4 + 1, gmode := bitsOf a 17 2, sfmt := bitsOf a 19 4, rfmt := bitsOf a 23 4,
    xfmt := bitsOf a 27 4, init := bitOf a 31, resfmt := bitsOf a 32 4, ne := bitsOf a 36 13, gleanTpl := bitsOf a 49 10,
    xmode := bitOf a 59, omode := bitOf a 60, rowElems := bitsOf b 0 16, rowsMax := bitsOf b 16 10,
    stile := 2 * bitsOf b 26 5 + bit (bitOf b 31), nslot := bitsOf b 32 16, nbM1 := bitsOf b 48 4,
    gscale := bitsOf (w.getD 2 0) 0 32, route := x 3, res := x 4, wslot := x 5, wslotBytes := bitsOf (w.getD 6 0) 0 32,
    expBytes := bitsOf (w.getD 6 0) 32 32, act := x 7, disp := x 8, dispRows := x 9, ewt := x 10, resid := x 11,
    xout := x 12, out := x 13, ocw := w.getD 14 0, cap := (List.range 16).map fun i => bitsOf (w.getD (15 + i / 4) 0) (16 * (i % 4)) 16 }

/-- Bytes of a row of `n` elements of a format (R246). -/
def rowBytes (fmt n : Nat) : Nat := n * elemBits fmt / 8

def LayerCfg.capMax (c : LayerCfg) : Nat := c.cap.getD c.nbM1 0

/-- The route map as slice-relative indices (R248). -/
def State.routeMap (s : State) (c : LayerCfg) : List Nat := (List.range c.e).map fun e => s.topNat (c.route + 2 * e) 2

/-- The experts that slice chip `i` homes, ascending. -/
def homedBy (route : List Nat) (i : Nat) : List Nat := (route.zipIdx.filter fun e => e.1 == i).map (·.2)

/-- A residence entry: expert, HOT, SLOT, SRC, SOURCE (R248). -/
structure ResEntry where
  expert : Nat
  hot : Bool
  slot : Nat
  src : Nat
  source : Nat
  w0 : W64
  deriving DecidableEq, Repr

def ResEntry.ofWords (w0 w1 : W64) : ResEntry := ⟨bitsOf w0 0 12, bitOf w0 12, bitsOf w0 16 16, bitsOf w0 32 2, w1.toNat, w0⟩

def State.resTable (s : State) (c : LayerCfg) : List ResEntry :=
  (List.range c.ne).map fun j => .ofWords (s.topWord (c.res + 16 * j)) (s.topWord (c.res + 16 * j + 8))

/-- Whether a format code is one of 0x0 to 0x4 or 0xC. -/
def rowFmtOk (f : Nat) : Bool := decide (f ≤ 4 ∨ f = 0xC)

/-- The reserved bits of a layer entry. -/
def layerZeroBad (w : List W64) : Bool :=
  bitsOf (w.getD 0 0) 61 3 != 0 || bitsOf (w.getD 1 0) 52 12 != 0 || bitsOf (w.getD 2 0) 32 32 != 0 ||
  [3, 4, 5].any (fun i => bitsOf (w.getD i 0) 42 22 != 0) || bitsOf (w.getD 9 0) 16 48 != 0 ||
  (w.drop 19).any fun x => x != 0

/-- A cold copy outside the form of R248: an address of tier 01 or 10, or a Fallow object number. -/
def ResEntry.sourceBad (e : ResEntry) : Bool :=
  if e.src = 0 then !decide (e.source / 2 ^ 42 % 4 = 1 ∨ e.source / 2 ^ 42 % 4 = 2) else decide (e.src ≠ 1 ∨ 2 ^ 32 ≤ e.source)

/-- The residence table breaks R248. -/
def resBad (route : List Nat) (me : Nat) (c : LayerCfg) (r : List ResEntry) : Bool :=
  let mine := homedBy route me
  mine.length != c.ne || r.map (·.expert) != mine ||
  (r.any fun e => bitsOf e.w0 13 3 != 0 || bitsOf e.w0 34 30 != 0 || e.sourceBad || e.hot && decide (c.nslot ≤ e.slot)) ||
  let hot := (r.filter (·.hot)).map (·.slot)
  (distinct hot).length != hot.length

/-- R247 for a layer entry with its tables. -/
def State.layerBad (s : State) (d : List W64) : Bool :=
  let off := s.layerOff d
  let w := s.topWords off 32
  let c := LayerCfg.ofWords w
  let slice := s.sliceSize
  let route := s.routeMap c
  let caps := c.cap.take (c.nbM1 + 1)
  let seed (a : Nat) : Bool := match s.locate a with
    | .seedbed _ => a % 64 != 0
    | _ => true
  decide (s.get SOWER_LTAB.COUNT ≤ State.layerIdx d) || layerZeroBad w ||
  !decide (c.sfmt ≤ 2 ∨ c.sfmt = 0xC) || !rowFmtOk c.rfmt || !rowFmtOk c.xfmt || !rowFmtOk c.resfmt ||
  decide (4096 < c.ne) || c.rowElems % 64 != 0 || decide (c.rowElems < 64 ∨ 32768 < c.rowElems) ||
  decide (c.rowsMax = 0 ∨ 512 < c.rowsMax) || decide (4096 < c.nslot) ||
  [c.route, c.res, c.wslot, c.wslotBytes].any (fun a => a % 64 != 0) || decide (c.wslotBytes < c.expBytes) ||
  [c.act, c.disp, c.ewt, c.resid, c.xout, c.out].any seed ||
  caps.any (fun x => x == 0 || x % 16 != 0) || (List.range c.nbM1).any (fun b => decide (caps.getD (b + 1) 0 ≤ caps.getD b 0)) ||
  decide (c.capMax < c.rowsMax * slice) || decide (c.dispRows < c.rowsMax * slice * min c.k c.ne) ||
  decide (c.nslot < min c.ne (c.rowsMax * slice * c.k)) ||
  route.any (fun r => decide (slice ≤ r)) || resBad route (s.get ROUTE_SELF.INDEX) c (s.resTable c) || convWordBad c.ocw

/-- The engines' reads of a Pass's layer entry, route map and residence table (R245, R467). -/
def State.layerReads (s : State) (d : List W64) : State :=
  let off := s.layerOff d
  let c := LayerCfg.ofWords (s.topWords off 32)
  ((s.partReads off 256 true).partReads c.route (2 * c.e) true).partReads c.res (16 * c.ne) true

/-- Whether the entry of a Pass is enabled and inside the table. -/
def State.layerEn (s : State) (d : List W64) : Bool := bitOf (s.topWord (s.layerOff d)) 0

/-- Whether the Sower, or the Gleaner, serves a Pass with descriptor `d` (R250). -/
def State.sowerServes (s : State) (d : List W64) : Bool :=
  passQraise d && (decide (s.get SOWER_LTAB.COUNT ≤ State.layerIdx d) || s.layerEn d)

def State.gleanServes (s : State) (d : List W64) : Bool :=
  decide (State.layerIdx d < s.get SOWER_LTAB.COUNT) && s.layerEn d &&
    passTemplate d == bitsOf (s.topWord (s.layerOff d)) 49 10

/-- Captures the first LAYER_BAD or SEG_BAD (R273). -/
def State.sowerCapture (s : State) (layer : Nat) (mb : Bool) (chip kind : Nat) : State :=
  if s.flag SOWER_ERR.LAYER_BAD || s.flag SOWER_ERR.SEG_BAD then s
  else (((s.put SOWER_FAULT_CAP.LAYER layer).put SOWER_FAULT_CAP.MB (bit mb)).put SOWER_FAULT_CAP.CHIP chip).put
    SOWER_FAULT_CAP.KIND kind

/-! ### Choice and gates (R253 to R255) -/

/-- Whether score `a` ranks strictly before `b` by value: NaN last, zeros equal (R253). -/
def scoreBefore (a b : Num) : Bool :=
  if a.isNan then false
  else if b.isNan then true
  else if numIsZero a && numIsZero b then false
  else b.lt a

/-- Inserts an expert into a ranking behind every expert that it does not beat. -/
def rankInsert (x : Nat × Num) : List (Nat × Num) → List (Nat × Num)
  | [] => [x]
  | y :: ys => if scoreBefore x.2 y.2 then x :: y :: ys else y :: rankInsert x ys

/-- The `k` experts ranked first, in ascending expert index (R253). -/
def chooseExperts (k : Nat) (scores : List Num) : List Nat :=
  let top := scores.zipIdx.foldl (fun l e => (rankInsert (e.2, e.1) l).take k) []
  (List.range scores.length).filter fun e => top.any fun t => t.1 == e

def canonNanT : Tallow := tallowNan

/-- The gates of a row's chosen experts (R254, R255), and whether they were made NaN. -/
def rowGates (c : LayerCfg) (scores : List Num) (chosen : List Nat) : List (Nat × Tallow) × Bool :=
  let score (e : Nat) : Num := scores.getD e .zero
  let gs := decodeElem 0x0 c.gscale
  let inS := if c.gmode = 2 then scores else chosen.map score
  let bad := if c.gmode = 0 then false
    else if c.gmode = 3 then inS.any Num.isNan
    else inS.any (fun v => v.isNan || (Num.ofInt 11356 0).lt v) || gs.isNan
  let ex (v : Num) : Num := tallowNum (lanternFunc 0x0 (roundT v))
  let sg (v : Num) : Tallow := lanternFunc 0x7 (roundT v)
  let sum : Num :=
    if c.gmode = 3 then tallowNum (treeSum (inS.map sg)) else ((mergeTree addW 13 (inS.map ex)).headD .zero)
  let raw (v : Num) : Tallow :=
    if c.gmode = 0 then roundT v
    else if c.gmode = 3 then roundT ((tallowNum (sg v)).quot sum)
    else roundT ((ex v).quot sum)
  let scaled (t : Tallow) : Tallow := if c.gscale = 0x3F80_0000 then t else roundT ((tallowNum t).mul gs)
  if bad then (chosen.map fun e => (e, canonNanT), true)
  else if c.gmode ≠ 0 ∧ numIsZero sum then (chosen.map fun e => (e, 0), false)
  else (chosen.map fun e => (e, scaled (raw (score e))), false)

/-! ### Engine state -/

def State.sower (s : State) (mb : Bool) : Option SowerSt := if mb then s.moe.sowerB else s.moe.sowerA
def State.setSower (s : State) (mb : Bool) (v : Option SowerSt) : State :=
  if mb then { s with moe := { s.moe with sowerB := v } } else { s with moe := { s.moe with sowerA := v } }

def State.glean (s : State) (mb : Bool) : Option GleanSt := if mb then s.moe.gleanB else s.moe.gleanA
def State.setGlean (s : State) (mb : Bool) (v : Option GleanSt) : State :=
  if mb then { s with moe := { s.moe with gleanB := v } } else { s with moe := { s.moe with gleanA := v } }

/-- Whether the Sower holds an entry for a micro-batch. -/
def State.sowerBusy (s : State) (mb : Bool) : Bool := if mb then s.moe.busyB else s.moe.busyA

/-- The status bits that follow from the engines' state (R273, R274). -/
def State.moeStatus (s : State) : State :=
  let act (f : SowerSt → Bool) : Bool :=
    (s.moe.busyA && (s.moe.sowerA.elim false f)) || (s.moe.busyB && (s.moe.sowerB.elim false f))
  let s := (s.put SOWER_STATUS.BUSY_A (bit s.moe.busyA)).put SOWER_STATUS.BUSY_B (bit s.moe.busyB)
  let s := s.put SOWER_STATUS.WAIT_HDR (bit (act fun w => w.sent && decide (w.received.length < s.sliceSize)))
  let s := s.put SOWER_STATUS.WAIT_ANS (bit (act fun w => w.queried && w.bucket.isNone))
  let s := s.put SOWER_STATUS.FETCHING (bit (act fun w => !w.fetching.isEmpty))
  let gl (g : Option GleanSt) : Bool := g.elim false fun g => !g.done
  let s := (s.put GLEAN_STATUS.BUSY_A (bit (gl s.moe.gleanA))).put GLEAN_STATUS.BUSY_B (bit (gl s.moe.gleanB))
  s.put GLEAN_STATUS.WAIT_SEG
    (bit ([s.moe.gleanA, s.moe.gleanB].any fun g => g.elim false fun g => !g.done && decide (g.received.length < s.sliceSize)))

/-! ### Agent queues of a Stile (R50, R164) -/

/-- Writes an agent's waiting tokens into its inbound queue while it has credit. -/
def State.agentPump (s : State) : State :=
  let step (a : State × List (Nat × List Token)) (e : Nat × List Token) : State × List (Nat × List Token) :=
    let n := min e.2.length (a.1.credits e.1)
    let s := (e.2.take n).foldl (fun s t => s.push e.1 t) a.1
    (s, if n = e.2.length then a.2 else a.2 ++ [(e.1, e.2.drop n)])
  let r := s.moe.agentOut.foldl step (s, [])
  { r.1 with moe := { r.1.moe with agentOut := r.2 } }

def State.agentSend (s : State) (q : Nat) (ts : List Token) : State :=
  State.agentPump { s with moe := { s.moe with agentOut := s.moe.agentOut ++ (if ts.isEmpty then [] else [(q, ts)]) } }

/-- An agent reports to each Stile whose lit inbound entries name it: a valid token of SEQ 0, whose marks, VCOUNT, FMT and
payload the spec leaves open (R49, assumption 56). -/
def State.agentTell (s : State) (a : Nat) : State :=
  let told := (List.range 64).filter fun k => (List.range 16).any fun i => stileIn s.lit k i == some a
  let w := s.freeNat
  let t : Token := ⟨BitVec.ofNat 32 (1 + 8 * (w / 2 ^ 512 % 2 ^ 16)), BitVec.ofNat 512 w, 0⟩
  if told.isEmpty then s else (s.each told fun s k => s.agentSend (stileQ k a) [t]).drawn

/-- Whether an agent still has tokens for a queue. -/
def State.agentBusy (s : State) (q : Nat) : Bool := s.moe.agentOut.any fun e => e.1 == q

/-! ### Segments (R256, R257, R267) -/

/-- Counts as 16-bit values padded to a multiple of 64 bytes. -/
def countBlock (l : List Nat) : List Byte :=
  let b := l.flatMap (leBytes 2)
  b ++ List.replicate (cdiv b.length 64 * 64 - b.length) 0

/-- The bytes of a segment: header, count block, kept-count block of a combine segment, rows. -/
def segmentBytes (g : Segment) : List Byte :=
  wordBytes [g.w0.toNat, g.step.toNat, g.w2.toNat, 0, 0, 0, 0, 0] ++ countBlock (g.counts.map (·.toNat)) ++
    (if bitsOf g.w0 0 4 = 2 then countBlock (g.kept.map (·.toNat)) else []) ++ g.rows.flatten

/-- Header word 0 (R256). -/
def segWord0 (kind attempt : Nat) (mb : Bool) (layer src dst nc : Nat) : W64 :=
  BitVec.ofNat 64 (kind + attempt * 2 ^ 4 + bit mb * 2 ^ 8 + layer * 2 ^ 9 + src * 2 ^ 25 + dst * 2 ^ 31 + nc * 2 ^ 37)

/-- The WRITE packets of a segment: up to 32 flits each, at the byte offset in the segment (assumption 17). -/
def State.sendBytes (s : State) (vc dst : Nat) (kind : ReqKind) : Nat → Nat → List Byte → State
  | 0, _, _ => s
  | n + 1, off, bs =>
    if bs.isEmpty then s
    else (s.request vc 1 dst off (bs.take 2048) kind).sendBytes vc dst kind n (off + 2048) (bs.drop 2048)

/-- The chip at a slice-relative index, as rack and coordinates. -/
def State.sliceChip (s : State) (i : Nat) : Nat :=
  match s.net.slice with
  | some c => s.chipAt (s.standIn (c.chip i))
  | none => s.self

def State.sendSegment (s : State) (vc i : Nat) (combine mb : Bool) (g : Segment) : State :=
  let bs := segmentBytes g
  s.sendBytes vc (s.sliceChip i) (.segment combine mb) (cdiv bs.length 2048) 0 bs

/-- Whether a packet is the first of segment `g`: it carries its header. -/
def segHeads (g : Segment) (p : Packet) : Bool :=
  decide (p.addr = 0) && (p.payload.head?).any fun f => f.toNat % 2 ^ 192 == g.w0.toNat + g.step.toNat * 2 ^ 64 + g.w2.toNat * 2 ^ 128

/-- The packets of segment `g` among those of its sender: its first one and those up to the next segment's. -/
def segPackets (g : Segment) (ps : List Packet) : List Packet :=
  match ps.dropWhile fun p => !segHeads g p with
  | [] => []
  | p :: rest => p :: rest.takeWhile fun q => q.addr != 0

/-- Segment `g` of slice chip `i` has been taken or discarded: its packets are acknowledged and their buffers freed
(R257, R264, R378, assumption 17). -/
def State.ackSegment (s : State) (vc i : Nat) (g : Segment) : State :=
  let mine := s.net.delivered.filter fun p => isSegment p && p.op == 1 && p.vc.toNat == vc && p.src.toNat == s.sliceChip i
  s.each (segPackets g mine) State.segmentTaken

/-- Every segment packet that waits here is taken off the links (R271). -/
def State.dropSegments (s : State) : State :=
  s.each (s.net.delivered.filter fun p => isSegment p && p.op == 1) State.segmentTaken

/-- Whether segments of a kind and micro-batch await acknowledgment. -/
def State.segUnacked (s : State) (combine mb : Bool) : Bool :=
  s.net.requests.any fun r => decide (r.kind = .segment combine mb)

/-- This chip's rows that chose expert `e`, ascending. -/
def SowerSt.rowsOf (w : SowerSt) (e : Nat) : List Nat :=
  (w.routed.filter fun r => r.gates.any fun g => g.1 == e).map (·.row)

/-- The dispatch segment for slice chip `i` (R256). -/
def State.dispatchFor (s : State) (mb : Bool) (w : SowerSt) (route : List Nat) (i : Nat) : Segment :=
  let homed := homedBy route i
  let counts := homed.map fun e => (w.rowsOf e).length
  let rb := rowBytes w.cfg.rfmt w.cfg.rowElems
  let rows := homed.flatMap fun e => (w.rowsOf e).map fun r => s.peek (w.cfg.act + r * rb) rb
  ⟨segWord0 1 (s.get STEP_STATUS.REPLAYS) mb w.layer (s.get ROUTE_SELF.INDEX) i homed.length,
    BitVec.ofNat 64 (s.get STEP_NUM.STEP), BitVec.ofNat 64 (counts.foldl (· + ·) 0), counts.map (BitVec.ofNat 16), [], rows⟩

/-- Sends a dispatch segment to every chip of the slice (R256). -/
def State.dispatchSend (s : State) (mb : Bool) (w : SowerSt) : State :=
  let route := s.routeMap w.cfg
  let s0 := s
  let s := s.each (List.range s.sliceSize) fun s i =>
    (s.sendSegment 0 i false mb (s0.dispatchFor mb w route i)).bump SOWER_SEGS.SENT 1
  s.setSower mb (some { w with sent := true })

/-! ### Counts by chip and expert -/


/-- Rows received for local expert `j`. -/
def SowerSt.countOf (w : SowerSt) (j : Nat) : Nat := w.received.foldl (fun a g => a + g.count j) 0

/-- The DISP position of expert `j`'s first row (R258). -/
def SowerSt.firstPos (w : SowerSt) (j : Nat) : Nat := ((List.range j).map w.countOf).foldl (· + ·) 0


/-- Inserts a segment in ascending SRC. -/
def segInsert (g : Segment) : List Segment → List Segment
  | [] => [g]
  | h :: t => if g.src < h.src then g :: h :: t else h :: segInsert g t

/-! ### Slots, fetches and tables (R258 to R264) -/

/-- Starts the Sower's work for a Pass: the scores of its present rows are expected (R252). -/
def State.sowerStart (s : State) (p : PassSt) : State :=
  let cfg := LayerCfg.ofWords (s.topWords (s.layerOff p.desc) 32)
  let rows := (List.range 512).filter (passRowActive p.desc)
  let mb := passMb p.desc
  let w : SowerSt := ⟨p.pseq, p.order, passLayer p.desc, cfg, rows, [], false, [], none, false, none, [], [], false⟩
  let s := s.setSower mb (some w)
  let s := { s with moe := if mb then { s.moe with busyB := true } else { s.moe with busyA := true } }
  let s := s.boardRequest (.sower mb) p.order (some p.pseq) false 0 0
  if rows.isEmpty then s.dispatchSend mb w else s

/-- Expected output rows of the Gleaner Pass under a bucket (R265, R266). -/
def gleanExpected (w : SowerSt) (cap : Nat) : List (Nat × Nat) :=
  (List.range w.cfg.ne).flatMap fun j => (List.range (min (w.countOf j) cap)).map fun i => (j, i)

/-- Kept count of expert `j` for the rows of chip `src` (R267). -/
def keptCount (w : SowerSt) (cap src j : Nat) : Nat :=
  let lower := (w.received.filter fun g => decide (g.src < src)).foldl (fun a g => a + g.count j) 0
  let n := ((w.received.find? fun g => g.src == src).map fun g => g.count j).getD 0
  min n (cap - lower)

/-- The combine segment for slice chip `i` (R267). -/
def State.combineFor (s : State) (mb : Bool) (w : SowerSt) (g : GleanSt) (i : Nat) : Segment :=
  let cap := w.cfg.cap.getD g.bucket 0
  let d := w.received.find? fun x => x.src == i
  let js := List.range w.cfg.ne
  let counts := js.map fun j => (d.map fun x => x.count j).getD 0
  let kept := js.map (keptCount w cap i)
  let lower (j : Nat) : Nat := (w.received.filter fun x => decide (x.src < i)).foldl (fun a x => a + x.count j) 0
  let rows := js.flatMap fun j => (List.range (keptCount w cap i j)).map fun r =>
    ((g.taken.find? fun t => t.1 == j && t.2.1 == lower j + r).map (·.2.2)).getD []
  ⟨segWord0 2 (s.get STEP_STATUS.REPLAYS) mb g.layer (s.get ROUTE_SELF.INDEX) i w.cfg.ne, BitVec.ofNat 64 (s.get STEP_NUM.STEP),
    BitVec.ofNat 64 (counts.foldl (· + ·) 0 + kept.foldl (· + ·) 0 * 2 ^ 32), counts.map (BitVec.ofNat 16),
    kept.map (BitVec.ofNat 16), rows⟩

/-- Sends a combine segment to every chip once every expected row is taken (R267). -/
def State.combineSend (s : State) (mb : Bool) (g : GleanSt) : State :=
  match s.sower mb with
  | some w =>
    if g.expected.isEmpty && !g.sent then
      let s0 := s
      let s := s.each (List.range s.sliceSize) fun s i => s.sendSegment 1 i true mb (s0.combineFor mb w g i)
      s.setGlean mb (some { g with sent := true })
    else s.setGlean mb (some g)
  | none => s.setGlean mb (some g)

/-- Starts the Gleaner's work for a Pass (R250, R266). -/
def State.gleanStart (s : State) (p : PassSt) : State :=
  let mb := passMb p.desc
  let cfg := LayerCfg.ofWords (s.topWords (s.layerOff p.desc) 32)
  let cap := cfg.cap.getD p.bucket 0
  let exp := ((s.sower mb).map fun w => gleanExpected w cap).getD []
  let g : GleanSt := ⟨p.pseq, passLayer p.desc, cfg, p.bucket, (List.range 512).filter (passRowActive p.desc), exp, [], false,
    [], false⟩
  let s := s.boardRequest (.gleaner mb) p.order (some p.pseq) false 0 0
  s.combineSend mb g

/-- The Gleaner holds an entry for a micro-batch. -/
def State.gleanBusy (s : State) (mb : Bool) : Bool := (s.glean mb).elim false fun g => !g.done

/-- The engines take up a Pass at its issue, or it waits for the engine (R250, R251). -/
def State.engineIssue (s : State) (p : PassSt) : State :=
  let mb := passMb p.desc
  let s := if s.sowerServes p.desc || s.gleanServes p.desc then s.layerReads p.desc else s
  let s := if !s.sowerServes p.desc then s
    else if s.sowerBusy mb then { s with moe := { s.moe with waiting := s.moe.waiting ++ [(false, mb, p.pseq)] } }
    else s.sowerStart p
  let s := if !s.gleanServes p.desc then s
    else if s.gleanBusy mb then { s with moe := { s.moe with waiting := s.moe.waiting ++ [(true, mb, p.pseq)] } }
    else s.gleanStart p
  s.moeStatus

/-- The next Pass that waits for an engine is taken up; its wait counts in MSB_WAIT (R251). -/
def State.engineNext (s : State) (gl mb : Bool) : State :=
  match s.moe.waiting.find? fun e => e.1 == gl && e.2.1 == mb with
  | none => s
  | some e =>
    let s := { s with moe := { s.moe with waiting := s.moe.waiting.erase e } }
    match s.sched.inflight.find? fun p => p.pseq == e.2.2 with
    | none => s
    | some p =>
      let s := s.countPass p.pseq fun c => { c with msbWait := c.msbWait + (s.field.cycle - p.issueCycle) }
      if gl then s.gleanStart p else s.sowerStart p

/-- The Sower retires its entry when every condition of R264 holds. -/
def State.sowerRetire (s : State) (mb : Bool) : State :=
  match s.sower mb with
  | none => s
  | some w =>
    if s.sowerBusy mb && w.expected.isEmpty && w.sent && !s.segUnacked false mb && w.received.length == s.sliceSize &&
        w.bucket.isSome && w.fetching.isEmpty && w.tableDone && !s.agentBusy (stileQ w.cfg.stile 0) then
      let s := { s with moe := if mb then { s.moe with busyB := false } else { s.moe with busyA := false } }
      ((s.boardRetire (.sower mb)).engineNext false mb).moeStatus
    else s.moeStatus

/-- The Gleaner retires its entry under R270. -/
def State.gleanRetire (s : State) (mb : Bool) : State :=
  match s.glean mb with
  | none => s
  | some g =>
    if !g.done && g.sent && g.expected.isEmpty && !s.segUnacked true mb && g.received.length == s.sliceSize &&
        !(g.cfg.omode && s.agentBusy (stileQ g.cfg.stile 1)) then
      let s := s.setGlean mb (some { g with done := true })
      ((s.boardRetire (.gleaner mb)).engineNext true mb).moeStatus
    else s.moeStatus

/-- The W array and the row-index arrays of the expert work table (R262). -/
def workTable (w : SowerSt) (slotOf : Nat → Nat) : List Byte :=
  let ws := (List.range w.cfg.ne).flatMap fun j => leBytes 4 (if w.countOf j = 0 then 2 ^ 32 - 1 else slotOf j)
  let pad := List.replicate (cdiv ws.length 64 * 64 - ws.length) 0
  let rows := (List.range w.cfg.ne).flatMap fun j => (List.range w.cfg.capMax).flatMap fun i =>
    leBytes 4 (if i < w.countOf j then w.firstPos j + i else 2 ^ 32 - 1)
  ws ++ pad ++ rows

/-- Once slots and fetches are complete: the work table and the control stream (R262, R263). -/
def State.sowerTables (s : State) (mb : Bool) (w : SowerSt) : State :=
  if w.fetching.isEmpty && !w.tableDone then
    let res := s.resTable w.cfg
    let slotOf (j : Nat) : Nat := ((w.assigned.find? fun a => a.1 == j).map (·.2)).getD
      ((res[j]?).elim 0 (·.slot))
    let s := s.pokeAt w.cfg.ewt (workTable w slotOf)
    let vals := (List.range w.cfg.ne).map fun j => if w.countOf j = 0 then 0xF else 0
    let s := s.setSower mb (some { w with tableDone := true })
    (s.agentSend (stileQ w.cfg.stile 0) (ctlTokens vals)).sowerRetire mb
  else (s.setSower mb (some w)).sowerRetire mb

/-- Slot assignment in progress: residence entries, slots assigned in this step, this Pass's assignments and the
counters. -/
structure AssignSt where
  res : List ResEntry
  used : List Nat
  got : List (Nat × Nat)
  accepted : Nat
  refused : Nat
  auto : Nat
  evicted : Nat

/-- Whether slot `n` is free (R261). -/
def AssignSt.isFree (a : AssignSt) (w : SowerSt) (n : Nat) : Bool :=
  !a.used.contains n && !(a.res.zipIdx.any fun e => e.1.hot && e.1.slot == n && decide (w.countOf e.2 ≠ 0))

/-- Gives slot `n` to local expert `j`. -/
def AssignSt.give (a : AssignSt) (j n : Nat) : AssignSt :=
  let ev := (a.res.zipIdx.filter fun e => e.1.hot && e.1.slot == n && e.2 != j).length
  let res := a.res.zipIdx.map fun e =>
    if e.2 = j then { e.1 with hot := true, slot := n }
    else if e.1.hot && e.1.slot == n then { e.1 with hot := false } else e.1
  { a with res := res, used := a.used ++ [n], got := a.got ++ [(j, n)], evicted := a.evicted + ev }

/-- One fetch order in phase 1 (`busy`) or 3 (R261): `none` when the phase does not take it. -/
def AssignSt.order (a : AssignSt) (w : SowerSt) (busy : Bool) (o : W64 × W64) : Option AssignSt :=
  if bitsOf o.1 12 4 != 0 || bitsOf o.1 32 32 != 0 || o.2 != 0 then none
  else match a.res.zipIdx.find? fun e => e.1.expert == bitsOf o.1 0 12 with
    | none => none
    | some (e, j) =>
      let n := bitsOf o.1 16 16
      if !e.hot && (decide (w.countOf j ≠ 0) == busy) && decide (n < w.cfg.nslot) && a.isFree w n then
        some { a.give j n with accepted := a.accepted + 1 }
      else none

/-- The three phases of R261. -/
def assignSlots (w : SowerSt) (a : AssignSt) (orders : List (W64 × W64)) : AssignSt :=
  let p1 := orders.foldl (fun (x : AssignSt × List (W64 × W64)) o =>
    match x.1.order w true o with
    | some a => (a, x.2)
    | none => (x.1, x.2 ++ [o])) (a, [])
  let p2 := (List.range w.cfg.ne).foldl (fun a j =>
    if ((a.res[j]?).elim true (·.hot)) || decide (w.countOf j = 0) then a
    else match (List.range w.cfg.nslot).find? (a.isFree w) with
      | some n => { a.give j n with auto := a.auto + 1 }
      | none => a) p1.1
  p1.2.foldl (fun a o =>
    match a.order w false o with
    | some a => a
    | none => { a with refused := a.refused + 1 }) p2

/-- The scoreboard entries of a fetch: the read of a source in a memory tier, and the write of the slot (R227, R260). -/
def State.fetchRequest (s : State) (mb : Bool) (w : SowerSt) (e : Option ResEntry) (j slot : Nat) : State :=
  let s := match e with
    | some e => if e.src = 0 then s.boardRequest (.fetch mb j) w.order (some w.pseq) false e.source w.cfg.expBytes else s
    | none => s
  s.boardRequest (.fetch mb j) w.order (some w.pseq) true (s.gaddr 1 (w.cfg.wslot + slot * w.cfg.wslotBytes)) w.cfg.expBytes

/-- The residence table of a layer as the Sower has assigned it: an expert whose copy is under way is HOT already (R261). -/
def State.resNow (s : State) (c : LayerCfg) : List ResEntry :=
  let moving := ([s.moe.sowerA, s.moe.sowerB].filterMap id).filter fun w => decide (w.cfg.res = c.res)
  (s.resTable c).zipIdx.map fun e =>
    match (moving.flatMap fun w => w.assigned.filter fun a => w.fetching.contains a.1).find? fun a => a.1 == e.2 with
    | some a => { e.1 with hot := true, slot := a.2 }
    | none => e.1

/-- The bucket of a Sower Pass's query is settled: slots are assigned and fetches start (R261). -/
def State.sowerSettle (s : State) (qid bucket : Nat) (orders : List (W64 × W64)) : State :=
  match [false, true].find? fun mb => s.sowerBusy mb && ((s.sower mb).elim false fun w => w.qid == some qid && w.bucket.isNone) with
  | none => s
  | some mb =>
    match s.sower mb with
    | none => s
    | some w =>
      let used := (s.moe.stepSlots.filter fun e => e.1 == w.layer).map (·.2)
      let old := s.resNow w.cfg
      let a : AssignSt := assignSlots w ⟨old, used, [], 0, 0, 0, 0⟩ orders
      let s := (((s.bump SOWER_FETCH.ACCEPTED a.accepted).bump SOWER_FETCH.REFUSED a.refused).bump SOWER_FETCH.AUTO a.auto).bump
        SOWER_FETCH.EVICTED a.evicted
      let s := { s with moe := { s.moe with stepSlots := s.moe.stepSlots ++ a.got.map (fun (g : Nat × Nat) => (w.layer, g.2)) } }
      let evicted : List ((ResEntry × ResEntry) × Nat) := (List.zip old a.res).zipIdx.filter fun (e : (ResEntry × ResEntry) × Nat) => e.1.1.hot && !e.1.2.hot
      let s := s.each evicted fun s (e : (ResEntry × ResEntry) × Nat) => s.topPutWord (w.cfg.res + 16 * e.2) ((withBits e.1.1.w0 12 1 0).toNat)
      let s := s.each a.got fun s (g : Nat × Nat) => s.fetchRequest mb w (old[g.1]?) g.1 g.2
      (s.sowerTables mb { w with bucket := some bucket, assigned := a.got, fetching := a.got.map (fun (g : Nat × Nat) => g.1) }).moeStatus.fallowWake

/-- The smallest bucket whose capacity holds a count (R259). -/
def floorBucket (c : LayerCfg) (n : Nat) : Nat :=
  ((List.range (c.nbM1 + 1)).find? fun b => decide (n ≤ c.cap.getD b 0)).getD c.nbM1

/-- Once all headers have arrived: rows into DISP, the histogram, and the query (R258, R259). -/
def State.histogram (s : State) (mb : Bool) (w : SowerSt) (p : PassSt) : State :=
  let rb := rowBytes w.cfg.rfmt w.cfg.rowElems
  let rows := (List.range w.cfg.ne).flatMap fun j => w.received.flatMap fun g => g.rowsOf j
  let s := s.each rows.zipIdx fun s r => s.pokeAt (w.cfg.disp + r.2 * rb) r.1
  let s := s.each w.received fun s g => s.ackSegment 0 g.src g
  let res := s.resTable w.cfg
  let mx := ((List.range w.cfg.ne).map w.countOf).foldl max 0
  let dropped := s.queryDropped
  let qid := s.sched.nextQid % 65536
  let off := 2 ^ 21 * s.get SOWER_HBASE.BASE + 0x8000 * (qid % 64)
  let head := wordBytes [w.cfg.ne + (if w.cfg.ne = 0 then 0 else floorBucket w.cfg mx) * 2 ^ 16 + mx * 2 ^ 32,
    s.get STEP_NUM.STEP, 0, 0, 0, 0, 0, 0]
  let entries := res.zipIdx.flatMap fun e => leBytes 4 (e.1.expert + 2 ^ 12 * bit (!e.1.hot) + 2 ^ 13 * w.countOf e.2)
  let s := if dropped then s else s.topWrite off (head ++ entries)
  let s := s.raiseQuery p.desc (s.gaddr 1 off) w.cfg.ne
  let s := { s with sched := { s.sched with
    inflight := s.sched.inflight.map (fun (q : PassSt) => if q.pseq = p.pseq then { q with queried := true } else q) } }
  let id := if dropped then 65536 else qid
  let s := s.setSower mb (some { w with qid := some id, queried := true })
  if dropped then s.sowerSettle id ((s.settledFor p.desc).elim 0 (·.1)) [] else s.moeStatus

/-! ### Combined rows (R268, R269) -/

/-- One FMA in Tallow (R70). -/
def fmaT (a b c : Tallow) : Tallow := roundT (((tallowNum a).mul (tallowNum b)).add (tallowNum c))

/-- The elements of a row's bytes, widened to Tallow. -/
def rowValues (fmt n : Nat) (bs : List Byte) : List Tallow :=
  let x := leNat bs
  (List.range n).map fun i => roundT (decodeElem fmt (x / 2 ^ (elemBits fmt * i) % 2 ^ elemBits fmt))

/-- Converts a row under an output conversion word: the element patterns and the events (R78). -/
def convRow (c : ConvWord) (step : Nat) (row : List Tallow) : List Conv :=
  if isMx c.fmt then
    (List.range (cdiv row.length 32)).flatMap fun b =>
      let vs := (row.drop (32 * b)).take 32
      (convBlock c step ((List.range vs.length).map fun i => 32 * b + i) (vs.map tallowNum)).2
  else row.zipIdx.map fun v => convElem c step v.2 (tallowNum v.1)

/-- The block scales of a row under an MX output conversion word. -/
def convScales (c : ConvWord) (step : Nat) (row : List Tallow) : List Byte :=
  if isMx c.fmt then
    (List.range (cdiv row.length 32)).map fun b =>
      let vs := (row.drop (32 * b)).take 32
      BitVec.ofNat 8 (convBlock c step ((List.range vs.length).map fun i => 32 * b + i) (vs.map tallowNum)).1
  else []

/-- A row as tokens on a circuit: MX beats in scale groups (R154, R157). -/
def circuitRow (fmt : Nat) (elems : List Nat) (scales : List Byte) : List Token :=
  let ts := rowTokens fmt elems
  if isMx fmt then
    let n := blocksPerBeat fmt
    (ts.zipIdx.foldl (fun (x : List Token × List (List Byte)) t =>
      let sc := (scales.drop (n * t.2)).take n
      let y := groupTokens fmt x.2 t.1 (sc ++ List.replicate (n - sc.length) 0)
      (x.1 ++ y.1, y.2)) ([], [])).1
  else ts

/-- Adds conversion events to a count (R84). -/
def PassCnt.addEvents (c : PassCnt) (es : List (Option ConvEvent)) : PassCnt :=
  { c with
    nan := c.nan + (es.filter fun e => decide (e = some .nan)).length
    ovf := c.ovf + (es.filter fun e => decide (e = some .overflow)).length
    toZero := c.toZero + (es.filter fun e => decide (e = some .toZero)).length }

/-- The bytes of element patterns. -/
def patternBytes (fmt : Nat) (ps : List Nat) : List Byte :=
  leBytes (cdiv (ps.length * elemBits fmt) 8) ((ps.zipIdx.map fun p => p.1 % 2 ^ elemBits fmt * 2 ^ (elemBits fmt * p.2)).foldl (· + ·) 0)

/-- The term rows of a present row: for each chosen expert its gate and its output row, `none` when short (R268). -/
def combineTerms (w : SowerSt) (g : GleanSt) (route : List Nat) (r : Routed) : List (Tallow × Option (List Byte)) :=
  r.gates.map fun e =>
    let home := route.getD e.1 0
    let j := (homedBy route home).idxOf e.1
    let i := (w.rowsOf e.1).idxOf r.row
    match g.received.find? fun x => x.src == home with
    | none => (e.2, none)
    | some x =>
      if i < x.keptOf j then
        (e.2, x.rows[((List.range j).map x.keptOf).foldl (· + ·) 0 + i]?)
      else (e.2, none)

/-- Writes or delivers every combined row (R268, R269). Of an MX row OUT takes the elements: the spec gives its scales no
place there (assumption 60). -/
def State.combineRows (s : State) (w : SowerSt) (g : GleanSt) : State :=
  let c := g.cfg
  let route := s.routeMap c
  let oc := ConvWord.ofWord c.ocw
  let step := s.get STEP_NUM.STEP
  s.each g.present fun s r =>
    let routed := (w.routed.find? fun x => x.row == r).getD ⟨r, []⟩
    let terms := combineTerms w g route routed
    let rb := rowBytes c.resfmt c.rowElems
    let acc := if c.init then rowValues c.resfmt c.rowElems (s.peek (c.resid + r * rb) rb) else List.replicate c.rowElems 0
    let acc := terms.foldl (fun acc t => match t.2 with
      | some bs => List.zipWith (fun a y => fmaT t.1 y a) acc (rowValues c.xfmt c.rowElems bs)
      | none => acc) acc
    let short := (terms.filter fun t => t.2.isNone).length
    let cv := convRow oc step acc
    let s := s.countPass g.pseq fun k => k.addEvents (cv.map (·.ev))
    let s := if short = 0 then s else (s.bump GLEAN_SHORT.SHORT short).put GLEAN_ERR.SHORT 1
    let s := s.bump GLEAN_ROWS.ROWS 1
    if c.omode then s.agentSend (stileQ c.stile 1) (circuitRow oc.fmt (cv.map (·.bits)) (convScales oc step acc))
    else s.pokeAt (c.out + r * rowBytes oc.fmt c.rowElems) (patternBytes oc.fmt (cv.map (·.bits)))

/-! ### Meanings -/

def execScoreRow (mb : Bool) (s : State) : Host.Outcome State Fault Refusal :=
  match s.clocked (s.sower mb) with
  | none => .next s
  | some w =>
    let q := stileQ w.cfg.stile 8
    match rowPrefix (s.queue q).toks with
    | none => .next s
    | some row =>
      let s := s.popN q row.length
      match w.expected with
      | [] => .next (s.put SOWER_ERR.ROW_EXTRA 1)
      | r :: rest =>
        let scores := (row.filter fun t => t.cls == 0).flatMap fun t => (List.range t.vcount).map fun i =>
          decodeElem w.cfg.sfmt (beatElem w.cfg.sfmt t.payload i)
        let ok := decide (scores.length = w.cfg.e)
        let chosen := if ok then chooseExperts w.cfg.k scores else []
        let gates := rowGates w.cfg scores chosen
        let s := if ok then s else s.put SOWER_ERR.ROW_LEN 1
        let s := if ok && gates.2 then s.put SOWER_ERR.GATE_NAN 1 else s
        let s := s.bump SOWER_ROWS.ROWS 1
        let w := { w with expected := rest, routed := w.routed ++ [⟨r, if ok then gates.1 else []⟩] }
        .next ((if rest.isEmpty then s.dispatchSend mb w else s.setSower mb (some w)).sowerRetire mb)

/-- Why a dispatch or combine segment is not taken: `none` when it matches the Pass being served. -/
inductive SegFate where
  /-- It stays unaccepted until its Pass issues. -/
  | wait
  | stale
  | bad
  | ok
  deriving DecidableEq, Repr

/-- A segment of an earlier attempt of the step (R257): it is stale whether or not its Pass is served. -/
def State.segStale (s : State) (g : Segment) : Bool :=
  decide (g.step.toNat = s.get STEP_NUM.STEP ∧ g.attempt < s.get STEP_STATUS.REPLAYS)

/-- R257 for the acceptance of a segment of the Pass that an engine serves. -/
def State.segFate (s : State) (g : Segment) (layer : Nat) (have_ : List Segment) (bad : Bool) : SegFate :=
  let a := s.get STEP_STATUS.REPLAYS
  if g.step.toNat ≠ s.get STEP_NUM.STEP then .wait
  else if g.attempt < a then .stale
  else if g.attempt ≠ a ∨ g.layer ≠ layer ∨ bitsOf g.w0 31 6 ≠ s.get ROUTE_SELF.INDEX then .wait
  else if bad || have_.any (fun h => h.src == g.src) then .bad
  else .ok

def execDispatchSegment (g : Segment) (s : State) : Host.Outcome State Fault Refusal :=
  let mb := g.mb
  if bitsOf g.w0 0 4 ≠ 1 then .next s
  else if s.segStale g then .next ((s.put SOWER_ERR.STALE_SEG 1).ackSegment 0 g.src g)
  else match s.clocked (s.sower mb) with
    | none => .next s
    | some w =>
      let bad := decide (g.counts.length ≠ w.cfg.ne ∨ bitsOf g.w0 37 13 ≠ w.cfg.ne ∨ g.total ≠ g.sum)
      match s.segFate g w.layer w.received bad with
      | .wait => .next s
      | .stale => .next s
      | .bad =>
        let s := (s.sowerCapture w.layer mb g.src 2).put SOWER_ERR.SEG_BAD 1
        .next ((s.stepError { cls := 3, block := 6 }).ackSegment 0 g.src g)
      | .ok =>
        if !s.sowerBusy mb then .next s
        else
          let w := { w with received := segInsert g w.received }
          let s := (s.setSower mb (some w)).bump SOWER_SEGS.RECEIVED 1
          let s := if w.received.length = s.sliceSize then
              match s.sched.inflight.find? fun p => p.pseq == w.pseq with
              | some p => s.histogram mb w p
              | none => s
            else s
          .next (s.sowerRetire mb)

/-- A fetch that may run: its Sower state, slot and residence entry. Every scoreboard entry that it asked for is held. -/
def State.fetchOf (s : State) (mb : Bool) (j : Nat) : Option (SowerSt × Nat × ResEntry) :=
  match s.sower mb with
  | none => none
  | some w =>
    match w.assigned.find? fun a => a.1 == j, (s.resTable w.cfg)[j]? with
    | some (_, slot), some e =>
      if w.fetching.contains j ∧ s.boardHeld (.fetch mb j) ∧ !(s.sched.waiting.any fun o => decide (o.owner = .fetch mb j)) then
        some (w, slot, e)
      else none
    | _, _ => none

/-- A fetch completes: bytes into the slot, the residence entry HOT (R261). Its entries retire when its reads are answered
(R227). -/
def State.fetchLand (s : State) (mb : Bool) (w : SowerSt) (j slot : Nat) (e : ResEntry) (bs : List Byte) : State :=
  let s := s.topWrite (w.cfg.wslot + slot * w.cfg.wslotBytes) bs
  let s := s.topPutWord (w.cfg.res + 16 * j) ((withBits (withBits e.w0 12 1 1) 16 16 slot).toNat)
  (s.sowerTables mb { w with fetching := w.fetching.erase j }).moeStatus

/-- A fetch fails, with the record that its failure makes (R318, R353, R467). -/
def State.fetchFail (s : State) (mb : Bool) (w : SowerSt) (j : Nat) (act : State → State) : State :=
  (act (s.setSower mb (some { w with fetching := w.fetching.erase j }))).moeStatus

/-- Whether every binding of a Pass has ended its walk (R266, R298). -/
def State.walksEnded (s : State) (pseq : Nat) : Bool :=
  s.field.ags.all fun e => !e.2.running || e.2.pseq != pseq || e.2.ended

def execExpertOutputRow (mb : Bool) (s : State) : Host.Outcome State Fault Refusal :=
  match s.clocked (s.glean mb) with
  | none => .next s
  | some g =>
    match g.expected with
    | [] => .next s
    | (j, i) :: rest =>
      let rb := rowBytes g.cfg.xfmt g.cfg.rowElems
      if g.cfg.xmode then
        let q := stileQ g.cfg.stile 9
        let count := ((s.sower mb).map fun w => w.countOf j).getD 0
        let cap := g.cfg.cap.getD g.bucket 0
        match rowPrefix (s.queue q).toks with
        | none => .next s
        | some row =>
          let s := s.popN q row.length
          let pats := (row.filter fun t => t.cls == 0).flatMap fun t => (List.range t.vcount).map fun k =>
            beatElem g.cfg.xfmt t.payload k
          let taken := if i < count then g.taken ++ [(j, i, patternBytes g.cfg.xfmt pats)] else g.taken
          let g := { g with taken := taken, expected := if i + 1 < cap ∧ count ≤ i + 1 then (j, i + 1) :: rest else rest }
          .next ((s.combineSend mb g).gleanRetire mb)
      else if !s.walksEnded g.pseq then .next s
      else
        let a := g.cfg.xout + (j * g.cfg.capMax + i) * rb
        let g := { g with taken := g.taken ++ [(j, i, s.peek a rb)], expected := rest }
        .next ((s.combineSend mb g).gleanRetire mb)

def execCombineSegment (x : Segment) (s : State) : Host.Outcome State Fault Refusal :=
  let mb := x.mb
  if bitsOf x.w0 0 4 ≠ 2 then .next s
  else if s.segStale x then .next ((s.put GLEAN_ERR.STALE_SEG 1).ackSegment 1 x.src x)
  else match s.clocked (s.glean mb), s.sower mb with
    | some g, some w =>
      if g.done then .next s
      else
        let sent := (s.dispatchFor mb w (s.routeMap w.cfg) x.src).counts
        let bad := decide (x.counts ≠ sent ∨ x.total ≠ x.sum ∨ x.keptTotal ≠ x.keptSum ∨ x.kept.length ≠ x.counts.length) ||
          (List.range x.counts.length).any fun j => decide (x.count j < x.keptOf j)
        match s.segFate x g.layer g.received bad with
        | .wait => .next s
        | .stale => .next s
        | .bad =>
          let s := if s.flag GLEAN_ERR.COUNT_BAD then s
            else ((s.put GLEAN_FAULT_CAP.LAYER g.layer).put GLEAN_FAULT_CAP.MB (bit mb)).put GLEAN_FAULT_CAP.CHIP x.src
          .next (((s.put GLEAN_ERR.COUNT_BAD 1).stepError { cls := 3, block := 7 }).ackSegment 1 x.src x)
        | .ok =>
          let g := { g with received := segInsert x g.received }
          let s := (s.setGlean mb (some g)).ackSegment 1 x.src x
          let s := if g.received.length = s.sliceSize then s.combineRows w g else s
          .next (s.gleanRetire mb)
    | _, _ => .next s

def execSowerCntClr (src : Source) (s : State) : Host.Outcome State Fault Refusal :=
  .next (s.ctlWrite src 0x60000 1 1 fun s =>
    ((s.setReg SOWER_ROWS.ROWS.reg 0).setReg SOWER_SEGS.SENT.reg 0).setReg SOWER_FETCH.ACCEPTED.reg 0)

def execGleanCntClr (src : Source) (s : State) : Host.Outcome State Fault Refusal :=
  .next (s.ctlWrite src 0x70000 1 1 fun s => (s.setReg GLEAN_ROWS.ROWS.reg 0).setReg GLEAN_SHORT.SHORT.reg 0)

/-- What stays of the Sower's work for a step that is abandoned: its fetches in flight, those that hold their entries
(R271). -/
def State.sowerDropped (s : State) (mb : Bool) (w : SowerSt) : Option SowerSt :=
  let f := w.fetching.filter fun j => s.boardHeld (.fetch mb j)
  if f.isEmpty then none
  else some { w with layer := 65536, expected := [], received := [], qid := none, bucket := some 0, sent := true, tableDone := true, fetching := f }

/-- Both engines drop their state for the step, and the segments that wait here; a fetch in flight still updates its
residence entry (R271). -/
def State.dropEngines (s : State) : State :=
  let a := s.moe.sowerA.bind (s.sowerDropped false)
  let b := s.moe.sowerB.bind (s.sowerDropped true)
  State.moeStatus (State.dropSegments { s with moe := { MoeSt.reset with sowerA := a, sowerB := b } })

end Sys2Proof.Machine
end

