-- ==== Sys2Proof/Machine/Harrow.lean ====
section
/-!
DEFINITION. The Harrow: homes and moves (R314 to R319), charges (R320), Commons reclaim (R322 to R326), streams (R331 to
R336) and compressed blocks (R337, R338).
-/
namespace Sys2Proof.Machine

/-! ### Home table (R314) -/

def State.homeOff (s : State) (i : Nat) : Nat := 4096 * s.get TIER_HOME.BASE + 32 * i
def State.homeCount (s : State) : Nat := 2 ^ s.get TIER_HOME.LOG2N
def State.homeWord (s : State) (i k : Nat) : W64 := s.topWord (s.homeOff i + 8 * k)

def State.homeV (s : State) (i : Nat) : Bool := bitOf (s.homeWord i 0) 0
def State.homeMoving (s : State) (i : Nat) : Bool := bitOf (s.homeWord i 0) 1
def State.homeLost (s : State) (i : Nat) : Bool := bitOf (s.homeWord i 0) 2
def State.homeClass (s : State) (i : Nat) : Nat := bitsOf (s.homeWord i 0) 3 4
def State.homeAddr (s : State) (i : Nat) : Nat := (s.homeWord i 1).toNat
def State.homeLen (s : State) (i : Nat) : Nat := bitsOf (s.homeWord i 2) 0 40

/-- Sets or clears bit `b` of word 0 of a home entry. -/
def State.homeFlag (s : State) (i b v : Nat) : State := s.topPutWord (s.homeOff i) (withBits (s.homeWord i 0) b 1 v).toNat

/-- The index of a valid home entry, in ascending order. -/
def State.homes (s : State) (p : Nat → Bool) : List Nat := (List.range s.homeCount).filter fun i => s.homeV i && p i

/-! ### Charges (R320) -/

/-- Units of 64 KiB, rounded up. -/
def units (n : Nat) : Nat := cdiv n 65536

/-- Whether an address is charged to Topsoil: the chip's own tier 01. -/
def State.chargedTop (s : State) (a : Nat) : Bool := decide (a / 2 ^ 44 % 2 ^ 20 = s.self ∧ a / 2 ^ 42 % 4 = 1)

def quotaClass (top : Bool) (c : Nat) : Fld × Fld :=
  if top then (TIER_QT.LIMIT c, TIER_QT.USED c) else (TIER_QS.LIMIT c, TIER_QS.USED c)
def quotaJob (top : Bool) : Fld × Fld :=
  if top then (TIER_QJOB_T.LIMIT, TIER_QJOB_T.USED) else (TIER_QJOB_S.LIMIT, TIER_QJOB_S.USED)

/-- Whether a charge of `u` units to a class and the job succeeds. -/
def State.chargeFits (s : State) (top : Bool) (c u : Nat) : Bool :=
  decide (s.get (quotaClass top c).2 + u ≤ s.get (quotaClass top c).1 ∧
    s.get (quotaJob top).2 + u ≤ s.get (quotaJob top).1)

def State.chargeAdd (s : State) (top : Bool) (c u : Nat) : State :=
  (s.put (quotaClass top c).2 (s.get (quotaClass top c).2 + u)).put (quotaJob top).2 (s.get (quotaJob top).2 + u)

def State.chargeSub (s : State) (top : Bool) (c u : Nat) : State :=
  (s.put (quotaClass top c).2 (s.get (quotaClass top c).2 - u)).put (quotaJob top).2 (s.get (quotaJob top).2 - u)

/-! ### Status -/

/-- HARROW_STATUS as the streams, ranges and reclaim moves stand. -/
def State.harrowStatus (s : State) : State :=
  (((s.put HARROW_STATUS.ACTIVE s.harrow.streams.length).put HARROW_STATUS.RANGES s.harrow.ranges.length).put
    HARROW_STATUS.ROT_HOLD (bit s.harrow.rotHold.isSome)).put HARROW_STATUS.RECLAIM (bit (!s.harrow.reclaims.isEmpty))

def State.addRange (s : State) (k : RangeKind) (a n : Nat) : State :=
  { s with harrow := { s.harrow with ranges := s.harrow.ranges ++ [⟨k, a, n⟩] } }

def State.dropRange (s : State) (k : RangeKind) (a : Nat) : State :=
  { s with harrow := { s.harrow with ranges := s.harrow.ranges.filter fun r => !(decide (r.kind = k) && r.addr == a) } }

/-! ### Grants (R322 to R326) -/

/-- The first byte of a grant's range as a global fabric address, on the lender's side `chip`. -/
def State.grantAddr (s : State) (k chip : Nat) : Nat :=
  chip * 2 ^ 44 + (if s.flag (TIER_GNT_A.LTIER k) then 2 else 1) * 2 ^ 42 + 65536 * s.get (TIER_GNT_B.BASE k)
def State.grantLen (s : State) (k : Nat) : Nat := 65536 * s.get (TIER_GNT_A.LEN k)
def State.grantPeer (s : State) (k : Nat) : Nat := s.chipAt (s.get (TIER_GNT_A.PEER k))

/-- Whether an address lies in borrower grant `k`. -/
def State.inGrant (s : State) (k a : Nat) : Bool :=
  decide (s.grantAddr k (s.grantPeer k) ≤ a ∧ a < s.grantAddr k (s.grantPeer k) + s.grantLen k)

def State.isBorrower (s : State) (k : Nat) : Bool := s.flag (TIER_GNT_A.EN k) && !s.flag (TIER_GNT_A.ROLE k)
def State.isLender (s : State) (k : Nat) : Bool := s.flag (TIER_GNT_A.EN k) && s.flag (TIER_GNT_A.ROLE k)

/-- Whether an address lies in a borrower grant that is being reclaimed. -/
def State.inReclaim (s : State) (a : Nat) : Bool :=
  (List.range 8).any fun k => s.isBorrower k && s.get (TIER_GNT_A.STATE k) == 2 && s.inGrant k a

/-- The fields of RECLAIM, RELEASED and REVOKED (R385). -/
def State.grantMsg (s : State) (k : Nat) : List Byte :=
  leBytes 8 (s.get (TIER_GNT_B.BASE k)) ++ leBytes 8 (s.get (TIER_GNT_A.LEN k)) ++
    leBytes 48 (s.get (TIER_GNT_A.LTIER k))

/-- The grant that a message names. -/
def State.grantOf (s : State) (lender : Bool) (h : MsgHdr) (base len : W64) (ltier : Bool) : Option Nat :=
  (List.range 8).find? fun k =>
    (if lender then s.isLender k else s.isBorrower k) &&
    decide (s.grantPeer k = h.src.toNat ∧ s.get (TIER_GNT_B.BASE k) = base.toNat ∧ s.get (TIER_GNT_A.LEN k) = len.toNat) &&
    s.flag (TIER_GNT_A.LTIER k) == ltier

/-- The borrower grants that are being reclaimed. -/
def State.reclaiming (s : State) : List Nat := (List.range 8).filter fun k => s.isBorrower k && s.get (TIER_GNT_A.STATE k) == 2

/-- The valid entries whose objects lie in grant `k`. -/
def State.homesIn (s : State) (k : Nat) : List Nat := s.homes fun i => s.inGrant k (s.homeAddr i) && !s.homeLost i

/-- The reclaim moves that a grant still needs: those that have begun, and one for each other object that lies in it, in
ascending entry index (R324). -/
def State.reclaimsOf (s : State) (k : Nat) : List ReclaimMove :=
  let own := s.gaddr 2 (65536 * s.get (TIER_GNT_B.RESERVE k))
  let begun := s.harrow.reclaims.filter fun m => m.grant == k && m.started
  begun ++ ((s.homesIn k).filter fun i => !(begun.any fun m => m.index == i)).map fun i =>
    ⟨i, own + (s.homeAddr i - s.grantAddr k (s.grantPeer k)), k, false⟩

/-- Starts the reclaim moves for which the range list has room; an object that another move still brings waits for its
flip (R318, R324). -/
def State.reclaimPump (s : State) : State :=
  let s := { s with harrow := { s.harrow with reclaims := s.reclaiming.flatMap fun k => s.reclaimsOf k } }
  State.harrowStatus (s.each s.harrow.reclaims fun s m =>
    if m.started || decide (64 ≤ s.harrow.ranges.length) || s.homeMoving m.index then s
    else
      let s := (s.homeFlag m.index 1 1).addRange .moving (s.homeAddr m.index) (s.homeLen m.index)
      { s with harrow := { s.harrow with
        reclaims := s.harrow.reclaims.map fun x => if x.index = m.index then { x with started := true } else x } })

/-- Releases each reclaiming borrower grant whose moves have flipped and whose accesses are answered (R324). -/
def State.grantsRelease (s : State) : State :=
  s.each (List.range 8) fun s k =>
    if s.isBorrower k && s.get (TIER_GNT_A.STATE k) == 2 && !(s.harrow.reclaims.any fun m => m.grant == k) &&
        !(s.harrow.streams.any fun t => t.started && s.inGrant k (t.desc.getD 2 0).toNat && t.cause == 0 && !t.cancelled) &&
        !(s.net.requests.any fun r => r.vc == 7 && s.inGrant k r.addr) then
      ((s.send 3 0x0402 (s.grantPeer k) (s.grantMsg k)).put (TIER_GNT_A.EN k) 0).put (TIER_GNT_A.STATE k) 0
    else s

/-- A lender grant is revoked: its range is zeroed (R324). -/
def State.grantRevoke (s : State) (k : Nat) : State :=
  let s := (s.put (TIER_GNT_A.STATE k) 3).zeroAt (s.grantAddr k s.self) (s.grantLen k)
  if (List.range 8).any fun j => s.isLender j && s.get (TIER_GNT_A.STATE j) != 3 then s
  else s.put TIER_RECLAIM.BUSY 0

/-! ### CLAIM and DROP (R315) -/

def tierResult (outcome reason : Nat) : W64 := BitVec.ofNat 64 (1 + 2 * outcome + 8 * reason)

/-- Whether an address range of a home is refused (R315): outside tiers 01 and 10, outside its tier, or another chip's
memory outside an active grant. -/
def State.homeRefused (s : State) (a n : Nat) : Bool :=
  match s.locate a with
  | .top o => !topRange o n
  | .sub o => !s.subRange o n
  | .commons d t o => (s.borrowed d t o n).isNone
  | _ => true

def State.claim (s : State) (src : Source) (i : Nat) : State :=
  let done (s : State) (o r : Nat) : State := s.setResult 0x90010 src (tierResult o r)
  if s.homeCount ≤ i then done s 2 0
  else
    let a := s.homeAddr i
    let n := s.homeLen i
    let s := s.partReads (s.homeOff i) 32 false
    let top := s.chargedTop a
    let c := s.homeClass i
    if s.inReclaim a then done s 1 4
    else if s.homeRefused a n then done s 1 2
    else if !s.chargeFits top c (units n) then done (s.put TIER_ERR.QUOTA 1) 1 1
    else done ((s.chargeAdd top c (units n)).homeFlag i 0 1) 0 0

def State.dropHome (s : State) (src : Source) (i : Nat) : State :=
  let done (s : State) (o r : Nat) : State := s.setResult 0x90010 src (tierResult o r)
  let r := s.partReads (s.homeOff i) 32 false
  if s.homeCount ≤ i then done s 2 0
  else if s.homeMoving i then done r 1 3
  else if !s.homeV i then done r 0 0
  else
    let s := r
    let a := s.homeAddr i
    let n := s.homeLen i
    let s := (s.homeFlag i 0 0).chargeSub (s.chargedTop a) (s.homeClass i) (units n)
    done { s with harrow := { s.harrow with zeroing := s.harrow.zeroing ++ [⟨.vacated, a, n⟩] } } 0 0

def execClaim (src : Source) (index : BitVec 20) (s : State) : Host.Outcome State Fault Refusal :=
  .next (s.ctlWrite src 0x90008 1 (BitVec.ofNat 64 (1 + 4 * index.toNat)) fun s => s.claim src index.toNat)

def execDrop (src : Source) (index : BitVec 20) (s : State) : Host.Outcome State Fault Refusal :=
  .next (s.ctlWrite src 0x90008 1 (BitVec.ofNat 64 (2 + 4 * index.toNat)) fun s => s.dropHome src index.toNat)

/-! ### Compressed blocks (R337, R338) -/

/-- The stored lines of a block by its header; `none` when the header is malformed. -/
def cbStored (slot : List Byte) : Option Nat :=
  let z := leNat (slot.take 8)
  let r := leNat ((slot.drop 8).take 8)
  let ver := ((slot.drop 16).headD 0).toNat
  let ns := ((slot.drop 17).headD 0).toNat
  let marked := ((List.range 64).filter fun i => (z ||| r) / 2 ^ i % 2 = 1).length
  let tail := ((slot.take 64).drop 18).any fun b => b != 0
  if z &&& r ≠ 0 ∨ r % 2 = 1 ∨ ver ≠ 0x48 ∨ ns ≠ 64 - marked ∨ tail then none else some ns

/-- The 64 lines of a decoded block from its header and stored lines; `none` when the header is malformed. -/
def cbDecode (slot : List Byte) : Option (List Byte) :=
  let z := leNat (slot.take 8)
  let r := leNat ((slot.drop 8).take 8)
  if (cbStored slot).isNone then none
  else
    let out := (List.range 64).foldl (fun (a : List (List Byte) × Nat) i =>
      if z / 2 ^ i % 2 = 1 then (a.1 ++ [List.replicate 64 0], a.2)
      else if r / 2 ^ i % 2 = 1 then (a.1 ++ [a.1.getLastD []], a.2)
      else (a.1 ++ [(slot.drop (64 * (a.2 + 1))).take 64], a.2 + 1)) ([], 0)
    some out.1.flatten

/-- The 4,160-byte slot of a decoded block. -/
def cbEncode (bs : List Byte) : List Byte :=
  let line (i : Nat) : List Byte := (bs.drop (64 * i)).take 64
  let isZero (i : Nat) : Bool := (line i).all fun b => b == 0
  let rep (i : Nat) : Bool := !isZero i && decide (1 ≤ i) && line i == line (i - 1)
  let mask (p : Nat → Bool) : Nat := (List.range 64).foldl (fun a i => a + (if p i then 2 ^ i else 0)) 0
  let stored := (List.range 64).filter fun i => !isZero i && !rep i
  let hdr := leBytes 8 (mask isZero) ++ leBytes 8 (mask rep) ++ [0x48, BitVec.ofNat 8 stored.length] ++ List.replicate 46 0
  let out := hdr ++ stored.flatMap line
  out ++ List.replicate (4160 - out.length) 0

/-! ### Streams (R331 to R336) -/

def streamOp (d : List W64) : Nat := bitsOf (d.getD 0 0) 0 4
def streamDec (d : List W64) : Bool := bitOf (d.getD 0 0) 4
def streamEnc (d : List W64) : Bool := bitOf (d.getD 0 0) 5
def streamHome (d : List W64) : Nat := bitsOf (d.getD 0 0) 23 20
def streamSrc (d : List W64) : Nat := (d.getD 1 0).toNat
def streamDst (d : List W64) : Nat := (d.getD 2 0).toNat
def streamLen (d : List W64) : Nat := bitsOf (d.getD 3 0) 0 40
def streamDl (d : List W64) : Nat := bitsOf (d.getD 5 0) 0 48
def streamStep (d : List W64) : Nat := (d.getD 4 0).toNat

def State.streamOff (s : State) (q i : Nat) : Nat :=
  4096 * s.get (HARROW_QBASE.BASE q) + 64 * (i % 2 ^ s.get (HARROW_QBASE.LOG2N q))
def State.streamDesc (s : State) (q i : Nat) : List W64 := s.topWords (s.streamOff q i) 8

/-- Bytes that a stream writes in all. -/
def streamTotal (d : List W64) : Nat := if streamEnc d then streamLen d / 4096 * 4160 else streamLen d

/-- R331: the reasons that refuse a descriptor. -/
def State.streamBad (s : State) (queue1 : Bool) (d : List W64) : Bool :=
  let w0 := d.getD 0 0
  let op := streamOp d
  let cb := streamDec d || streamEnc d
  let dst := streamDst d
  let o := dst % 2 ^ 42
  let seed := decide (dst / 2 ^ 44 % 2 ^ 20 = s.self ∧ dst / 2 ^ 42 % 4 = 0) &&
    decide (2 ^ 30 ≤ o ∨ 0xC0000 < o % 2 ^ 20 + streamTotal d)
  !decide (op = 1 ∨ op = 2 ∨ op = 3) || bitsOf w0 43 21 != 0 || bitsOf (d.getD 3 0) 40 24 != 0 ||
  bitsOf (d.getD 5 0) 48 16 != 0 || d.getD 6 0 != 0 || bitsOf (d.getD 7 0) 8 56 != 0 ||
  streamDec d && streamEnc d || cb && op == 2 || !queue1 && op != 1 || seed ||
  bitOf w0 6 == queue1 || !queue1 && decide (streamStep d < s.harrow.lastStep) ||
  streamLen d % (if cb then 4096 else 64) != 0

def State.stream (s : State) (queue1 : Bool) (pos : Nat) : Option StreamSt :=
  s.harrow.streams.find? fun t => t.queue1 == queue1 && t.pos == pos

def State.updStream (s : State) (t : StreamSt) : State :=
  { s with harrow := { s.harrow with
    streams := s.harrow.streams.map fun x => if x.queue1 == t.queue1 && x.pos == t.pos then t else x } }

/-- Advances the HEAD of queue 1 past descriptors that have ended. -/
def State.advanceHead1 : Nat → State → State
  | 0, s => s
  | n + 1, s =>
    let h := s.get (HARROW_QPTR.HEAD 1)
    if h = s.get (HARROW_QPTR.ISSUE 1) ∨ (s.stream true h).isSome then s
    else (s.put (HARROW_QPTR.HEAD 1) (h + 1)).advanceHead1 n

/-- The destination address and length of a stream's next chunk (R332). -/
def chunkDst (t : StreamSt) : Nat × Nat :=
  let a := streamDst t.desc + t.done
  if streamEnc t.desc then (a, 4160)
  else if streamDec t.desc then (a, 4096)
  else (a, min (streamLen t.desc - t.done) (4096 - a % 4096))

/-- The source address and length of a COPY stream's next chunk. -/
def chunkSrc (t : StreamSt) : Nat × Nat :=
  if streamEnc t.desc then (streamSrc t.desc + t.done / 4160 * 4096, 4096)
  else if streamDec t.desc then (streamSrc t.desc + t.done / 4096 * 4160, 4160)
  else (streamSrc t.desc + t.done, (chunkDst t).2)

/-- Whether a stream has no more to copy. -/
def StreamSt.finished (t : StreamSt) : Bool := decide (streamTotal t.desc ≤ t.done)

/-- Whether every line that a stream has written to the Commons is acknowledged, and every one that it reads has come. -/
def State.streamQuiet (s : State) (t : StreamSt) : Bool := !s.ownerPending (.stream t.queue1 t.pos)

/-- Requests the scoreboard entry of a stream's next chunk (R227, R332). -/
def State.chunkRequest (s : State) (t : StreamSt) : State :=
  if t.finished || t.cancelled || t.cause != 0 then s
  else s.boardRequest (.stream t.queue1 t.pos) t.order none true (chunkDst t).1 (chunkDst t).2

/-- A stream fails with a cause; a step-bound one is an error of its step (R318, R338, R467). -/
def State.streamFail (s : State) (t : StreamSt) (cause cls addr : Nat) : State :=
  let s := (s.updStream { t with cause := cause }).boardRetire (.stream t.queue1 t.pos)
  if t.queue1 then s else s.stepError { cls := cls, block := 8, addr := addr }

/-- A refused access of a stream: an error of the step for a step-bound one, an address fault for a background one, under
the terms of R10 (R318). -/
def State.streamRefused (s : State) (t : StreamSt) (addr : Nat) : State :=
  let s := (s.streamFail t 3 8 addr).accessRefusal
  if t.queue1 then s.addrFault 8 addr else s

/-- An operation of the scoreboard whose Commons accesses may all be answered: its entry retires then (R217, R227), and a
stream asks for its next chunk's. -/
def State.ownerDone (s : State) (o : Owner) : State :=
  if s.ownerPending o then s
  else
    let s := s.boardRetire o
    match o with
    | .stream q p => (s.stream q p).elim s s.chunkRequest
    | _ => s

/-- Issues the next descriptor of a queue (R331 to R334). -/
def State.streamIssue (s : State) (queue1 : Bool) : State :=
  let q := bit queue1
  let i := s.get (HARROW_QPTR.ISSUE q)
  let d := s.streamDesc q i
  if i = s.get (HARROW_QPTR.TAIL q) ∨ 64 ≤ s.harrow.streams.length ∨ (!queue1 ∧ s.stepState = stepAbandoning) then s
  else if queue1 && bitsOf (d.getD 7 0) 0 2 == 2 then
    ((s.partReads (s.streamOff q i) 64 false).put (HARROW_QPTR.ISSUE q) (i + 1)).advanceHead1 65536
  else if s.streamBad queue1 d then
    let s := s.partReads (s.streamOff q i) 64 (!queue1)
    if queue1 then
      let s := (s.put HARROW_ERR.DESC_BAD 1).topPutWord (s.streamOff 1 i + 56) (3 + 4)
      (s.put (HARROW_QPTR.ISSUE q) (i + 1)).advanceHead1 65536
    else (s.put HARROW_ERR.DESC_BAD 1).refuseDesc 0 i (s.gaddr 1 (s.streamOff 0 i))
  else if !queue1 && (decide (s.get STEP_NUM.STEP + 1 < streamStep d) ||
      (s.harrow.rotHold.elim false fun h => decide (h < streamStep d))) then s
  else if bitOf (d.getD 0 0) 7 && !s.tagReady (bitsOf (d.getD 0 0) 8 7) then s
  else
    let t : StreamSt := ⟨queue1, i, d, 0, s.sched.nextOrder, 0, false, false, false⟩
    let s := s.partReads (s.streamOff q i) 64 (!queue1)
    let s := { s with sched := { s.sched with nextOrder := s.sched.nextOrder + 1 }
                      harrow := { s.harrow with
                        streams := s.harrow.streams ++ [t]
                        lastStep := if queue1 then s.harrow.lastStep else streamStep d } }
    let s := s.put (HARROW_QPTR.ISSUE q) (i + 1)
    (if streamOp d = 2 then s else s.chunkRequest t).harrowStatus

def execHarrowStreamIssue (queue1 : Bool) (s : State) : Host.Outcome State Fault Refusal :=
  .next (if s.flag CANDLE_GOV.HOLD then s else s.streamIssue queue1)

/-- A chunk's bytes are written; its entry retires when that is acknowledged, and the next chunk requests its own. -/
def State.chunkDone (s : State) (t : StreamSt) (bs : List Byte) : State :=
  let c := chunkDst t
  let s := s.writeAny (.commonsWrite (some (.stream t.queue1 t.pos))) c.1 bs
  let s := (s.updStream { t with done := t.done + c.2 }).bump HARROW_BYTES.BYTES bs.length
  s.ownerDone (.stream t.queue1 t.pos)

/-- Whether a stream may run a chunk now. -/
def State.chunkReady (s : State) (t : StreamSt) (op : Nat) : Bool :=
  streamOp t.desc == op && !t.cancelled && t.cause == 0 && !t.finished && s.boardHeld (.stream t.queue1 t.pos) && s.streamQuiet t &&
    !s.writeWaits (chunkDst t).1 (chunkDst t).2

/-- Whether a source range in Commons space belongs to a LOST object (R326, R332). -/
def State.lostSource (s : State) (a n : Nat) : Bool :=
  match s.locate a with
  | .commons _ _ _ => !(s.homes fun i => s.homeLost i && decide (s.homeAddr i < a + n ∧ a < s.homeAddr i + s.homeLen i)).isEmpty
  | _ => false

/-! ### Feed channels (R46, R51) -/

/-- The Stile whose feed channels serve a Hopper, and the plot of its register window. -/
def hopStile (hop : Nat) : Nat := 2 * (hop / 32) + hop / 16 % 2
def stilePlot (k : Nat) : Nat := 16 * (k / 2) + 15 * (k % 2)

/-- An uncorrectable code on a Hopper's feed channel: STILE_ERR and a Field error (R51, R467). -/
def State.feedError (s : State) (hop : Nat) : State :=
  let p := stilePlot (hopStile hop)
  (s.put (STILE_ERR.FEED_UE p) 1).stepError { cls := 3, block := 0x20 + p / 16, plot := p, addr := s.gaddr 3 (0x200410 + 0x1000 * p) }

/-- Whether a feed channel's codes let an error through: the bytes are then free values (assumption 2). -/
def feedBad (feed : CodeResult) : Bool := feed == .ue || feed == .two || feed == .miscorrected

/-- Whether an address names this chip's Seedbed. -/
def State.isSeedbed (s : State) (a : Nat) : Bool :=
  match s.locate a with
  | .seedbed _ => true
  | _ => false

/-- The source bytes of one chunk, and whether they meet an uncorrectable line. Of a compressed block the header is read,
and then only its stored lines (R338). -/
def State.chunkRead (s : State) (t : StreamSt) (a n : Nat) (code : CodeResult) (remote : List Byte) : State × List Byte × Bool :=
  let own : Owner := .stream t.queue1 t.pos
  if !streamDec t.desc then s.readAny (some own) a n code (!t.queue1) remote
  else
    let h := s.readAny (some own) a 64 code (!t.queue1) remote
    match cbStored h.2.1 with
    | none => h
    | some ns =>
      let b := h.1.readAny (some own) (a + 64) (64 * ns) .clean (!t.queue1) (remote.drop 64)
      (b.1, h.2.1 ++ b.2.1, h.2.2 || b.2.2)

/-- Copies one chunk from `a`: what STREAM_COPY and STREAM_MOVE share. -/
def State.chunkCopy (s : State) (t : StreamSt) (a n : Nat) (code feed : CodeResult) (remote : List Byte) : State :=
  let c := chunkDst t
  if s.lostSource a n then s.streamFail t 5 8 a
  else if s.accessRefused false a n then s.streamRefused t a
  else if s.accessRefused true c.1 c.2 then s.streamRefused t c.1
  else
    let r := s.chunkRead t a n code remote
    let r := if feedBad feed && s.isSeedbed c.1 then
        ((r.1.feedError (c.1 % 2 ^ 42 / 2 ^ 20)).drawn, r.1.freeBytes r.2.1.length, r.2.2) else r
    if r.2.2 && t.queue1 then r.1.streamFail t 3 5 a
    else if streamDec t.desc then
      match cbDecode r.2.1 with
      | some bs => r.1.chunkDone t bs
      | none => ((r.1.chunkDone t (List.replicate 4096 0)).put HARROW_ERR.CB_BAD 1).streamFail
          { t with done := t.done + 4096 } 4 8 a
    else r.1.chunkDone t (if streamEnc t.desc then cbEncode r.2.1 else r.2.1)

def execStreamCopy (queue1 : Bool) (pos : BitVec 16) (codes : CopyCodes) (remote : List Byte) (s : State) :
    Host.Outcome State Fault Refusal :=
  match s.clocked (s.stream queue1 pos.toNat) with
  | none => .next s
  | some t =>
    if !s.chunkReady t 1 then .next s
    else .next (s.chunkCopy t (chunkSrc t).1 (chunkSrc t).2 codes.code codes.feed remote)

def execStreamZero (queue1 : Bool) (pos : BitVec 16) (s : State) : Host.Outcome State Fault Refusal :=
  match s.clocked (s.stream queue1 pos.toNat) with
  | none => .next s
  | some t =>
    if !s.chunkReady t 3 then .next s
    else
      let c := chunkDst t
      .next (if s.accessRefused true c.1 c.2 then s.streamRefused t c.1 else s.chunkDone t (List.replicate c.2 0))

/-- Steps 1 and 2 of R317: charge the destination, set MOVING and list the source. -/
def State.moveStart (s : State) (t : StreamSt) : State :=
  let i := streamHome t.desc
  let d := streamDst t.desc
  let a := s.homeAddr i
  let n := s.homeLen i
  let s := s.partReads (s.homeOff i) 32 false
  let top := s.chargedTop d
  if s.homeCount ≤ i ∨ !s.homeV i ∨ s.homeMoving i ∨ n ≠ streamLen t.desc then s.streamFail t 1 8 d
  else if s.homeLost i then s.streamFail t 5 8 a
  else if s.inReclaim d || s.homeRefused d n then s.streamRefused t d
  else if 64 ≤ s.harrow.ranges.length then s
  else if !s.chargeFits top (s.homeClass i) (units n) then
    (((s.updStream { t with cause := 2 }).put HARROW_ERR.QUOTA 1).put TIER_ERR.QUOTA 1)
  else
    -- its place in the issue order is that of its first chunk (R332)
    let t := { t with started := true, order := s.sched.nextOrder }
    let s := { s with sched := { s.sched with nextOrder := s.sched.nextOrder + 1 } }
    let s := (((s.chargeAdd top (s.homeClass i) (units n)).homeFlag i 1 1).addRange .moving a n).updStream t
    (s.chunkRequest t).harrowStatus

def execStreamMove (pos : BitVec 16) (code : CodeResult) (remote : List Byte) (s : State) :
    Host.Outcome State Fault Refusal :=
  match s.clocked (s.stream true pos.toNat) with
  | none => .next s
  | some t =>
    if streamOp t.desc ≠ 2 ∨ t.cause ≠ 0 ∨ t.cancelled then .next s
    else if !t.started then .next (s.moveStart t)
    else if !s.chunkReady t 2 then .next s
    else .next (s.chunkCopy t (s.homeAddr (streamHome t.desc) + t.done) (chunkDst t).2 code .clean remote)

/-- The flip of R317: word 1 names the new home, MOVING clears, the source charge is released and the source becomes a
vacated range. -/
def State.flip (s : State) (i dst : Nat) (freed : Bool) : State :=
  let a := s.homeAddr i
  let n := s.homeLen i
  let c := s.homeClass i
  let s := (s.topPutWord (s.homeOff i + 8) dst).homeFlag i 1 0
  let s := if freed then s.chargeSub (s.chargedTop a) c (units n) else s
  ((s.dropRange .moving a).addRange .vacated a n).harrowStatus

/-- The stream that moves a home entry, with its copy ended and its writes acknowledged. -/
def State.moveOf (s : State) (i : Nat) : Option StreamSt :=
  s.harrow.streams.find? fun t => streamOp t.desc == 2 && streamHome t.desc == i && t.started && !t.flipped &&
    t.cause == 0 && !t.cancelled && t.finished && s.streamQuiet t

def execMoveFlip (index : BitVec 20) (read : MoveRead) (s : State) : Host.Outcome State Fault Refusal :=
  let i := index.toNat
  match s.moveOf i with
  | some t => .next (((s.updStream { t with flipped := true }).flip i (streamDst t.desc) true).reclaimPump).grantsRelease
  | none =>
    match s.harrow.reclaims.find? fun m => m.index == i && m.started with
    | none => .next s
    | some m =>
      let r := s.readAny none (s.homeAddr i) (s.homeLen i) .clean false read.bytes
      let s := r.1.pokeAt m.dst r.2.1
      let s := if read.late then s.bump HARROW_LATE.LATE 1 else s
      let s := { s with harrow := { s.harrow with reclaims := s.harrow.reclaims.filter fun x => x.index != i } }
      .next (((s.flip i m.dst false).reclaimPump).grantsRelease)

/-- Zeroes a range of this chip or of Commons space. -/
def State.zeroAny (s : State) (a n : Nat) : State :=
  match s.locate a with
  | .commons dst t o => if (s.borrowed dst t o n).isSome then s.commonsSend (.commonsWrite none) dst (cdiv n 2048) a (List.replicate n 0) else s
  | _ => s.zeroAt a n

def execVacatedZeroed (addr : W64) (s : State) : Host.Outcome State Fault Refusal :=
  match (s.harrow.ranges.find? fun r => decide (r.kind = .vacated) && r.addr == addr.toNat),
      s.harrow.zeroing.find? fun r => r.addr == addr.toNat with
  | some r, _ => .next (if s.writeWaits r.addr r.len then s else ((s.zeroAny r.addr r.len).dropRange .vacated r.addr).reclaimPump)
  | none, some r =>
    .next (if s.writeWaits r.addr r.len then s
      else
        let s := s.zeroAny r.addr r.len
        { s with harrow := { s.harrow with zeroing := s.harrow.zeroing.erase r } })
  | none, none => .next s

/-- Whether a stream has ended: failed, cancelled, or all its bytes written and acknowledged (a MOVE: flipped). -/
def State.streamEnded (s : State) (t : StreamSt) : Bool :=
  t.cause != 0 || t.cancelled ||
  (if streamOp t.desc = 2 then t.flipped
   else t.finished && s.streamQuiet t)

/-- ST and CAUSE of an ended stream. -/
def streamSt (t : StreamSt) : Nat := if t.cause ≠ 0 then 3 + 4 * t.cause else if t.cancelled then 2 else 1

def execHarrowStreamComplete (queue1 : Bool) (pos : BitVec 16) (late : Bool) (s : State) :
    Host.Outcome State Fault Refusal :=
  match s.stream queue1 pos.toNat with
  | none => .next s
  | some t =>
    if !s.streamEnded t then .next s
    else
      let s := s.topPutWord (s.streamOff (bit queue1) t.pos + 56) (streamSt t)
      let s := if streamSt t = 1 ∧ bitOf (t.desc.getD 0 0) 15 then s.setTag (bitsOf (t.desc.getD 0 0) 16 7) else s
      let s := if late && streamDl t.desc != 2 ^ 48 - 1 then s.bump HARROW_LATE.LATE 1 else s
      let s := ({ s with harrow := { s.harrow with
        streams := s.harrow.streams.filter fun x => !(x.queue1 == queue1 && x.pos == t.pos) } }).boardRetire (.stream queue1 t.pos)
      .next ((((s.advanceHead1 65536).harrowStatus).grantsRelease).agentTell 2)

/-- A MOVE that ends before its flip: the source stays home, the destination's charge is released and its written part
zeroed (R319). -/
def State.moveUndo (s : State) (t : StreamSt) : State :=
  let i := streamHome t.desc
  if !t.started then s
  else
    let d := streamDst t.desc
    let s := ((s.homeFlag i 1 0).dropRange .moving (s.homeAddr i)).chargeSub (s.chargedTop d) (s.homeClass i) (units (s.homeLen i))
    s.zeroAny d t.done

/-- Whether queue position `p` lies in `[a, b)`. -/
def posIn (a b p : Nat) : Bool := decide (idxSub 16 p a < idxSub 16 b a)

def State.harrowCancel (s : State) (p : Nat) : State :=
  match s.stream true p with
  | some t =>
    if t.cause ≠ 0 ∨ t.flipped ∨ t.cancelled then s
    else
      let s := if streamOp t.desc = 2 then s.moveUndo t else s
      ((s.updStream { t with cancelled := true }).boardRetire (.stream true p)).harrowStatus
  | none =>
    if posIn (s.get (HARROW_QPTR.ISSUE 1)) (s.get (HARROW_QPTR.TAIL 1)) p then s.topPutWord (s.streamOff 1 p + 56) 2
    else s

def execHarrowCancel (src : Source) (pos : BitVec 16) (s : State) : Host.Outcome State Fault Refusal :=
  .next (s.ctlWrite src 0x80000 1 (BitVec.ofNat 64 (1 + 65536 * pos.toNat)) fun s => s.harrowCancel pos.toNat)

def State.harrowCntClr (s : State) : State := (s.put HARROW_LATE.LATE 0).put HARROW_BYTES.BYTES 0

def execHarrowCntClr (src : Source) (s : State) : Host.Outcome State Fault Refusal :=
  .next (s.ctlWrite src 0x80000 1 2 State.harrowCntClr)

/-- Every active queue-0 stream stops and ISSUE returns to HEAD (R334). -/
def State.stopStreams0 (s : State) : State :=
  let s := { s with harrow := { s.harrow with streams := s.harrow.streams.filter (·.queue1), lastStep := s.harrow.headStep } }
  (s.put (HARROW_QPTR.ISSUE 0) (s.get (HARROW_QPTR.HEAD 0))).harrowStatus

/-- HEAD of queue 0 passes every stream of step `n`, issued or not (R333). -/
def State.commitStreams : Nat → Nat → State → State
  | 0, _, s => s
  | k + 1, n, s =>
    let h := s.get (HARROW_QPTR.HEAD 0)
    let d := s.streamDesc 0 h
    if h = s.get (HARROW_QPTR.TAIL 0) ∨ n < streamStep d then s
    else
      let s := { s with harrow := { s.harrow with headStep := streamStep d } }
      (s.put (HARROW_QPTR.HEAD 0) (h + 1)).commitStreams k n

/-- The first position from `p` on, up to ISSUE, whose stream serves a step above `n`. -/
def State.firstAbove (s : State) (n issue : Nat) : Nat → Nat → Nat
  | 0, p => p
  | k + 1, p =>
    if p = issue ∨ n < streamStep (s.streamDesc 0 p) then p else s.firstAbove n issue k ((p + 1) % 65536)

/-- ARM of a rotation for step `n` holds the streams of later steps (R334). -/
def State.holdStreams (s : State) (n : Nat) : State :=
  let issue := s.get (HARROW_QPTR.ISSUE 0)
  let hd := if posIn issue (issue + 2 ^ 15) (s.get (HARROW_QPTR.HEAD 0)) then issue else s.get (HARROW_QPTR.HEAD 0)
  let p := s.firstAbove n issue 65536 hd
  let last := if p = hd then s.harrow.headStep else streamStep (s.streamDesc 0 ((p + 65535) % 65536))
  let held := s.harrow.streams.filter fun t => !t.queue1 && decide (n < streamStep t.desc)
  let s := s.each (held.filter s.streamQuiet) fun s t => s.boardRetire (.stream false t.pos)
  let s := { s with harrow := { s.harrow with
    streams := s.harrow.streams.filter fun t => t.queue1 || decide (streamStep t.desc ≤ n)
    lastStep := last, rotHold := some n } }
  (s.put (HARROW_QPTR.ISSUE 0) p).harrowStatus

def State.releaseStreams (s : State) : State := ({ s with harrow := { s.harrow with rotHold := none } }).harrowStatus

/-! ### Reclaim (R324 to R326) -/

/-- The write of TIER_RECLAIM at L2. -/
def State.reclaimWrite (s : State) (val : W64) : State :=
  let s := s.store 0x90018 val
  if !bitOf val 0 then s
  else
    let ks := (List.range 8).filter fun k => s.isLender k && s.get (TIER_GNT_A.STATE k) == 1
    let s := if ks.isEmpty then s else s.put TIER_RECLAIM.BUSY 1
    s.each ks fun s k => (s.put (TIER_GNT_A.STATE k) 2).send 3 0x0401 (s.grantPeer k) (s.grantMsg k)

def execReclaimStart (src : Source) (val : W64) (s : State) : Host.Outcome State Fault Refusal :=
  .next (s.ctlWrite src 0x90018 2 val fun s => s.reclaimWrite val)

def execReclaim (h : MsgHdr) (base len : W64) (ltier : Bool) (s : State) : Host.Outcome State Fault Refusal :=
  match s.grantOf false h base len ltier with
  | none => .next s
  | some k =>
    if s.get (TIER_GNT_A.STATE k) ≠ 1 then .next s
    else
      let s := (s.put (TIER_GNT_A.STATE k) 2).put TIER_ERR.RECLAIM 1
      .next (((s.partReads (s.homeOff 0) (32 * s.homeCount) false).reclaimPump).grantsRelease)

def execReleased (h : MsgHdr) (base len : W64) (ltier : Bool) (s : State) : Host.Outcome State Fault Refusal :=
  match s.grantOf true h base len ltier with
  | none => .next s
  | some k => .next (if s.get (TIER_GNT_A.STATE k) = 3 then s else s.grantRevoke k)

def execReclaimTimeout (s : State) : Host.Outcome State Fault Refusal :=
  if !s.flag TIER_RECLAIM.BUSY then .next s
  else
    let ks := (List.range 8).filter fun k => s.isLender k && s.get (TIER_GNT_A.STATE k) != 3
    .next ((s.each ks fun s k => (s.send 3 0x0403 (s.grantPeer k) (s.grantMsg k)).grantRevoke k).put TIER_RECLAIM.BUSY 0)

/-- Borrower grant `k` is revoked (R326): its homes are LOST, and the moves into it end. -/
def State.grantLost (s : State) (k : Nat) : State :=
  let lost := s.homes fun i => s.inGrant k (s.homeAddr i)
  let moves := s.harrow.streams.filter fun t => streamOp t.desc == 2 && t.started && !t.flipped && t.cause == 0 &&
    !t.cancelled && lost.contains (streamHome t.desc)
  let s := s.partReads (s.homeOff 0) (32 * s.homeCount) false
  let s := s.each moves fun s t => (s.moveUndo t).streamFail t 5 8 (streamDst t.desc)
  let ms := s.harrow.reclaims.filter fun m => m.grant == k
  let s := s.each ms fun s m => if m.started then (s.homeFlag m.index 1 0).dropRange .moving (s.homeAddr m.index) else s
  let s := { s with harrow := { s.harrow with reclaims := s.harrow.reclaims.filter fun m => m.grant != k } }
  let s := s.each lost fun s i => s.homeFlag i 2 1
  ((s.put (TIER_GNT_A.STATE k) 3).put TIER_ERR.LOST 1).harrowStatus

def execRevoked (h : MsgHdr) (base len : W64) (ltier : Bool) (s : State) : Host.Outcome State Fault Refusal :=
  .next (match s.grantOf false h base len ltier with
    | none => s
    | some k => s.grantLost k)

/-! ### Counters and patrol (R341, R465, R468) -/

def execTopsoilCntClr (src : Source) (s : State) : Host.Outcome State Fault Refusal :=
  .next (s.ctlWrite src 0xA0008 1 1 fun s =>
    s.each (List.range 4) fun s k => (s.put (TOPSOIL_CE.CE k) 0).put (TOPSOIL_LINES.LINES k) 0)

def execSubsoilCntClr (src : Source) (s : State) : Host.Outcome State Fault Refusal :=
  .next (s.ctlWrite src 0xB0010 1 1 fun s => (s.put SUBSOIL_CE.CE 0).put SUBSOIL_LINES.LINES 0)

/-- The write of SUBSOIL_CFG (R341, R572). -/
def State.subsoilCfg (s : State) (val : W64) : State :=
  let gb := bitsOf val 8 6
  if s.flag SUBSOIL_STATUS.READY ∨ bitsOf val 0 2 = 3 ∨ bitsOf val 16 2 = 3 ∨ gb = 0 ∨ 32 < gb then s
  else (((s.put SUBSOIL_CFG.STRIPE (bitsOf val 0 2)).put SUBSOIL_CFG.NCH (bitsOf val 2 1)).put SUBSOIL_CFG.CH_GB gb).put
    SUBSOIL_CFG.RATE (bitsOf val 16 2)

def execSubsoilCfgWrite (src : Source) (val : W64) (s : State) : Host.Outcome State Fault Refusal :=
  .next (s.ctlWrite src 0xB0000 1 val fun s => s.subsoilCfg val)

/-- The global fabric address of line `l` of a tier. -/
def State.lineAddr (s : State) (t : Tier) (l : Nat) : Nat :=
  s.gaddr (match t with | .seedbed => 0 | .topsoil => 1 | .subsoil => 2) (64 * l)

def execPatrolRead (t : Tier) (line : Nat) (code : CodeResult) (writtenSince : Bool) (s : State) :
    Host.Outcome State Fault Refusal :=
  let a := s.lineAddr t line
  let inside := match s.locate a with
    | .seedbed _ => true
    | .top _ => true
    | .sub _ => true
    | _ => false
  if !inside || line * 64 ≥ 2 ^ 42 then .next s
  else match code, t with
    | .one _, .seedbed => .next s
    | .two, .seedbed => .next s
    | .one _, _ => .next (s.countCe a)
    | .two, _ => .next (s.countCe a)
    | .ue, .seedbed =>
      let plot := 64 * line / 2 ^ 21
      .next ((s.spoil a).errlog { cls := 4, block := 0x20 + plot / 16, plot := plot, addr := a, nbits := 7, unrecovered := true })
    | .ue, .topsoil => .next (if writtenSince then s else (s.spoil a).lineError false false line)
    | .ue, .subsoil => .next (if writtenSince then s else (s.spoil a).lineError true false line)
    | _, _ => .next s

end Sys2Proof.Machine
end

