-- ==== Sys2Proof/Machine/Serve.lean ====
section
/-!
DEFINITION. The SERVE block (R276 to R308): slots, plans, admission, pages, results, and the Sheaf.
-/
namespace Sys2Proof.Machine

/-! ### Slots and their records (R277 to R279) -/

def slotFree : Nat := 0
def slotQueued : Nat := 1
def slotActive : Nat := 2
def slotPausing : Nat := 3
def slotPaused : Nat := 4
def slotResuming : Nat := 5
def slotEnded : Nat := 6

def State.slot (s : State) (i : Nat) : SlotSt := KMap.get (fun _ => SlotSt.free) s.serve.slots i

/-- An offset of the SERVE area. -/
def State.areaOff (s : State) (o : Nat) : Nat := 4096 * s.get SERVE_AREA.BASE + o

/-- Replaces what the part knows of a slot. -/
def State.knowSlot (s : State) (i : Nat) (v : SlotSt) : State :=
  { s with serve := { s.serve with slots := KMap.set (fun _ => SlotSt.free) s.serve.slots i v } }

/-- The offset of entry `k` of a slot's page table (R291). -/
def State.ptabOff (s : State) (i k : Nat) : Nat :=
  4096 * s.get SERVE_PTAB.BASE + 8 * (i * s.get SERVE_PTAB.MAXPAGES + k)

/-- The Topsoil offset of a row table of a step (R293). -/
def State.rowTabOff (s : State) (step : Nat) (mb : Bool) (row : Nat) : Nat :=
  let mp := s.get SERVE_PTAB.MAXPAGES
  4096 * s.get SERVE_ROWTAB.BASE + step % 2 * (1024 * 8 * (mp + 1)) + (512 * bit mb + row) * (8 * (mp + 1))

def State.pageEntry (s : State) (i k : Nat) : W64 := s.topWord (s.ptabOff i k)

/-- The valid entries of a page table in a tier (1 Topsoil, 2 Subsoil): page index and byte offset. -/
def State.pagesIn (s : State) (i tier : Nat) : List (Nat × Nat) :=
  (List.range (s.get SERVE_PTAB.MAXPAGES)).filterMap fun k =>
    let e := s.pageEntry i k
    if bitOf e 63 && bitsOf e 42 2 == tier then some (k, bitsOf e 0 42) else none

/-- Whether a slot is stalled in a planned step. -/
def State.slotStalled (s : State) (i : Nat) : Bool :=
  [s.serve.planNow, s.serve.planNext, s.serve.planNew].any fun p => p.any fun e => e.slot == i && e.stalled

/-- Words 0 to 3 of a slot record (R278). -/
def State.slotWords (s : State) (i : Nat) (v : SlotSt) : List Nat :=
  if v.st = slotFree then [0, 0, 0, 0]
  else
    [v.st + v.prio * 2 ^ 3 + v.cls * 2 ^ 5 + bit v.mb * 2 ^ 9 + v.row * 2 ^ 10 + bit v.cancelled * 2 ^ 19 + v.ending * 2 ^ 20 +
      bit (s.slotStalled i) * 2 ^ 22 + bit v.resumePend * 2 ^ 23 + v.reqTag * 2 ^ 32,
     v.len + v.limit * 2 ^ 32,
     (s.pagesIn i 1).length % 65536 + (s.pagesIn i 2).length % 65536 * 2 ^ 16 + v.stepPos * 2 ^ 32, v.admSeq]

/-- Changes a slot and writes its record. -/
def State.setSlot (s : State) (i : Nat) (v : SlotSt) : State :=
  let s := s.knowSlot i v
  s.topWrite (s.areaOff (64 * i)) (wordBytes (s.slotWords i v))

/-- The slots of a state, ascending. -/
def State.slotsIn (s : State) (sts : List Nat) : List Nat :=
  (s.serve.slots.filter fun e => sts.contains e.2.st).map (·.1)

/-! ### Plans (R280, R281) -/

def State.planStep (s : State) : Nat := s.get STEP_NUM.STEP + 2

/-- The plan map of a plan. -/
def mapWords (p : List PlanEntry) : List Nat :=
  (List.range 16).map fun w => (p.filter fun e => bit e.mb == w / 8 && e.row / 64 == w % 8).foldl (fun a e => a ||| 2 ^ (e.row % 64)) 0

/-- Writes the plan map of step `step`. -/
def State.writeMap (s : State) (step : Nat) (p : List PlanEntry) : State :=
  s.topWrite (s.areaOff (0x10000 + 0x80 * (step % 4))) (wordBytes (mapWords p))

/-- Changes the open plan. -/
def State.setPlanNew (s : State) (p : List PlanEntry) : State :=
  let s := { s with serve := { s.serve with planNew := p } }
  s.writeMap s.planStep p

/-- The lowest free row of a micro-batch (R284). -/
def freeRow (p : List PlanEntry) (mb : Bool) : Option Nat :=
  (List.range 512).find? fun r => !(p.any fun e => e.mb == mb && e.row == r)

/-- The micro-batch in which a slot is placed (R284). -/
def chooseMb (p : List PlanEntry) (force : Option Bool) : Bool :=
  match force with
  | some b => b
  | none => decide ((p.filter fun e => e.mb).length < (p.filter fun e => !e.mb).length)

/-- Positions that a slot writes in the planned steps of a list of plans. -/
def posIn3 (ps : List (List PlanEntry)) (i : Nat) : Nat :=
  ps.foldl (fun a p => a + (p.filter fun e => e.slot == i).foldl (fun a e => a + e.stepPos) 0) 0

/-- c of one slot, when the open plan were `p` (R285). -/
def State.slotCtx (s : State) (p : List PlanEntry) (i : Nat) : Nat :=
  (s.slot i).len + posIn3 [s.serve.planNow, s.serve.planNext, p] i

/-- The predicted time of `n` slots with context `c`; `none` when it is unbounded (R285). -/
def State.predict (s : State) (n c : Nat) : Option Nat :=
  let top := (s.lit.steptimes.map (·.bucket)).foldl max 0
  let ws := (s.lit.steptimes.filter fun r => r.bucket == top && decide (n ≤ r.requests ∧ c ≤ r.context)).map (·.wcst)
  match ws with
  | [] => none
  | w :: rest => some (rest.foldl min w)

/-- SERVE_TGT of a priority, in Field cycles; 0 is no limit. -/
def State.target (s : State) (prio : Nat) : Nat := 256 * bitsOf (s.reg 0x100040) (16 * prio) 16

/-- The smallest target among priorities. -/
def State.minTarget (s : State) (prios : List Nat) : Option Nat :=
  match (prios.map s.target).filter (· ≠ 0) with
  | [] => none
  | t :: rest => some (rest.foldl min t)

def withinTarget (pred limit : Option Nat) : Bool :=
  match limit, pred with
  | none, _ => true
  | some _, none => false
  | some l, some w => decide (w ≤ l)

/-- The time condition of R286 for an open plan. -/
def State.timeOk (s : State) (p : List PlanEntry) : Bool :=
  withinTarget (s.predict p.length ((p.map fun e => s.slotCtx p e.slot).foldl max 0))
    (s.minTarget (p.map fun e => (s.slot e.slot).prio))

def State.pageUnits (s : State) : Nat := s.get SERVE_POOLCFG.PAGE_UNITS

/-- The quota condition of R286. -/
def State.quotaOk (s : State) (p : List PlanEntry) (i : Nat) : Bool :=
  let extra := cdiv (s.slotCtx p i) 128 - (s.pagesIn i 1).length
  s.chargeFits true (s.slot i).cls (extra * s.pageUnits) && decide (extra ≤ s.serve.poolFree.length)

/-- The same tests in a plan that holds no other slot, with nothing else charged or allocated (R286). -/
def State.aloneOk (s : State) (p : List PlanEntry) (i : Nat) : Bool :=
  let v := s.slot i
  let c := s.slotCtx p i
  let n := cdiv c 128
  withinTarget (s.predict 1 c) (s.minTarget [v.prio]) &&
    decide (n * s.pageUnits ≤ s.get (TIER_QT.LIMIT v.cls) ∧ n * s.pageUnits ≤ s.get TIER_QJOB_T.LIMIT ∧
      n ≤ s.get SERVE_POOLCFG.PAGES)

/-! ### Outcomes -/

def reasonQuota : Nat := 1
def reasonTime : Nat := 2
def reasonRow : Nat := 3
def reasonLimit : Nat := 4

/-- SERVE_CMDRES (R307). -/
def State.serveResult (s : State) (src : Source) (outcome reason paused : Nat) : State :=
  s.setResult 0x100058 src
    (BitVec.ofNat 64 (1 + outcome * 2 + reason * 2 ^ 4 + paused * 2 ^ 8 + s.planStep % 2 ^ 32 * 2 ^ 32))

/-! ### Pages (R290, R291) -/

def State.pageSize (s : State) : Nat := 65536 * s.pageUnits
def State.poolOff (s : State) (page : Nat) : Nat := 4096 * s.get SERVE_POOL.BASE + page * s.pageSize
def State.pageOfOff (s : State) (off : Nat) : Nat := (off - 4096 * s.get SERVE_POOL.BASE) / s.pageSize
def State.spoolOff (s : State) (page : Nat) : Nat := 4096 * s.get TIER_SPOOL.BASE + page * s.pageSize

/-- FREE as the pool stands. -/
def State.poolCount (s : State) : State := s.put SERVE_POOLCFG.FREE s.serve.poolFree.length

/-- A Topsoil page returns to the pool, which zeroes it first. -/
def State.pageReturn (s : State) (page : Nat) : State :=
  { s with serve := { s.serve with poolDirty := s.serve.poolDirty ++ [page] } }

/-- Frees page `k` of a slot, in whichever tier it lies: its charge is released and its entry cleared (R291, R320). -/
def State.pageFree (s : State) (i k : Nat) : State :=
  let e := s.pageEntry i k
  let off := bitsOf e 0 42
  if !bitOf e 63 then s
  else
    let top := bitsOf e 42 2 == 1
    let s := (s.topPutWord (s.ptabOff i k) 0).chargeSub top (s.slot i).cls s.pageUnits
    if top then s.pageReturn (s.pageOfOff off)
    else { s with serve := { s.serve with subUsed := s.serve.subUsed.filter fun p => s.spoolOff p != off } }

/-- Allocates Topsoil pages up to what a slot wants, as the pool, the quota and the page table allow (R291). -/
def State.pageAlloc (s : State) (i : Nat) : Nat → State
  | 0 => s
  | n + 1 =>
    let v := s.slot i
    let k := (s.pagesIn i 1).length
    match s.serve.poolFree with
    | [] => s
    | page :: rest =>
      if v.want ≤ k ∨ s.get SERVE_PTAB.MAXPAGES ≤ k then s
      else if !s.chargeFits true v.cls s.pageUnits then s.put TIER_ERR.QUOTA 1
      else
        let s := { s with serve := { s.serve with poolFree := rest } }
        let s := (s.chargeAdd true v.cls s.pageUnits).topPutWord (s.ptabOff i k) (s.poolOff page + 2 ^ 42 + 2 ^ 63)
        s.pageAlloc i n

/-- Starts the next page move of a PAUSING or RESUMING slot: source charged in its new tier and listed (R294, R295). -/
def State.pageMoveStart (s : State) (i : Nat) : State :=
  let v := s.slot i
  if v.move.isSome ∨ 64 ≤ s.harrow.ranges.length then s
  else if v.st = slotPausing then
    match s.pagesIn i 1, (List.range (s.get TIER_SPOOL.PAGES)).find? fun p => !s.serve.subUsed.contains p &&
        !(s.harrow.ranges.any fun r => r.addr == s.gaddr 2 (s.spoolOff p)) with
    | (k, off) :: _, some p =>
      if s.chargeFits false v.cls s.pageUnits then
        let s := (s.chargeAdd false v.cls s.pageUnits).subZero (s.spoolOff p) s.pageSize
        let s := { s with serve := { s.serve with subUsed := s.serve.subUsed ++ [p] } }
        (s.addRange .moving (s.gaddr 1 off) s.pageSize).setSlot i
          { v with move := some ⟨k, true, s.gaddr 1 off, s.gaddr 2 (s.spoolOff p)⟩ }
      else s.put TIER_ERR.QUOTA 1
    | _, _ => s
  else if v.st = slotResuming then
    match s.pagesIn i 2, s.serve.poolFree with
    | (k, off) :: _, page :: rest =>
      if s.chargeFits true v.cls s.pageUnits then
        let s := { s.chargeAdd true v.cls s.pageUnits with serve := { s.serve with poolFree := rest } }
        (s.addRange .moving (s.gaddr 2 off) s.pageSize).setSlot i
          { v with move := some ⟨k, false, s.gaddr 2 off, s.gaddr 1 (s.poolOff page)⟩ }
      else s.put TIER_ERR.QUOTA 1
    | _, _ => s
  else s

/-- Frees every page of an ended slot with no move in flight, and completes its RELEASE (R283, R291). -/
def State.slotRelease (s : State) (i : Nat) : State :=
  let v := s.slot i
  if v.st = slotEnded ∧ v.freeIn = some 0 ∧ v.move.isNone then
    let s := s.each (List.range (s.get SERVE_PTAB.MAXPAGES)) fun s k => s.pageFree i k
    s.setSlot i (if v.releasing then SlotSt.free else { v with freeIn := none })
  else s

/-- Everything that pages and charges allow now: allocations, page moves, states that follow from them. -/
def State.pagePump (s : State) : State :=
  let s := s.each (s.slotsIn [slotActive]) fun s i => s.pageAlloc i (s.get SERVE_PTAB.MAXPAGES)
  let s := s.each (s.slotsIn [slotPausing, slotResuming]) fun s i =>
    let v := s.slot i
    if v.st = slotPausing ∧ v.move.isNone ∧ (s.pagesIn i 1).isEmpty then s.setSlot i { v with st := slotPaused }
    else s.pageMoveStart i
  let s := s.each (s.slotsIn [slotEnded]) fun s i => s.slotRelease i
  (s.each (s.serve.slots.map (·.1)) fun s i => s.setSlot i (s.slot i)).poolCount.harrowStatus

/-! ### Leaving and joining plans -/

/-- The planning-step entry of a slot. -/
def State.inNew (s : State) (i : Nat) : Bool := s.serve.planNew.any fun e => e.slot == i

/-- Adds a slot to the open plan, when its micro-batch has a free row (R284). -/
def State.join (s : State) (i : Nat) : Option State :=
  let v := s.slot i
  let p := s.serve.planNew
  let mb := chooseMb p v.mbForce
  match freeRow p mb with
  | none => none
  | some r =>
    let s := s.setPlanNew (p ++ [⟨i, mb, r, v.stepPos, false, false⟩])
    some (s.setSlot i { v with st := slotActive, mb := mb, row := r, leaving := false })

/-- What becomes of a slot that a PAUSE took out of the plans, once its last planned step has committed: PAUSING, or with
CANCELLED set ENDED with END 11 (R283, R294, R296). -/
def SlotSt.left (v : SlotSt) : SlotSt :=
  if v.cancelled then { v with st := slotEnded, ending := 3, freeIn := some 0 } else { v with st := slotPausing }

/-- Whether a step that is planned holds the slot. -/
def State.planned (s : State) (i : Nat) : Bool := (s.serve.planNow ++ s.serve.planNext).any fun e => e.slot == i

/-- A slot leaves the open plan; with no planned step left it goes on at once (R294). -/
def State.leave (s : State) (i : Nat) : State :=
  let v := { s.slot i with leaving := true }
  (s.setPlanNew (s.serve.planNew.filter fun e => e.slot != i)).setSlot i (if s.planned i then v else v.left)

/-- Whether PAUSE of a slot would find Subsoil quota (R283). -/
def State.pauseFits (s : State) (i : Nat) : Bool :=
  s.chargeFits false (s.slot i).cls ((s.pagesIn i 1).length * s.pageUnits)

/-- Candidates of R287 in order: PRIO 3 before 2, the highest ADM_SEQ first. -/
def State.pauseCandidates (s : State) (prio : Nat) : List Nat :=
  let ok (p : Nat) : List Nat := (s.serve.planNew.map (·.slot)).filter fun i =>
    let v := s.slot i
    decide (v.st = slotActive ∧ v.prio = p ∧ prio < p) && !v.cancelled && s.pauseFits i
  let order (l : List Nat) : List Nat := l.foldl (fun acc i =>
    let a := (s.slot i).admSeq
    (acc.filter fun j => decide (a < (s.slot j).admSeq)) ++ [i] ++ acc.filter fun j => !decide (a < (s.slot j).admSeq)) []
  order (ok 3) ++ order (ok 2)

/-- The slots to pause, in order, until the time condition holds with slot `i` in the plan (R287). -/
def State.pauseUntil (s : State) (i : Nat) (p : List PlanEntry) : List Nat → List Nat → Option (List Nat)
  | done, [] => if s.timeOk p then some done else none
  | done, c :: cs =>
    if s.timeOk p then some done
    else s.pauseUntil i (p.filter fun e => e.slot != c) (done ++ [c]) cs

/-- The open plan with slot `i` added, in any row, for the tests of R286. -/
def State.planWith (s : State) (i : Nat) : List PlanEntry :=
  (s.serve.planNew.filter fun e => e.slot != i) ++ [⟨i, false, 0, (s.slot i).stepPos, false, false⟩]

/-- Why a slot cannot join the open plan now: `none` when it passes R286. -/
def State.admitReason (s : State) (i : Nat) : Option Nat :=
  let p := s.planWith i
  if !s.quotaOk p i then some reasonQuota
  else if !s.timeOk p then some reasonTime
  else none

/-! ### Commands (R282, R283) -/

/-- The read of a slot's request words (R278). -/
def State.readRequest (s : State) (i : Nat) : State := s.partReads (s.areaOff (64 * i + 32)) 32 false

/-- The slot that ADMIT makes of the request words (R278). -/
def State.requestOf (s : State) (i : Nat) : SlotSt :=
  let w := s.topWords (s.areaOff (64 * i + 32)) 4
  { SlotSt.free with
    prio := bitsOf (w.getD 0 0) 32 2, cls := bitsOf (w.getD 0 0) 34 4, reqTag := bitsOf (w.getD 0 0) 0 32,
    mbForce := if bitOf (w.getD 0 0) 38 then some (bitOf (w.getD 0 0) 39) else none,
    limit := bitsOf (w.getD 1 0) 0 32, stepPos := bitsOf (w.getD 2 0) 0 14 }

def State.requestBad (s : State) (i : Nat) : Bool :=
  let w := s.topWords (s.areaOff (64 * i + 32)) 4
  let sp := bitsOf (w.getD 2 0) 0 14
  bitsOf (w.getD 0 0) 40 24 != 0 || bitsOf (w.getD 1 0) 32 32 != 0 || bitsOf (w.getD 2 0) 14 50 != 0 || w.getD 3 0 != 0 ||
    decide (sp = 0 ∨ 8192 < sp ∨ bitsOf (w.getD 1 0) 0 32 < sp)

/-- Accepts a slot into the open plan with the next ADM_SEQ, `fail` when no row is free. -/
def State.acceptAdm (s : State) (i : Nat) (fail : State) : State × Bool :=
  let n := s.serve.nextAdm
  match (s.knowSlot i { s.slot i with admSeq := n }).join i with
  | some t => ({ t with serve := { t.serve with nextAdm := n + 1 } }, true)
  | none => (fail, false)

/-- ADMIT of a FREE slot (R283 to R287). -/
def State.admitFree (s : State) (src : Source) (i : Nat) (mayPause : Bool) : State :=
  if s.requestBad i then s.serveResult src 2 reasonLimit 0
  else
    let v := { s.requestOf i with cmdSeq := s.serve.nextCmd }
    let k := { s.knowSlot i v with serve := { (s.knowSlot i v).serve with nextCmd := s.serve.nextCmd + 1 } }
    let defer (r : Nat) : State := (k.setSlot i { v with st := slotQueued }).serveResult src 1 r 0
    let refuseOr (r : Nat) : State := if k.aloneOk (k.planWith i) i then defer r else s.serveResult src 2 r 0
    match k.admitReason i with
    | none =>
      let r := k.acceptAdm i k
      if r.2 then r.1.serveResult src 0 0 0 else defer reasonRow
    | some r =>
      if r = reasonTime ∧ mayPause ∧ k.aloneOk (k.planWith i) i then
        match k.pauseUntil i (k.planWith i) [] (k.pauseCandidates v.prio) with
        | none => defer reasonTime
        | some ps =>
          let r := (k.each ps State.leave).acceptAdm i k
          if r.2 then r.1.pagePump.serveResult src 0 0 ps.length else defer reasonRow
      else refuseOr r

def State.admitSlot (s : State) (src : Source) (i : Nat) (mayPause : Bool) : State :=
  if (s.slot i).st ≠ slotFree then s.serveResult src 3 0 0 else (s.readRequest i).admitFree src i mayPause

def State.cancel (s : State) (src : Source) (i : Nat) : State :=
  let v := s.slot i
  if v.st = slotQueued then (s.setSlot i SlotSt.free).serveResult src 0 0 0
  else if v.st = slotActive ∨ v.st = slotResuming then (s.setSlot i { v with cancelled := true }).serveResult src 0 0 0
  else if v.st = slotPausing ∨ v.st = slotPaused then
    ((s.setSlot i { v with st := slotEnded, ending := 3, resumePend := false, freeIn := some 0 }).pagePump).serveResult src 0 0 0
  else s.serveResult src 3 0 0

def State.pause (s : State) (src : Source) (i : Nat) : State :=
  let v := s.slot i
  if v.st = slotActive ∧ 2 ≤ v.prio then
    if s.pauseFits i then (s.leave i).pagePump.serveResult src 0 0 0 else s.serveResult src 2 reasonQuota 0
  else s.serveResult src 3 0 0

/-- Topsoil quota for every page of a paused slot (R283, R295). -/
def State.resumeFits (s : State) (i : Nat) : Bool :=
  s.chargeFits true (s.slot i).cls ((s.pagesIn i 2).length * s.pageUnits)

def State.resume (s : State) (src : Source) (i : Nat) : State :=
  let v := { s.slot i with cmdSeq := s.serve.nextCmd }
  let s' := { s with serve := { s.serve with nextCmd := s.serve.nextCmd + 1 } }
  if v.st = slotPausing ∨ v.st = slotPaused then
    if s.resumeFits i then
      ((s'.setSlot i { v with st := slotResuming, resumePend := false }).pagePump).serveResult src 0 0 0
    else (s'.setSlot i { v with resumePend := true }).serveResult src 1 reasonQuota 0
  else s.serveResult src 3 0 0

def State.setpos (s : State) (src : Source) (i arg : Nat) : State :=
  let v := s.slot i
  if v.st ≠ slotActive then s.serveResult src 3 0 0
  else if arg = 0 ∨ 8192 < arg ∨ v.limit < arg then s.serveResult src 2 reasonLimit 0
  else
    let p := s.serve.planNew.map fun e => if e.slot = i then { e with stepPos := arg } else e
    let k := s.knowSlot i { v with stepPos := arg }
    let done : State := ((s.setPlanNew p).setSlot i { v with stepPos := arg }).serveResult src 0 0 0
    if arg ≤ v.stepPos then done
    else if !k.quotaOk p i then s.serveResult src 2 reasonQuota 0
    else if !k.timeOk p then s.serveResult src 2 reasonTime 0
    else done

def State.release (s : State) (src : Source) (i : Nat) : State :=
  let v := s.slot i
  if v.st ≠ slotEnded then s.serveResult src 3 0 0
  else
    match v.freeIn with
    | none => (s.setSlot i SlotSt.free).serveResult src 0 0 0
    | some _ => ((s.setSlot i { v with releasing := true }).pagePump).serveResult src 0 0 0

/-- A SERVE command acts (R283). -/
def State.serveRun (s : State) (c : ServeCmd) : State :=
  match c.op with
  | 1 => s.admitSlot c.src c.slot c.mayPause
  | 2 => s.cancel c.src c.slot
  | 3 => s.pause c.src c.slot
  | 4 => s.resume c.src c.slot
  | 5 => s.setpos c.src c.slot c.arg
  | 6 => s.release c.src c.slot
  | _ => s.serveResult c.src 3 0 0

/-- The part's work at a step boundary is under way: between COMMIT and the issue of the next step (R238, R282). -/
def State.boundaryWork (s : State) : Bool := s.stepState == stepBoundary && s.sched.committed

/-- SERVE_CMD takes a command: ignored while EN is 0; one that arrives during the work at a boundary waits for its end, and
until then DONE reads 0 (R282). -/
def State.serveTake (s : State) (c : ServeCmd) : State :=
  if !s.flag SERVE_CTRL.EN then s
  else if s.boundaryWork then
    State.setResult { s with serve := { s.serve with held := s.serve.held ++ [c] } } 0x100058 c.src 0
  else s.serveRun c

/-- The commands that waited run in order of arrival (R282). -/
def State.serveHeld (s : State) : State :=
  State.each { s with serve := { s.serve with held := [] } } s.serve.held State.serveRun

/-- The word of SERVE_CMD that gives a command (R307). -/
def ServeCmd.word (c : ServeCmd) : W64 := BitVec.ofNat 64 (c.op + 16 * c.slot + 2 ^ 14 * bit c.mayPause + 2 ^ 16 * c.arg)

/-- A write of SERVE_CMD. -/
def State.serveCmd (s : State) (c : ServeCmd) : State := s.ctlWrite c.src 0x100050 1 c.word fun s => s.serveTake c

def execAdmitSlot (src : Source) (slot : BitVec 10) (mayPause : Bool) (s : State) : Host.Outcome State Fault Refusal :=
  .next (s.serveCmd ⟨src, 1, slot.toNat, mayPause, 0⟩)
def execCancel (src : Source) (slot : BitVec 10) (s : State) : Host.Outcome State Fault Refusal :=
  .next (s.serveCmd ⟨src, 2, slot.toNat, false, 0⟩)
def execPause (src : Source) (slot : BitVec 10) (s : State) : Host.Outcome State Fault Refusal :=
  .next (s.serveCmd ⟨src, 3, slot.toNat, false, 0⟩)
def execResume (src : Source) (slot : BitVec 10) (s : State) : Host.Outcome State Fault Refusal :=
  .next (s.serveCmd ⟨src, 4, slot.toNat, false, 0⟩)
def execSetpos (src : Source) (slot : BitVec 10) (arg : BitVec 14) (s : State) : Host.Outcome State Fault Refusal :=
  .next (s.serveCmd ⟨src, 5, slot.toNat, false, arg.toNat⟩)
def execRelease (src : Source) (slot : BitVec 10) (s : State) : Host.Outcome State Fault Refusal :=
  .next (s.serveCmd ⟨src, 6, slot.toNat, false, 0⟩)

/-! ### Page moves and zeroing -/

def execPageMoveComplete (slot : BitVec 10) (page : BitVec 12) (s : State) : Host.Outcome State Fault Refusal :=
  let i := slot.toNat
  let v := s.slot i
  match v.move with
  | none => .next s
  | some m =>
    if m.page ≠ page.toNat ∨ s.writeWaits m.dst s.pageSize then .next s
    else
      let bs := s.peek m.src s.pageSize
      let s := ((s.touch m.src s.pageSize).readErrors m.src s.pageSize false).1
      let s := s.pokeAt m.dst bs
      let s := s.topPutWord (s.ptabOff i m.page) (m.dst % 2 ^ 44 + 2 ^ 63)
      let s := (s.chargeSub m.toSub v.cls s.pageUnits).dropRange .moving m.src
      let s := s.addRange .vacated m.src s.pageSize
      let s := if m.toSub then s.pageReturn (s.pageOfOff (m.src % 2 ^ 42))
        else { s with serve := { s.serve with subUsed := s.serve.subUsed.filter fun p => s.gaddr 2 (s.spoolOff p) != m.src } }
      .next ((s.setSlot i { v with move := none }).pagePump.reclaimPump)

def execPoolPageZeroed (page : BitVec 16) (s : State) : Host.Outcome State Fault Refusal :=
  let p := page.toNat
  if !s.serve.poolDirty.contains p ∨ s.wardHolds (s.poolOff p) s.pageSize then .next s
  else
    let s := (s.topZero (s.poolOff p) s.pageSize).dropRange .vacated (s.gaddr 1 (s.poolOff p))
    let s := { s with serve := { s.serve with poolDirty := s.serve.poolDirty.erase p, poolFree := s.serve.poolFree ++ [p] } }
    .next (s.pagePump.reclaimPump)

/-! ### Results and compaction (R297 to R301) -/

/-- The parents of a tree area (R146, R300). -/
def treeParents (bs : List Byte) : List Int := (List.range 256).map fun i => sext 32 (leNat ((bs.drop (4 * i)).take 4))

/-- Node count: the index of the first −2, or 256 (R146). -/
def treeCount (p : List Int) : Nat := (p.findIdx? fun x => x == -2).getD 256

/-- Depths of the nodes; 0 for a detached node (R147). -/
def treeDepths (p : List Int) (n : Nat) : List Nat :=
  (List.range n).foldl (fun (ds : List Nat) i =>
    let q := p.getD i (-1)
    ds ++ [if i = 0 then (if q = -1 then 1 else 0)
      else if q < 0 ∨ (i : Int) ≤ q then 0
      else
        let d := ds.getD q.toNat 0
        if d = 0 ∨ 32 ≤ d then 0 else d + 1]) []

/-- How many leading elements of a path pass the checks of R300. -/
def pathLen (p : List Int) (depths : List Nat) (n : Nat) (path : List Nat) : Nat :=
  let ok (d : Nat) : Bool :=
    let i := path.getD d 0
    if d = 0 then i == 0 && depths.getD 0 0 != 0
    else decide (i < n) && depths.getD i 0 != 0 && p.getD i (-1) == (path.getD (d - 1) 0 : Int)
  ((List.range path.length).takeWhile ok).length

/-- The Topsoil offset of run `k` of a position of a slot (R290). -/
def State.runOff (s : State) (i t k : Nat) : Nat :=
  bitsOf (s.pageEntry i (t / 128)) 0 42 + k * s.get SERVE_KVL.RUN_STRIDE + t % 128 * s.get SERVE_KVL.RUN_BYTES

/-- Moves every run of position `a` to position `b` (R301). -/
def State.moveRuns (s : State) (i a b : Nat) : State :=
  s.each (List.range (s.get SERVE_KVL.RUNS)) fun s k =>
    let n := s.get SERVE_KVL.RUN_BYTES
    let src := s.gaddr 1 (s.runOff i a k)
    let bs := s.peek src n
    (((s.touch src n).readErrors src n true).1).topWrite (s.runOff i b k) bs

def State.zeroRuns (s : State) (i t : Nat) : State :=
  s.each (List.range (s.get SERVE_KVL.RUNS)) fun s k => s.topZero (s.runOff i t k) (s.get SERVE_KVL.RUN_BYTES)

def State.addResult (s : State) (r : ResultSt) : State := { s with serve := { s.serve with results := s.serve.results ++ [r] } }

/-- What the record of a planned row says (R299 to R301): the result, and for an accepted path the path, the count
kept and the node count. -/
def State.rowRead (s : State) (e : PlanEntry) : ResultSt × Option (List Nat × Nat × Nat) :=
  let v := s.slot e.slot
  let step := s.get STEP_NUM.STEP
  let w := s.topWords (s.areaOff (0x20000 + 0x100 * (512 * bit e.mb + e.row))) 32
  let w0 := w.getD 0 0
  let spec := bitOf w0 1
  let ntok := bitsOf w0 3 6
  let adv := bitsOf w0 9 14
  let path := (List.range ntok).map fun d => bitsOf (w.getD (1 + d / 8) 0) (8 * (d % 8)) 8
  let tokens := (List.range ntok).map fun k => bitsOf (w.getD (16 + k / 2) 0) (32 * (k % 2)) 32
  let tree := treeParents (s.topPeek (s.areaOff (0x60000 + 0x800 * (2 * e.slot + step % 2))) 1024)
  let n := treeCount tree
  let bad := !bitOf w0 0 || bitsOf w0 32 32 != step % 2 ^ 32 || decide (32 < ntok ∨ e.stepPos < adv) ||
    spec && (adv != ntok || n != e.stepPos)
  if bad then (⟨e.slot, 0, [], false, true, false⟩, none)
  else if !spec then (⟨e.slot, min adv (v.limit - v.len), tokens, bitOf w0 2, false, false⟩, none)
  else
    let a0 := pathLen tree (treeDepths tree n) n path
    let a := min a0 (v.limit - v.len)
    (⟨e.slot, a, tokens.take a, bitOf w0 2, false, decide (a0 < path.length)⟩, some (path, a, n))

/-- Checks one record of a planned, unstalled, live row, and compacts its path (R299 to R301). -/
def State.checkRow (s : State) (e : PlanEntry) : State :=
  let v := s.slot e.slot
  let off := s.areaOff (0x20000 + 0x100 * (512 * bit e.mb + e.row))
  let s := s.partReads off 256 true
  let r := s.rowRead e
  let s := if r.2.isSome then s.partReads (s.areaOff (0x60000 + 0x800 * (2 * e.slot + s.get STEP_NUM.STEP % 2))) 2048 true else s
  let s := if r.1.bad then s.put SERVE_ERR.RES_BAD 1 else s
  let s := if r.1.cut then s.put SERVE_ERR.SPEC_CUT 1 else s
  let s := match r.2 with
    | none => s
    | some (path, a, n) =>
      let s := s.each ((List.range a).drop 1) fun s d =>
        if path.getD d 0 = d then s else s.moveRuns e.slot (v.len + path.getD d 0) (v.len + d)
      s.each ((List.range n).drop a) fun s t => s.zeroRuns e.slot (v.len + t)
  s.addResult r.1

/-- The results of the step as the result records give them, without compaction (R486). -/
def State.resultsFromRecords (s : State) : State :=
  if !s.flag SERVE_CTRL.EN then s
  else { s with serve := { s.serve with
    results := (s.serve.planNow.filter fun (e : PlanEntry) => !e.dead && !e.stalled).map fun (e : PlanEntry) => (s.rowRead e).1 } }

/-- Flags a record at a row with no planned slot or at a dead row (R299). -/
def State.checkStray (s : State) (mb : Bool) (row : Nat) : State :=
  let w0 := s.topWord (s.areaOff (0x20000 + 0x100 * (512 * bit mb + row)))
  if bitOf w0 0 && bitsOf w0 32 32 == s.get STEP_NUM.STEP % 2 ^ 32 then s.put SERVE_ERR.STRAY 1 else s

/-- The result Pass of a micro-batch that is in flight (R298). -/
def State.resultPass (s : State) (mb : Bool) : Option PassSt :=
  s.sched.inflight.find? fun p => p.template == s.get SERVE_RES_TPL.TEMPLATE && passMb p.desc == mb

def execResultCheck (mb : Bool) (s : State) : Host.Outcome State Fault Refusal :=
  match s.resultPass mb with
  | none => .next s
  | some p =>
    if !s.boardHeld (.serve mb) || !s.walksEnded p.pseq then .next s
    else
      let rows := (List.range 512).filter (passRowActive p.desc)
      .next ((s.each rows fun s r =>
        match s.serve.planNow.find? fun e => e.mb == mb && e.row == r with
        | none => s.checkStray mb r
        | some e => if e.dead then s.checkStray mb r else if e.stalled then s else s.checkRow e).boardRetire (.serve mb))

/-! ### Commit (R291 to R296, R302) -/

/-- The result of a slot in the step. -/
def State.resultFor (s : State) (i : Nat) : Option ResultSt := s.serve.results.find? fun r => r.slot == i

/-- Word 0 of a Sheaf entry (R305). -/
def sheafWord (i : Nat) (v : SlotSt) (ntok : Nat) (stalled bad cut : Bool) : Nat :=
  i + v.prio * 2 ^ 10 + ntok * 2 ^ 12 + (if v.ending = 3 then 0 else v.ending) * 2 ^ 19 + bit stalled * 2 ^ 22 + bit bad * 2 ^ 23 +
    bit cut * 2 ^ 24 + bit v.cancelled * 2 ^ 25 + v.reqTag * 2 ^ 32

/-- Lengths, natural ends, and the ends of cancelled slots that have left the plans, at COMMIT (R296, R302). -/
def State.commitLen (s : State) (e : PlanEntry) : State :=
  let v := s.slot e.slot
  if e.dead then s
  else
    let r := s.resultFor e.slot
    let len := v.len + (r.map (·.adv)).getD 0
    let stop := !e.stalled && (r.map (·.stop)).getD false
    let v : SlotSt := { v with len := len }
    if stop ∨ v.limit ≤ len then
      let s := s.setPlanNew (s.serve.planNew.filter fun (x : PlanEntry) => x.slot != e.slot)
      let s := { s with serve := { s.serve with
        planNext := s.serve.planNext.map fun (x : PlanEntry) => if x.slot = e.slot then { x with dead := true } else x } }
      s.setSlot e.slot { v with st := slotEnded, ending := if stop then 1 else 2, freeIn := some 1 }
    else s.setSlot e.slot (if v.leaving && !(s.serve.planNext.any fun (x : PlanEntry) => x.slot == e.slot) then v.left else v)

/-- Insertion by slot number. -/
def planInsert (e : PlanEntry) : List PlanEntry → List PlanEntry
  | [] => [e]
  | x :: xs => if e.slot < x.slot then e :: x :: xs else x :: planInsert e xs

/-- The Sheaf record of the step that commits (R304, R305): a dead row has an entry without tokens (assumption 61). -/
def State.makeSheaf (s : State) (step : Nat) : SheafSt :=
  let plan := s.serve.planNow.foldl (fun l e => planInsert e l) []
  let info := plan.map fun e =>
    let v := s.slot e.slot
    let r := if e.stalled || e.dead then none else s.resultFor e.slot
    let toks := (r.map (·.tokens)).getD []
    let ends := !e.dead && decide (v.st = slotEnded)
    (e, v, r, toks, ends)
  let kept := info.filter fun x => !x.2.1.cancelled || x.2.2.2.2
  { step := step, present := s.serve.planNow.length, queued := (s.slotsIn [slotQueued]).length
    paused := (s.slotsIn [slotPausing, slotPaused, slotResuming]).length
    dropped := ((info.filter fun x => x.2.1.cancelled).map fun x => x.2.2.2.1.length).foldl (· + ·) 0
    entries := kept.map fun x =>
      let toks := if x.2.1.cancelled then [] else x.2.2.2.1
      (sheafWord x.1.slot x.2.1 toks.length x.1.stalled ((x.2.2.1.map (·.bad)).getD false) ((x.2.2.1.map (·.cut)).getD false),
       toks, x.2.1.len) }

/-- Step 4 of the boundary after step `n`, before STEP_NUM advances: lengths, plans and pages; the Sheaf is kept for
step 5. -/
def State.serveCommit (s : State) : State :=
  if !s.flag SERVE_CTRL.EN then s
  else
    let n := s.get STEP_NUM.STEP
    let dead := s.slotsIn [slotEnded]
    let s := s.each s.serve.planNow State.commitLen
    let s := { s with serve := { s.serve with planNow := s.serve.planNext, planNext := s.serve.planNew, results := [],
                                              sheaf := s.serve.sheaf ++ [s.makeSheaf n] } }
    let mp := s.get SERVE_PTAB.MAXPAGES
    -- Pages of the coming steps (R291).
    let s := s.each (s.slotsIn [slotActive]) fun s i =>
      let v := s.slot i
      let want := cdiv (v.len + posIn3 [s.serve.planNow, s.serve.planNext] i) 128
      let s := s.each ((List.range mp).drop want) fun s k => s.pageFree i k
      (s.knowSlot i { v with want := want }).pageAlloc i mp
    -- The slots whose allocation for step n + 1 is not complete stall in it (R292).
    let now := s.serve.planNow.map fun (e : PlanEntry) =>
      if !e.dead && decide ((s.pagesIn e.slot 1).length < cdiv ((s.slot e.slot).len + e.stepPos) 128) then { e with stalled := true }
      else e
    let s := if now.any (fun e => e.stalled) then s.put SERVE_ERR.STALLED 1 else s
    let s := { s with serve := { s.serve with planNow := now } }
    let s := s.each (s.slotsIn [slotActive]) fun s i => s.setSlot i (s.slot i)
    -- The row tables of step n + 1 (R293).
    let s := s.each now fun s e =>
      let v := s.slot e.slot
      let len := if e.dead then 0 else if e.stalled then v.len else v.len + e.stepPos
      let es := (List.range mp).map fun k => (s.pageEntry e.slot k).toNat
      s.topWrite (s.rowTabOff (n + 1) e.mb e.row) (wordBytes (len :: es))
    -- The slots that an earlier step ended: their pages are freed now (R302).
    s.each dead fun s i =>
      let v := s.slot i
      s.setSlot i { v with freeIn := v.freeIn.map (· - 1) }

/-- What follows once STEP_NUM has advanced: the open plan's map, and the work on pages. -/
def State.serveAdvance (s : State) : State :=
  if !s.flag SERVE_CTRL.EN then s else (s.setPlanNew s.serve.planNew).pagePump

/-! ### The Sheaf (R303 to R306) -/

/-- Units of 64 bytes of a Sheaf record. -/
def sheafUnits (f : SheafSt) : Nat := cdiv (64 + 16 * f.entries.length) 64

def SheafSt.tokens (f : SheafSt) : List Nat := f.entries.flatMap fun e => e.2.1

/-- Whether both rings have space (R306). -/
def State.sheafFits (s : State) (f : SheafSt) : Bool :=
  decide (idxSub 32 (s.get SERVE_RPTR.HEAD) (s.get SERVE_RPTR.TAIL) + sheafUnits f ≤ 2 ^ s.get SERVE_RING.LOG2N ∧
    idxSub 32 (s.get SERVE_TPTR.HEAD) (s.get SERVE_TPTR.TAIL) + f.tokens.length ≤ 2 ^ s.get SERVE_TRING.LOG2N)

/-- The bytes of a Sheaf record (R304, R305). -/
def State.sheafBytes (s : State) (f : SheafSt) : List Byte :=
  let pos := s.get SERVE_TPTR.HEAD
  let head := [1 + s.get ROUTE_SELF.INDEX * 2 ^ 8 + f.entries.length * 2 ^ 16 + f.tokens.length * 2 ^ 32, f.step,
    pos + f.dropped * 2 ^ 32, f.present + f.queued * 2 ^ 11 + f.paused * 2 ^ 22,
    s.get STEP_QCLK.TICKS, 0, 0, 0]
  let es := f.entries.foldl (fun (a : List Nat × Nat) e => (a.1 ++ [e.1, a.2 % 2 ^ 32 + e.2.2 * 2 ^ 32], a.2 + e.2.1.length)) ([], pos)
  let b := wordBytes (head ++ es.1)
  b ++ List.replicate (64 * sheafUnits f - b.length) 0

/-- Writes the oldest Sheaf record and its tokens to the rings. -/
def State.sheafWrite (s : State) (f : SheafSt) : State :=
  let b := s.sheafBytes f
  let n := sheafUnits f
  let h := s.get SERVE_RPTR.HEAD
  let th := s.get SERVE_TPTR.HEAD
  let s := s.each (List.range n) fun s k =>
    s.topWrite (4096 * s.get SERVE_RING.BASE + 64 * ((h + k) % 2 ^ s.get SERVE_RING.LOG2N)) ((b.drop (64 * k)).take 64)
  let s := s.each f.tokens.zipIdx fun s t =>
    s.topWrite (4096 * s.get SERVE_TRING.BASE + 4 * ((th + t.2) % 2 ^ s.get SERVE_TRING.LOG2N)) (leBytes 4 t.1)
  let s := ((s.put SERVE_RPTR.HEAD (h + n)).put SERVE_TPTR.HEAD (th + f.tokens.length)).bump SERVE_CNT.SHEAVES 1
  { s.bump SERVE_CNT.DROPPED f.dropped with serve := { s.serve with sheaf := s.serve.sheaf.tail } }

/-- Writes the waiting records in order while both rings have space; RING_WAIT says that one still waits (R306). -/
def State.sheafStep (s : State) : State :=
  let s := s.each s.serve.sheaf fun s f => if s.serve.sheaf.head? == some f && s.sheafFits f then s.sheafWrite f else s
  s.put SERVE_STATUS.RING_WAIT (bit !s.serve.sheaf.isEmpty)

/-! ### Boundary step 7 (R288) -/

/-- The slots that the boundary retries, by PRIO and then by the order of their commands. -/
def State.retryOrder (s : State) : List Nat :=
  let l := (s.slotsIn [slotQueued, slotPausing, slotPaused, slotResuming]).filter fun i =>
    let v := s.slot i
    v.st == slotQueued || v.resumePend || v.st == slotResuming && (s.pagesIn i 2).isEmpty && v.move.isNone
  let before (a b : Nat) : Bool :=
    let x := s.slot a
    let y := s.slot b
    decide (x.prio < y.prio ∨ x.prio = y.prio ∧ x.cmdSeq < y.cmdSeq)
  l.foldl (fun acc i => (acc.filter fun j => before j i) ++ [i] ++ acc.filter fun j => !before j i) []

def State.retrySlot (s : State) (i : Nat) : State :=
  let v := s.slot i
  if v.st = slotQueued ∨ v.st = slotResuming then
    match s.admitReason i with
    | some _ => s
    | none => if v.st = slotQueued then (s.acceptAdm i s).1 else (s.join i).getD s
  else if s.resumeFits i then s.setSlot i { v with st := slotResuming, resumePend := false }
  else s

def State.serveRetry (s : State) : State :=
  if !s.flag SERVE_CTRL.EN then s else (s.each s.retryOrder State.retrySlot).pagePump

/-- An abandoned step or a Field reset discards every checked result (R302, R308). -/
def State.serveDiscard (s : State) : State := { s with serve := { s.serve with results := [] } }

/-! ### EN (R307, R308) -/

/-- A slot as its record stands in Topsoil. -/
def State.slotFromRecord (s : State) (i : Nat) : SlotSt :=
  let w := s.topWords (s.areaOff (64 * i)) 8
  let a := w.getD 0 0
  let b := w.getD 1 0
  let st := bitsOf a 0 3
  if st = slotFree then SlotSt.free
  else
    { st := st, prio := bitsOf a 3 2, cls := bitsOf a 5 4, mb := bitOf a 9, row := bitsOf a 10 9, cancelled := bitOf a 19,
      ending := bitsOf a 20 2, resumePend := bitOf a 23, reqTag := bitsOf a 32 32, len := bitsOf b 0 32,
      limit := bitsOf b 32 32, stepPos := bitsOf (w.getD 2 0) 32 14, admSeq := (w.getD 3 0).toNat,
      mbForce := if bitOf (w.getD 4 0) 38 then some (bitOf (w.getD 4 0) 39) else none, cmdSeq := (w.getD 3 0).toNat,
      leaving := false, want := 0, move := none, freeIn := if st = slotEnded then some 0 else none, releasing := false }

/-- A planned slot of the step at STEP_NUM as its row table gives it: the length word says how many positions the slot
writes, and LEN that it is stalled (R293, R308). -/
def State.planRow (s : State) (e : PlanEntry) : PlanEntry :=
  let w := (s.topWord (s.rowTabOff (s.get STEP_NUM.STEP) e.mb e.row)).toNat
  let len := (s.slot e.slot).len
  if e.dead then e else if w ≤ len then { e with stalled := true } else { e with stepPos := w - len }

/-- The plan of a step as its map and the slot records give it. -/
def State.planFromMap (s : State) (step : Nat) : List PlanEntry :=
  let m := s.topWords (s.areaOff (0x10000 + 0x80 * (step % 4))) 16
  (s.slotsIn [slotActive, slotEnded]).filterMap fun i =>
    let v := s.slot i
    if bitOf (m.getD (8 * bit v.mb + v.row / 64) 0) (v.row % 64) then
      some ⟨i, v.mb, v.row, v.stepPos, false, decide (v.st = slotEnded)⟩
    else none

/-- The reads of a resumption: slot records, plan maps, page tables and the row tables of the step at STEP_NUM (R308,
R311). -/
def State.resumeReads (s : State) : State :=
  let mp := s.get SERVE_PTAB.MAXPAGES
  (((s.partReads (s.areaOff 0) 0x10000 false).partReads (s.areaOff 0x10000) 0x200 false).partReads (s.ptabOff 0 0)
    (1024 * 8 * mp) false).partReads (s.rowTabOff (s.get STEP_NUM.STEP) false 0) (1024 * 8 * (mp + 1)) false

/-- What the part makes of a slot that it resumes, its plans known: an ACTIVE slot out of the open plan has been paused, and
the pages of a dead row are freed after its step (R294, R302). -/
def State.resumeSlot (s : State) (i : Nat) : State :=
  let v := s.slot i
  if v.st = slotEnded then
    s.knowSlot i { v with freeIn := some (if s.serve.planNow.any fun e => e.slot == i then 1 else 0) }
  else if v.st = slotActive then
    let v := { v with leaving := !s.inNew i, want := (s.pagesIn i 1).length }
    s.knowSlot i (if s.inNew i || s.planned i then v else v.left)
  else s

/-- SERVE resumes from Topsoil when EN goes from 0 to 1 (R308). -/
def State.serveResume (s : State) : State :=
  let s := s.resumeReads
  let s := s.each (List.range 1024) fun s i => s.knowSlot i (s.slotFromRecord i)
  let n := s.get STEP_NUM.STEP
  let live := s.serve.slots.map (·.1)
  let named := live.flatMap fun i => (s.pagesIn i 1).map fun e => s.pageOfOff e.2
  let subNamed := live.flatMap fun i => (s.pagesIn i 2).map (·.2)
  let seqs := s.serve.slots.map fun e => e.2.admSeq + 1
  let s := { s with serve := { s.serve with
    planNow := (s.planFromMap n).map s.planRow, planNext := s.planFromMap (n + 1), planNew := s.planFromMap (n + 2)
    nextAdm := seqs.foldl max 0, nextCmd := seqs.foldl max 0
    poolFree := [], poolDirty := (List.range (s.get SERVE_POOLCFG.PAGES)).filter fun p => !named.contains p
    subUsed := (List.range (s.get TIER_SPOOL.PAGES)).filter fun p => subNamed.contains (s.spoolOff p)
    results := [], held := [] } }
  (s.each (s.slotsIn [slotActive, slotEnded]) State.resumeSlot).pagePump

/-- A write of SERVE_CTRL. -/
def State.serveCtrlWrite (s : State) (val : W64) : State :=
  let was := s.flag SERVE_CTRL.EN
  let s := if bitOf val 0 then (if was then s else (s.put SERVE_CTRL.EN 1).serveResume)
    else if s.stepState = stepStopped then s.put SERVE_CTRL.EN 0 else s
  if bitOf val 1 then (s.put SERVE_CNT.SHEAVES 0).put SERVE_CNT.DROPPED 0 else s

def execServeEn (src : Source) (val : W64) (s : State) : Host.Outcome State Fault Refusal :=
  .next (s.ctlWrite src 0x100000 1 val fun s => s.serveCtrlWrite val)

def execServeCntClr (src : Source) (val : W64) (s : State) : Host.Outcome State Fault Refusal :=
  .next (s.ctlWrite src 0x100000 1 val fun s => s.serveCtrlWrite val)

end Sys2Proof.Machine
end

