-- ==== Sys2Proof/Machine/Boundary.lean ====
section
/-!
DEFINITION. What the step boundary, an abandonment and a freeze share (R238 to R242): stopping a step, committing one,
steps 7 and 8, and Glow over the boundary (R434).
-/
namespace Sys2Proof.Machine

/-! ### Glow over the boundary (R433, R434) -/

/-- The most that Glow may draw, in cW (R425, R433). -/
def State.glowMax (s : State) : Nat := if s.domOn 23 && s.flag GLOW_CTRL.EN then 625 * s.get GLOW_CTRL.MAX_CELLS else 0

/-- Sets Glow to `w` cW: whole cells draw, rounded down. -/
def State.setGlow (s : State) (w : Nat) : State :=
  let s := { s with power := { s.power with glow := w } }
  (s.put GLOW_STATUS.CELLS_ON (w / 625)).put CANDLE_GOV.GLOW_W (w / 625 * 625 / 100)

/-- The start of a step boundary: tgt becomes lvl, and Glow moves toward lvl − PWR_IDLE. -/
def State.glowBoundary (s : State) : State :=
  let s := { s with power := { s.power with tgt := s.power.lvl, savedGlow := some s.power.glow } }
  s.setGlow (min s.glowMax (s.power.lvl - 100 * s.power.idle))

/-- The first Pass after the boundary restores the Glow setting. -/
def State.glowRestore (s : State) : State :=
  match s.power.savedGlow with
  | none => s
  | some w => ({ s with power := { s.power with savedGlow := none } }).setGlow (min s.glowMax w)

/-! ### Stopping a step (R240, R334) -/

/-- An operation of Harrow queue 1, which no step owns (R334). -/
def MemOp.outside (o : MemOp) : Bool :=
  match o.owner with
  | .stream queue1 _ => queue1
  | _ => false

/-- Steps 1 to 3 of R240: what waits for an entry never takes one, the Field is flushed, Passes end, queries are withdrawn, engines and queue-0 streams stop,
checked results are discarded, and a charge to a later step is dropped (R239). -/
def State.abandonStop (s : State) : State :=
  let s := s.flushField
  let s := { s with sched := { s.sched with
    inflight := [], flushing := false, chargeNext := none, waiting := s.sched.waiting.filter MemOp.outside } }
  (s.put STEP_STATUS.INFLIGHT 0).withdrawQueries.dropEngines.stopStreams0.serveDiscard.repairAll

/-- Steps 4 and 5 of R240: every entry has retired, the saved tags are restored and ISSUE returns to QHEAD. -/
def State.abandonRestore (s : State) : State :=
  let s := { s with sched := { s.sched with entries := s.sched.entries.filter MemOp.outside, waiting := s.sched.waiting.filter MemOp.outside } }
  let s := (s.boardCount.put (STEP_TAGS.TAG 0) s.sched.savedTags0.toNat).put (STEP_TAGS.TAG 1) s.sched.savedTags1.toNat
  s.each (List.range 4) fun s q => s.put (STEP_QHEAD.ISSUE q) (s.get (STEP_QHEAD.HEAD q))

/-- Saves the tag state (R226). -/
def State.saveTags (s : State) : State :=
  { s with sched := { s.sched with savedTags0 := s.reg (STEP_TAGS.TAG 0).reg, savedTags1 := s.reg (STEP_TAGS.TAG 1).reg } }

/-! ### Ward staging and the state record (R479, R481) -/

/-- The Topsoil offset of a parity line of this holder. -/
def State.parityOff (s : State) (line : Nat) : Nat := 65536 * s.get WARD_PAR.BASE + 64 * line

/-- XORs staged deltas into parity and frees them. -/
def State.applyStaged (s : State) (p : Staged → Bool) : State :=
  let s := s.each (s.ward.staged.filter p) fun s d =>
    let o := s.parityOff d.line
    s.topWrite o (payBytes (payOfBytes ((List.range 64).map fun i => s.topsoil.stored (o + i)) ^^^ d.delta))
  let s := { s with ward := { s.ward with staged := s.ward.staged.filter fun d => !p d } }
  s.put WARD_PEND.STAGED s.ward.staged.length

/-- The 256-byte state record (R481). -/
def State.stateRecord (s : State) (committed : Bool) : List Byte :=
  let r (f : Fld) : Nat := (s.reg f.reg).toNat
  wordBytes ([0x52545357 + bit committed * 2 ^ 32, s.get STEP_NUM.STEP] ++
    (List.range 4).map (fun q => r (STEP_QHEAD.HEAD q)) ++ (List.range 4).map (fun q => r (STEP_QTAIL.TAIL q)) ++
    [s.sched.savedTags0.toNat, s.sched.savedTags1.toNat, r STEP_CHEAD.INDEX, r STEP_CTAIL.INDEX, r SERVE_RPTR.HEAD,
     r SERVE_TPTR.HEAD, r (HARROW_QPTR.HEAD 0), r (HARROW_QPTR.HEAD 1), r FALLOW_QPTR.HEAD, s.planStep] ++
    List.replicate 12 0)

/-- Writes the state record at byte 0 of range 0, when the Ward is enabled. -/
def State.writeRecord (s : State) (committed : Bool) : State :=
  if s.wardOn && s.flag (WARD_RANGE.EN 0) then s.topWrite (65536 * s.get (WARD_RANGE.BASE 0)) (s.stateRecord committed) else s

/-! ### Commit (R238 steps 4 and 5) -/

/-- Step 4 of the boundary after step N. -/
def State.commitStep (s : State) : State :=
  let n := s.get STEP_NUM.STEP
  let s := s.serveCommit
  let s := s.each (List.range 4) fun s q => s.put (STEP_QHEAD.HEAD q) (s.get (STEP_QHEAD.ISSUE q))
  let s := (s.commitStreams 65536 n).saveTags
  let s := ((s.put STEP_NUM.STEP (n + 1)).put STEP_STATUS.REPLAYS 0).withdrawQueries
  let s := { s with sched := { s.sched with abandons := 0 } }
  let s := s.applyStaged fun d => d.epoch == s.ward.epoch
  let s := { s with ward := { s.ward with epoch := s.ward.epoch + 1 } }
  s.serveAdvance

/-! ### Steps 7 and 8 -/

/-- The state of a step that begins: nothing issued, nothing reported. -/
def SchedSt.fresh (c : SchedSt) (replay : Bool) (step : Nat) : SchedSt :=
  { c with
    nextPseq := 0, queries := [], endIssued := 0, passesDone := 0, replay := replay, firstNow := none, flushing := false,
    flushedSent := false, committed := false, ringWait := false, abandonedSent := false, descHalt := false,
    resetRejoin := false, abandonedFrom := [], commitSent := false, abandonMcast := false
    flushedFrom := if replay then [] else c.flushedFrom.filter fun e => decide (step ≤ e.2)
    bndWait := !replay && c.flushedFrom.any fun e => decide (step ≤ e.2) }

/-- This chip abandons the step in progress (R240, steps 1 to 3). Cause 5, that the chips disagree on the step number, stops
the chip whatever its own step is (R238). -/
def State.abandonLocal (s : State) (step cause : Nat) : State :=
  let st := s.stepState
  let open_ := st == stepRunning || st == stepBoundary && !s.sched.committed || s.sched.descHalt || s.sched.resetRejoin
  if (step ≠ s.get STEP_NUM.STEP ∧ cause ≠ 5) ∨ !open_ then s
  else
    let s := { s with sched := { s.sched with abCause := cause, abandons := s.sched.abandons + 1, resetRejoin := false } }
    let s := (((s.put STEP_STATUS.STATE stepAbandoning).put STEP_ERR.ABANDONED 1).put STEP_ERR.CAUSE cause).bump
      STEP_STATUS.REPLAYS 1
    (if cause = 5 then s.put STEP_ERR.MISMATCH 1 else s).abandonStop

/-- The leader multicasts the abandonment of the step once (R239, R241). -/
def State.abandonAll (s : State) (step cause idx : Nat) : State :=
  let s := { s with sched := { s.sched with abandonMcast := true, bndWait := true } }
  s.sendAll 0x0202 (stepMsg step [BitVec.ofNat 8 cause, BitVec.ofNat 8 idx])

/-- An ABANDON of the current step: the leader's first one is multicast, the leader's multicast takes effect. -/
def State.abandonTake (s : State) (step cause idx : Nat) (fromLeader : Bool) : State :=
  if s.leads && !s.sched.abandonMcast then
    if step ≠ s.get STEP_NUM.STEP ∨ s.sched.commitSent then s else s.abandonAll step cause idx
  else if fromLeader then s.abandonLocal step cause
  else s

/-- The cause of an event that waits for its step is reported (R239). -/
def State.chargeSend (s : State) : State :=
  match s.sched.chargeNext with
  | none => s
  | some c => ({ s with sched := { s.sched with chargeNext := none } }).sendAbandon c

/-- A step's issue begins: a cause charged to it is reported first, and an ABANDON that came early takes effect
(R239). -/
def State.beginStep (s : State) (replay : Bool) : State :=
  let s := { s with sched := s.sched.fresh replay (s.get STEP_NUM.STEP), moe := { s.moe with stepSlots := [] } }
  let s := (s.put STEP_STATUS.STATE stepRunning).put STEP_STATUS.STEP_END_DONE 0
  let s := s.chargeSend
  match s.sched.heldAbandon with
  | none => s
  | some (n, c, i) => ({ s with sched := { s.sched with heldAbandon := none } }).abandonTake n c i true

/-- Whether a HALT, or the HALT_AT of the step that has committed, stops issue here (R242, R490). -/
def State.haltsHere (s : State) : Bool :=
  s.sched.haltReq || s.sched.haltAt == some (s.get STEP_NUM.STEP - 1)

/-- Step 8 of R238, or the stop at it (R242); the SERVE commands that waited act first (R282). -/
def State.leaveBoundary (s : State) : State :=
  let s := s.serveHeld
  if s.haltsHere then
    { s.put STEP_STATUS.STATE stepStopped with sched := { s.sched.fresh false (s.get STEP_NUM.STEP) with haltReq := false, haltAt := none } }
  else s.beginStep false

/-- Step 7 of R238 with the return of routes after it (R404), then step 8, which a Sheaf that waits for ring space delays
(R306). -/
def State.finishBoundary (s : State) : State :=
  let s := s.serveRetry.routeReturn
  if s.serve.sheaf.isEmpty then s.leaveBoundary else { s with sched := { s.sched with ringWait := true } }

/-! ### Freezing (R482, R489) -/

/-- The members of the Ward group, by index, that stand at rack chips for which `p` holds. -/
def State.membersAt (s : State) (p : Nat → Bool) : List Nat :=
  (List.range (s.get WARD_GROUP.G)).filter fun i => i != s.get WARD_GROUP.SELF && p (s.wardMember i)

/-- A chip with Ward ON freezes with the given members lost: steps 1 to 5 of R240, STATE HALTED, and the staging of
every surviving source is applied (R482). Two lost members of a group, or a loss during a rebuild, leave the slice
unrecoverable (R489). -/
def State.freeze (s : State) (lost : List Nat) : State :=
  let st := s.get WARD_STATUS.STATE
  let s := s.put WARD_STATUS.LOST (lost.foldl (fun a i => a ||| 2 ^ i) (s.get WARD_STATUS.LOST))
  let gone := (List.range 5).filter fun i => s.get WARD_STATUS.LOST / 2 ^ i % 2 = 1
  let s := if 2 ≤ gone.length ∨ (st = 4 ∧ !lost.isEmpty) then s.put WARD_ERR.UNRECOVERABLE 1 else s
  if st = 2 then
    -- A step that this chip has flushed may still be committed by COMMIT_TO (R483): its results stay.
    let kept := if s.sched.flushedSent && !s.sched.committed then s.serve.results else []
    let s := ((s.abandonStop.abandonRestore).put STEP_STATUS.STATE stepHalted).put WARD_STATUS.STATE 3
    let s := State.serveHeld { s with serve := { s.serve with results := kept } }
    s.applyStaged fun d => !gone.contains d.source
  else s

/-- Freezes when the Ward is ON; `lost` are the members that are lost. -/
def State.freezeIfOn (s : State) (lost : List Nat) : State :=
  let st := s.get WARD_STATUS.STATE
  if st = 2 ∨ st = 3 ∨ st = 4 then s.freeze lost else s

end Sys2Proof.Machine
end

