-- ==== Sys2Proof/Machine/Rotate.lean ====
section
/-!
DEFINITION. Loading the dark plane and rotation (R197 to R213).
-/
namespace Sys2Proof.Machine

def loadIdle : Nat := 0
def loadBusy : Nat := 1
def loadValid : Nat := 2
def loadFailed : Nat := 3
def rotNone : Nat := 0
def rotArmed : Nat := 1
def rotReady : Nat := 2
def rotSwap : Nat := 3

def State.loadState (s : State) : Nat := s.get ROTATE_STATUS.LOAD_STATE
def State.rotState (s : State) : Nat := s.get ROTATE_STATUS.ROT_STATE

/-! ### Loading (R197 to R201) -/

/-- The registers that describe the dark plane, when it is not valid (R212). -/
def State.darkInvalid (s : State) : State :=
  ((((s.put ROTATE_STATUS.DARK_VALID 0).put ROTATE_DARK_ID.IMAGE_ID 0).put ROTATE_PLANE_INFO.DARK_MASK 0).put
    ROTATE_PLANE_INFO.DARK_COMPAT 0).put ROTATE_PLANE_INFO.DARK_FORMER 0

def State.litInvalid (s : State) : State :=
  (((s.put ROTATE_STATUS.LIT_VALID 0).put ROTATE_LIT_ID.IMAGE_ID 0).put ROTATE_PLANE_INFO.LIT_MASK 0).put
    ROTATE_PLANE_INFO.LIT_COMPAT 0

/-- The dark plane goes to its idle configuration (R195, R198). -/
def State.darkClear (s : State) : State := ({ s with dark := .cleared }).darkInvalid

/-- A failed load (R198, R201). -/
def State.failLoad (s : State) (e : LoadErr) : State :=
  let s := ({ s with rot := { s.rot with loading := none } }).darkClear
  (((s.put ROTATE_LOAD_ERR.CODE e.code).put ROTATE_LOAD_ERR.SECTION e.section_).put ROTATE_LOAD_ERR.RECORD e.record).put
    ROTATE_STATUS.LOAD_STATE loadFailed

/-- Step 0 of R198. -/
def State.loadAddrBad (s : State) (a n : Nat) : Bool :=
  a % 64 != 0 ||
  match s.locate a with
  | .top o => !topRange o n
  | .sub o => !s.subRange o n
  | _ => true

/-- Records the uncorrectable lines that the loader's reads of `[a, a + n)` meet. -/
def State.loaderReads (s : State) (a n : Nat) : State := (s.readErrors a n false).1.touch a n

/-- Whether lines of `[a, a + n)` are uncorrectable. -/
def State.linesBad (s : State) (a n : Nat) : Bool :=
  match s.locate a with
  | .top o => !(s.topsoil.badIn 64 o n).isEmpty
  | .sub o => !(s.subsoil.badIn 64 o n).isEmpty
  | _ => false

/-- The header copy `k`, when its lines are error-free (R190, R493). -/
def State.headerCopy (s : State) (a k : Nat) : Option (List Byte) :=
  if s.linesBad (a + 256 * k) 256 then none else some (s.peek (a + 256 * k) 256)

/-- A triplicated item without a majority (R493): detail 1 DIFFER, 2 NO_MAJORITY. -/
def State.tripleError (s : State) (block addr : Nat) (differ : Bool) : State :=
  s.errlog { cls := 0xF, block := block, detail := if differ then 1 else 2, addr := addr }

/-- The publisher's signature over the 256 header bytes (R192). -/
def State.publisherOk (s : State) (keyId r v : Nat) (msg : List Byte) : Bool :=
  ((s.net.plan.map (·.pubkeys)).getD []).any fun k => k.keyId == keyId && ecdsaVerify k.x k.y (sha384Nat msg) r v

/-- Steps 1 to 9 of R198 for the image of `n` bytes at `a` (R188 to R198). -/
def State.loadOutcome (s : State) (a n : Nat) : Except LoadErr Image :=
  loadChecks (s.peek a n) n (majority (s.headerCopy a 0) (s.headerCopy a 1) (s.headerCopy a 2))
    (fun key r v h => s.publisherOk (leNat key) r v h) s.stripBadMask s.stripOffMask s.compatNow

/-- The header copies: a copy that differs from the majority is rewritten, and no majority is recorded (R493). -/
def State.headerVote (s : State) (a : Nat) : State :=
  let c := fun k => s.headerCopy a k
  match majority (c 0) (c 1) (c 2) with
  | none => s.tripleError 5 a (allDiffer (c 0) (c 1) (c 2))
  | some h => s.each (List.range 3) fun s k => if s.headerCopy a k = some h then s else s.pokeAt (a + 256 * k) h

/-- The strip mask of the image at `a`, by its majority header. -/
def State.headerMask (s : State) (a : Nat) : Nat :=
  (majority (s.headerCopy a 0) (s.headerCopy a 1) (s.headerCopy a 2)).elim 0 fun h => (Header.ofBytes h).mask

/-- Step 6 of R198: the strips of a mask that are down are powered. -/
def State.powerStrips (s : State) (mask : Nat) : State := s.each (stripsOf mask) fun s k => s.domRequest (4 + k)

/-- The checks of a LOAD that is not refused (R198, steps 0 to 9); step 6 powers the strips, whatever steps 7 to 9 find. -/
def State.loadRun (s : State) : State :=
  let a := s.get ROTATE_LOAD_ADDR.ADDR
  let n := s.get ROTATE_LOAD_LEN.LEN
  if s.loadAddrBad a n then s.failLoad ⟨0x0C, 0, 0⟩
  else
    let out := s.loadOutcome a n
    let mask := s.headerMask a
    let s := (s.loaderReads a n).headerVote a
    match out with
    | .error e => (if 7 ≤ e.code ∧ e.code ≤ 9 then s.powerStrips mask else s).failLoad e
    | .ok m =>
      let s := s.powerStrips m.mask
      { s with rot := { s.rot with loading := some m } }

/-- A LOAD command (R197, R198, R201, R207). -/
def State.load (s : State) : State :=
  if s.loadState = loadBusy ∨ s.rotState ≠ rotNone then s.put ROTATE_ERR.REFUSED 1
  else (s.darkClear.put ROTATE_STATUS.LOAD_STATE loadBusy).loadRun

/-- LOAD_ABORT (R201). -/
def State.loadAbort (s : State) : State :=
  if s.loadState = loadBusy then s.failLoad ⟨0x0B, 0, 0⟩ else s

/-- The COMPAT pin stands at a level (R112, R463). -/
def State.compatPin (s : State) (level : Bool) : State := s.put CHIP_STRAPS.COMPAT (bit level)

def execLoad (w : LoadWrite) (s : State) : Host.Outcome State Fault Refusal :=
  .next ((s.compatPin w.compat).ctlWrite w.src 0x50000 1 1 fun s => s.load)

def execLoadAbort (src : Source) (s : State) : Host.Outcome State Fault Refusal :=
  .next (s.ctlWrite src 0x50000 1 2 fun s => s.loadAbort)

/-- Steps 10 and 11 of R198, once the strips are powered. -/
def State.loadEnd (s : State) (m : Image) (readback : Bool) : State :=
  if !readback then s.failLoad ⟨0x0A, 0, 0⟩
  else
    let m : Image := { m with compat := s.compatNow }
    let s := { s with dark := m, rot := { s.rot with loading := none, darkBad := false } }
    (((((s.put ROTATE_STATUS.DARK_VALID 1).put ROTATE_STATUS.LOAD_STATE loadValid).put ROTATE_DARK_ID.IMAGE_ID
      m.imageId.toNat).put ROTATE_PLANE_INFO.DARK_MASK m.mask).put ROTATE_PLANE_INFO.DARK_COMPAT (bit m.compat)).put
      ROTATE_PLANE_INFO.DARK_FORMER 0

def execLoadComplete (c : PlaneCheck) (s : State) : Host.Outcome State Fault Refusal :=
  .next (let s := s.compatPin c.compat
    match s.rot.loading with
    | none => s
    | some m => if (stripsOf m.mask).all fun k => s.domOn (4 + k) then s.loadEnd m c.readback else s)

/-! ### Rotation (R203 to R209) -/

/-- The Headland output registers that hold a token in the plots of a strip mask (R45). -/
def State.tokensIn (s : State) (mask : Nat) : List (Nat × Token) :=
  s.field.hlOut.filter fun e => mask / 2 ^ (e.1 / 10 / 64) % 2 == 1

/-- Captures the first fault of a Headland (R51): input port, slot and kind. After the bits of HL_ERR are cleared the old
capture stays until the next fault: the spec says only that it holds until then (assumption 57). -/
def State.hlCapture (s : State) (plot port slot kind : Nat) : State :=
  if s.flag (HL_ERR.UNCLAIMED plot) || s.flag (HL_ERR.ECC_UE plot) || s.flag (HL_ERR.ROT_NOT_EMPTY plot) then s
  else (((s.put (HL_FAULT_CAP.PORT plot) port).put (HL_FAULT_CAP.SLOT plot) slot).put (HL_FAULT_CAP.KIND plot) kind).put
    (HL_FAULT_CAP.CYCLE plot) (s.field.cycle % 2 ^ 32)

/-- R45 for one register that is not empty. The captured port is the input that the register's slot table names in the
current slot, or the register's own port where that entry is disabled (assumption 57). -/
def State.rotNotEmpty (s : State) (k : Nat) : State :=
  let plot := k / 10
  let slot := s.field.cycle % 16
  let port := (s.lit.hlEntry plot (k % 10) slot).getD (k % 10)
  let s := (s.hlCapture plot port slot 3).put (HL_ERR.ROT_NOT_EMPTY plot) 1
  let s := { s with field := { s.field with hlOut := KMap.erase s.field.hlOut k } }
  s.stepError { cls := 3, block := 0x20 + plot / 16, plot := plot, detail := port + 16 * slot, addr := s.gaddr 3 (0x200020 + 0x1000 * plot) }

/-- The Stiles of a strip mask whose edge port or inbound queues hold a token (R206). -/
def State.stilesBusy (s : State) (mask : Nat) : List Nat :=
  (List.range 64).filter fun k => decide (mask / 2 ^ (k / 8) % 2 = 1) && (List.range 8).any fun a => !(s.queue (stileQ k a)).toks.isEmpty

/-- A Stile that is not empty at rotation: its tokens are discarded as those of a Headland are, and the error is reported
against the edge input of its plot (R45, R206, assumption 57). -/
def State.stileNotEmpty (s : State) (k : Nat) : State :=
  let plot := 16 * (k / 2) + (if k % 2 = 0 then 0 else 15)
  let port := if k % 2 = 0 then 7 else 6
  let slot := s.field.cycle % 16
  let s := s.each (List.range 8) fun s a => s.setQueue (stileQ k a) { s.queue (stileQ k a) with toks := [] }
  s.stepError { cls := 3, block := 0x20 + plot / 16, plot := plot, detail := port + 16 * slot, addr := s.gaddr 3 (0x200408 + 0x1000 * plot) }

/-- The rotation point: the checks of R45 and of the Stiles, and READY to the leader (R206). -/
def State.rotationPoint (s : State) (n : Nat) : State :=
  let on := s.flag ROTATE_STATUS.LIT_VALID
  let ks := if on then (s.tokensIn s.lit.mask).map (·.1) else []
  let ss := if on then s.stilesBusy s.lit.mask else []
  let s := (s.each ks State.rotNotEmpty).each ss State.stileNotEmpty
  let v := s.flag ROTATE_STATUS.DARK_VALID
  let s := { s with rot := { s.rot with readyAt := s.get STEP_QCLK.TICKS, now := false, decided := false, lost := s.rot.lost.erase n } }
  (s.put ROTATE_STATUS.ROT_STATE rotReady).send 3 0x0101 s.leaderAt
    (stepMsg n (if v then leBytes 8 s.dark.imageId.toNat ++ leBytes 8 s.dark.digest8.toNat ++ [0]
      else List.replicate 16 0 ++ [1]))

/-- A rotation that runs at once, as soon as no Pass is in flight (R207, R456, R487). -/
def State.rotationNow (s : State) : State :=
  match s.rot.armed with
  | some n => if s.rot.now ∧ s.rotState = rotArmed ∧ s.sched.inflight.isEmpty then s.rotationPoint n else s
  | none => s

/-- Forgets the armed step. -/
def State.unarm (s : State) : State :=
  let s := { s with rot := { s.rot with armed := none, now := false } }
  (s.put ROTATE_STATUS.ROT_STATE rotNone).releaseStreams

/-- Whether a rotation at step `n` starts at once: a start rotation (R456), the recovery from a lit-plane error (R207),
or that of a frozen slice (R487). -/
def State.rotatesNow (s : State) (n : Nat) : Bool :=
  (s.stepState == stepStopped && !s.flag ROTATE_STATUS.LIT_VALID && n == 2 ^ 64 - 1) ||
  ((s.flag ROTATE_ERR.LIT_UE || s.get WARD_STATUS.STATE == 3) && n + 1 == s.get STEP_NUM.STEP)

/-- Step `n` has completed on this chip (R203): after COMMIT the boundary that still stands is that of the step before
STEP_NUM. -/
def State.stepDone (s : State) (n : Nat) : Bool :=
  decide (n < s.get STEP_NUM.STEP) || (n == s.get STEP_NUM.STEP && s.stepState == stepBoundary && !s.sched.committed)

/-- ARM (R203). -/
def State.arm (s : State) : State :=
  let n := s.get ROTATE_AT_STEP.STEP
  let now := s.rotatesNow n
  if s.rotState = rotReady ∨ s.rotState = rotSwap then s.put ROTATE_ERR.REFUSED 1
  else if !now && s.stepDone n then s.put ROTATE_ERR.STALE 1
  else
    let s := s.releaseStreams
    let s := { s with rot := { s.rot with armed := some n, now := now } }
    let s := (s.put ROTATE_STATUS.ROT_STATE rotArmed).holdStreams n
    s.rotationNow

/-- DISARM (R204). -/
def State.disarm (s : State) : State := if s.rotState = rotArmed then s.unarm else s

def execArm (src : Source) (s : State) : Host.Outcome State Fault Refusal :=
  .next (s.ctlWrite src 0x50000 1 4 fun s => s.arm)

def execDisarm (src : Source) (s : State) : Host.Outcome State Fault Refusal :=
  .next (s.ctlWrite src 0x50000 1 8 fun s => s.disarm)

/-- A write of ROTATE_CTRL: more than one command is refused (R212). -/
def State.rotateCtrl (s : State) (val : W64) : State :=
  match bitsOf val 0 4 with
  | 0 => s
  | 1 => s.load
  | 2 => s.loadAbort
  | 4 => s.arm
  | 8 => s.disarm
  | _ => s.put ROTATE_ERR.BAD_CMD 1

/-- The leader's decision on the READYs that it holds (R206): 0 for GO, else the cause of ABORT. -/
def readyCause (rs : List ReadyMsg) : Nat :=
  if rs.any (·.notLoaded) then 3
  else match rs with
    | [] => 0
    | r :: rest => if rest.all fun (x : ReadyMsg) => x.step == r.step && x.imageId == r.imageId && x.digest8 == r.digest8 then 0 else 2

/-- READY at the leader (R206). -/
def State.readyAtLeader (s : State) (r : ReadyMsg) : State :=
  let rs := s.rot.readies.filter (fun x => x.idx != r.idx) ++ [r]
  if (List.range s.sliceSize).all fun i => rs.any fun x => x.idx == i then
    let s := { s with rot := { s.rot with readies := [], decided := true } }
    let n := ((rs.find? fun x => x.idx == 0).map (·.step)).getD r.step
    let c := readyCause rs
    if c = 0 then s.sendAll 0x0102 (stepMsg n (leBytes 8 r.imageId))
    else s.sendAll 0x0103 (stepMsg n [BitVec.ofNat 8 c])
  else { s with rot := { s.rot with readies := rs } }

def execReady (h : MsgHdr) (step imageId digest8 : W64) (notLoaded : Bool) (s : State) : Host.Outcome State Fault Refusal :=
  .next (s.onMsg h .toLeader fun s =>
    s.readyAtLeader ⟨(s.indexOf h.src.toNat).getD 0, step.toNat, imageId.toNat, digest8.toNat, notLoaded⟩)

/-- ROTATE_TMO at the leader while a READY is missing (R208). -/
def execRotateTimeout (s : State) : Host.Outcome State Fault Refusal :=
  .next (match s.rot.armed with
    | some n =>
      if s.leads ∧ s.rotState = rotReady ∧ !s.rot.decided then
        ({ s with rot := { s.rot with readies := [], decided := true } }).sendAll 0x0103 (stepMsg n [1])
      else s
    | none => s)

/-- The swap cycle (R206): the planes change places, the cycle counter and every queue restart, and the governor takes
the new image's figures. -/
def State.swapPlanes (s : State) : State :=
  let valid := s.flag ROTATE_STATUS.LIT_VALID
  let m := s.dark
  let o := s.lit
  let s := { s with lit := m, dark := o }
  let s := (((s.put ROTATE_STATUS.LIT_VALID 1).put ROTATE_LIT_ID.IMAGE_ID m.imageId.toNat).put ROTATE_PLANE_INFO.LIT_MASK
    m.mask).put ROTATE_PLANE_INFO.LIT_COMPAT (bit m.compat)
  let s := ((((s.put ROTATE_STATUS.DARK_VALID (bit valid)).put ROTATE_DARK_ID.IMAGE_ID
    (if valid then o.imageId.toNat else 0)).put ROTATE_PLANE_INFO.DARK_MASK (if valid then o.mask else 0)).put
    ROTATE_PLANE_INFO.DARK_COMPAT (bit (valid && o.compat))).put ROTATE_PLANE_INFO.DARK_FORMER (bit valid)
  let s := s.flushField
  { s with
    field := { s.field with cycle := 0, frac := 0, rotSeq := (s.field.rotSeq + 1) % 65536, gated := true }
    power := { s.power with peak := 100 * m.pwrPeak, idle := m.pwrIdle } }

/-- The tag state after a rotation (R226). -/
def State.tagsInit (s : State) : State := (s.setReg (STEP_TAGS.TAG 0).reg (s.reg (STEP_TAGINIT.TAG 0).reg)).setReg
  (STEP_TAGS.TAG 1).reg (s.reg (STEP_TAGINIT.TAG 1).reg)

/-- GO (R206): the tag state at the start of the step that follows is saved (R226); outside a power hold the swap follows at once; in a hold it follows the release (R431). -/
def State.goSwap (s : State) : State :=
  let bad := s.rot.darkBad
  let s := s.swapPlanes.tagsInit.saveTags
  let s := s.put CANDLE_GOV.PEAK_W s.lit.pwrPeak
  let s := if s.flag CLOCK_FIELD.PENDING then s.clockApply else s
  let s := { s with rot := { s.rot with litBad := bad, darkBad := false } }
  if bad then
    (s.put ROTATE_ERR.LIT_UE 1).stepError { cls := 7, block := 5, addr := s.gaddr 3 0x50000, nbits := 7 }
  else s

def State.go (s : State) (n : Nat) : State :=
  if s.rotState = rotReady ∧ s.rot.armed = some n then
    let s := s.put ROTATE_STATUS.ROT_STATE rotSwap
    if s.flag CANDLE_GOV.HOLD then { s with power := { s.power with goHeld := some n } } else s.goSwap
  else s

def execGo (h : MsgHdr) (step _imageId : W64) (s : State) : Host.Outcome State Fault Refusal :=
  .next (s.onMsg h .fromLeader fun s => s.go step.toNat)

/-- The boundary goes on after its rotation, when the rotation stood in it (R206, R209). -/
def State.afterRotation (s : State) : State :=
  if s.boundaryWork && !s.sched.ringWait then s.finishBoundary else s

/-- The Field clock has restarted: the rotation is complete (R206). -/
def State.rotationEnd (s : State) : State :=
  if s.rotState = rotSwap ∧ s.power.goHeld.isNone then
    let s := { s with field := { s.field with gated := false, darkStrips := ~~~(BitVec.ofNat 8 s.lit.mask) } }
    let s := (s.put ROTATE_COUNT.ROTATIONS (s.get ROTATE_COUNT.ROTATIONS + 1)).put ROTATE_COUNT.LAST_NS
      (min (2 ^ 32 - 1) (10 * (s.get STEP_QCLK.TICKS - s.rot.readyAt)))
    s.unarm.afterRotation
  else s

def execRotationComplete (s : State) : Host.Outcome State Fault Refusal := .next s.rotationEnd

/-- The ROTATE_ERR bit of an ABORT cause (R205, R212). -/
def State.abortErr (s : State) (cause : Nat) : State :=
  if cause = 1 then s.put ROTATE_ERR.TIMEOUT 1
  else if cause = 2 then s.put ROTATE_ERR.MISMATCH 1
  else if cause = 3 then s.put ROTATE_ERR.NOT_LOADED 1
  else s

/-- ABORT (R208, R209). -/
def State.rotAbort (s : State) (n cause : Nat) : State :=
  if s.rot.lost.contains n ∨ s.rotState = rotSwap then s
  else
    let waited := s.rotState = rotReady
    let s := (s.abortErr cause).unarm
    if waited then s.afterRotation else s

def execAbort (h : MsgHdr) (step : W64) (cause : BitVec 8) (s : State) : Host.Outcome State Fault Refusal :=
  .next (s.onMsg h .fromLeader fun s => s.rotAbort step.toNat cause.toNat)

/-- Neither GO nor ABORT arrived (R208, R489). -/
def State.rotLost (s : State) : State :=
  match s.rot.armed with
  | some n =>
    if s.rotState = rotReady then
      let s := { s with rot := { s.rot with lost := s.rot.lost ++ [n] } }
      let s := (s.put ROTATE_ERR.LOST 1).unarm
      let s := s.freezeIfOn []
      s.afterRotation
    else s
  | none => s

def execRotateLostTimeout (s : State) : Host.Outcome State Fault Refusal := .next s.rotLost

/-! ### Plane errors (R202) -/

/-- An uncorrectable word of a plane. -/
def State.planeUe (s : State) (dark : Bool) (plot : Nat) : State :=
  if dark then
    let s := { s with rot := { s.rot with darkBad := decide (s.rotState = rotReady ∨ s.rotState = rotSwap ∧ s.power.goHeld.isSome) } }
    s.darkInvalid.put ROTATE_ERR.DARK_UE 1
  else
    let s := { s with rot := { s.rot with litBad := true } }
    (s.put ROTATE_ERR.LIT_UE 1).stepError
      { cls := 7, block := 5, plot := plot, addr := s.gaddr 3 0x50000, nbits := 7 }

def execPlaneScrubRead (dark : Bool) (plot : BitVec 9) (code : CodeResult) (s : State) : Host.Outcome State Fault Refusal :=
  .next (match code with
    | .one _ => s.bump ROTATE_PLANE_CE.CE_COUNT 1
    | .two => s.planeUe dark plot.toNat
    | .ue => s.planeUe dark plot.toNat
    | _ => s)

end Sys2Proof.Machine
end

