-- ==== Sys2Proof/Machine/Fallow.lean ====
section
/-!
DEFINITION. The Fallow store: objects and mirrors, reads, scrub and repair, installation and the slot pointer (R343 to
R359, R462).
-/
namespace Sys2Proof.Machine

/-- A SHA-384 digest as the little-endian number of its 48 bytes. -/
def shaLe (bs : List Byte) : Nat := leNat (sha384 bs)

/-! ### Slots and superblocks (R345 to R347) -/

def instIdle : Nat := 0
def instOpen : Nat := 1
def instLoading : Nat := 2
def instCommitting : Nat := 3

def State.instState (s : State) : Nat := s.get FALLOW_STATUS.INST
def State.activeSlot (s : State) : Bool := s.flag FALLOW_STATUS.SLOT

def State.falSlot (s : State) (b : Bool) : FalSlot := if b then s.fallow.slot1 else s.fallow.slot0
def State.setFalSlot (s : State) (b : Bool) (v : FalSlot) : State :=
  { s with fallow := if b then { s.fallow with slot1 := v } else { s.fallow with slot0 := v } }

def FalSlot.find (v : FalSlot) (num : Nat) : Option FalObj := v.objs.find? fun o => o.num == num
def FalSlot.setObj (v : FalSlot) (o : FalObj) : FalSlot := { v with objs := v.objs.map fun x => if x.num = o.num then o else x }

def FalObj.sbs (o : FalObj) : List Nat := (o.c0.elim [] (·.sbs)) ++ (o.c1.elim [] (·.sbs))
def FalSlot.sbs (v : FalSlot) : List Nat := v.objs.flatMap FalObj.sbs
/-- Both copies of an object are written. -/
def FalObj.written (o : FalObj) : Bool := o.c0.isSome && o.c1.isSome

/-- Superblocks that a slot refers to, or that a read still uses. -/
def FallowSt.used (f : FallowSt) : List Nat := (f.slot0.sbs ++ f.slot1.sbs ++ f.held.flatMap (·.1)).eraseDups

/-- Superblocks outside the system area. -/
def FallowSt.total (f : FallowSt) : Nat := f.targets * (f.blocks - 16)

/-- Keeps FALLOW_GEOM.FREE. -/
def State.falCount (s : State) : State := s.put FALLOW_GEOM.FREE (s.fallow.total - s.fallow.used.length)

/-- The target of copy 1 for a target of copy 0 (R346). -/
def partner (n t : Nat) : Nat := if n = 4 then t ^^^ 2 else if n = 3 then (t + 1) % 3 else if n = 2 then t ^^^ 1 else t

/-- The target of copy 0 for a target of copy 1. -/
def partnerOf (n t : Nat) : Nat := if n = 3 then (t + 2) % 3 else partner n t

/-- The `i`th pair of matched superblocks; on a store of one target the match is the next block. -/
def superPair (n blocks i : Nat) : Nat × Nat :=
  if n ≤ 1 then (16 + 2 * i, 17 + 2 * i)
  else (i % n * blocks + 16 + i / n, partner n (i % n) * blocks + 16 + i / n)

/-- The first `need` pairs of free superblocks (assumption 40). -/
def pickPairs (n blocks : Nat) : Nat → Nat → Nat → List Nat → Option (List Nat × List Nat)
  | _, _, 0, _ => some ([], [])
  | 0, _, _ + 1, _ => none
  | fuel + 1, i, need + 1, used =>
    let c := superPair n blocks i
    if used.contains c.1 || used.contains c.2 then pickPairs n blocks fuel (i + 1) (need + 1) used
    else (pickPairs n blocks fuel (i + 1) need (c.1 :: c.2 :: used)).map fun r => (c.1 :: r.1, c.2 :: r.2)

/-- The first free superblock of a target. -/
def pickOn (blocks t : Nat) (used : List Nat) : Nat → Nat → Option Nat
  | 0, _ => none
  | fuel + 1, b => if used.contains (t * blocks + b) then pickOn blocks t used fuel (b + 1) else some (t * blocks + b)

/-- Free superblocks that match those of the other copy. -/
def pickMatch (n blocks : Nat) (copy1 : Bool) : List Nat → List Nat → Option (List Nat)
  | [], _ => some []
  | o :: os, used =>
    let t := if copy1 then partner n (o / blocks) else partnerOf n (o / blocks)
    match pickOn blocks t used (blocks - 16) 16 with
    | none => none
    | some k => (pickMatch n blocks copy1 os (k :: used)).map fun r => k :: r

/-- Superblocks of a copy of `len` bytes. -/
def FallowSt.need (f : FallowSt) (len : Nat) : Nat := cdiv (max 1 len) (262144 * f.pages)

/-- Frees superblocks once the reads that run have ended (R347, R356). -/
def State.falRelease (s : State) (sbs : List Nat) : State :=
  if s.fallow.reads.isEmpty ∨ sbs.isEmpty then s.falCount
  else State.falCount { s with fallow := { s.fallow with held := s.fallow.held ++ [(sbs, s.fallow.reads.map (·.pos))] } }

/-- A read has ended: what waited for it alone is free. -/
def State.falReadEnded (s : State) (pos : Nat) : State :=
  State.falCount { s with fallow := { s.fallow with
    reads := s.fallow.reads.filter fun r => r.pos != pos
    held := (s.fallow.held.map fun h => (h.1, h.2.filter (· != pos))).filter fun h => !h.2.isEmpty } }

/-! ### Manifests (R348) -/

/-- An entry of a manifest. -/
structure ManEntry where
  num : Nat
  kind : Nat
  zeros : Nat
  len : Nat
  model : Nat
  digest : Nat
  deriving DecidableEq, Repr

def manNat (bs : List Byte) (o n : Nat) : Nat := leNat ((bs.drop o).take n)

def manEntry (bs : List Byte) (i : Nat) : ManEntry :=
  let o := 128 + 80 * i
  ⟨manNat bs o 4, manNat bs (o + 4) 1, manNat bs (o + 5) 3 + manNat bs (o + 0x48) 8, manNat bs (o + 8) 8,
    manNat bs (o + 0x10) 8, manNat bs (o + 0x18) 48⟩

def manEntries (bs : List Byte) : List ManEntry := (List.range (manNat bs 0x10 4)).map (manEntry bs)

def ManEntry.bad (e : ManEntry) : Bool :=
  !decide (e.kind = 1 ∨ e.kind = 2 ∨ e.kind = 3) || e.zeros != 0 || decide (e.len < 64 ∨ 2 ^ 40 < e.len) || e.len % 64 != 0 ||
    e.kind == 3 && e.model != 0

/-- Strictly ascending object numbers from 1. -/
def manAscending : Nat → List ManEntry → Bool
  | _, [] => true
  | lo, e :: es => decide (lo < e.num) && manAscending e.num es

/-- The format of a manifest of `n` bytes for the chip at torus position `xyz`. -/
def manFormatOk (bs : List Byte) (n xyz : Nat) : Bool :=
  let e := manNat bs 0x10 4
  let pos := manNat bs 7 1
  decide (256 ≤ n) && manNat bs 0 4 == 0x4E4D4C46 && manNat bs 4 2 == 1 && manNat bs 6 1 == 1 && decide (pos < 128) &&
    (pos / 64 == 1 || pos == xyz) && decide (1 ≤ e ∧ e ≤ 1048576) && n == 256 + 80 * e && manNat bs 0x14 12 == 0 &&
    manNat bs 0x60 32 == 0 && manAscending 0 (manEntries bs) && !(manEntries bs).any ManEntry.bad

/-- The signature over the header, and TABLE_DIGEST (R192, R348). -/
def State.manVerified (s : State) (bs : List Byte) : Bool :=
  let e := manNat bs 0x10 4
  let o := 128 + 80 * e
  let big (a n : Nat) : Nat := beNat ((bs.drop a).take n)
  manNat bs 0x30 48 == shaLe ((bs.drop 128).take (80 * e)) &&
    manNat bs o 2 == 1 && manNat bs (o + 2) 2 == 0 && manNat bs (o + 4) 16 == manNat bs 0x20 16 &&
    manNat bs (o + 0x14) 12 == 0 &&
    s.publisherOk (manNat bs 0x20 16) (big (o + 0x20) 48) (big (o + 0x50) 48) (bs.take 128)

/-! ### Reading (R352, R353) -/

/-- Where a sector of a copy lies: superblock, page of its blocks, channel, and sector of the page (R345). -/
structure SectorPlace where
  superblock : Nat
  page : Nat
  channel : Nat
  sector : Nat
  deriving DecidableEq, Repr

/-- Superpage of the copy, channel and sector of the page of the `i`th 1,024 bytes: byte k of a superpage lies in channel
(k div 1,024) mod 16, in sector k div 16,384 of that channel's page (R345). -/
def sectorSplit (i : Nat) : Nat × Nat × Nat := (i / 256, i % 16, i / 16 % 16)

/-- The place of the `i`th sector of a copy, whose superpages are read in order (R345, R346). -/
def FalCopy.place (c : FalCopy) (pages i : Nat) : Option SectorPlace :=
  let x := sectorSplit i
  (c.sbs[x.1 / pages]?).map fun sb => ⟨sb, x.1 % pages, x.2.1, x.2.2⟩

/-- The number in the copy of a sector of a superpage. -/
def sectorNumber (superpage channel sector : Nat) : Nat := 256 * superpage + 16 * sector + channel

theorem sectorNumber_split (i : Nat) :
    sectorNumber (sectorSplit i).1 (sectorSplit i).2.1 (sectorSplit i).2.2 = i := by
  simp only [sectorNumber, sectorSplit]; omega

/-- The 1,024 bytes of a sector of an object, in the object's order (R344, R345). -/
def sector (d : List Byte) (i : Nat) : List Byte := (d.drop (1024 * i)).take 1024

/-- The sectors of one copy, with those that it cannot give taken from the other. -/
def mixSectors (n : Nat) (a : List Byte) (badA : List Nat) (b : List Byte) (badB : List Nat) : Option (List Byte) :=
  if (List.range n).any fun i => badA.contains i && badB.contains i then none
  else some ((List.range n).flatMap fun i => if badA.contains i then sector b i else sector a i)

/-- Queues a copy for repair. -/
def State.queueRepair (s : State) (num : Nat) (copy1 : Bool) : State :=
  if s.fallow.repairs.contains (num, copy1) then s
  else { s with fallow := { s.fallow with repairs := s.fallow.repairs ++ [(num, copy1)] } }

/-- An object is lost (R352, R356). -/
def State.falLost (s : State) (num : Nat) : State :=
  (s.put FALLOW_ERR.LOST 1).errlog { cls := 0xD, block := 0xC, addr := num }

/-- The digest of an object in a manifest. -/
def manDigest (bs : List Byte) (num : Nat) : Option Nat := ((manEntries bs).find? fun e => e.num == num).map (·.digest)

/-- The outcome of a read: its cause or 0, and the bytes delivered. -/
abbrev ReadOut := Nat × List Byte

/-- Step 4 of R352: the digest table is in doubt. -/
def State.falDoubt (s : State) (o : FalObj) (d0 d1 : List Byte) : State × ReadOut :=
  let b := s.activeSlot
  let m := s.falSlot b
  let ok0 := s.manVerified m.man0
  let ok1 := s.manVerified m.man1
  if !ok0 && !ok1 then ((s.put FALLOW_ERR.MANIFEST 1).put FALLOW_STATUS.SLOT_BAD 1, 4, [])
  else
    let man := if ok0 then m.man0 else m.man1
    let dg := (manDigest man o.num).getD o.digest
    let s := if ok0 then s else s.put FALLOW_ERR.MANIFEST 1
    let s := s.setFalSlot b ({ m with man0 := man, man1 := man }.setObj { o with digest := dg })
    if shaLe d0 = dg then (s.queueRepair o.num true, 0, d0)
    else if shaLe d1 = dg then (s.queueRepair o.num false, 0, d1)
    else (s.falLost o.num, 3, [])

/-- The bytes of a copy, and the sectors that it does not give: those that are uncorrectable, and those that no superblock
of the copy holds. -/
def copyData (c : Option FalCopy) (pages n : Nat) (bad : List Nat) : List Byte × List Nat :=
  match c with
  | some c => (c.data, (List.range n).filter fun i => bad.contains i || (c.place pages i).isNone)
  | none => ([], List.range n)

/-- A read of one whole object of the active slot. -/
def State.falRead (s : State) (num len : Nat) (bad0 bad1 : List Nat) : State × ReadOut :=
  if s.flag FALLOW_STATUS.SLOT_BAD then (s, 4, [])
  else match (s.falSlot s.activeSlot).find num with
    | none => (s, 5, [])
    | some o =>
      if o.len ≠ len then (s, 6, [])
      else
        let n := cdiv o.len 1024
        let c0 := copyData o.c0 s.fallow.pages n bad0
        let c1 := copyData o.c1 s.fallow.pages n bad1
        let s := if c0.2.isEmpty && c1.2.isEmpty then s else s.put FALLOW_ERR.ECC_UE 1
        match mixSectors n c0.1 c0.2 c1.1 c1.2, mixSectors n c1.1 c1.2 c0.1 c0.2 with
        | some d0, some d1 =>
          if shaLe d0 = o.digest then (s, 0, d0)
          else if shaLe d1 = o.digest then ((s.put FALLOW_ERR.MIRROR_DIFF 1).queueRepair num false, 0, d1)
          else s.falDoubt o d0 d1
        | _, _ => (s, 2, [])

/-- A fetch from Fallow: a READ of the named object, whose LENGTH must be EXP_BYTES; a failed one leaves the slot zeroed and
is an error of its step (R353). -/
def State.fetchFallow (s : State) (mb : Bool) (j : Nat) (w : SowerSt) (slot : Nat) (e : ResEntry) (bad0 bad1 : List Nat)
    (corrected : Nat) : State :=
  let r := (s.bump FALLOW_CE.CE corrected).falRead (e.source % 2 ^ 32) w.cfg.expBytes bad0 bad1
  if r.2.1 = 0 then r.1.fetchLand mb w j slot e r.2.2
  else r.1.fetchFail mb w j fun s =>
    (s.topZero (w.cfg.wslot + slot * w.cfg.wslotBytes) w.cfg.expBytes).stepError { cls := 8, block := 6 }

/-- A fetch from a memory tier: a copy that the range list or a missing grant may refuse (R260, R318, R322). -/
def State.fetchMemory (s : State) (mb : Bool) (j : Nat) (w : SowerSt) (slot : Nat) (e : ResEntry) (code : CodeResult)
    (remote : List Byte) : State :=
  let n := w.cfg.expBytes
  if s.accessRefused false e.source n || s.rangeRefuses true (s.gaddr 1 (w.cfg.wslot + slot * w.cfg.wslotBytes)) n then
    s.fetchFail mb w j fun s => s.stepRefusal 6 e.source
  else
    let r := s.readAny (some (.fetch mb j)) e.source n code true remote
    r.1.fetchLand mb w j slot e r.2.1

def execFetchComplete (mb : Bool) (j : BitVec 12) (f : FetchRead) (s : State) : Host.Outcome State Fault Refusal :=
  .next (match s.fetchOf mb j.toNat with
    | none => s
    | some (w, slot, e) =>
      if s.writeWaits (s.gaddr 1 (w.cfg.wslot + slot * w.cfg.wslotBytes)) w.cfg.expBytes then s
      else if e.src = 0 then (s.fetchMemory mb j.toNat w slot e f.code f.remote).ownerDone (.fetch mb j.toNat)
      else if !s.flag FALLOW_STATUS.READY then s
      else (s.fetchFallow mb j.toNat w slot e f.bad0 f.bad1 f.corrected).ownerDone (.fetch mb j.toNat))

/-! ### The queue (R354) -/

def State.falOff (s : State) (i : Nat) : Nat :=
  4096 * s.get FALLOW_QBASE.BASE + 32 * (i % 2 ^ s.get FALLOW_QBASE.LOG2N)
def State.falDesc (s : State) (i : Nat) : List W64 := s.topWords (s.falOff i) 4

def falOp (d : List W64) : Nat := bitsOf (d.getD 0 0) 0 4
def falNum (d : List W64) : Nat := bitsOf (d.getD 0 0) 32 32
def falAddr (d : List W64) : Nat := (d.getD 1 0).toNat
def falLen (d : List W64) : Nat := bitsOf (d.getD 2 0) 0 41

/-- Cause DESC: a bad operation, a nonzero zero bit, or an address that the chip's own tiers refuse. -/
def State.falDescBad (s : State) (d : List W64) : Bool :=
  let a := falAddr d
  !decide (falOp d = 1 ∨ falOp d = 2) || bitsOf (d.getD 0 0) 4 28 != 0 || bitsOf (d.getD 2 0) 41 23 != 0 ||
    d.getD 3 0 != 0 || a % 64 != 0 || !decide (a / 2 ^ 44 = s.self) || !decide (a / 2 ^ 42 % 4 = 1 ∨ a / 2 ^ 42 % 4 = 2) ||
    s.accessRefused (falOp d == 1) a (falLen d)

/-- HEAD passes the descriptors that have ended. -/
def State.advanceFal : Nat → State → State
  | 0, s => s
  | n + 1, s =>
    let h := s.get FALLOW_QPTR.HEAD
    if h = s.get FALLOW_QPTR.ISSUE ∨ s.fallow.reads.any (fun r => r.pos == h) then s
    else (s.put FALLOW_QPTR.HEAD (h + 1)).advanceFal n

/-- Writes a descriptor's status and retires it. -/
def State.falEnd (s : State) (pos cause : Nat) : State :=
  (s.topPutWord (s.falOff pos + 24) (if cause = 0 then 1 else 3 + 4 * cause)).advanceFal 65536

/-- The next descriptor, when one may run. -/
def State.falNext (s : State) : Option Nat :=
  let i := s.get FALLOW_QPTR.ISSUE
  if !s.flag FALLOW_STATUS.READY || i == s.get FALLOW_QPTR.TAIL || decide (8 ≤ s.fallow.reads.length) then none else some i

/-- The next descriptor is issued. -/
def State.falIssued (s : State) (i : Nat) : State := s.put FALLOW_QPTR.ISSUE (i + 1)

/-- A descriptor of cause DESC ends. -/
def State.falRefuse (s : State) (i : Nat) : State := ((s.falIssued i).put FALLOW_ERR.DESC_BAD 1).falEnd i 1

/-- The bytes of a READ's destination are undefined until it completes (R353): free values, which count as no
transfer. -/
def State.scramble (s : State) (a n : Nat) : State :=
  match s.locate a with
  | .top o =>
    let old := s.topsoil
    let s := { s with topsoil := s.topsoil.write 64 o (s.freeBytes n) }
    State.drawn (if s.wardOn then s.deltas old (o / 64) (lineCount o n) else s)
  | .sub o => State.drawn { s with subsoil := s.subsoil.write 64 o (s.freeBytes n) }
  | _ => s

def execFallowRead (bad0 bad1 : List Nat) (corrected : Nat) (s : State) : Host.Outcome State Fault Refusal :=
  match s.falNext with
  | none => .next s
  | some i =>
    let d := s.falDesc i
    if !s.falDescBad d && (falOp d != 1 || s.writeWaits (falAddr d) (falLen d)) then .next s
    else
      let s := s.partReads (s.falOff i) 32 false
      if s.falDescBad d then .next (s.falRefuse i)
      else
        let r := (s.bump FALLOW_CE.CE corrected).falRead (falNum d) (falLen d) bad0 bad1
        let s := (r.1.falIssued i).scramble (falAddr d) (falLen d)
        .next { s with fallow := { s.fallow with reads := s.fallow.reads ++ [⟨i, falAddr d, falLen d, r.2.1, r.2.2⟩] } }

def execFallowReadDone (pos : BitVec 16) (s : State) : Host.Outcome State Fault Refusal :=
  match s.fallow.reads.find? fun r => r.pos == pos.toNat with
  | none => .next s
  | some r =>
    if s.writeWaits r.addr r.len then .next s
    else
      let s := if r.cause = 0 then s.pokeAt r.addr r.data else s.zeroAt r.addr r.len
      .next ((s.falReadEnded r.pos).falEnd r.pos r.cause)

/-! ### Writing (R357, R358) -/

/-- Writes both copies of an unwritten object of the slot being installed; `none` when free superblocks run out. -/
def State.falStore (s : State) (o : FalObj) (bs : List Byte) : Option State :=
  let f := s.fallow
  let fuel := if f.targets ≤ 1 then (f.blocks - 16) / 2 else f.total
  (pickPairs f.targets f.blocks fuel 0 (f.need o.len) f.used).map fun p =>
    let b := !s.activeSlot
    State.falCount (s.setFalSlot b ((s.falSlot b).setObj { o with c0 := some ⟨bs, p.1⟩, c1 := some ⟨bs, p.2⟩ }))

/-- An object of the slot being installed that is not yet written. -/
def State.unwritten (s : State) (num : Nat) : Option FalObj :=
  if s.instState = instLoading then ((s.falSlot (!s.activeSlot)).find num).filter fun o => !o.written else none

/-- A WRITE descriptor: the state, and the cause with which it ends. -/
def State.falWrite (s : State) (i : Nat) (d : List W64) (readbackOk : Bool) : State × Nat :=
  if KMap.get (fun _ => 0) s.fallow.atL2 i = 0 then (s, 9)
  else if s.instState ≠ instLoading then (s, 8)
  else match s.unwritten (falNum d) with
    | none => (s, 5)
    | some o =>
      if o.len ≠ falLen d then (s, 6)
      else
        let bs := s.peek (falAddr d) o.len
        let s := (s.loaderReads (falAddr d) o.len)
        match s.falStore o bs with
        | none => (s, 7)
        | some t => if readbackOk && shaLe bs == o.digest then (t, 0) else (s, 3)

def execFallowWrite (readbackOk : Bool) (s : State) : Host.Outcome State Fault Refusal :=
  match s.falNext with
  | none => .next s
  | some i =>
    let d := s.falDesc i
    if !s.falDescBad d && falOp d != 2 then .next s
    else
      let s := s.partReads (s.falOff i) 32 false
      if s.falDescBad d then .next (s.falRefuse i)
      else
        let r := (s.falIssued i).falWrite i d readbackOk
        .next (r.1.falEnd i r.2)

/-! ### Scrub and repair (R355, R356) -/

/-- What a pass found in a copy. -/
def foundBits (found : List ScrubFind) (num : Nat) (copy1 : Bool) : Nat :=
  ((found.find? fun f => f.object.toNat == num && f.copy1 == copy1).map (·.bits)).getD 0

/-- The scrub of one object: copies to repair, a lost object, or a digest table in doubt. -/
def State.scrubObj (s : State) (found : List ScrubFind) (o : FalObj) : State :=
  let b0 := foundBits found o.num false
  let b1 := foundBits found o.num true
  let ue (b : Nat) : Bool := decide (72 < b)
  let good (c : Option FalCopy) (b : Nat) : Bool := !ue b && c.elim false fun c => shaLe c.data == o.digest
  let g0 := good o.c0 b0
  let g1 := good o.c1 b1
  let s := if ue b0 || ue b1 then s.put FALLOW_ERR.ECC_UE 1 else s
  let s := s.bump FALLOW_CE.CE ([b0, b1].countP fun b => decide (1 ≤ b ∧ b ≤ 72))
  let s := if o.written && !ue b0 && !ue b1 && o.c0.map (·.data) != o.c1.map (·.data) then s.put FALLOW_ERR.MIRROR_DIFF 1 else s
  let rf := s.get FALLOW_SCRUB.REFRESH_BITS
  if !g0 && !g1 then
    if o.written && !ue b0 && !ue b1 then
      (s.falDoubt o ((o.c0.elim [] (·.data)).take o.len) ((o.c1.elim [] (·.data)).take o.len)).1
    else s.falLost o.num
  else
    let s := if !g0 || decide (rf ≤ b0) then s.queueRepair o.num false else s
    if !g1 || decide (rf ≤ b1) then s.queueRepair o.num true else s

/-- The manifest copies of the active slot: a copy that fails verification is rewritten from the other. -/
def State.scrubManifest (s : State) : State :=
  let m := s.falSlot s.activeSlot
  if m.man0 = m.man1 then s
  else
    let ok0 := s.manVerified m.man0
    let s := s.put FALLOW_ERR.MANIFEST 1
    if ok0 then s.setFalSlot s.activeSlot { m with man1 := m.man0 }
    else if s.manVerified m.man1 then s.setFalSlot s.activeSlot { m with man0 := m.man1 }
    else s

/-- A scrub pass of the active slot, which powers D17 up. No pass runs before the pointer has been read. -/
def State.scrubPass (s : State) (found : List ScrubFind) : State :=
  if s.power.falStart then s
  else
    let s := s.put FALLOW_STATUS.SCRUB_BUSY 1
    (s.each (s.falSlot s.activeSlot).objs fun s o => s.scrubObj found o).scrubManifest

def execFallowScrubPeriod (found : List ScrubFind) (s : State) : Host.Outcome State Fault Refusal :=
  .next (s.scrubPass found).fallowWake

/-- The outcome of a FALLOW_CMD. -/
def State.falResult (s : State) (src : Source) (outcome reason : Nat) : State :=
  s.setResult 0xC0010 src (BitVec.ofNat 64 (1 + 2 * outcome + 8 * reason))

/-- A FALLOW_CMD, written at L2. -/
def State.falCmd (s : State) (src : Source) (op : Nat) (act : State → State) : State :=
  s.ctlWrite src 0xC0008 2 (BitVec.ofNat 64 op) fun s => (act s).fallowWake

def execScrubNow (src : Source) (found : List ScrubFind) (s : State) : Host.Outcome State Fault Refusal :=
  .next (s.falCmd src 5 fun s => (s.scrubPass found).falResult src 0 0)

/-- A pointer record: SEQ one above the last. -/
def State.nextPtr (s : State) (active : Bool) : PtrRec := ⟨s.get FALLOW_SEQ.SEQ + 1, active⟩

/-- Programs the first `n` pointer copies with a record, in order; with copy 1 the record is in effect (R350, R351). -/
def State.programPtr (s : State) (r : PtrRec) (n : Nat) : State :=
  let s := if 1 ≤ n then { s with fallow := { s.fallow with ptr0 := some r } } else s
  let s := if 2 ≤ n then { s with fallow := { s.fallow with ptr1 := some r } } else s
  let s := if 3 ≤ n then { s with fallow := { s.fallow with ptr2 := some r } } else s
  if 2 ≤ n then s.put FALLOW_SEQ.SEQ r.seq else s

/-- The repair of one copy of an object of the active slot. -/
def State.falRepair (s : State) (num : Nat) (copy1 : Bool) (programmed : Nat) : State :=
  let b := s.activeSlot
  match (s.falSlot b).find num with
  | none => s
  | some o =>
    match if copy1 then o.c0 else o.c1 with
    | none => s.falLost num
    | some good =>
      if shaLe good.data ≠ o.digest then s.falLost num
      else
        let f := s.fallow
        match pickMatch f.targets f.blocks copy1 good.sbs f.used with
        | none => s.put FALLOW_ERR.NOSPACE 1
        | some sbs =>
          let old := ((if copy1 then o.c1 else o.c0).elim [] (·.sbs))
          let s := s.programPtr (s.nextPtr b) programmed
          if programmed < 2 then s
          else
            let fresh := some (FalCopy.mk good.data sbs)
            let put (v : FalSlot) : FalSlot :=
              { v with objs := v.objs.map fun x =>
                if x.num = num ∧ (if copy1 then x.c1 else x.c0) = (if copy1 then o.c1 else o.c0) then
                  (if copy1 then { x with c1 := fresh } else { x with c0 := fresh })
                else x }
            let s := (s.setFalSlot b (put (s.falSlot b))).setFalSlot (!b) (put (s.falSlot (!b)))
            s.falRelease old

def execFallowRepair (programmed : Fin 4) (s : State) : Host.Outcome State Fault Refusal :=
  match s.fallow.repairs with
  | [] => .next s
  | r :: rs =>
    if s.instState = instCommitting then .next s
    else
      let s := { s with fallow := { s.fallow with repairs := rs } }
      .next (s.falRepair r.1 r.2 programmed.val)

/-! ### Installation (R357 to R359) -/

/-- A command given in state `st`; in any other it fails with reason STATE. -/
def State.instCmd (s : State) (src : Source) (op : Nat) (sts : List Nat) (act : State → State) : State :=
  s.falCmd src op fun s =>
    if !s.power.falStart && sts.contains s.instState then act s else s.falResult src 1 1

/-- Empties the slot that is not active. -/
def State.clearNew (s : State) : State := (s.setFalSlot (!s.activeSlot) .empty).falCount

def execInstBegin (src : Source) (s : State) : Host.Outcome State Fault Refusal :=
  .next (s.instCmd src 1 [instIdle] fun s => (s.clearNew.put FALLOW_STATUS.INST instOpen).falResult src 0 0)

/-- The new slot of a manifest: an entry that the active slot holds with the same digest shares its copies. -/
def newSlot (bs : List Byte) (act : FalSlot) : FalSlot :=
  ⟨bs, bs, (manEntries bs).map fun e =>
    match act.find e.num with
    | some o => if o.digest = e.digest then ⟨e.num, e.kind, e.len, e.digest, o.c0, o.c1⟩
        else ⟨e.num, e.kind, e.len, e.digest, none, none⟩
    | none => ⟨e.num, e.kind, e.len, e.digest, none, none⟩⟩

/-- INST_MANIFEST. -/
def State.instManifest (s : State) (src : Source) : State :=
  let a := s.get FALLOW_MADDR.ADDR
  let n := s.get FALLOW_MLEN.LEN
  let readable := match s.locate a with
    | .top o => topRange o n
    | _ => false
  if !readable then s.falResult src 1 2
  else
    let bs := s.peek a n
    let s := s.loaderReads a n
    if manFormatOk bs n (s.get ROUTE_SELF.XYZ) && s.manVerified bs then
      let s := (s.setFalSlot (!s.activeSlot) (newSlot bs (s.falSlot s.activeSlot))).falCount
      (s.put FALLOW_STATUS.INST instLoading).falResult src 0 0
    else s.falResult src 1 2

def execInstManifest (src : Source) (s : State) : Host.Outcome State Fault Refusal :=
  .next (s.instCmd src 2 [instOpen] fun s => s.instManifest src)

/-- INST_COMMIT: pointer copy 0 is programmed; the record takes effect with copy 1. -/
def State.instCommit (s : State) (src : Source) : State :=
  if (s.falSlot (!s.activeSlot)).objs.all FalObj.written then
    ((s.programPtr (s.nextPtr (!s.activeSlot)) 1).put FALLOW_STATUS.INST instCommitting).falResult src 0 0
  else s.falResult src 1 3

def execInstCommit (src : Source) (s : State) : Host.Outcome State Fault Refusal :=
  .next (s.instCmd src 3 [instLoading] fun s => s.instCommit src)

def execInstAbort (src : Source) (s : State) : Host.Outcome State Fault Refusal :=
  .next (s.instCmd src 4 [instOpen, instLoading] fun s => (s.clearNew.put FALLOW_STATUS.INST instIdle).falResult src 0 0)

/-- The flip of an installation (R351, R357, R359). -/
def State.commitPointer (s : State) : State :=
  if s.instState = instCommitting then
    let old := s.activeSlot
    let keep := (s.falSlot (!old)).sbs
    let gone := (s.falSlot old).sbs.filter fun k => !keep.contains k
    let s := s.programPtr (s.nextPtr (!old)) 3
    let s := { s with fallow := { s.fallow with repairs := [] } }
    let s := ((s.put FALLOW_STATUS.SLOT (bit (!old))).put FALLOW_STATUS.INST instIdle).put FALLOW_STATUS.SLOT_BAD 0
    (s.setFalSlot old .empty).falRelease gone
  else s

def execCommitPointerEffect (s : State) : Host.Outcome State Fault Refusal := .next s.commitPointer

/-! ### Start (R462, R494) -/

/-- The pointer is settled by majority, and every superblock outside the active slot is freed. -/
def State.falSettle (s : State) : State :=
  let f := s.fallow
  match majority f.ptr0 f.ptr1 f.ptr2 with
  | none => s.tripleError 0xC 0 (allDiffer f.ptr0 f.ptr1 f.ptr2)
  | some r =>
    let s := { s with fallow := { f with ptr0 := some r, ptr1 := some r, ptr2 := some r, reads := [], repairs := [], held := [] } }
    let s := ((s.put FALLOW_STATUS.SLOT (bit r.active)).put FALLOW_SEQ.SEQ r.seq).put FALLOW_STATUS.INST instIdle
    let s := (s.put FALLOW_GEOM.TARGETS f.targets).put FALLOW_GEOM.BLOCKS f.blocks
    s.clearNew.put FALLOW_STATUS.READY 1

end Sys2Proof.Machine
end

