-- ==== Sys2Proof/Machine/Drill.lean ====
section
/-!
DEFINITION. The Drill chain (R360 to R367): the head, the members, bypasses and catch-ups.
-/
namespace Sys2Proof.Machine

def chunkBytes : Nat := 1048576

def causeRefused : Nat := 1
def causeDigest : Nat := 2
def causeSlow : Nat := 3
def causeIdle : Nat := 4
def causeHead : Nat := 5
def causeWindow : Nat := 6
def causeAbort : Nat := 7
def resPending : Nat := 0
def resDone : Nat := 1
def resFailed : Nat := 2

/-! ### Fields of the job descriptor (R360) -/

def memPos (w : W64) : Nat := bitsOf w 0 6
def memKeep (w : W64) : Bool := bitOf w 6
def memKind (w : W64) : Nat := bitsOf w 7 2
def memFirst (w : W64) : Nat := bitsOf w 9 20
def memLast (w : W64) : Nat := bitsOf w 29 20

/-- Whether the member of an entry keeps chunk `n`. -/
def memKeeps (w : W64) (n : Nat) : Bool := memKeep w && decide (memFirst w ≤ n ∧ n ≤ memLast w)

/-- Chunks of a stream. -/
def chunkCount (len : Nat) : Nat := cdiv len chunkBytes

/-- The length of chunk `n`. -/
def chunkLen (len n : Nat) : Nat := min chunkBytes (len - n * chunkBytes)

/-- Bytes of chunks FIRST to LAST of an entry. -/
def keptLen (w : W64) (len : Nat) : Nat := min len ((memLast w + 1) * chunkBytes) - memFirst w * chunkBytes

/-- Whether some member of a list keeps chunk `n`. -/
def neededBy (ms : List (Nat × W64)) (n : Nat) : Bool := ms.any fun m => memKeeps m.2 n

/-- The DRILL_BUF entry of chunk `n` at a member with its followers: chunks sent to it take the 96 entries in turn
(assumption 41). -/
def bufEntry (ms : List (Nat × W64)) (n : Nat) : Nat := (List.range n).countP (neededBy ms) % 96

def State.bufOff (s : State) (ms : List (Nat × W64)) (n : Nat) : Nat :=
  chunkBytes * s.get DRILL_BUF.BASE + chunkBytes * bufEntry ms n

/-- The next chunk from `n` on that some member of a list keeps, below `count`. -/
def nextNeeded (ms : List (Nat × W64)) (count n : Nat) : Option Nat :=
  let firsts := ms.filterMap fun m =>
    if memKeep m.2 && decide (n ≤ memLast m.2) then some (max n (memFirst m.2)) else none
  (firsts.min?).filter fun k => decide (k < count)

/-! ### Messages -/

def le4 (n : Nat) : List Byte := leBytes 4 n
def pad64 (bs : List Byte) : List Byte := bs ++ List.replicate (64 - bs.length) 0

/-- The chip of a member. -/
def State.memChip (s : State) (m : Nat × W64) : Nat := s.chipAt (memPos m.2)

/-- Sends chunk `n` to the member that leads a list: its bytes by WRITE packets, then CHUNK (R385). -/
def State.sendChunk (s : State) (jobId n : Nat) (ms : List (Nat × W64)) (bs : List Byte) : State :=
  match ms with
  | [] => s
  | m :: _ =>
    let dst := s.memChip m
    let s := s.sendBytes 6 dst .drill (cdiv bs.length 2048) (dst * 2 ^ 44 + 2 ^ 42 + s.bufOff ms n) bs
    (s.send 6 0x0503 dst (pad64 (le4 jobId ++ le4 n ++ le4 bs.length))).bump DRILL_BYTES.BYTES bs.length

def State.sendResult (s : State) (head jobId member state cause : Nat) : State :=
  s.send 6 0x0507 head (pad64 (le4 jobId ++ leBytes 1 member ++ leBytes 1 state ++ leBytes 1 cause))

def State.sendCredit (s : State) (up jobId n : Nat) : State :=
  if n = 0 then s else s.send 6 0x0502 up (pad64 (le4 jobId ++ le4 n))

/-- BYPASS from member `i` (255 for the head, assumption 41) for member `j`, to a chip. -/
def State.sendBypass (s : State) (jobId j i dst : Nat) : State :=
  s.send 6 0x0504 dst (pad64 (le4 jobId ++ leBytes 1 j ++ leBytes 1 i))

def State.setHead (s : State) (v : Option DrillHead) : State := { s with drill := { s.drill with head := v } }
def State.setMember (s : State) (v : Option DrillMember) : State := { s with drill := { s.drill with member := v } }

/-! ### The head (R361, R364, R366) -/

def State.jobOff (s : State) : Nat := 4096 * s.get DRILL_JOB.BASE

/-- Writes a member's result word. -/
def State.putResult (s : State) (i : Nat) (r : DrillRes) : State :=
  s.topPutWord (s.jobOff + 4160 + 8 * i) (r.state + 4 * r.cause + 256 * bit r.bypassed + 512 * r.watermark)

/-- Changes the result of member `i` of the job headed here, in the descriptor too. -/
def State.setRes (s : State) (i : Nat) (f : DrillRes → DrillRes) : State :=
  match s.drill.head with
  | none => s
  | some h =>
    match h.results[i]? with
    | none => s
    | some r =>
      let s := (s.setHead (some { h with results := h.results.set i (f r) })).putResult i (f r)
      if (f r).state = resFailed then s.put DRILL_ERR.FAILED 1 else s

/-- Ends a pending result. -/
def DrillRes.finish (r : DrillRes) (state cause : Nat) : DrillRes :=
  if r.state = resPending then { r with state := state, cause := cause } else r

/-- An object of the active slot by its sectors alone, each from the copy that gives it: the read of a catch-up (R361). -/
def State.sectorsOf (s : State) (num len : Nat) : Option (List Byte) :=
  match (s.falSlot s.activeSlot).find num with
  | none => none
  | some o =>
    let k := cdiv o.len 1024
    let c0 := copyData o.c0 s.fallow.pages k []
    let c1 := copyData o.c1 s.fallow.pages k []
    if o.len = len then mixSectors k c0.1 c0.2 c1.1 c1.2 else none

/-- The head's object in Fallow, read under R352, or in a catch-up with ECC only (R361); the sectors of a Drill read are
those that the copies hold (assumption 41). -/
def State.headObject (s : State) (h : DrillHead) : Option (List Byte) :=
  if h.catchUp.isSome then s.sectorsOf (h.src % 2 ^ 32) h.len
  else
    let r := (s.falRead (h.src % 2 ^ 32) h.len [] []).2
    if r.1 = 0 then some r.2 else none

/-- The bytes of chunk `n` of the head's source; `none` when the source cannot be read. -/
def State.headChunk (s : State) (h : DrillHead) (n : Nat) : Option (List Byte) :=
  if h.srcKind then (s.headObject h).map fun bs => (bs.drop (n * chunkBytes)).take (chunkLen h.len n)
  else
    match s.locate h.src with
    | .top o => if topRange o h.len then some (s.topPeek (o + n * chunkBytes) (chunkLen h.len n)) else none
    | .sub o => if s.subRange o h.len then some (s.subPeek (o + n * chunkBytes) (chunkLen h.len n)) else none
    | _ => none

/-- What the head's read of chunk `n` leaves: lines counted and errors met in a memory tier (R341, R464), and what R352
finds in Fallow. -/
def State.headReads (s : State) (h : DrillHead) (n : Nat) : State :=
  if !h.srcKind then s.loaderReads (h.src + n * chunkBytes) (chunkLen h.len n)
  else if h.catchUp.isSome then s
  else (s.falRead (h.src % 2 ^ 32) h.len [] []).1

/-- Every result is DONE or FAILED: the job is DONE. -/
def State.headEnd (s : State) : State :=
  match s.drill.head with
  | some h => if h.results.all fun r => r.state != resPending then s.put DRILL_STATUS.STATE 3 else s
  | none => s

/-- Fails every pending member. -/
def State.failAll (s : State) (cause : Nat) : State :=
  match s.drill.head with
  | none => s
  | some h => State.headEnd ((s.setHead (some { h with catchUp := none })).each (List.range h.members.length) fun s i =>
      s.setRes i fun r => r.finish resFailed cause)

/-- Sends up to `fuel` chunks to the next member, or to the one served by a catch-up, while it has credit. -/
def State.headPump : Nat → State → State
  | 0, s => s
  | fuel + 1, s =>
    match s.drill.head with
    | none => s
    | some h =>
      let count := chunkCount h.len
      match h.catchUp with
      | none =>
        if h.credit = 0 then s
        else match nextNeeded h.later count h.nextChunk with
          | none => s
          | some n => match s.headChunk h n with
            | none => (s.headReads h n).failAll causeHead
            | some bs =>
              (((s.headReads h n).setHead (some { h with nextChunk := n + 1, credit := h.credit - 1 })).sendChunk h.jobId n h.later bs).headPump fuel
      | some (i, n, credit) =>
        let all : List (Nat × W64) := h.members.zipIdx.map fun m => (m.2, m.1.getD 0 0)
        let w := (h.members.getD i []).getD 0 0
        if credit = 0 ∨ memLast w < n then s
        else match s.headChunk h n with
          | none => (s.headReads h n).failAll causeHead
          | some bs =>
            (((s.headReads h n).setHead (some { h with catchUp := some (i, n + 1, credit - 1) })).sendChunk h.jobId n (all.drop i) bs).headPump fuel

/-- The members that were not bypassed have all reported: the next bypassed member that is still pending is served
(R366). -/
def State.headAdvance (s : State) : State :=
  match s.drill.head with
  | none => s
  | some h =>
    if !s.headRuns ∨ h.catchUp.any (fun c => (h.results.getD c.1 .pending).state == resPending) ∨
        h.results.any (fun r => !r.bypassed && r.state == resPending) then s.headEnd
    else
      let todo := (List.range h.members.length).find? fun i => (h.results.getD i .pending).state == resPending
      match todo with
      | none => (s.setHead (some { h with catchUp := none })).headEnd
      | some i =>
        let mark := (h.results.getD i .pending).watermark
        let s := s.put DRILL_STATUS.STATE 2
        State.headPump 32 (s.setHead (some { h with catchUp := some (i, (mark + 1) % 2 ^ 20, 32) }))

/-- The head bypasses its next member (R365). -/
def State.headBypass (s : State) : State :=
  match s.drill.head with
  | none => s
  | some h =>
    match h.later with
    | [] => s
    | j :: rest =>
      let s := s.setRes j.1 fun r => { r with bypassed := true }
      let h := s.drill.head.getD h
      let s := (s.setHead (some { h with later := rest, credit := 0 })).put DRILL_ERR.BYPASS 1
      let s := s.sendBypass h.jobId j.1 255 (s.memChip j)
      match rest with
      | [] => s.headAdvance
      | k :: _ => (s.sendBypass h.jobId j.1 255 (s.memChip k)).headAdvance

/-- R361: the reasons that refuse START. -/
def drillBad (hdr : List W64) (members : List (List W64)) : Bool :=
  let w0 := hdr.getD 0 0
  let len := bitsOf (hdr.getD 2 0) 0 41
  let n := bitsOf w0 0 7
  decide (n = 0 ∨ 64 < n) || bitsOf w0 8 24 != 0 || bitsOf (hdr.getD 2 0) 41 23 != 0 ||
    (bitOf w0 7 && bitsOf (hdr.getD 1 0) 32 32 != 0) || (hdr.drop 3).any (· != 0) || decide (len < 64 ∨ 2 ^ 40 < len) || len % 64 != 0 ||
    members.any fun m => let w := m.getD 0 0
      memKeep w && decide (memLast w < memFirst w ∨ chunkCount len ≤ memLast w)

/-- DRILL_CTRL.START (R361). -/
def State.drillStart (s : State) : State :=
  if s.headRuns then s
  else
    let o := s.jobOff
    let hdr := s.topWords o 8
    let members := (List.range (min 64 (bitsOf (hdr.getD 0 0) 0 7))).map fun i => s.topWords (o + 64 + 64 * i) 8
    let s := s.partReads o (64 + 64 * members.length) false
    if drillBad hdr members then s.put DRILL_ERR.DESC_BAD 1
    else
      let w0 := hdr.getD 0 0
      let later : List (Nat × W64) := members.zipIdx.map fun m => (m.2, m.1.getD 0 0)
      let h : DrillHead := ⟨bitsOf w0 32 32, bitOf w0 7, (hdr.getD 1 0).toNat, bitsOf (hdr.getD 2 0) 0 41, members,
        members.map fun _ => .pending, later, 32, 0, none⟩
      let s := s.setHead (some h)
      let s := ((s.put DRILL_STATUS.ROLE 1).put DRILL_STATUS.STATE 1).put DRILL_STATUS.MEMBER 0
      let s := s.each (List.range members.length) fun s i => s.putResult i .pending
      let s := s.each later fun s m =>
        s.send 6 0x0501 (s.memChip m) (wordBytes (hdr.map (·.toNat)) ++ wordBytes ((members.getD m.1 []).map (·.toNat)))
      s.headPump 32

/-- A DRILL_CTRL write: ACCEPT takes its written value; then the bits act in ascending order. -/
def State.drillCtrl (s : State) (val : W64) : State :=
  let s := s.put DRILL_CTRL.ACCEPT (bitsOf val 2 1)
  let s := if bitOf val 0 then s.drillStart else s
  let s := if bitOf val 1 then
      match s.drill.head with
      | some h =>
        if s.headRuns then
          let s := match h.later with
            | [] => s
            | m :: _ => s.send 6 0x0508 (s.memChip m) (pad64 (le4 h.jobId))
          s.failAll causeAbort
        else s
      | none => s
    else s
  let s := if bitOf val 3 then s.put DRILL_BYTES.BYTES 0 else s
  s.fallowWake

def execDrillStart (src : Source) (val : W64) (s : State) : Host.Outcome State Fault Refusal :=
  .next (s.ctlWrite src 0xD0000 1 (val ||| 1) fun s => s.drillCtrl (val ||| 1))
def execDrillCtrlAbort (src : Source) (val : W64) (s : State) : Host.Outcome State Fault Refusal :=
  .next (s.ctlWrite src 0xD0000 1 (val ||| 2) fun s => s.drillCtrl (val ||| 2))
def execDrillCntClr (src : Source) (val : W64) (s : State) : Host.Outcome State Fault Refusal :=
  .next (s.ctlWrite src 0xD0000 1 (val ||| 8) fun s => s.drillCtrl (val ||| 8))

/-- A message of the job headed here. -/
def State.onHead (s : State) (jobId : BitVec 32) (act : DrillHead → State) : State :=
  match s.drill.head with
  | some h => if h.jobId = jobId.toNat ∧ s.headRuns then act h else s
  | none => s

def execWatermark (_h : MsgHdr) (jobId : BitVec 32) (member : BitVec 6) (mark : BitVec 20) (s : State) :
    Host.Outcome State Fault Refusal :=
  .next (s.onHead jobId fun _ =>
    (s.setRes member.toNat fun r => { r with bypassed := true, watermark := mark.toNat }).headAdvance)

def execResult (_h : MsgHdr) (jobId : BitVec 32) (member : BitVec 6) (state : BitVec 2) (cause : BitVec 6) (s : State) :
    Host.Outcome State Fault Refusal :=
  .next (s.onHead jobId fun h =>
    let refused := state.toNat = resFailed ∧ cause.toNat = causeRefused
    let s := s.setRes member.toNat fun r =>
      let r := r.finish state.toNat cause.toNat
      if refused then { r with refused := true, bypassed := true } else r
    if refused ∧ (h.later.head?.map (·.1)) = some member.toNat then s.headBypass else s.headAdvance)

/-- A catch-up has brought no progress for BYPASS_US (R366). -/
def execCatchUpStall (s : State) : Host.Outcome State Fault Refusal :=
  .next (match s.drill.head with
    | some h => match h.catchUp with
      | some (i, _, _) =>
        let s := s.setRes i fun r => r.finish resFailed causeSlow
        s.headAdvance
      | none => s
    | none => s)

/-! ### Members (R361 to R365) -/

/-- Whether this chip serves a job: as head, or as a member that has not reported or still forwards. -/
def State.drillBusy (s : State) : Bool :=
  s.headRuns || s.drill.member.any fun m =>
    !m.reported || !m.bypassed && (nextNeeded m.later (chunkCount m.len) m.fwd).isSome

/-- Whether a member's destination is refused (R361). -/
def State.drillDstBad (s : State) (e : List W64) (len : Nat) : Bool :=
  let w := e.getD 0 0
  let n := keptLen w len
  let a := (e.getD 1 0).toNat
  if !memKeep w then false
  else match memKind w with
    | 0 => (match s.locate a with
        | .top _ => false
        | .sub _ => false
        | _ => true) || s.accessRefused true a n ||
      (s.homes fun i => decide (s.homeAddr i ≤ a ∧ a + n ≤ s.homeAddr i + s.homeLen i)).isEmpty
    | 1 => match s.unwritten (a % 2 ^ 32) with
        | some o => o.len != n
        | none => true
    | _ => true

/-- A member reports to the head (R363, R364). -/
def State.report (s : State) (m : DrillMember) (state cause : Nat) : State :=
  let s := s.setMember (some { m with reported := true })
  (s.put DRILL_STATUS.STATE 3).sendResult m.head m.jobId m.idx state cause

/-- A member leaves its job. -/
def State.leaveJob (s : State) : State := ((s.setMember none).put DRILL_STATUS.ROLE 0).put DRILL_STATUS.STATE 0

/-- A member that keeps nothing reports DONE when it has forwarded its last chunk (R363): a bypassed one has none left to
forward. -/
def State.idleDone (s : State) : State :=
  match s.drill.member with
  | some m =>
    if !memKeep (m.entry.getD 0 0) && !m.reported && (m.bypassed || (nextNeeded m.later (chunkCount m.len) m.fwd).isNone) then
      s.report m resDone 0
    else s
  | none => s

def State.drillEntry (s : State) (h : MsgHdr) (header entry : List W64) (member : Nat) (later : List (Nat × W64))
    (outsideBelowL2 : Bool) : State :=
  let jobId := bitsOf (header.getD 0 0) 32 32
  let len := bitsOf (header.getD 2 0) 0 41
  if !s.flag DRILL_CTRL.ACCEPT || s.drillBusy || outsideBelowL2 || s.drillDstBad entry len then
    (s.put DRILL_ERR.REFUSED 1).sendResult h.src.toNat jobId member resFailed causeRefused
  else
    let m : DrillMember := ⟨jobId, member, h.src.toNat, h.src.toNat, entry, len, later, later, 0, [], 0, 32, 0, [], false, false⟩
    let s := ((s.put DRILL_STATUS.ROLE 2).put DRILL_STATUS.STATE 1).put DRILL_STATUS.MEMBER member
    (s.setMember (some m)).idleDone

def execDrillEntry (h : MsgHdr) (header entry : List W64) (member : BitVec 6) (later : List (BitVec 6 × W64))
    (outsideBelowL2 : Bool) (s : State) : Host.Outcome State Fault Refusal :=
  .next (s.drillEntry h header entry member.toNat (later.map fun m => (m.1.toNat, m.2)) outsideBelowL2).fallowWake

/-- The member with its followers, as its upstream numbers the buffer entries. -/
def DrillMember.chain (m : DrillMember) : List (Nat × W64) := (m.idx, m.entry.getD 0 0) :: m.all

/-- Chunks that stay in the buffer: those to forward, and the 64 forwarded last (R362). -/
def DrillMember.keepHeld (m : DrillMember) : List Nat :=
  let sent := m.held.filter fun c => decide (c < m.fwd) && neededBy m.all c
  sent.drop (sent.length - 64) ++ m.held.filter fun c => decide (m.fwd ≤ c)

/-- Forwards up to `fuel` chunks while the next member has credit; each returns a credit upstream. -/
def State.memberPump : Nat → State → State
  | 0, s => s
  | fuel + 1, s =>
    match s.drill.member with
    | none => s
    | some m =>
      match m.held.find? fun c => decide (m.fwd ≤ c) && neededBy m.later c with
      | none => s
      | some c =>
        if m.bypassed ∨ m.credit = 0 then s
        else
          let bs := s.topPeek (s.bufOff m.chain c) (chunkLen m.len c)
          let s := s.partReads (s.bufOff m.chain c) (chunkLen m.len c) false
          let s := s.sendChunk m.jobId c (m.all.drop (m.all.length - m.later.length)) bs
          let m' : DrillMember := { m with fwd := c + 1, credit := m.credit - 1 }
          State.memberPump fuel ((s.setMember (some { m' with held := m'.keepHeld })).sendCredit m.up m.jobId 1)

/-- Writes a kept chunk at its destination (R362). -/
def State.keepChunk (s : State) (m : DrillMember) (n : Nat) (bs : List Byte) : State :=
  let w := m.entry.getD 0 0
  let s := if memKind w = 0 then s.pokeAt ((m.entry.getD 1 0).toNat + (n - memFirst w) * chunkBytes) bs else s
  s.setMember (some { m with kept := m.kept + 1, bytes := m.bytes ++ bs })

/-- DIGEST of a member entry, as the number of its 48 bytes. -/
def entryDigest (e : List W64) : Nat := leNat (wordBytes (((e.drop 2).take 6).map (·.toNat)))

/-- The last kept chunk has been written: the digest decides (R363). -/
def State.digestCheck (s : State) (m : DrillMember) : State :=
  let w := m.entry.getD 0 0
  let a := (m.entry.getD 1 0).toNat
  if shaLe m.bytes = entryDigest m.entry then
    if memKind w = 0 then s.report m resDone 0
    else match (s.unwritten (a % 2 ^ 32)).bind fun o => s.falStore o m.bytes with
      | some t => t.report m resDone 0
      | none => s.report m resFailed causeRefused
  else
    let s := if memKind w = 0 then s.zeroAt a (keptLen w m.len) else s
    s.report m resFailed causeDigest

/-- Whether the write of a chunk must wait for the Ward (R478). -/
def State.chunkWaits (s : State) (m : DrillMember) (n : Nat) : Bool :=
  let w := m.entry.getD 0 0
  memKeeps w n && memKind w == 0 &&
    s.writeWaits ((m.entry.getD 1 0).toNat + (n - memFirst w) * chunkBytes) (chunkLen m.len n)

/-- A chunk arrives at a member. -/
def State.takeChunk (s : State) (m : DrillMember) (src n : Nat) : State :=
  let w := m.entry.getD 0 0
  let bs := s.topPeek (s.bufOff m.chain n) (chunkLen m.len n)
  let s := s.partReads (s.bufOff m.chain n) (chunkLen m.len n) false
  let forward := !m.bypassed && neededBy m.later n
  let m : DrillMember := { m with up := src, want := n + 1, held := if forward then m.held ++ [n] else m.held }
  let s := (s.setMember (some m)).bump DRILL_BYTES.BYTES bs.length
  let mine := memKeeps w n && !m.reported
  let s := if mine then (s.keepChunk m n bs).agentTell 3 else s
  let m := s.drill.member.getD m
  let s := if mine && n == memLast w then s.digestCheck m else s
  let s := if forward then s else s.sendCredit src m.jobId 1
  (State.memberPump 32 s).idleDone

def execChunk (h : MsgHdr) (jobId : BitVec 32) (n : BitVec 20) (_len : BitVec 32) (s : State) :
    Host.Outcome State Fault Refusal :=
  .next (match s.drill.member with
    | some m =>
      if m.jobId ≠ jobId.toNat ∨ n.toNat < m.want ∨ s.chunkWaits m n.toNat then s else s.takeChunk m h.src.toNat n.toNat
    | none => s)

/-- Whether a chip is the next member of a list. -/
def State.isNext (s : State) (ms : List (Nat × W64)) (chip : Nat) : Bool := (ms.head?.map s.memChip) == some chip

def execDrillCredit (h : MsgHdr) (jobId : BitVec 32) (credits : BitVec 32) (s : State) : Host.Outcome State Fault Refusal :=
  let c := credits.toNat
  .next (match s.drill.member with
    | some m =>
      if m.jobId = jobId.toNat ∧ s.isNext m.later h.src.toNat then
        ((s.setMember (some { m with credit := m.credit + c })).memberPump 32).idleDone
      else s
    | none => s.onHead jobId fun d =>
      match d.catchUp with
      | some (i, n, k) =>
        if s.chipAt (memPos ((d.members.getD i []).getD 0 0)) = h.src.toNat then
          (s.setHead (some { d with catchUp := some (i, n, k + c) })).headPump 32
        else s
      | none => if s.isNext d.later h.src.toNat then (s.setHead (some { d with credit := d.credit + c })).headPump 32 else s)

/-- A member bypasses its next member (R365). -/
def State.memberBypass (s : State) : State :=
  match s.drill.member with
  | none => s
  | some m =>
    match m.later with
    | [] => s
    | j :: rest =>
      let s := (s.setMember (some { m with later := rest, credit := 0 })).put DRILL_ERR.BYPASS 1
      let s := s.sendBypass m.jobId j.1 m.idx (s.memChip j)
      match rest with
      | [] => s.idleDone
      | k :: _ => s.sendBypass m.jobId j.1 m.idx (s.memChip k)

/-- A chunk waits for the next member, and that member has no credit left. -/
def State.bypassDue (s : State) : Bool :=
  match s.drill.member, s.drill.head with
  | some m, _ => m.credit == 0 && !m.bypassed && (m.held.any fun c => decide (m.fwd ≤ c) && neededBy m.later c)
  | none, some h => s.headRuns && h.catchUp.isNone && h.credit == 0 && (nextNeeded h.later (chunkCount h.len) h.nextChunk).isSome
  | none, none => false

/-- This chip bypasses the next member of its job. -/
def State.drillBypass (s : State) : State := if s.drill.member.isSome then s.memberBypass else s.headBypass

def execBypassTimeout (s : State) : Host.Outcome State Fault Refusal := .next (if s.bypassDue then s.drillBypass else s)

def execBypass (h : MsgHdr) (jobId : BitVec 32) (j _i : BitVec 8) (s : State) : Host.Outcome State Fault Refusal :=
  .next (match s.drill.member with
    | none => s
    | some m =>
      if m.jobId ≠ jobId.toNat then s
      else if j.toNat = m.idx then
        let mark := (memFirst (m.entry.getD 0 0) + m.kept + 2 ^ 20 - 1) % 2 ^ 20
        let s := (s.setMember (some { m with bypassed := true })).put DRILL_ERR.BYPASS 1
        (s.send 6 0x0506 m.head (pad64 (le4 m.jobId ++ le4 m.idx ++ le4 (if memKeep (m.entry.getD 0 0) then mark else 0)))).idleDone
      else
        let n := (nextNeeded m.chain (chunkCount m.len) m.want).getD (chunkCount m.len)
        let s := s.setMember (some { m with up := h.src.toNat, want := n })
        s.send 6 0x0505 h.src.toNat (pad64 (le4 m.jobId ++ le4 n)))

/-- NEXT at the bypassing member or at the head. -/
def execNext (h : MsgHdr) (jobId : BitVec 32) (n : BitVec 20) (s : State) : Host.Outcome State Fault Refusal :=
  .next (match s.drill.member with
    | some m =>
      if m.jobId ≠ jobId.toNat ∨ !s.isNext m.later h.src.toNat then s
      else if (nextNeeded m.later (chunkCount m.len) n.toNat).any fun c => decide (c < m.fwd) && !m.held.contains c then
        let s := s.each m.later fun s k => s.sendResult m.head m.jobId k.1 resFailed causeWindow
        (s.setMember (some { m with later := [], credit := 0 })).idleDone
      else ((s.setMember (some { m with fwd := n.toNat, credit := 32 })).memberPump 32).idleDone
    | none => s.onHead jobId fun d =>
      if s.isNext d.later h.src.toNat then (s.setHead (some { d with nextChunk := n.toNat, credit := 32 })).headPump 32 else s)

def execDrillAbort (_h : MsgHdr) (jobId : BitVec 32) (s : State) : Host.Outcome State Fault Refusal :=
  .next (match s.drill.member with
    | none => s
    | some m =>
      if m.jobId ≠ jobId.toNat then s
      else
        let s := match m.later with
          | [] => s
          | k :: _ => s.send 6 0x0508 (s.memChip k) (pad64 (le4 m.jobId))
        let s := if m.reported then s else s.sendResult m.head m.jobId m.idx resFailed causeAbort
        s.leaveJob)

def execDrillIdleTimeout (s : State) : Host.Outcome State Fault Refusal :=
  .next (match s.drill.member with
    | none => s
    | some m => if m.reported then s else (s.sendResult m.head m.jobId m.idx resFailed causeIdle).leaveJob)

/-- The link path to the next member has failed (R365): a chip that no route reaches. -/
def State.drillPathCheck (s : State) : State :=
  let lost (m : Nat × W64) : Bool := (s.routeTo none false (memPos m.2)).unreach
  match s.drill.member, s.drill.head with
  | some m, _ => if !m.bypassed && m.later.head?.any lost then s.memberBypass else s
  | none, some h => if s.headRuns && h.later.head?.any lost then s.headBypass else s
  | none, none => s

end Sys2Proof.Machine
end

