-- ==== Sys2Proof/Machine/Keys.lean ====
section
/-!
DEFINITION. Certificates, pairwise keys and the sending of link and fabric keys between Lamplighters (R505, R506, R510,
R513, R514). The layouts of the certificates are the model's (assumption 20).
-/
namespace Sys2Proof.Machine

/-- Zero bytes up to a length. -/
def padTo (n : Nat) (bs : List Byte) : List Byte := bs ++ List.replicate (n - bs.length) 0

/-- A big-endian field of a byte string. -/
def beAt (bs : List Byte) (o n : Nat) : Nat := beNat ((bs.drop o).take n)

/-! ### Certificates (R510) -/

/-- The first 160 bytes of an alias certificate: SERIAL, B, the public key. -/
def aliasBody (serial b x y : Nat) : List Byte :=
  padTo 160 (leBytes 8 serial ++ leBytes 8 b ++ beBytes 48 x ++ beBytes 48 y)

/-- Draws a fresh alias key pair and signs its certificate with the identity key. -/
def State.newAlias (s : State) : State :=
  let d := s.freeNat % (n384 - 1) + 1
  let q := ecPublic d
  let body := aliasBody s.part.serial.toNat s.lamp.starts.toNat q.1 q.2
  let s := s.drawn
  let rs := ecdsaSign s.part.identityKey (sha384Nat body) s.freeNat
  { s.drawn with lamp := { s.lamp with aliasKey := some d, identity := true, aliasCert := body ++ beBytes 48 rs.1 ++ beBytes 48 rs.2 } }

/-- A certificate's SERIAL, public key and signature; `n` bytes are signed. -/
def certSerial (c : List Byte) : Nat := leNat (c.take 8)
def certKey (c : List Byte) : Nat × Nat := (beAt c 0x10 48, beAt c 0x40 48)
def certSigned (c : List Byte) (n : Nat) (key : Nat × Nat) : Bool :=
  ecdsaVerify key.1 key.2 (sha384Nat (c.take n)) (beAt c n 48) (beAt c (n + 48) 48)

/-- The checks of R513 on a peer's certificates. -/
def State.peerOk (s : State) (aliasCert identCert : List Byte) : Bool :=
  certSigned identCert 416 (s.part.sundiorKeyX, s.part.sundiorKeyY) && certSigned aliasCert 160 (certKey identCert) &&
    certSerial aliasCert == certSerial identCert &&
    ((s.net.plan.map (·.links)).getD []).any fun r => r.serial == certSerial identCert

/-! ### Pairwise keys (R513) -/

def State.pair (s : State) (chip : Nat) : Option PairKey :=
  (s.lamp.pairs.find? fun e => e.1 == rackIndex chip).map (·.2)

def State.setPair (s : State) (chip : Nat) (p : PairKey) : State :=
  let k := rackIndex chip
  { s with lamp := { s.lamp with pairs := KMap.insert (KMap.erase s.lamp.pairs k) k p } }

/-- The one-step key derivation with SHA-384: counter 1, then the shared x coordinate (assumption 20). -/
def pairwise (z : Nat) : Nat := sha384Nat (beBytes 4 1 ++ beBytes 48 z) / 2 ^ 128

/-- Sends the own certificates. -/
def State.sendPair (s : State) (chip : Nat) : State :=
  s.send 3 0x0602 chip (padTo 256 s.lamp.aliasCert ++ padTo 512 (s.part.identityCert.take 512))

/-! ### KEY messages (R514) -/

/-- The first 32 bytes of a KEY message. -/
def keyHead (job gen slot kind dir count : Nat) : List Byte :=
  padTo 32 (leBytes 2 job ++ leBytes 2 gen ++ leBytes 1 slot ++ leBytes 1 kind ++ leBytes 2 0 ++ beBytes 4 dir ++ beBytes 8 count)

def keyIv (dir count : Nat) : Nat := dir * 2 ^ 64 + count

/-- DIR of the chip with serial number `own` toward `peer`. -/
def keyDir (own peer : Nat) : Nat := if own < peer then 1 else 2

/-- Sends a key to a chip, or the certificates with which its pairwise key is set up. -/
def State.sendKeyMsg (s : State) (chip job gen slot kind key : Nat) : State :=
  match s.pair chip with
  | none => s.sendPair chip
  | some p =>
    let dir := keyDir s.part.serial.toNat p.serial
    let head := keyHead job gen slot kind dir p.sent
    let ks := keySchedule p.key
    let text := gcmText ks (keyIv dir p.sent) (natBytes 32 key)
    let tag := gcmTag ks (keyIv dir p.sent) (bytesToNats head) text
    let s := s.setPair chip { p with sent := p.sent + 1 }
    s.send 3 0x0601 chip (padTo 96 (head ++ text.map (BitVec.ofNat 8) ++ beBytes 16 tag))

/-- Sends the slice's current link key to a chip. -/
def State.sendLinkKey (s : State) (chip : Nat) : State :=
  let slot := s.get LAMP_JOB.KEYSLOT
  match s.linkKey slot with
  | none => s
  | some k => s.sendKeyMsg chip s.job s.gen slot 1 k

/-- Sends the own fabric key to a chip. -/
def State.sendFabricKey (s : State) (chip : Nat) : State :=
  match s.lamp.fabricKey with
  | none => s
  | some k => s.sendKeyMsg chip 0 0 0 2 k

/-- The other chips of the slice, as rack and coordinates. -/
def State.sliceOthers (s : State) : List Nat :=
  match s.net.slice with
  | none => []
  | some c => ((List.range c.size).map fun i => s.chipAt (s.standIn (c.chip i))).filter (· != s.self)

/-- The leader draws a fresh link key and sends it to every chip of its slice (R505 step 2). -/
def State.drawLinkKey (s : State) : State :=
  let k := s.freeNat % 2 ^ 256
  let slot := s.get LAMP_JOB.KEYSLOT
  let s := { s.drawn with lamp := { s.lamp with linkKeys := KMap.set (fun _ => 0) s.lamp.linkKeys slot (k + 1), keyWait := false } }
  let s := s.put LAMP_JOB.KEYED 1
  s.each s.sliceOthers State.sendLinkKey

/-- The keys of an accepted APPLY: the leader draws one for a new JOB or GEN, and sends the current one to the substitutes
that its WARD_SUBST names (R505, R506). A join draws none. -/
def State.applyKeys (s : State) : State :=
  if !s.leads || s.lamp.joining then s
  else if s.lamp.draining && !s.flag LAMP_JOB.KEYED then s.drawLinkKey
  else s.each (s.net.subst.map fun e => s.chipAt e.2) State.sendLinkKey

/-! ### Receiving -/

/-- A KEY message whose tag verifies and whose COUNT is new. A job key must match the applied descriptor; after KEY_FAIL the
chip stays without one (R505). -/
def State.takeKey (s : State) (chip : Nat) (m : KeyMsg) : State :=
  match s.pair chip with
  | none => s
  | some p =>
    let head := keyHead m.job.toNat m.gen.toNat m.keyslot.toNat m.kind.toNat m.dir.toNat m.count.toNat
    let ks := keySchedule p.key
    let iv := keyIv m.dir.toNat m.count.toNat
    let text := natBytes 32 m.cipher.toNat
    if gcmTag ks iv (bytesToNats head) text ≠ m.tag.toNat ∨ m.count.toNat < p.next ∨
        m.dir.toNat ≠ keyDir p.serial s.part.serial.toNat then s
    else
      let key := bytesNat (gcmText ks iv text)
      let s := s.setPair chip { p with next := m.count.toNat + 1 }
      if m.kind = 2 then
        { s with lamp := { s.lamp with peerFabric := KMap.set (fun _ => 0) s.lamp.peerFabric (rackIndex chip) (key + 1) } }
      else if m.kind = 1 ∧ s.net.slice.isSome ∧ m.job.toNat = s.job ∧ m.gen.toNat = s.gen ∧
          m.keyslot.toNat = s.get LAMP_JOB.KEYSLOT ∧ (s.lamp.keyWait ∨ s.flag LAMP_JOB.KEYED) then
        let join := s.lamp.joining
        let s := { s with lamp := { s.lamp with
          linkKeys := KMap.set (fun _ => 0) s.lamp.linkKeys m.keyslot.toNat (key + 1), joining := false, keyWait := false } }
        let s := s.put LAMP_JOB.KEYED 1
        if join then s.put LAMP_JOB.DRAINED 1 else s
      else s

def execKey (h : MsgHdr) (m : KeyMsg) (s : State) : Host.Outcome State Fault Refusal := .next (s.takeKey h.src.toNat m)

/-- A peer's certificates: a pairwise key is derived, and keys that waited for it are sent. A check that fails sets
PEER_BAD, and no key is sent to that chip (R513). -/
def State.takePair (s : State) (chip : Nat) (aliasCert identCert : List Byte) : State :=
  match s.lamp.aliasKey with
  | none => s
  | some d =>
    if !s.peerOk aliasCert identCert then (s.put LAMP_SEC.PEER_BAD 1).errlog { cls := 0x11, block := 3 }
    else
      let q := certKey aliasCert
      let known := match s.pair chip with
        | some p => p.aliasX == q.1 && p.aliasY == q.2
        | none => false
      if known then s
      else
        let s := s.setPair chip ⟨certSerial identCert, q.1, q.2, pairwise (ecdhX d q.1 q.2), 0, 0⟩
        let s := s.sendPair chip
        let s := if s.leads && s.flag LAMP_JOB.KEYED && s.sliceOthers.contains chip then s.sendLinkKey chip else s
        s.sendFabricKey chip

def execPair (h : MsgHdr) (aliasCert identCert : List Byte) (s : State) : Host.Outcome State Fault Refusal :=
  .next (s.takePair h.src.toNat aliasCert identCert)

/-! ### The drain (R505) -/

/-- T + DRAIN: the previous slot is zeroised and DRAINED is set, once the new key has arrived. -/
def State.drainEnd (s : State) : State :=
  if s.lamp.draining && s.flag LAMP_JOB.KEYED then
    let keys := match s.lamp.prevSlot with
      | some k => if k = s.get LAMP_JOB.KEYSLOT then s.lamp.linkKeys else KMap.set (fun _ => 0) s.lamp.linkKeys k 0
      | none => s.lamp.linkKeys
    ({ s with lamp := { s.lamp with linkKeys := keys, prevSlot := none, draining := false } }).put LAMP_JOB.DRAINED 1
  else s

def execGenDrainEnd (s : State) : Host.Outcome State Fault Refusal := .next s.drainEnd

/-- T + 10 ms without a key (R505, R506): the chip stays without one, and the drain is over, so that the next APPLY is not
refused for it (assumption 63). -/
def execKeyTimeout (s : State) : Host.Outcome State Fault Refusal :=
  .next (if s.lamp.keyWait && !s.flag LAMP_JOB.KEYED then
      ({ s with lamp := { s.lamp with
          keyWait := false, draining := false, prevSlot := none
          linkKeys := KMap.set (fun _ => 0) (KMap.set (fun _ => 0) s.lamp.linkKeys (s.get LAMP_JOB.KEYSLOT) 0)
            (s.lamp.prevSlot.getD (s.get LAMP_JOB.KEYSLOT)) 0 } }).put LAMP_JOB.KEY_FAIL 1
    else s)

end Sys2Proof.Machine
end

