-- ==== Sys2Proof/Machine/Link.lean ====
section
/-!
DEFINITION. Links: frames, replay, hellos and verdicts, departures and losses, and the commands of LINK_CTRL,
ROUTE_CTRL, ROUTE_MC and ROUTE_FAILED (R369 to R375, R386 to R410).
-/
namespace Sys2Proof.Machine

/-- A link's state outside the registers. -/
def State.link (s : State) (l : Nat) : LinkSt := KMap.get (fun _ => LinkSt.reset) s.net.links l
def State.setLink (s : State) (l : Nat) (v : LinkSt) : State :=
  { s with net := { s.net with links := KMap.set (fun _ => LinkSt.reset) s.net.links l v } }
def State.linkState (s : State) (l : Nat) : Nat := s.get (LINK_STATE.STATE l)

/-- A link that has trained and carries frames: HELLO to REVBAD. -/
def State.linkLive (s : State) (l : Nat) : Bool := decide (2 ≤ s.linkState l ∧ s.linkState l ≤ 7)

/-! ### Loss (R400, R404) -/

/-- The host session closes and a new nonce is drawn (R523). -/
def State.hostClose (s : State) : State :=
  (((s.put LAMP_HSESS.LEVEL 0).put LAMP_HSESS.JOB 0).put LAMP_HNONCE.NONCE s.free.toNat).drawn

/-- The packets of the frames that a lost link has not had acknowledged are lost; their credits are the sender's again
(assumption 18). -/
def State.loseFrames (s : State) (l : Nat) : State :=
  let port := s.get (LINK_STATE.PORT l)
  s.each ((s.link l).replay.flatMap (·.packets)) fun s e =>
    let p := e.1
    let k := creditKey port (s.hopVc p port (rackIndex p.dst.toNat)) e.2
    let s := { s with net := { s.net with
      spent := KMap.set (fun _ => 0) s.net.spent k (KMap.get (fun _ => 0) s.net.spent k - flitCount p) } }
    s.lose ⟨port, p.vc.toNat, e.2, p, false, 0⟩

/-- Packets of frames read in PSEQ order move to the received ones; after a loss on the port the next frame in order is
the lowest that waits (assumption 18). -/
def takeFrames : Nat → Nat → List (Nat × List (Packet × Bool)) → Nat × List (Nat × List (Packet × Bool)) × List (Packet × Bool)
  | 0, seq, buf => (seq, buf, [])
  | fuel + 1, seq, buf =>
    match buf.find? fun f => f.1 == seq with
    | none => (seq, buf, [])
    | some f =>
      let r := takeFrames fuel ((seq + 1) % 65536) (buf.erase f)
      (r.1, r.2.1, f.2 ++ r.2.2)

/-- Reads the frames of a port that are next in PSEQ order (R371). -/
def State.readPort (s : State) (port : Nat) : State :=
  let buf := KMap.get (fun _ => []) s.net.portBuf port
  let seq := KMap.get (fun _ => 0) s.net.pseqRx port
  let r := takeFrames (buf.length + 1) seq buf
  { s with net := { s.net with
    pseqRx := KMap.set (fun _ => 0) s.net.pseqRx port r.1
    portBuf := KMap.set (fun _ => []) s.net.portBuf port r.2.1
    rx := s.net.rx ++ r.2.2.map fun e => (port, e.2, e.1) } }

/-- Skips the frames that a lost link of the port will not deliver. -/
def State.skipLost : Nat → State → Nat → State
  | 0, s, _ => s
  | fuel + 1, s, port =>
    let buf := KMap.get (fun _ => []) s.net.portBuf port
    let seq := KMap.get (fun _ => 0) s.net.pseqRx port
    match (buf.map fun f => idxSub 16 f.1 seq).min? with
    | none => s
    | some d =>
      let s := { s with net := { s.net with pseqRx := KMap.set (fun _ => 0) s.net.pseqRx port ((seq + d) % 65536) } }
      (s.readPort port).skipLost fuel port

/-- The group members that a link's loss leaves without a port (R482). -/
def State.lostBehind (s : State) (l : Nat) : List Nat :=
  let port := s.get (LINK_STATE.PORT l)
  match portChip (s.get ROUTE_SELF.XYZ) port with
  | none => []
  | some d =>
    if (s.portLinks port).any fun k => s.linkState k == linkUp || s.linkState k == linkMgmt then []
    else s.membersAt fun c => c == d

/-- A link has stopped in state `st`: the tables lose it at once, its frames are lost, and the host session, the Ward
and the Drill follow (R365, R375, R400, R404, R482, R523). -/
def State.linkLost (s : State) (l st : Nat) : State :=
  let port := s.get (LINK_STATE.PORT l)
  let was := s.linkState l
  let s := ((s.put (LINK_STATE.STATE l) st).dropLink l).loseFrames l
  let s := (s.setLink l .reset).skipLost 64 port
  let s := if l = 23 ∧ s.get (LINK_STATE.ROLE l) = 3 then s.hostClose else s
  let behind := s.lostBehind l
  let s := if (was = linkUp ∨ was = linkMgmt) ∧ !behind.isEmpty then s.freezeIfOn behind else s
  s.drillPathCheck

/-- A link goes DOWN (R375). -/
def State.linkDown (s : State) (l : Nat) : State := (s.linkErr 4 l).linkLost l linkIsDown

def execLaneAlignLoss (link : Fin 24) (s : State) : Host.Outcome State Fault Refusal :=
  .next (if s.linkLive link.val then s.linkDown link.val else s)
def execFrameTimeout (link : Fin 24) (s : State) : Host.Outcome State Fault Refusal :=
  .next (if s.linkLive link.val then s.linkDown link.val else s)

/-! ### Frames (R371 to R374, R381) -/

/-- The frames of a replay buffer that an ACK covers are dropped. -/
def ackFrames (ack : Nat) (l : List Frame) : List Frame := l.filter fun f => decide (32768 ≤ idxSub 16 ack f.fseq.toNat)

/-- The acknowledgement of a good frame: covered frames leave the replay buffer; a NACK resends the rest, and too many
replays without progress stop the link. -/
def State.takeAck (s : State) (l : Nat) (f : Frame) : State :=
  let v := s.link l
  let rest := ackFrames f.ack.toNat v.replay
  let np := if rest.length = v.replay.length then v.noProgress else 0
  if f.nack && !rest.isEmpty then
    let s := (s.setLink l { v with replay := rest, noProgress := np + 1 }).bump (LINK_FEC.REPLAYS l) 1
    if s.get LINK_CFG.DOWN_REPLAYS ≤ np + 1 then s.linkDown l else s
  else s.setLink l { v with replay := rest, noProgress := np }

/-- Credits returned by a frame. -/
def State.takeCredits (s : State) (l : Nat) (f : Frame) : State :=
  let port := s.get (LINK_STATE.PORT l)
  s.each (List.range 16) fun s i =>
    let k := creditKey port (i / 2) (i % 2 == 1)
    { s with net := { s.net with
      spent := KMap.set (fun _ => 0) s.net.spent k (KMap.get (fun _ => 0) s.net.spent k - bitsOf f.credits (8 * i) 8) } }

/-- A frame that fails its checks is discarded (R374). -/
def State.badFrame (s : State) (l : Nat) : State :=
  ((s.bump (LINK_FEC.UNCORR l) 1).linkErr 14 l).setLink l { s.link l with nack := true }

/-- What every good frame does. -/
def State.goodFrame (s : State) (l : Nat) (f : Frame) : State :=
  (if f.corrected then s.bump (LINK_FEC.CORR l) 1 else s).takeAck l f

/-- The next DATA frame in order: its credits count and its packets are read in PSEQ order. -/
def State.takeData (s : State) (l : Nat) (f : Frame) : State :=
  let v := s.link l
  let port := s.get (LINK_STATE.PORT l)
  let s := (s.setLink l { v with rxSeq := (v.rxSeq + 1) % 65536, nack := false }).takeCredits l f
  let buf := KMap.get (fun _ => []) s.net.portBuf port
  State.readPort { s with net := { s.net with
    portBuf := KMap.set (fun _ => []) s.net.portBuf port (buf ++ [(f.pseq.toNat, f.packets)]) } } port

def execDataFrame (link : Fin 24) (f : Frame) (s : State) : Host.Outcome State Fault Refusal :=
  let l := link.val
  .next (if !s.linkLive l then s
    else if !f.good then s.badFrame l
    else
      let s := s.goodFrame l f
      if s.linkState l ≠ linkUp ∧ s.linkState l ≠ linkMgmt then s
      else if f.fseq.toNat = (s.link l).rxSeq then s.takeData l f
      else s.setLink l { s.link l with nack := true })

def execIdleFrame (link : Fin 24) (f : Frame) (s : State) : Host.Outcome State Fault Refusal :=
  let l := link.val
  .next (if !s.linkLive l then s
    else if !f.good then s.badFrame l
    else (s.goodFrame l f).takeCredits l f)

/-! ### Hellos and verdicts (R387 to R391) -/

/-- This link's record of the plan. -/
def State.linkRec (s : State) (l : Nat) : Option LinkRec :=
  (s.net.plan.map (·.links)).getD [] |>.find? fun r => r.serial == s.part.serial.toNat && r.link == l

def revMajor : Nat := 1
def revMinor : Nat := 0

/-- The verdict of R388 on a peer's hello. -/
def State.verdict (s : State) (l : Nat) (m : HelloMsg) : Nat :=
  let recs := (s.net.plan.map (·.links)).getD []
  if m.rack.toNat ≠ s.get ROUTE_SELF.RACK ∨ !(recs.any fun r => r.serial == m.serial.toNat || r.peerSerial == m.serial.toNat) then 6
  else match s.linkRec l, s.net.plan with
    | some r, some p =>
      if m.serial.toNat ≠ r.peerSerial ∨ bitsOf m.port 0 4 ≠ r.peerPort ∨ bitsOf m.port 4 2 ≠ r.role then 5
      else if m.revMajor.toNat ≠ revMajor ∨ m.revMajor.toNat < r.revMin then 7
      else if m.fwdig.toNat ≠ r.fwdig ∨ m.planSeq.toNat ≠ p.seq ∨ m.planDig.toNat ≠ p.digest % 2 ^ 64 then 4
      else 3
    | _, _ => 5

/-- The order of R389; 0 for a code that is no verdict. -/
def verdictRank (v : Nat) : Nat := if v = 6 then 5 else if v = 5 then 4 else if v = 7 then 3 else if v = 4 then 2 else if v = 3 then 1 else 0

def worseVerdict (a b : Nat) : Nat := if verdictRank b > verdictRank a then b else a

/-- The LINK_ERR flag of a verdict worse than UP. -/
def verdictFlag (v : Nat) : Option Nat := if v = 6 then some 0 else if v = 5 then some 1 else if v = 7 then some 2 else if v = 4 then some 3 else none

/-- The peer's fields of the last hello. -/
def State.notePeer (s : State) (l : Nat) (m : HelloMsg) : State :=
  (((((((((s.put (LINK_PEER.SERIAL l) m.serial.toNat).put (LINK_PEERPOS.RACK l) m.rack.toNat).put (LINK_PEERPOS.TRAY l)
    m.tray.toNat).put (LINK_PEERPOS.XYZ l) m.xyz.toNat).put (LINK_PEERPOS.LINK l) m.link.toNat).put (LINK_PEERPOS.PORT l)
    m.port.toNat).put (LINK_PEERPOS.MAJOR l) m.revMajor.toNat).put (LINK_PEERPOS.MINOR l) m.revMinor.toNat).put
    (LINK_STATE.PEER_VERDICT l) m.verdict.toNat)

/-- Decides the link (R389). -/
def State.decide_ (s : State) (l : Nat) (m : HelloMsg) (own : Nat) : State :=
  let v := worseVerdict own m.verdict.toNat
  let s := (s.put (LINK_STATE.STATE l) v).put (LINK_STATE.MINOR l) (min revMinor m.revMinor.toNat)
  let s := s.setLink l { s.link l with basis := some m }
  match verdictFlag v with
  | none => s.returnLink l
  | some f =>
    let s := (s.linkErr f l).errlog { cls := 0xC, block := 0xE }
    if v = linkMgmt then s.returnLink l else s

/-- A hello from the peer. -/
def State.hello (s : State) (l : Nat) (m : HelloMsg) : State :=
  let own := s.verdict l m
  let s := (s.notePeer l m).put (LINK_STATE.VERDICT l) own
  let s := match s.linkRec l with
    | some r => if m.serial.toNat = r.peerSerial ∧ bitsOf m.port 0 4 = r.peerPort ∧ m.link.toNat ≠ r.peerLink then s.linkErr 6 l else s
    | none => s
  let v := s.link l
  if s.linkState l = linkHello then
    if v.lastHello = some m ∧ verdictRank m.verdict.toNat ≠ 0 ∧ s.net.plan.isSome then s.decide_ l m own
    else s.setLink l { v with lastHello := some m }
  else if v.basis.map (fun b => { b with verdict := m.verdict }) = some m then s.setLink l { v with lastHello := some m }
  else
    let s := s.setLink l { v with lastHello := some m, basis := none }
    ((s.put (LINK_STATE.STATE l) linkHello).dropLink l).drillPathCheck

def execHello (link : Fin 24) (m : HelloMsg) (s : State) : Host.Outcome State Fault Refusal :=
  .next (if s.linkLive link.val then s.hello link.val m else s)

/-- The hello that this chip sends on a link (R387). -/
def State.ownHello (s : State) (l : Nat) : HelloMsg :=
  { serial := s.part.serial, rack := BitVec.ofNat 8 (s.get ROUTE_SELF.RACK)
    tray := BitVec.ofNat 8 (Config.trayNumber.toNat + 16 * s.get CHIP_STRAPS.TRAY_POS)
    xyz := BitVec.ofNat 8 (s.get ROUTE_SELF.XYZ), link := BitVec.ofNat 8 l
    port := BitVec.ofNat 8 (s.get (LINK_STATE.PORT l) + 16 * s.get (LINK_STATE.ROLE l))
    revMajor := BitVec.ofNat 8 revMajor, revMinor := BitVec.ofNat 8 revMinor
    verdict := BitVec.ofNat 8 (s.get (LINK_STATE.VERDICT l)), fwdig := BitVec.ofNat 64 s.lamp.mfwDigest
    planSeq := BitVec.ofNat 32 ((s.net.plan.map (·.seq)).getD 0), planDig := BitVec.ofNat 64 ((s.net.plan.map (·.digest)).getD 0) }

def execHelloTimer (link : Fin 24) (s : State) : Host.Outcome State Fault Refusal :=
  let l := link.val
  .next (if s.linkLive l then
      let v := s.link l
      s.setLink l { v with sentHellos := v.sentHellos ++ [s.ownHello l] }
    else s)

/-! ### Failed chips and departures (R401, R403, R482, R488) -/

/-- Marks of failed chips change; a newly failed chip is a lost member of the group and a lost lender. -/
def State.markFailed (s : State) (marks : Nat) : State :=
  let fresh (d : Nat) : Bool := marks / 2 ^ d % 2 == 1 && s.get ROUTE_FAILED.FAILED / 2 ^ d % 2 == 0
  let lost := s.membersAt fresh
  let grants := (List.range 8).filter fun k => s.isBorrower k && s.get (TIER_GNT_A.STATE k) != 3 && fresh (s.get (TIER_GNT_A.PEER k))
  let s := s.setFailed marks
  let s := if lost.isEmpty then s else s.freezeIfOn lost
  (s.each grants State.grantLost).drillPathCheck

/-- A DEPART frame: the link is DEPARTED and its sender, a chip of the torus, is marked failed. -/
def State.depart (s : State) (l : Nat) : State :=
  let d := s.get (LINK_PEERPOS.XYZ l)
  let s := (s.linkErr 5 l).linkLost l linkDeparted
  if s.get (LINK_STATE.ROLE l) = 1 then s.markFailed (s.get ROUTE_FAILED.FAILED ||| 2 ^ d) else s

def execDepart (link : Fin 24) (_serial : W64) (_reason : BitVec 8) (s : State) : Host.Outcome State Fault Refusal :=
  .next (if s.linkLive link.val then s.depart link.val else s)

/-- DEPART on every UP link, which then stop (R403). -/
def State.departAll (s : State) (reason : Nat) : State :=
  s.each ((List.range 24).filter fun l => s.linkState l == linkUp) fun s l =>
    let s := s.linkLost l linkOff
    s.setLink l { s.link l with sentDepart := some (BitVec.ofNat 8 reason) }

def execRouteFailedWrite (src : Source) (val : W64) (s : State) : Host.Outcome State Fault Refusal :=
  .next (s.ctlWrite src 0xF0038 2 val fun s => s.markFailed val.toNat)

/-! ### Training and LINK_CTRL (R369, R405, R453, R455) -/

/-- Training starts, at the rate that LINK_RATE selects. -/
def State.linkTrain (s : State) (l : Nat) : State :=
  let s := s.setLink l .reset
  (((s.put (LINK_STATE.STATE l) linkTraining).put (LINK_STATE.VERDICT l) 0).put (LINK_STATE.PEER_VERDICT l) 0).put
    (LINK_STATE.RATE l) (s.get LINK_RATE.STD / 2 ^ l % 2)

/-- A link that the plan uses. -/
def State.linkUsed (s : State) (l : Nat) : Bool := s.get (LINK_STATE.ROLE l) != 0

def execLinkTrained (link : Fin 24) (ok : Bool) (s : State) : Host.Outcome State Fault Refusal :=
  let l := link.val
  .next (if s.linkState l ≠ linkTraining then s
    else if ok then s.put (LINK_STATE.STATE l) linkHello
    else (s.put CHIP_ERR.TRAIN_FAIL 1).put (LINK_STATE.STATE l) linkOff)

/-- LINK_CTRL.RESET (R405, R410). -/
def State.linkReset (s : State) (l : Nat) : State :=
  if !s.linkUsed l then s
  else
    let s := s.linkLost l linkOff
    let s := ((s.setReg (LINK_PEER.SERIAL l).reg 0).setReg (LINK_PEERPOS.RACK l).reg 0).setReg (LINK_FEC.CORR l).reg 0
    (s.put (LINK_STATE.MINOR l) 0).linkTrain l

def State.linkDisable (s : State) (l : Nat) : State :=
  if s.linkState l = linkOff then s else s.linkLost l linkOff

def State.linkEnable (s : State) (l : Nat) : State :=
  if s.linkUsed l ∧ (s.linkState l = linkOff ∨ s.linkState l = linkIsDown) then s.linkTrain l else s

/-- A write of LINK_CTRL: the bits act in ascending order on the link named. -/
def State.linkCtrl (s : State) (val : W64) : State :=
  let l := bitsOf val 0 5
  if 24 ≤ l then s
  else
    let s := if bitOf val 5 then s.linkReset l else s
    let s := if bitOf val 6 then s.linkDisable l else s
    if bitOf val 7 then s.linkEnable l else s

def execLinkReset (src : Source) (link : Fin 24) (s : State) : Host.Outcome State Fault Refusal :=
  .next (s.ctlWrite src 0xE0000 2 (BitVec.ofNat 64 (link.val + 32)) fun s => s.linkReset link.val)
def execLinkDisable (src : Source) (link : Fin 24) (s : State) : Host.Outcome State Fault Refusal :=
  .next (s.ctlWrite src 0xE0000 2 (BitVec.ofNat 64 (link.val + 64)) fun s => s.linkDisable link.val)
def execLinkEnable (src : Source) (link : Fin 24) (s : State) : Host.Outcome State Fault Refusal :=
  .next (s.ctlWrite src 0xE0000 2 (BitVec.ofNat 64 (link.val + 128)) fun s => s.linkEnable link.val)

/-! ### ROUTE_CTRL and ROUTE_MC (R393, R398, R409) -/

/-- R393: CLEAR is refused outside STOPPED and HALTED. -/
def State.clearBad (s : State) : Bool := !s.idleState

/-- A write of ROUTE_CTRL: APPLY and CLEAR together are refused. -/
def State.routeCtrl (s : State) (val : W64) : State :=
  match bitsOf val 0 2 with
  | 0 => s
  | 1 => if s.applyBad then s.put ROUTE_STATUS.APPLY_BAD 1 else s.applySlice.applyKeys
  | 2 => if s.clearBad then s.put ROUTE_STATUS.APPLY_BAD 1 else s.leaveSlice
  | _ => s.put ROUTE_STATUS.APPLY_BAD 1

def execApply (src : Source) (s : State) : Host.Outcome State Fault Refusal :=
  .next (s.ctlWrite src 0xF0020 2 1 fun s => s.routeCtrl 1)
def execClear (src : Source) (s : State) : Host.Outcome State Fault Refusal :=
  .next (s.ctlWrite src 0xF0020 2 2 fun s => s.routeCtrl 2)

/-- Whether every port of a mask leads to a chip of the slice (R398). -/
def State.portsInSlice (s : State) (ports : Nat) : Bool :=
  match s.net.slice with
  | none => ports == 0
  | some c => (List.range 16).all fun p => ports / 2 ^ p % 2 == 0 || (portChip (s.get ROUTE_SELF.XYZ) p).any c.has

/-- A write of ROUTE_MC_g: only while STOPPED or HALTED; group 0 is read-only, and a JOB group may name only ports that
lead into the slice. -/
def State.routeMcWrite (s : State) (g : Nat) (val : W64) : State :=
  if !s.idleState ∨ g = 0 then s
  else if bitOf val 18 && !s.portsInSlice (bitsOf val 0 16) then s.linkErr 9 0
  else s.store (0xF0200 + 8 * g) val

def execRouteMcWrite (src : Source) (group : BitVec 6) (val : W64) (s : State) : Host.Outcome State Fault Refusal :=
  .next (s.ctlWrite src (0xF0200 + 8 * group.toNat) 1 val fun s => s.routeMcWrite group.toNat val)

end Sys2Proof.Machine
end

