-- ==== Sys2Proof/Machine/Ward.lean ====
section
/-!
DEFINITION. The Ward (R474 to R491): enabling, the chains of INIT and REBUILD, staging, recovery and the latch drain.
-/
namespace Sys2Proof.Machine

def wardOff : Nat := 0
def wardInitSt : Nat := 1
def wardOnSt : Nat := 2
def wardFrozen : Nat := 3
def wardRebuild : Nat := 4
def wardSealed : Nat := 5

def State.wardState (s : State) : Nat := s.get WARD_STATUS.STATE
def State.wardG (s : State) : Nat := s.get WARD_GROUP.G
def State.wardSelf (s : State) : Nat := s.get WARD_GROUP.SELF
def State.setWard (s : State) (v : WardSt) : State := { s with ward := v }

/-- The chip of a member, as rack and coordinates. -/
def State.memberChip (s : State) (i : Nat) : Nat := s.chipAt (s.wardMember i)

/-- The other members of the group. -/
def State.others (s : State) : List Nat := (List.range s.wardG).filter (· != s.wardSelf)

/-- The member that stands at a chip. -/
def State.memberOf (s : State) (src : Nat) : Option Nat := (List.range s.wardG).find? fun i => s.memberChip i == src

/-- A WARD_CTRL operation that cannot run (R495, assumption 43). -/
def State.wardCfgErr (s : State) : State := s.put WARD_ERR.CFG 1

/-! ### ENABLE (R476) -/

/-- Whether an area of `len` units from unit `base` on fits Topsoil. -/
def areaFits (base len : Nat) : Bool := decide (0 < len) && topRange (65536 * base) (65536 * len)

/-- P units of a group of `g` need ceil(P / (g − 1)) parity units. -/
def parityUnits (p g : Nat) : Nat := cdiv p (g - 1)

def State.enableOk (s : State) : Bool :=
  s.wardState == wardOff && s.stepState == stepStopped && decide (3 ≤ s.wardG ∧ s.wardG ≤ 5) && decide (s.wardSelf < s.wardG) &&
    ((List.range 8).filterMap s.wardRange).all (fun r => areaFits r.1 r.2) &&
    areaFits (s.get WARD_PAR.BASE) (s.get WARD_PAR.LEN) &&
    decide (parityUnits s.wardUnits s.wardG ≤ s.get WARD_PAR.LEN) &&
    areaFits (s.get WARD_STAGE.BASE) (s.get WARD_STAGE.LEN)

def State.memberList (s : State) : List Nat := (List.range 5).map fun i => s.get (wardMemberFld i)

/-- The exchange of R476: once every other member has been heard, all must agree. -/
def State.cfgCheck (s : State) : State :=
  if s.wardState ≠ wardOff ∨ !s.flag WARD_STATUS.BUSY then s
  else if s.others.all fun i => s.ward.cfgFrom.any fun c => c.member == i then
    let s := s.put WARD_STATUS.BUSY 0
    let same := s.ward.cfgFrom.all fun c => c.p == s.wardUnits && c.g == s.wardG && c.members == s.memberList
    let n := s.get STEP_NUM.STEP
    let s := s.setWard { s.ward with cfgFrom := [], epoch := n }
    if same then s.put WARD_STATUS.STATE wardInitSt else s.wardCfgErr
  else s

def State.wardEnable (s : State) : State :=
  if !s.enableOk then s.wardCfgErr
  else
    let s := (s.setWard { s.ward with units := [], staged := [], unacked := [] }).put WARD_STATUS.BUSY 1
    let msg := leBytes 8 s.wardUnits ++ leBytes 1 s.wardG ++ leBytes 1 s.wardSelf ++ s.memberList.map (BitVec.ofNat 8)
    let s := s.each s.others fun s i => s.send 5 0x0303 (s.memberChip i) (pad64 msg)
    s.cfgCheck

def execWardCfg (h : MsgHdr) (p : W64) (g self : BitVec 8) (members : List (BitVec 8)) (s : State) :
    Host.Outcome State Fault Refusal :=
  .next (s.onMsg h .inSlice fun s =>
    let c : WardCfg := ⟨self.toNat, p.toNat, g.toNat, members.map (·.toNat)⟩
    (s.setWard { s.ward with cfgFrom := s.ward.cfgFrom.filter (fun (x : WardCfg) => x.member != c.member) ++ [c] }).cfgCheck)

/-! ### Chains (R476, R485) -/

/-- Whether member `m` has a data unit in stripe (b, q). -/
def State.hasUnit (s : State) (m b q : Nat) : Bool := m != q && decide (unitOfStripe s.wardG m b q < s.wardUnits)

/-- The data members of a stripe, ascending. -/
def State.dataMembers (s : State) (b q : Nat) : List Nat := (List.range s.wardG).filter fun m => s.hasUnit m b q

/-- The stripes of the group. -/
def State.stripes (s : State) : List (Nat × Nat) :=
  (List.range (parityUnits s.wardUnits s.wardG)).flatMap fun b =>
    ((List.range s.wardG).filter fun q => !(s.dataMembers b q).isEmpty).map fun q => (b, q)

/-- The lost member that a rebuild serves. -/
def State.lostMember (s : State) : Nat :=
  ((List.range 5).find? fun i => s.get WARD_STATUS.LOST / 2 ^ i % 2 == 1).getD s.wardSelf

/-- The members of a chain in order, and its end. -/
def State.chainOf (s : State) (rebuild : Bool) (lost b q : Nat) : List Nat × Nat :=
  if rebuild then
    ((if q ≠ lost then [q] else []) ++ (s.dataMembers b q).filter (· != lost), lost)
  else (s.dataMembers b q, q)

/-- The Topsoil offset of this member's unit in a stripe: its parity unit or its data unit. -/
def State.ownUnit (s : State) (b q : Nat) : Option Nat :=
  if q = s.wardSelf then some (s.parityOff (1024 * b)) else s.wardUnitAt (unitOfStripe s.wardG s.wardSelf b q)

/-- Sends a partial unit to a member: CHAIN_UNIT, then its bytes to the receiver's staging area (R385). -/
def State.sendUnit (s : State) (dst b q : Nat) (rebuild : Bool) (bs : List Byte) : State :=
  let chip := s.memberChip dst
  let s := s.send 5 0x0304 chip (pad64 (leBytes 8 b ++ leBytes 1 q ++ leBytes 1 (bit rebuild)))
  s.sendBytes 5 chip .chain 32 (chip * 2 ^ 44 + 2 ^ 42 + 65536 * s.get WARD_STAGE.BASE) bs

/-- XOR of two equal runs of bytes. -/
def xorRun (a b : List Byte) : List Byte := List.zipWith (· ^^^ ·) a b

/-- This member's own unit, and the record of its uncorrectable lines. -/
def State.readUnit (s : State) (o b : Nat) (rebuild : Bool) : State × List Byte :=
  let bs := s.topPeek o 65536
  let bad := !(s.topsoil.badIn 64 o 65536).isEmpty
  let s := s.topTouch o 65536
  if !bad then (s, bs)
  else if rebuild then
    let s := s.setWard { s.ward with rebuildBad := s.ward.rebuildBad ++ [(b, s.wardSelf)] }
    (((s.put WARD_ERR.REBUILD_FAIL 1).put WARD_ERR.UNRECOVERABLE 1).errlog
      { cls := 0x10, block := 0x11, detail := s.wardSelf, addr := s.gaddr 1 o }, bs)
  else ((s.readErrors (s.gaddr 1 o) 65536 false).1, bs)

/-- Writes a unit as it stands: neither a delta nor a count (R476, R485). -/
def State.writeUnit (s : State) (o : Nat) (bs : List Byte) : State := { s with topsoil := s.topsoil.write 64 o bs }

/-- The member after this one in a chain, or the chain's end. -/
def chainNext (order : List Nat) (end_ me : Nat) : Nat :=
  match order.dropWhile (· != me) with
  | _ :: n :: _ => n
  | _ => end_

/-- The units that the chains must bring here: parity units under INIT, every unit of a substitute under REBUILD. -/
def State.awaited (s : State) : List (Nat × Nat) :=
  if s.wardState = wardRebuild then s.stripes.filter fun u => u.2 == s.wardSelf || s.hasUnit s.wardSelf u.1 u.2
  else s.stripes.filter fun u => u.2 == s.wardSelf

/-- INIT ends in ON, and REBUILD in FROZEN (assumption 43), when every unit has come. -/
def State.chainsDone (s : State) : State :=
  if s.flag WARD_STATUS.BUSY && s.awaited.all fun u => s.ward.units.contains u then
    if s.wardState = wardInitSt then (s.put WARD_STATUS.STATE wardOnSt).put WARD_STATUS.BUSY 0
    else if s.wardState = wardRebuild then (s.put WARD_STATUS.STATE wardFrozen).put WARD_STATUS.BUSY 0
    else s
  else s

/-- A chain's unit at this member: it ends here, or goes on with this member's own unit. -/
def State.chainStep (s : State) (b q : Nat) (rebuild : Bool) (bs : List Byte) : State :=
  let lost := if s.wardState = wardRebuild then s.wardSelf else s.lostMember
  let c := s.chainOf rebuild lost b q
  match s.ownUnit b q with
  | none => s
  | some o =>
    if c.2 = s.wardSelf then
      let s := s.writeUnit o bs
      (s.setWard { s.ward with units := s.ward.units ++ [(b, q)] }).chainsDone
    else if c.1.contains s.wardSelf then
      let r := s.readUnit o b rebuild
      r.1.sendUnit (chainNext c.1 c.2 s.wardSelf) b q rebuild (xorRun bs r.2)
    else s

def execChainUnit (h : MsgHdr) (unit : W64) (q : BitVec 8) (rebuild : Bool) (bytes : List Byte) (s : State) :
    Host.Outcome State Fault Refusal :=
  .next (s.onMsg h .inSlice fun s =>
    if s.wardState = wardOff then s
    else s.chainStep unit.toNat q.toNat rebuild ((bytes ++ List.replicate 65536 0).take 65536))

/-- INIT: this member starts the chain of each stripe of which it is the lowest data member. -/
def State.wardInit (s : State) : State :=
  if s.wardState ≠ wardInitSt ∨ s.flag WARD_STATUS.BUSY then s.wardCfgErr
  else
    let s := s.put WARD_STATUS.BUSY 1
    let mine := s.stripes.filter fun u => (s.dataMembers u.1 u.2).head? == some s.wardSelf
    let s := s.each mine fun s u =>
      match s.ownUnit u.1 u.2 with
      | none => s
      | some o =>
        let r := s.readUnit o u.1 false
        r.1.sendUnit (chainNext (s.dataMembers u.1 u.2) u.2 s.wardSelf) u.1 u.2 false r.2
    s.chainsDone

/-- REBUILD on a substitute: it starts each chain with a unit of zeros to the chain's first member (assumption 43). -/
def State.wardRebuildOp (s : State) : State :=
  if s.wardState ≠ wardOff then s.wardCfgErr
  else
    let s := (s.put WARD_STATUS.STATE wardRebuild).put WARD_STATUS.BUSY 1
    let s := s.setWard { s.ward with units := [], rebuildBad := [] }
    let s := s.each s.awaited fun s u =>
      match (s.chainOf true s.wardSelf u.1 u.2).1 with
      | [] => s
      | m :: _ => s.sendUnit m u.1 u.2 true (List.replicate 65536 0)
    s.chainsDone

/-! ### Staging (R479) -/

/-- Entries of 128 bytes in one half of the staging area. -/
def State.stageCap (s : State) : Nat := s.get WARD_STAGE.LEN * 65536 / 2 / 128

def State.stagedSet (s : State) (l : List Staged) : State :=
  (s.setWard { s.ward with staged := l }).put WARD_PEND.STAGED l.length

/-- A holder takes a delta: it joins the entry of its key, or a new one; `false` when its half is full. While FROZEN a
surviving source's delta goes into parity at once (R482, R483). -/
def State.stageDelta (s : State) (d : Staged) : State × Bool :=
  if s.ward.staged.any fun x => x.source == d.source && x.epoch == d.epoch && x.line == d.line then
    (s.stagedSet (s.ward.staged.map fun x =>
      if x.source == d.source && x.epoch == d.epoch && x.line == d.line then { x with delta := x.delta ^^^ d.delta } else x), true)
  else if s.stageCap ≤ s.ward.staged.countP (fun x => x.epoch % 2 == d.epoch % 2) then (s.put WARD_ERR.STAGE_FULL 1, false)
  else
    let s := s.stagedSet (s.ward.staged ++ [d])
    if s.wardState = wardFrozen ∧ s.get WARD_STATUS.LOST / 2 ^ d.source % 2 = 0 then
      (s.applyStaged fun x => x.source == d.source, true)
    else (s, true)

/-- The parity line that an address of this chip's parity area names. -/
def State.parityLine (s : State) (o : Nat) : Option Nat :=
  let b := 65536 * s.get WARD_PAR.BASE
  if s.wardOn ∧ b ≤ o ∧ o < b + 65536 * s.get WARD_PAR.LEN then some ((o - b) / 64) else none

/-- Answers the WRITE packets that brought a delta (R378, R477). -/
def State.answerDelta (s : State) (src line : Nat) (ok : Bool) : State :=
  let mine := s.net.delivered.filter fun p => p.vc == 5 && p.op == 1 && p.src.toNat == src &&
    s.parityLine (p.addr.toNat % 2 ^ 42) == some line
  let s := { s with net := { s.net with delivered := s.net.delivered.filter fun p => !mine.contains p } }
  s.each mine fun s p => s.reply p (if ok then 5 else 6) []

def execWardDelta (h : MsgHdr) (source : BitVec 3) (epoch : W64) (line : BitVec 32) (delta : Payload) (s : State) :
    Host.Outcome State Fault Refusal :=
  .next (s.onMsg h .inSlice fun s =>
    if s.wardState = wardOff then s
    else
      let r := s.stageDelta ⟨source.toNat, epoch.toNat, line.toNat, delta⟩
      r.1.answerDelta h.src.toNat line.toNat r.2)

/-! ### Freezing and recovery (R482 to R486) -/

def execFreeze (h : MsgHdr) (missing : W64) (s : State) : Host.Outcome State Fault Refusal :=
  .next (s.onMsg h .fromLeader fun s =>
    let gone (d : Nat) : Bool := match s.net.slice with
      | some c => bitOf missing (c.index (s.position d))
      | none => false
    (s.setWard { s.ward with missing := missing }).freezeIfOn (s.membersAt gone))

/-- COMMIT_TO (R483): a chip that has committed step K − 1 commits step K; lost sources' staging of epoch K joins the
parity, and the rest of it goes. -/
def State.commitTo (s : State) : State :=
  if s.wardState ≠ wardFrozen then s.wardCfgErr
  else
    let k := s.get WARD_STEP.K
    let lost (d : Staged) : Bool := s.get WARD_STATUS.LOST / 2 ^ d.source % 2 == 1
    let s := s.applyStaged fun d => lost d && d.epoch == k
    let s := s.stagedSet (s.ward.staged.filter fun d => !lost d)
    if s.get STEP_NUM.STEP = k then s.commitStep.sheafStep else s

/-- TIER_QJOB, TIER_QT and TIER_QS charges from the home table and the page tables (R486). -/
def State.recharge (s : State) : State :=
  let s := (s.put TIER_QJOB_T.USED 0).put TIER_QJOB_S.USED 0
  let s := s.each (List.range 16) fun s c => (s.put (TIER_QT.USED c) 0).put (TIER_QS.USED c) 0
  let s := s.each (s.homes fun _ => true) fun s i => s.chargeAdd (s.chargedTop (s.homeAddr i)) (s.homeClass i) (units (s.homeLen i))
  s.each (List.range 1024) fun s i =>
    let v := s.slot i
    if v.st = slotFree then s
    else (s.chargeAdd true v.cls ((s.pagesIn i 1).length * s.pageUnits)).chargeAdd false v.cls ((s.pagesIn i 2).length * s.pageUnits)

/-- LOAD_SREC (R481, R486). -/
def State.loadSrec (s : State) : State :=
  let o := 65536 * s.get (WARD_RANGE.BASE 0)
  let w (k : Nat) : W64 := s.topWord (o + 8 * k)
  if s.wardState ≠ wardFrozen ∨ !s.flag (WARD_RANGE.EN 0) ∨ bitsOf (w 0) 0 32 ≠ 0x52545357 then s.wardCfgErr
  else
    let s := s.partReads o 192 false
    let committed := bitOf (w 0) 32
    let regs := [STEP_NUM.STEP.reg] ++ (List.range 4).map (fun q => (STEP_QHEAD.HEAD q).reg) ++
      (List.range 4).map (fun q => (STEP_QTAIL.TAIL q).reg) ++ [(STEP_TAGS.TAG 0).reg, (STEP_TAGS.TAG 1).reg,
        STEP_CHEAD.INDEX.reg, STEP_CTAIL.INDEX.reg, SERVE_RPTR.HEAD.reg, SERVE_TPTR.HEAD.reg, (HARROW_QPTR.HEAD 0).reg,
        (HARROW_QPTR.HEAD 1).reg, FALLOW_QPTR.HEAD.reg]
    let s := s.each regs.zipIdx fun s e => s.setReg e.1 (w (e.2 + 1))
    let s := s.saveTags
    let n := s.get STEP_NUM.STEP
    let s := s.setWard { s.ward with epoch := n }
    let s := (if s.flag SERVE_CTRL.EN then s.serveResume else s).recharge
    if committed then s
    else { s with sched := { s.sched with flushedSent := true, committed := false } }.resultsFromRecords

/-- DISABLE: the Ward is off and its staging is dropped (assumption 43); a latch drain goes on (R491). -/
def State.wardDisable (s : State) : State :=
  let s := (s.setWard { WardSt.reset with latch := s.ward.latch, sealed := s.ward.sealed }).stagedSet []
  (((s.put WARD_PEND.UNACKED 0).put WARD_STATUS.STATE wardOff).put WARD_STATUS.BUSY 0).put WARD_STATUS.LOST 0

/-- A WARD_CTRL write (R495). -/
def State.wardCtrl (s : State) (val : W64) : State :=
  match bitsOf val 0 4 with
  | 1 => s.wardEnable
  | 2 => s.wardDisable
  | 3 => s.wardInit
  | 4 => s.freezeIfOn []
  | 5 => s.commitTo
  | 6 => s.loadSrec
  | 7 => s.wardRebuildOp
  | _ => s.wardCfgErr

/-- A WARD_CTRL command. -/
def State.wardCmd (s : State) (src : Source) (op : Nat) : State :=
  s.ctlWrite src 0x110000 1 (BitVec.ofNat 64 op) fun s => s.wardCtrl (BitVec.ofNat 64 op)

def execWardEnable (src : Source) (s : State) : Host.Outcome State Fault Refusal := .next (s.wardCmd src 1)
def execWardDisable (src : Source) (s : State) : Host.Outcome State Fault Refusal := .next (s.wardCmd src 2)
def execWardInit (src : Source) (s : State) : Host.Outcome State Fault Refusal := .next (s.wardCmd src 3)
def execWardFreeze (src : Source) (s : State) : Host.Outcome State Fault Refusal := .next (s.wardCmd src 4)
def execCommitTo (src : Source) (s : State) : Host.Outcome State Fault Refusal := .next (s.wardCmd src 5)
def execLoadSrec (src : Source) (s : State) : Host.Outcome State Fault Refusal := .next (s.wardCmd src 6)
def execRebuild (src : Source) (s : State) : Host.Outcome State Fault Refusal := .next (s.wardCmd src 7)

/-! ### The latch drain (R490, R491, R560) -/

/-- The seal ends once every delta is acknowledged: SEAL to the holders, and the links depart. A power hold delays it
(R432, R560). -/
def State.sealCheck (s : State) : State :=
  if s.ward.sealing && s.ward.unacked.isEmpty && !s.flag CANDLE_GOV.HOLD then
    let msg := stepMsg (s.get STEP_NUM.STEP - 1) (leBytes 1 s.wardSelf)
    let s := s.each s.others fun s i => s.send 5 0x0302 (s.memberChip i) msg
    let s := s.setWard { s.ward with sealing := false, sealed := true }
    (s.put WARD_STATUS.STATE wardSealed).departAll 1
  else s

/-- The seal starts: the state record with COMMITTED 1. -/
def State.sealStart (s : State) : State :=
  if s.ward.latch && !s.ward.sealing && !s.ward.sealed then
    let s := s.writeRecord true
    (s.setWard { s.ward with sealing := true }).sealCheck
  else s

/-- Whether a latch edge starts a drain (R560). -/
def State.drainAllowed (s : State) : Bool :=
  !s.power.resetLow && !s.power.snuffed && decide (4 ≤ s.get CHIP_STATUS.STAGE) && !s.ward.latch

/-- TRAY_LATCH_N has been asserted for `ns`, or has returned. -/
def State.trayLatch (s : State) (asserted : Bool) (ns : Nat) : State :=
  if asserted && decide (ns < 200) then s
  else
    let s := s.put CANDLE_PINS.LATCH_OPEN (bit asserted)
    if !asserted || !s.drainAllowed then s
    else
      let s := s.setWard { s.ward with latch := true }
      if s.net.slice.isSome ∧ s.wardState ≠ wardOff then
        s.send 3 0x0206 s.leaderAt (pad64 (leBytes 1 (s.get ROUTE_SELF.INDEX) ++ [1]))
      else s.departAll 1

def execTrayLatch (asserted : Bool) (ns : Nat) (s : State) : Host.Outcome State Fault Refusal :=
  .next (s.trayLatch asserted ns)

/-- DRAIN at the leader: every chip halts after the step whose COMMIT is not yet sent. -/
def execDrain (h : MsgHdr) (_idx : BitVec 6) (_reason : BitVec 8) (s : State) : Host.Outcome State Fault Refusal :=
  .next (s.onMsg h .toLeader fun s =>
    s.sendAll 0x0207 (stepMsg (s.get STEP_NUM.STEP + bit s.sched.commitSent) []))

/-- HALT_AT: the chip stops at the boundary of the step named. A latched chip at rest, or past that boundary, seals at
once (assumption 44). -/
def execHaltAt (h : MsgHdr) (step : W64) (s : State) : Host.Outcome State Fault Refusal :=
  .next (s.onMsg h .fromLeader fun s =>
    let s := { s with sched := { s.sched with haltAt := some step.toNat } }
    if s.idleState ∨ step.toNat < s.get STEP_NUM.STEP then s.sealStart else s)

/-- SEAL at a holder: all staging of the sealed member joins the parity. -/
def execSeal (h : MsgHdr) (_step : W64) (member : BitVec 8) (s : State) : Host.Outcome State Fault Refusal :=
  .next (s.onMsg h .inSlice fun s => s.applyStaged fun d => d.source == member.toNat)

def execLatchSealTimeout (s : State) : Host.Outcome State Fault Refusal :=
  .next (if s.ward.latch && !s.ward.sealed && s.net.slice.isSome then
      let s := s.setWard { s.ward with sealing := false, sealed := true }
      (s.put WARD_ERR.LATCH_LATE 1).departAll 1
    else s)

end Sys2Proof.Machine
end

