-- ==== Sys2Proof/Machine/Sched.lean ====
section
/-!
DEFINITION. The Step Scheduler (R214 to R244, R473): issue and completion of Passes, queries, and the step boundary.
-/
namespace Sys2Proof.Machine

/-! ### Descriptors (R219 to R221) -/

/-- Whether a static field of a descriptor differs from its template (R219). -/
def staticBad (d t : List W64) : Bool :=
  bitsOf (passWord d 0) 10 16 != bitsOf (passWord t 0) 10 16 || bitsOf (passWord d 0) 28 10 != bitsOf (passWord t 0) 28 10 ||
  passWcc d != passWcc t || (List.range 6).any (fun i => passWord d (2 + i) != passWord t (2 + i)) ||
  (List.range 16).any (fun k => bitsOf (passOcw d k) 0 32 != bitsOf (passOcw t k) 0 32) ||
  (List.range 16).any fun k => passRect d k != passRect t k

/-- Whether a RECT entry breaks R219 or has a low bound above its high bound. -/
def rectBad (r : Nat) : Bool :=
  let x := Rect.ofBits r
  decide (2 ^ 19 ≤ r) || (!x.fuEn && r != 0) || decide (x.rowHi < x.rowLo ∨ x.colHi < x.colLo)

/-- R220 for a descriptor, with the lit template store. -/
def descRefused (passes : List (List W64)) (d : List W64) : Bool :=
  let out := (List.range 16).filter fun k => !passUses d k
  bitsOf (passWord d 0) 54 10 != 0 || bitsOf (passWord d 1) 40 24 != 0 ||
  (List.range 16).any (fun i => passWord d (48 + i) != 0) || passStageMask d == 0 ||
  decide (passes.length ≤ passTemplate d + passNbM1 d) || staticBad d (passes.getD (passTemplate d) []) ||
  out.any (fun k => bitsOf (passOcw d k) 0 32 != 0 || passRect d k != 0) ||
  (List.range 16).any (fun k => convWordBad (passOcw d k) || rectBad (passRect d k)) ||
  (List.range 16).any fun k => (List.range k).any fun j => (passRectOf d j).meets (passRectOf d k)

/-- The descriptor that runs: the static fields of template `t` with the dynamic fields of the descriptor (R221). -/
def variantOf (d t : List W64) : List W64 :=
  (List.range 64).map fun i =>
    if i = 0 then withBits (passWord d 0) 10 16 (passStageMask t)
    else if i < 8 ∨ (40 ≤ i ∧ i < 48) then passWord t i
    else if 16 ≤ i ∧ i < 32 then withBits (passWord d i) 0 32 (bitsOf (passWord t i) 0 32)
    else passWord d i

/-- The variant, template, bucket and default mark with which a descriptor would run now; `none` while its bucket is
not settled (R221, R232). -/
def State.runOf (s : State) (d : List W64) : Option (List W64 × Nat × Nat × Bool) :=
  if passBucketed d then
    (s.settledFor d).map fun b =>
      let k := min b.1 (passNbM1 d)
      (variantOf d (s.lit.passes.getD (passTemplate d + k) []), passTemplate d + k, k, b.2)
  else some (d, passTemplate d, 0, false)

/-! ### Issue (R214, R224) -/

/-- Conditions 2, 3 and 5 of R224. -/
def State.mayIssue (s : State) (r : List W64) : Bool :=
  (List.range 128).all (fun t => !bitOf (passWord r (2 + t / 64)) (t % 64) || s.tagReady t) &&
  s.sched.inflight.all (fun p => (List.range 16).all fun k => !(passUses r k && passUses p.desc k) &&
    (List.range 16).all fun j => !(passRectOf p.desc j).meets (passRectOf r k)) &&
  decide (s.sched.inflight.length < 8)

/-- Whether queue `q` has a descriptor to examine (condition 1 of R224). -/
def State.queueOpen (s : State) (q : Nat) : Bool :=
  s.get STEP_CTRL.QMASK / 2 ^ q % 2 == 1 && s.get (STEP_QHEAD.ISSUE q) != s.get (STEP_QTAIL.TAIL q) &&
    !s.sched.endIssued.getLsbD q

/-- The scheduler's read of a descriptor: its lines count, and uncorrectable ones are charged to the step (R467). -/
def State.readDesc (s : State) (off : Nat) : State := ((s.topTouch off 512).readErrors (s.gaddr 1 off) 512 true).1

/-- Plots with a Furrow Unit in a rectangle of a Pass (R216). -/
def passPlots (p : List W64) : List Nat :=
  (List.range 512).filter fun plot => (List.range 16).any fun k => (passRectOf p k).holds plot

/-- Generators start their walks (R214). -/
def State.startWalks (s : State) (p : PassSt) : State :=
  s.each s.lit.hopper fun s e => s.each (passBindings e.2 p.desc) fun s b =>
    s.setAg (4 * e.1 + b.2.1) { AgSt.idle with running := true, pseq := p.pseq, stage := b.1 }

/-- Clears the elements and pipelines of a Pass's Furrow Units (R176, R179). -/
def State.clearUnits (s : State) (plots : List Nat) : State :=
  { s with field := { s.field with
      elems := s.field.elems.filter fun e => !plots.contains (e.1 / 16)
      pipes := s.field.pipes.filter fun e => !plots.contains (e.1 / 2) } }

/-- Puts a Pass in flight. -/
def State.enterPass (s : State) (p : PassSt) : State :=
  let s := { s with sched := { s.sched with
    inflight := s.sched.inflight ++ [p], nextPseq := s.sched.nextPseq + 1, nextOrder := s.sched.nextOrder + 1
    endIssued := if passStepEnd p.desc then s.sched.endIssued ||| BitVec.ofNat 4 (2 ^ p.queue) else s.sched.endIssued
    firstNow := s.sched.firstNow.or (some (s.get HARROW_NOW.CYCLES)) } }
  (s.put (STEP_QHEAD.ISSUE p.queue) (p.pos + 1)).put STEP_STATUS.INFLIGHT s.sched.inflight.length

/-- Issues a Pass. -/
def State.issuePass (s : State) (q : Nat) (r : List W64 × Nat × Nat × Bool) : State :=
  let p : PassSt := ⟨s.sched.nextPseq % 65536, q, s.get (STEP_QHEAD.ISSUE q), r.1, r.2.1, r.2.2.1, r.2.2.2, s.field.cycle,
    s.sched.nextOrder, false, .zero⟩
  let s := ((s.enterPass p).glowRestore.clearUnits (passPlots p.desc)).startWalks p
  let s := s.engineIssue p
  if s.flag SERVE_CTRL.EN ∧ p.template = s.get SERVE_RES_TPL.TEMPLATE then
    s.boardRequest (.serve (passMb p.desc)) p.order (some p.pseq) false 0 0
  else s

/-- Whether an engine that would serve the Pass refuses its layer entry (R247). -/
def State.engineRefuses (s : State) (r : List W64) : Bool := (s.sowerServes r || s.gleanServes r) && s.layerBad r

/-- Examines the heads of the queues in turn (R224): the first that may issue is issued, a refused one stops the step. -/
def State.issueFrom (s : State) : List Nat → State
  | [] => s
  | q :: qs =>
    if !s.queueOpen q then s.issueFrom qs
    else
      let idx := s.get (STEP_QHEAD.ISSUE q)
      let off := s.descOff q idx
      let d := s.descAt q idx
      if descRefused s.lit.passes d then (s.readDesc off).refuseDesc q idx (s.gaddr 1 off)
      else match s.runOf d with
        | none => s.issueFrom qs
        | some r =>
          if !s.mayIssue r.1 then s.issueFrom qs
          else if s.engineRefuses r.1 then
            let s := s.sowerCapture (passLayer r.1) (passMb r.1) 0 1
            ((s.readDesc off).put SOWER_ERR.LAYER_BAD 1).refuseDesc q idx (s.gaddr 1 off)
          else (s.readDesc off).issuePass q r

/-- Whether Passes may issue: a step runs, no rotation stands between READY and its end, the Field clock runs, the lit
plane is sound, and no power hold acts (R202, R206, R224, R432). -/
def State.issueOpen (s : State) : Bool :=
  decide (s.stepState = stepRunning ∧ s.rotState < 2) && s.fieldRuns && !s.rot.litBad

def execPassIssue (s : State) : Host.Outcome State Fault Refusal :=
  .next (if s.issueOpen then s.issueFrom [0, 1, 2, 3] else s)

/-! ### Completion (R217, R222, R236) -/

/-- The queues of a Pass: those of its Furrow Units, and of the generators that its bindings use (R179). -/
def passQueues (m : Image) (p : List W64) : List QId :=
  ((passPlots p).flatMap fun plot => [0, 1].flatMap fun u => (List.range 21).map (furrowQ plot u)) ++
  m.hopper.flatMap fun e => (passBindings e.2 p).flatMap fun b =>
    [b.2.1, 4 + b.2.1, 8 + b.2.1].map (hopperQ (e.1 / 2) (e.1 % 2))

/-- Whether an element of a unit has an open row, or a partly used control token (R179). -/
def State.elemOpen (s : State) (unit i : Nat) (w : W64) : Bool :=
  let v := s.elem (8 * unit + i)
  v.rowOpen || v.once ||
    elemHasCtl w && ((srcQ (unit / 2) (unit % 2) (bitsOf w 12 4) 0).map fun q => decide ((s.queue q).used ≠ 0)).getD false

/-- Elements of a Pass that are not empty. -/
def State.openElems (s : State) (plots : List Nat) : Nat :=
  (s.lit.furrow.map fun e => if plots.contains (e.1 / 2) then
      (e.2.elems.zipIdx.filter fun w => w.1 != 0 && s.elemOpen e.1 w.2 w.1).length else 0).foldl (· + ·) 0

/-- Hand-over slots of a Pass's rings that are not empty (R152). -/
def State.openRings (s : State) (p : List W64) : List Nat :=
  (s.field.rings.filter fun e => s.lit.hopper.any fun h => (passBindings h.2 p).any fun b =>
    isRing b.2.2.1 b.2.2.2 && decide (e.1 / 2 = 16384 * h.1 + b.2.2.1.sbBase)).map (·.1)

/-- R152 and R179 at the end of a Pass: what is left is discarded and counted. -/
def State.endChecks (s : State) (p : PassSt) : State :=
  let plots := passPlots p.desc
  let qs := (distinct (passQueues s.lit p.desc)).filter fun q => !(s.queue q).toks.isEmpty
  let rings := s.openRings p.desc
  let open_ := s.openElems plots
  let s := s.countPass p.pseq fun c => { c with steerF := c.steerF + qs.length + open_, handoverF := c.handoverF + rings.length }
  let s := s.each qs fun s q =>
    let v := s.queue q
    s.setQueue q { v with toks := [], out := v.out - v.toks.length, used := 0 }
  let s := s.each rings fun s k => s.setRing k .empty
  let s := { s with field := { s.field with ags := s.field.ags.filter fun e => e.2.pseq != p.pseq } }
  s.clearUnits plots

/-- Whether a Pass may complete (R217). -/
def State.passDone (s : State) (pseq : Nat) : Bool :=
  s.field.ags.all (fun e => !e.2.running || e.2.pseq != pseq || e.2.ended) &&
  s.sched.entries.all (fun o => o.pseq != some pseq) && s.sched.waiting.all (fun o => o.pseq != some pseq) &&
  s.moe.waiting.all fun e => e.2.2 != pseq

def satN (n v : Nat) : Nat := min (2 ^ n - 1) v

/-- The completion record (R222). -/
def State.passRecord (s : State) (p : PassSt) (cycles : Nat) : List Byte :=
  let c := p.cnt
  wordBytes [
    p.pseq + p.template % 1024 * 2 ^ 16 + bit (passMb p.desc) * 2 ^ 26 + bit (decide (passWcc p.desc < cycles)) * 2 ^ 27 +
      bit p.byDefault * 2 ^ 28 + p.bucket * 2 ^ 29 + passLayer p.desc * 2 ^ 33 + bit s.sched.replay * 2 ^ 49,
    s.get STEP_NUM.STEP, cycles % 2 ^ 40,
    satN 16 c.nan + satN 16 c.ovf * 2 ^ 16 + satN 16 c.toZero * 2 ^ 32 + satN 16 c.sbCe * 2 ^ 48,
    satN 16 c.indexF + satN 16 c.xlateF * 2 ^ 16 + satN 16 c.treeF * 2 ^ 32 + satN 16 c.handoverF * 2 ^ 48,
    satN 16 c.steerF + satN 32 c.msbWait * 2 ^ 16, p.issueCycle % 2 ^ 40, 0]

/-- Writes a record to the completion ring, or drops it when the ring is full (R222). -/
def State.completionRecord (s : State) (bs : List Byte) : State :=
  let h := s.get STEP_CHEAD.INDEX
  let n := 2 ^ s.get STEP_CRING.LOG2N
  if idxSub 16 h (s.get STEP_CTAIL.INDEX) = n then s.put STEP_ERR.CREC_LOST 1
  else (s.topWrite (4096 * s.get STEP_CRING.BASE + 64 * (h % n)) bs).put STEP_CHEAD.INDEX (h + 1)

/-- An overrun (R236). -/
def State.overrun (s : State) (p : PassSt) (cycles : Nat) : State :=
  if cycles ≤ passWcc p.desc then s
  else
    let s := if s.flag STEP_ERR.OVERRUN then s
      else ((s.put STEP_OVR.TEMPLATE p.template).put STEP_OVR.LAYER (passLayer p.desc)).put STEP_OVR.EXCESS
        (satN 32 (cycles - passWcc p.desc))
    s.put STEP_ERR.OVERRUN 1

/-- The tags of a completed Pass: CLR_TAGS, then SET_TAGS (R226). -/
def State.passTags (s : State) (d : List W64) : State :=
  s.each [0, 1] fun s j => s.setReg (STEP_TAGS.TAG j).reg ((s.reg (STEP_TAGS.TAG j).reg &&& ~~~(passWord d (6 + j))) ||| passWord d (4 + j))

/-- Takes a Pass out of flight. -/
def State.leavePass (s : State) (p : PassSt) : State :=
  let s := { s with sched := { s.sched with
    inflight := s.sched.inflight.filter (fun x => x.pseq != p.pseq), passesDone := s.sched.passesDone + 1 } }
  let s := s.put STEP_STATUS.INFLIGHT s.sched.inflight.length
  if passStepEnd p.desc then s.put STEP_STATUS.STEP_END_DONE (s.get STEP_STATUS.STEP_END_DONE ||| 2 ^ p.queue) else s

/-- A Pass completes. -/
def State.completePass (s : State) (p : PassSt) : State :=
  let cycles := s.field.cycle - p.issueCycle
  let s := (s.endChecks p).passTags p.desc
  let p := (s.sched.inflight.find? fun x => x.pseq == p.pseq).getD p
  let s := (s.completionRecord (s.passRecord p cycles)).overrun p cycles
  let s := if passQraise p.desc && !p.queried then s.raiseQuery p.desc 0 0 else s
  (s.leavePass p).rotationNow

def execPassComplete (pseq : BitVec 16) (s : State) : Host.Outcome State Fault Refusal :=
  .next (match s.clocked (s.sched.inflight.find? fun p => p.pseq == pseq.toNat) with
    | none => s
    | some p => if s.passDone p.pseq then s.completePass p else s)

/-- A hang abandons the step with cause 2 (R236, R239). -/
def execHangTimeout (pseq : BitVec 16) (s : State) : Host.Outcome State Fault Refusal :=
  .next (if s.sched.inflight.any fun p => p.pseq == pseq.toNat then (s.put STEP_ERR.HANG 1).charge 2 else s)

/-- A waiting operation takes its entry; its wait counts in its Pass's MSB_WAIT (R228). -/
def State.waitEnd (s : State) (o : MemOp) : State :=
  let s := { s with sched := { s.sched with waiting := s.sched.waiting.erase o } }
  let s := s.boardTake o
  match o.pseq with
  | none => s
  | some p => s.countPass p fun c => { c with msbWait := c.msbWait + (s.field.cycle - o.since) }

def execScoreboardWaitEnd (op : Nat) (s : State) : Host.Outcome State Fault Refusal :=
  .next (match s.clocked (s.sched.waiting.find? fun o => o.ticket == op) with
    | none => s
    | some o => if s.boardBlocks o then s else s.waitEnd o)

/-! ### Queries (R230 to R234, R473) -/

/-- The lowest-numbered idle core that takes queries. -/
def State.idleCore (s : State) : Option Nat :=
  (List.range 16).find? fun c => s.get STEP_QCFG.CORES / 2 ^ c % 2 == 1 && s.get WARD_CORE.STUCK / 2 ^ c % 2 == 0 &&
    (s.coreQuery c).isNone

/-- A query goes to a core, which is interrupted (R233). -/
def State.dispatchQuery (s : State) (q : Query) (c : Nat) : State :=
  let s := (s.updQuery q.qid fun x => { x with core := some c }).setCore c (q.qid + 1)
  { s with sched := { s.sched with
      coreDeadline := KMap.set (fun _ => 0) s.sched.coreDeadline c q.deadline
      coreIrq := s.sched.coreIrq ||| BitVec.ofNat 16 (2 ^ c) } }

def execQueryDispatch (s : State) : Host.Outcome State Fault Refusal :=
  .next (match s.outstanding.find? (fun q => q.core.isNone), s.idleCore with
    | some q, some c => s.dispatchQuery q c
    | _, _ => s)

/-- A bucket is settled (R232). -/
def State.settleQuery (s : State) (qid bucket : Nat) (byDefault : Bool) (orders : List (W64 × W64)) : State :=
  (s.updQuery qid fun x => { x with outstanding := false, settled := some (bucket, byDefault) }).sowerSettle qid bucket orders

def execQueryDeadline (qid : BitVec 16) (s : State) : Host.Outcome State Fault Refusal :=
  .next (match s.outstanding.find? fun q => q.qid == qid.toNat with
    | none => s
    | some q => (s.bump STEP_QSTAT.LATE 1).settleQuery q.qid q.nbM1 true [])

/-- The fetch orders of a fetch-list area (R231). -/
def State.fetchOrders (s : State) (qid n : Nat) : List (W64 × W64) :=
  let o := 4096 * s.get STEP_QRING.BASE + 0x1000 + 0x1000 * (qid % 64)
  (List.range n).map fun i => (s.topWord (o + 16 * i), s.topWord (o + 16 * i + 8))

def State.answerRefused (s : State) : State := s.bump STEP_QSTAT.REFUSED 1

/-- An answer by core `c` (R234). -/
def State.answer (s : State) (c qid bucket count : Nat) : State :=
  match s.coreQuery c with
  | none => s.answerRefused
  | some held =>
    match s.sched.queries.find? fun q => q.qid == held && q.core == some c with
    | some q =>
      if !q.outstanding then s.freeCore c
      else if qid = held ∧ bucket ≤ q.nbM1 ∧ count ≤ 256 then
        let orders := s.fetchOrders qid count
        (((s.partReads (4096 * s.get STEP_QRING.BASE + 0x1000 + 0x1000 * (qid % 64)) (16 * count) true).settleQuery qid bucket
          false orders).bump STEP_QSTAT.ONTIME 1).freeCore c
      else s.answerRefused
    | none =>
      if KMap.get (fun _ => 0) s.sched.coreDeadline c < s.get STEP_QCLK.TICKS then s.freeCore c else s.answerRefused

/-- A write of STEP_QANS (R234, R243): it acts for the core that writes it. -/
def State.qansWrite (s : State) (src : Source) (qid bucket : Nat) (noans : Bool) (count : Nat) : State :=
  match src with
  | .core i _ => if noans then s.freeCore i.toNat else s.answer i.toNat qid bucket count
  | _ => if noans then s else s.answerRefused

def execQans (src : Source) (qid : BitVec 16) (bucket : BitVec 4) (count : BitVec 9) (s : State) :
    Host.Outcome State Fault Refusal :=
  .next (s.ctlWrite src 0x400B0 1
    (BitVec.ofNat 64 (qid.toNat + 2 ^ 16 * bucket.toNat + 2 ^ 21 * count.toNat)) fun s => s.qansWrite src qid.toNat bucket.toNat false count.toNat)

def execNoans (src : Source) (qid : BitVec 16) (s : State) : Host.Outcome State Fault Refusal :=
  .next (s.ctlWrite src 0x400B0 1 (BitVec.ofNat 64 (qid.toNat + 2 ^ 20)) fun s => s.qansWrite src qid.toNat 0 true 0)

/-- A core has held a query for QUERY_US (R473). -/
def execQueryWatchdog (core : BitVec 4) (s : State) : Host.Outcome State Fault Refusal :=
  .next (if (s.coreQuery core.toNat).isSome ∧ s.get WARD_CORE.STUCK / 2 ^ core.toNat % 2 = 0 then
      (s.put WARD_CORE.STUCK (s.get WARD_CORE.STUCK ||| 2 ^ core.toNat)).errlog { cls := 0xE, block := 0x11 }
    else s)

/-! ### The step boundary (R238) -/

/-- R225: every queue in use has completed its STEP_END Pass, and no Pass is in flight. -/
def State.stepComplete (s : State) : Bool :=
  decide (s.stepState = stepRunning ∧ s.sched.inflight = [] ∧
    s.get STEP_CTRL.QMASK &&& (15 - s.get STEP_STATUS.STEP_END_DONE) = 0)

/-- Step 1: the state record is written and the Ward flush starts; the leader's wait begins (R241, R434, R481). -/
def State.boundaryStart (s : State) : State :=
  let s := (s.writeRecord false).put STEP_STATUS.STATE stepBoundary
  { s with sched := { s.sched with flushing := true, bndWait := s.sched.bndWait || s.leads } }.glowBoundary

def execStepComplete (s : State) : Host.Outcome State Fault Refusal :=
  .next (if s.stepComplete && !s.flag CANDLE_GOV.HOLD then s.boundaryStart else s)

/-- Step 2: every delta of the step is acknowledged, and FLUSHED goes to the leader. -/
def execWardFlushEnd (s : State) : Host.Outcome State Fault Refusal :=
  .next (if s.sched.flushing && s.ward.unacked.isEmpty then
      let s := { s with sched := { s.sched with flushing := false, flushedSent := true } }
      s.send 3 0x0201 s.leaderAt (stepMsg (s.get STEP_NUM.STEP)
        (leBytes 4 (s.get ROUTE_SELF.INDEX) ++ leBytes 4 s.sched.passesDone))
    else s)

/-- Step 3: the leader decides once it holds FLUSHED of every chip. -/
def State.flushedCheck (s : State) : State :=
  let n := s.get STEP_NUM.STEP
  if s.sched.commitSent || s.sched.abandonMcast ||
      !(List.range s.sliceSize).all (fun i => s.sched.flushedFrom.any fun e => e.1 == i) then s
  else if s.sched.flushedFrom.all fun e => e.2 == n then
    ({ s with sched := { s.sched with commitSent := true, bndWait := false } }).sendAll 0x0203 (stepMsg n [])
  else s.abandonAll n 5 (s.get ROUTE_SELF.INDEX)

def execFlushed (h : MsgHdr) (step : W64) (_idx : BitVec 6) (_passes : BitVec 32) (s : State) : Host.Outcome State Fault Refusal :=
  .next (s.onMsg h .toLeader fun s =>
    if s.sched.abandonMcast then s
    else
      let i := (s.indexOf h.src.toNat).getD 0
      State.flushedCheck { s with sched := { s.sched with
        flushedFrom := s.sched.flushedFrom.filter (fun (e : Nat × Nat) => e.1 != i) ++ [(i, step.toNat)]
        bndWait := !s.sched.commitSent } })

/-- Steps 6 to 8, and the seal of a latched chip (R206, R490). -/
def State.boundaryRest (s : State) : State :=
  let n := s.get STEP_NUM.STEP - 1
  let s := if s.sched.haltAt = some n then s.sealStart else s
  if s.rot.armed = some n ∧ s.rotState = rotArmed ∧ !s.rot.now then s.rotationPoint n else s.finishBoundary

/-- A chip whose Field was reset after FLUSHED has committed: it stays ABANDONING, and the charge goes to the next step
(R239, R470). Step 7 of the boundary takes effect, and the SERVE commands that waited act. -/
def State.rejoinNext (s : State) : State :=
  let s := s.serveRetry.serveHeld
  State.chargeSend { s with sched := { s.sched.fresh false (s.get STEP_NUM.STEP) with resetRejoin := true } }

/-- COMMIT (steps 4 to 8); an event that came after FLUSHED is reported at once (R239). -/
def State.commit (s : State) : State :=
  let s := (({ s with sched := { s.sched with committed := true } }).commitStep).chargeSend.sheafStep
  if s.sched.resetRejoin then s.rejoinNext else s.boundaryRest

def execCommit (h : MsgHdr) (step : W64) (s : State) : Host.Outcome State Fault Refusal :=
  .next (s.onMsg h .fromLeader fun s =>
    let open_ := s.stepState == stepBoundary || s.stepState == stepAbandoning && s.sched.resetRejoin
    if open_ && s.sched.flushedSent && !s.sched.committed && decide (step.toNat = s.get STEP_NUM.STEP) then s.commit else s)

/-- The step that a Sheaf delayed begins once no record waits (R306). -/
def State.sheafDone (s : State) : State :=
  if s.sched.ringWait && s.serve.sheaf.isEmpty then
    let s := { s with sched := { s.sched with ringWait := false } }
    if s.boundaryWork then s.leaveBoundary else s
  else s

/-- The rings have space for a Sheaf that waits (R306). -/
def execRingWaitEnd (s : State) : Host.Outcome State Fault Refusal :=
  .next (match s.serve.sheaf with
    | f :: _ => if s.sheafFits f then s.sheafStep.sheafDone else s
    | [] => s)

/-! ### Abandonment (R239 to R241) -/

/-- Whether an ABANDON is kept until this chip begins its step (R239). -/
def State.holdsAbandon (s : State) (step : Nat) : Bool :=
  (s.stepState == stepBoundary && s.sched.committed && step == s.get STEP_NUM.STEP) ||
  (s.leads && s.sched.commitSent && step == s.get STEP_NUM.STEP + 1)

def execAbandon (h : MsgHdr) (step : W64) (cause : BitVec 8) (idx : BitVec 6) (s : State) : Host.Outcome State Fault Refusal :=
  .next (s.onMsg h .inSlice fun s =>
    let fromLeader := decide (h.src.toNat = s.leaderAt)
    if !s.leads && !fromLeader then s.linkErr 9 0
    else if s.holdsAbandon step.toNat then
      { s with sched := { s.sched with heldAbandon := some (step.toNat, cause.toNat, idx.toNat) } }
    else s.abandonTake step.toNat cause.toNat idx.toNat fromLeader)

/-- Whether the abandonment in progress halts the slice (R240). -/
def State.abandonHalts (s : State) : Bool :=
  decide (s.sched.abCause = 5 ∨ s.sched.abCause = 6 ∨ s.get STEP_TMO.REPLAY_MAX < s.sched.abandons)

/-- Steps 4 to 6 of R240. -/
def State.abandonEnd (s : State) : State :=
  let s := s.abandonRestore
  let s := s.send 3 0x0204 s.leaderAt (stepMsg (s.get STEP_NUM.STEP) (leBytes 1 (s.get ROUTE_SELF.INDEX)))
  let s := { s with sched := { s.sched with abandonedSent := true, descHalt := false } }
  (if s.abandonHalts then s.put STEP_STATUS.STATE stepHalted else s).rotationNow

/-- Whether an access of the step in progress has not ended, so that its entry has not retired: a Sower fetch, a Commons
access or a segment without its answer (R240, R271). -/
def State.stepPending (s : State) : Bool :=
  (s.sched.entries.any fun o => match o.owner with
    | .fetch _ _ => true
    | _ => false) ||
  s.net.requests.any fun r => match r.kind with
    | .commonsWrite (some (.stream queue1 _)) => !queue1
    | .commonsRead (some (.stream queue1 _)) => !queue1
    | .commonsWrite (some _) => true
    | .commonsRead (some _) => true
    | .segment _ _ => true
    | _ => false

def execAbandonEntriesRetired (s : State) : Host.Outcome State Fault Refusal :=
  .next (if s.stepState = stepAbandoning ∧ !s.stepPending ∧ !s.sched.abandonedSent ∧ !s.sched.resetRejoin ∧ !s.flag CHIP_STATUS.FIELD_IN_RESET then
      s.abandonEnd
    else s)

/-- ABANDONED at the leader: with that of every chip, RESTART, unless the abandonment halts the slice (R240). -/
def execAbandoned (h : MsgHdr) (step : W64) (_idx : BitVec 6) (s : State) : Host.Outcome State Fault Refusal :=
  .next (s.onMsg h .toLeader fun s =>
    if step.toNat ≠ s.get STEP_NUM.STEP ∨ !s.sched.abandonMcast then s
    else
      let i := (s.indexOf h.src.toNat).getD 0
      let l := s.sched.abandonedFrom.filter (· != i) ++ [i]
      let s := { s with sched := { s.sched with abandonedFrom := l } }
      if (List.range s.sliceSize).all fun i => l.contains i then
        let s := { s with sched := { s.sched with bndWait := false } }
        if s.abandonHalts then s else s.sendAll 0x0205 (stepMsg step.toNat [])
      else s)

def execRestart (h : MsgHdr) (step : W64) (s : State) : Host.Outcome State Fault Refusal :=
  .next (s.onMsg h .fromLeader fun s =>
    if s.stepState = stepAbandoning ∧ s.sched.abandonedSent ∧ step.toNat = s.get STEP_NUM.STEP then s.beginStep true else s)

/-- The chips that the leader's wait has not heard (R241), bit `i` for slice index `i`. -/
def State.missingChips (s : State) : Nat :=
  let heard (i : Nat) : Bool :=
    if s.sched.abandonMcast then s.sched.abandonedFrom.contains i else s.sched.flushedFrom.any fun e => e.1 == i
  (((List.range s.sliceSize).filter fun i => !heard i).map (2 ^ ·)).foldl (· + ·) 0

/-- The leader's wait ends: ABANDON with cause 4, and FREEZE for the missing chips when the Ward is ON (R241, R482). -/
def execBndTimeout (s : State) : Host.Outcome State Fault Refusal :=
  .next (if s.leads && s.sched.bndWait then
      let m := s.missingChips
      let s := s.abandonAll (s.get STEP_NUM.STEP) 4 (s.get ROUTE_SELF.INDEX)
      if s.get WARD_STATUS.STATE = 2 then s.sendAll 0x0301 (stepMsg m []) else s
    else s)

/-- A chip that has sent FLUSHED or ABANDONED hears nothing (R241, R482). -/
def execStepLostTimeout (s : State) : Host.Outcome State Fault Refusal :=
  .next (if s.sched.flushedSent && !s.sched.committed || s.sched.abandonedSent && s.stepState == stepAbandoning then
      (s.put STEP_ERR.LOST 1).freezeIfOn []
    else s)

/-! ### STEP_CTRL (R239, R240, R242, R243) -/

/-- START. Refused while DRAINED is 0 (R505). In HALTED it replays the step at STEP_NUM; a slice frozen by the Ward runs
with the Ward ON again. -/
def State.stepStart (s : State) : State :=
  if !s.flag LAMP_JOB.DRAINED then s
  else if s.stepState = stepStopped then s.saveTags.beginStep false
  else if s.stepState = stepHalted then
    let s := if s.get WARD_STATUS.STATE = 3 then (s.put WARD_STATUS.STATE 2).put WARD_STATUS.LOST 0 else s
    let s := { s.put STEP_STATUS.REPLAYS 0 with sched := { s.sched with abandons := 0 } }
    s.serveDiscard.beginStep true
  else s

/-- HALT (R242). -/
def State.stepHalt (s : State) : State :=
  if s.stepState = stepStopped ∨ s.stepState = stepHalted then s
  else { s with sched := { s.sched with haltReq := true } }

/-- ABANDON (R239): ignored in STOPPED and HALTED. -/
def State.stepAbandon (s : State) : State :=
  if s.stepState = stepRunning ∨ s.stepState = stepBoundary then s.charge 3 else s

/-- A write of STEP_CTRL: QMASK in STOPPED, then the actions in ascending bit order. -/
def State.stepCtrl (s : State) (val : W64) : State :=
  let s := if s.stepState = stepStopped then s.put STEP_CTRL.QMASK (bitsOf val 4 4) else s
  let s := if bitOf val 0 then s.stepStart else s
  let s := if bitOf val 1 then s.stepHalt else s
  let s := if bitOf val 2 then s.stepAbandon else s
  if bitOf val 3 then s.put STEP_MSB.HIGH 0 else s

def execStepStart (src : Source) (val : W64) (s : State) : Host.Outcome State Fault Refusal :=
  .next (s.ctlWrite src 0x40000 1 (val ||| 1) fun s => s.stepCtrl (val ||| 1))
def execStepHalt (src : Source) (val : W64) (s : State) : Host.Outcome State Fault Refusal :=
  .next (s.ctlWrite src 0x40000 1 (val ||| 2) fun s => s.stepCtrl (val ||| 2))
def execStepCtrlAbandon (src : Source) (val : W64) (s : State) : Host.Outcome State Fault Refusal :=
  .next (s.ctlWrite src 0x40000 1 (val ||| 4) fun s => s.stepCtrl (val ||| 4))
def execMsbClr (src : Source) (val : W64) (s : State) : Host.Outcome State Fault Refusal :=
  .next (s.ctlWrite src 0x40000 1 (val ||| 8) fun s => s.stepCtrl (val ||| 8))

end Sys2Proof.Machine
end

