-- ==== Sys2Proof/Machine/Reset.lean ====
section
/-!
DEFINITION. What each kind of reset and each power domain clears (R25, R411 to R416, R447 to R450), and the CHIP_CTRL
register (R450, R463).
-/
namespace Sys2Proof.Machine

/-! ### BIST as the resets meet it (R528, R543) -/

/-- A BIST run is in progress. -/
def State.bistRunning (s : State) : Bool := decide (1 ≤ s.get BIST_STATUS.STATE ∧ s.get BIST_STATUS.STATE ≤ 4)

/-- The run in progress tests the Field. -/
def State.bistField (s : State) : Bool := s.bistRunning && !s.flag CHIP_RESTORE0.KIND

/-! ### The Field reset (R450) -/

/-- Steps 1 and 2: the chip's part of a step ends without commit (R242, R244, R470), the engines end their work (R275)
and queue 0 of the Harrow stops (R334). A chip whose slice has a step in progress abandons it with the slice; after
FLUSHED the charge goes to the next step (R239). Every checked result that has not committed is discarded (R308). -/
def State.stepReset (s : State) : State :=
  let st := s.stepState
  let inStep := s.net.slice.isSome &&
    (st == stepRunning || st == stepBoundary || st == stepAbandoning || s.sched.descHalt)
  let flushed := s.sched.flushedSent && !s.sched.committed
  let s := s.flushField
  let s := { s with sched := { s.sched with inflight := [], flushing := false } }
  let s := (s.put STEP_STATUS.INFLIGHT 0).withdrawQueries.dropEngines.stopStreams0.serveDiscard
  let s := State.boardCount { s with sched := { s.sched with
    entries := s.sched.entries.filter MemOp.outside, waiting := s.sched.waiting.filter MemOp.outside } }
  let s := s.each (List.range 4) fun s q => s.put (STEP_QHEAD.ISSUE q) (s.get (STEP_QHEAD.HEAD q))
  let s := s.tagsInit
  if !inStep then
    { s.put STEP_STATUS.STATE stepStopped with
      sched := { s.sched.fresh false (s.get STEP_NUM.STEP) with haltReq := false, haltAt := none } }
  else if st == stepAbandoning then s
  else
    let early := s.sched.descHalt
    let s := { s.put STEP_STATUS.STATE stepAbandoning with sched := { s.sched with resetRejoin := true, descHalt := false } }
    if early then s
    else if flushed then { s with sched := { s.sched with chargeNext := some 3 } }
    else if st == stepBoundary && s.sched.committed then
      State.rejoinNext { s with sched := { s.sched with chargeNext := some 3 } }
    else s.sendAbandon 3

/-- Step 4 for the planes: a load ends as by LOAD_ABORT; after READY the dark plane is cleared, before it the rotation is
disarmed and both planes stay (R211, R213). -/
def State.planesReset (s : State) : State :=
  let s := s.loadAbort
  let sent := s.rotState == rotReady || s.rotState == rotSwap
  let s := if sent then { s.darkClear with rot := { s.rot with darkBad := false, loading := none } } else s
  let s := if s.rotState = rotSwap then
      { s with field := { s.field with gated := false, darkStrips := if s.power.goHeld.isSome then s.field.darkStrips else ~~~(BitVec.ofNat 8 s.lit.mask) } }
    else s
  let s := { s with power := { s.power with goHeld := none } }
  if s.rotState = rotNone then s else s.unarm

/-- The plot windows (R53). -/
def State.plotsReset (s : State) : State := s.resetRegs 0x200000 0x200000

/-- The Field reset, whole (R450). -/
def State.fieldResetNow (s : State) : State :=
  let s := (s.bump CHIP_RESET.FIELD_RESETS 1).put CHIP_STATUS.FIELD_IN_RESET 1
  let s := s.stepReset.planesReset.plotsReset
  let s := { s with
    field := { s.field with rotSeq := 0, halted := false, scanned := false }
    power := { s.power with resetHeld := false }
    bist := { s.bist with resetWait := false } }
  if s.flag CHIP_CTRL.FIELD_HOLD then s else s.put CHIP_STATUS.FIELD_IN_RESET 0

/-- A write of FIELD_RST: ignored in Field reset, delayed by a power hold (R431) or by a Field run of BIST (R543). -/
def State.fieldRst (s : State) : State :=
  if s.flag CHIP_STATUS.FIELD_IN_RESET then s
  else if s.flag CANDLE_GOV.HOLD then { s with power := { s.power with resetHeld := true } }
  else if s.bistField then { s with bist := { s.bist with resetWait := true } }
  else s.fieldResetNow

/-- FIELD_HOLD: clearing it releases the Field from Field reset (R450 step 5). -/
def State.setFieldHold (s : State) (hold : Bool) : State :=
  let s := s.put CHIP_CTRL.FIELD_HOLD (bit hold)
  if hold then s else s.put CHIP_STATUS.FIELD_IN_RESET 0

/-- SUB_INIT (R454, R572): no effect with READY set; refused without a capacity, or with a configuration that differs
from the one that a warm reset recorded. -/
def State.subInit (s : State) : State :=
  if s.flag SUBSOIL_STATUS.READY then s
  else
    let differs : Bool := match s.power.subCfg with
      | some w => decide (w ≠ s.reg 0xB0000)
      | none => false
    if s.get SUBSOIL_CFG.CH_GB = 0 ∨ differs = true then s.put CHIP_ERR.SUB_CFG 1
    else { s with power := { s.power with subTrain := true } }

/-- A write of CHIP_CTRL. FIELD_RST takes L1, the other fields L2: below it they keep their values and the write is
recorded (R463, R502). -/
def State.chipCtrl (s : State) (src : Source) (val : W64) : State :=
  let l2 := decide (2 ≤ s.level src)
  let hold := bitOf val 1
  let s := if !l2 && (hold != s.flag CHIP_CTRL.FIELD_HOLD || bitOf val 2) then s.refusePriv 0x20 2 else s
  let s := if l2 then s.setFieldHold hold else s
  let s := if bitOf val 0 then s.fieldRst else s
  if l2 && bitOf val 2 then s.subInit else s

def execFieldReset (src : Source) (val : W64) (s : State) : Host.Outcome State Fault Refusal :=
  .next (s.ctlWrite src 0x20 1 (val ||| 1) fun s => s.chipCtrl src (val ||| 1))
def execFieldHold (src : Source) (val : W64) (s : State) : Host.Outcome State Fault Refusal :=
  .next (s.ctlWrite src 0x20 1 val fun s => s.chipCtrl src val)
def execSubInit (src : Source) (val : W64) (s : State) : Host.Outcome State Fault Refusal :=
  .next (s.ctlWrite src 0x20 1 (val ||| 4) fun s => s.chipCtrl src (val ||| 4))

/-! ### Warm and cold resets (R447 to R449) -/

/-- Registers of D0, and the straps and pins. -/
def keptD0 (o : Nat) : Bool :=
  decide (o = 0x10 ∨ o = 0x18 ∨ o = 0x40 ∨ o = 0x48 ∨ 0x10000 ≤ o ∧ o < 0x20000 ∨ 0x140000 ≤ o ∧ o < 0x150000)

/-- Every unit but the Lamplighter loses its state, and the registers that `keep` does not name take their reset values.
Memory, eFuse and Fallow contents stay, and so does the ISSUED of the last accepted APPLY (R449, R393). -/
def State.unitsReset (s : State) (keep : Nat → Bool) : State :=
  { s with
    regs := s.regs.filter fun e => keep e.1
    results := [], seedbed := .zero, lit := .cleared, dark := .cleared, rot := .reset, field := .clear, sched := .reset
    moe := .reset, serve := .reset, harrow := .reset, ward := .reset, drill := .reset
    net := { NetSt.reset with lastIssued := s.net.lastIssued, stored := s.net.stored }
    fallow := { s.fallow with reads := [], repairs := [], held := [], atL2 := [] }
    bist := { s.bist with strips := s.bist.strips.filter (fun e => e.2.fused), soft := [], boot := none, resetWait := false, aborted := false }
    power := { s.power with
      goHeld := none, resetHeld := false, subTrain := false, restoreSub := false, bistStrips := 0, waits := [] } }

/-- The Lamplighter restarts: every key is gone, debug is locked and the host session is closed; LAST_JOB and SCRUBBED
stay (R512, R517, R527). -/
def State.lampRestart (s : State) : State :=
  let job := s.reg 0x30028
  let s := s.resetRegs 0x30000 0x10000
  let s := { s with lamp := { LampSt.reset with
    lfwFuse := s.lamp.lfwFuse, mfwFuse := s.lamp.mfwFuse, starts := s.lamp.starts, dbgSince := s.lamp.dbgSince } }
  let s := (s.put LAMP_JOB.LAST_JOB (bitsOf job 0 16)).put LAMP_JOB.SCRUBBED (bitsOf job 16 1)
  ({ s with power := { s.power with boot := 0 } }.put LAMP_HNONCE.NONCE s.free.toNat).drawn

/-- A warm or cold reset of every unit outside D0. -/
def State.resetAll (s : State) : State :=
  let int := s.get CLOCK_STATUS.CANDLE_INT
  let job := s.reg 0x30028
  let s := (s.unitsReset keptD0).setReg 0x30028 job
  let s := { s with power := { s.power with mhz := 1500 } }
  (s.lampRestart.clockEff).put CLOCK_STATUS.CANDLE_INT int

/-! ### Power domains (R25, R411, R414, R567) -/

/-- Forgets what a memory holds in `[lo, lo + n)`, which then reads as zero. -/
def Mem.wiped (m : Mem) (gran lo n : Nat) : Mem :=
  { m with cells := KMap.clear m.cells lo n, bad := KMap.clear m.bad (lo / gran) (n / gran) }

/-- The part of a plane that strip `k` holds goes to its idle configuration (R195). -/
def Image.stripCleared (m : Image) (k : Nat) : Image :=
  { m with
    furrow := KMap.clear m.furrow (128 * k) 128
    hopper := KMap.clear m.hopper (128 * k) 128
    headland := KMap.clear m.headland (64 * k) 64
    stile := KMap.clear m.stile (8 * k) 8 }

/-- Both planes and all Seedbed of strip `k` are cleared (R25). -/
def State.stripClear (s : State) (k : Nat) : State :=
  let s := { s with
    lit := s.lit.stripCleared k, dark := s.dark.stripCleared k
    seedbed := s.seedbed.wiped 8 (128 * k * 2 ^ 20) (128 * 2 ^ 20) }
  let s := s.resetRegs (0x200000 + 0x40000 * k) 0x40000
  if s.flag ROTATE_STATUS.DARK_VALID ∧ s.dark.mask / 2 ^ k % 2 = 1 then s.darkInvalid else s

/-- The links of group `g`. -/
def groupLinks (g : Nat) : List Nat := (List.range 6).map fun i => 6 * g + i

/-- A domain powers down (R411, R414). A write that waited at its crossing is flushed: it is discarded and recorded as one
of a gated target (R421). -/
def State.domDown (s : State) (d : Nat) : State :=
  let s := (s.putBit CANDLE_DSTAT.ON d false).putBit CANDLE_DSTAT.PEND d false
  let flushed := s.power.waits.filter fun w => regDomain w.2.1 == d
  let s := { s with power := { s.power with
    closing := s.power.closing.filter (· != d), waits := s.power.waits.filter fun w => regDomain w.2.1 != d } }
  let s := s.each flushed fun s w => s.refuseGated w.2.1
  if 4 ≤ d ∧ d ≤ 11 then s.stripClear (d - 4)
  else if 12 ≤ d ∧ d ≤ 15 then
    (s.put ⟨0xA0000, 2 * (d - 12), 1⟩ 0).put ⟨0xA0000, 2 * (d - 12) + 1, 1⟩ 1 |>.putBit CLOCK_STATUS.TOP_LOCK (d - 12) false
  else if d = 16 then
    (((s.put SUBSOIL_STATUS.READY 0).put SUBSOIL_STATUS.SREF 1).put SUBSOIL_STATUS.CH_OK 0).put CLOCK_STATUS.SUB_LOCK 0
  else if d = 17 then (s.put FALLOW_STATUS.READY 0).put CLOCK_STATUS.FAL_LOCK 0
  else if 18 ≤ d ∧ d ≤ 21 then
    s.each ((groupLinks (d - 18)).filter fun l => s.linkState l != linkOff) fun s l => s.linkLost l linkOff
  else if d = 23 then s.setGlow 0
  else if d = 22 then
    s.unitsReset fun o => keptD0 o || decide (0x20000 ≤ o ∧ o < 0x40000)
  else if d = 1 then s.lampRestart.put CLOCK_STATUS.LAMP_LOCK 0
  else if d = 2 then s.put (CLOCK_CORE.LOCK 0) 0
  else s.put (CLOCK_CORE.LOCK 1) 0

/-- Training of a link group starts with its power (R411); link 23 stays unused without BRIDGE_EN (R406). -/
def State.groupTrain (s : State) (g : Nat) : State :=
  s.each ((groupLinks g).filter fun l => l != 23 || s.flag CHIP_STRAPS.BRIDGE_EN) fun s l => s.linkTrain l

/-- What a domain does once its logic leaves reset (R411, R453). -/
def State.domStarted (s : State) (d : Nat) : State :=
  if d = 1 then
    let s := s.put CLOCK_STATUS.LAMP_LOCK 1
    if s.power.boot = 1 then
      let s := s.put CHIP_STATUS.STAGE 1
      if s.domMode 17 = domOff then s else s.domRequest 17
    else s
  else if d = 22 then (s.put CLOCK_STATUS.CTRL_LOCK 1).put CLOCK_FIELD.LOCK 1
  else if d = 2 then s.put (CLOCK_CORE.LOCK 0) 1
  else if d = 3 then s.put (CLOCK_CORE.LOCK 1) 1
  else if 4 ≤ d ∧ d ≤ 11 then s.stripClear (d - 4)
  else if 12 ≤ d ∧ d ≤ 17 then (if s.get CHIP_STATUS.STAGE = 1 then s.put CHIP_STATUS.STAGE 2 else s)
  else if 18 ≤ d ∧ d ≤ 21 then s.groupTrain (d - 18)
  else s

/-- The domain that the Candle switches next (R413, R415, R416): D22 first, then in ascending index; strips and Glow
only while PWR_GRANT is high. -/
def State.nextSwitch (s : State) : Option Nat :=
  let ready (d : Nat) : Bool := s.domPend d && (s.flag CANDLE_PINS.PWR_GRANT || !(decide (4 ≤ d ∧ d ≤ 11 ∨ d = 23)))
  if ready 22 then some 22 else (List.range 24).find? ready

def execDomainSwitchClose (s : State) : Host.Outcome State Fault Refusal :=
  .next (match s.nextSwitch with
    | none => s
    | some d =>
      let s := s.putBit CANDLE_DSTAT.PEND d false
      { s with power := { s.power with closing := s.power.closing ++ [d] } })

/-! ### Modes (R412, R413, R444) -/

/-- Work that keeps D12 to D16 powered (R413). -/
def State.soilBusy (s : State) : Bool :=
  !s.idleState || !s.harrow.streams.isEmpty || s.drillBusy ||
    s.get FALLOW_QPTR.HEAD != s.get FALLOW_QPTR.TAIL || (List.range 8).any fun k => s.flag (TIER_GNT_A.EN k)

/-- D3 in AUTO follows the cores that STEP_QCFG names, and D23 GLOW_CTRL.EN (R411). -/
def State.autoCores (s : State) : State :=
  if s.domMode 3 ≠ domAuto then s
  else if s.get STEP_QCFG.CORES / 256 ≠ 0 then (if s.domOn 3 then s else s.domRequest 3)
  else if s.domOn 3 ∨ s.domPend 3 then s.domDown 3
  else s

def State.autoGlow (s : State) : State :=
  if s.domMode 23 ≠ domAuto then s
  else if s.flag GLOW_CTRL.EN then (if s.domOn 23 then s else s.domRequest 23)
  else if s.domOn 23 ∨ s.domPend 23 then s.domDown 23
  else s

/-- Whether a change of a domain to `mode` would power it down now. -/
def State.modeDrops (s : State) (d mode : Nat) : Bool := s.domOn d && mode == domOff

/-- R413: the mode changes that are refused. -/
def State.modeBad (s : State) (d mode : Nat) : Bool :=
  mode == 3 || s.modeDrops d mode &&
    (if 4 ≤ d ∧ d ≤ 11 then decide (s.keptStrips / 2 ^ (d - 4) % 2 = 1)
     else if 12 ≤ d ∧ d ≤ 16 then s.soilBusy
     else if d = 2 then s.domOn 3
     else if d = 22 then (List.range 20).any fun i => s.domOn (i + 2)
     else false)

/-- A mode takes effect. -/
def State.modeSet (s : State) (d mode : Nat) : State :=
  let s := s.put (domModeFld d) mode
  if mode = domOff then (if s.domOn d || s.domPend d then s.domDown d else s)
  else if mode = domAuto ∧ d = 3 then s.autoCores
  else if mode = domAuto ∧ d = 23 then s.autoGlow
  else if mode = domAuto ∧ d = 17 then s.fallowWake
  else if mode = domAuto ∧ 4 ≤ d ∧ d ≤ 11 then s
  else if s.domOn d then s
  else s.domRequest d

/-- One mode of a CANDLE_DOM write: D1 takes L3 (R413, R502). -/
def State.modeWrite (s : State) (src : Source) (d mode : Nat) : State :=
  if mode = s.domMode d then s
  else if d = 1 ∧ s.level src < 3 then s.refusePriv 0x10010 3
  else if s.modeBad d mode then s.put CANDLE_ERR.DOM_BAD 1
  else s.modeSet d mode

/-- A write of CANDLE_DOM: domains that go off in descending index, then the others in ascending index. -/
def State.candleDom (s : State) (src : Source) (val : W64) : State :=
  let mode (d : Nat) : Nat := bitsOf val (2 * d) 2
  let ds := (List.range 23).map (· + 1)
  let s := s.each (ds.reverse.filter fun d => mode d == domOff) fun s d => s.modeWrite src d (mode d)
  s.each (ds.filter fun d => mode d != domOff) fun s d => s.modeWrite src d (mode d)

def execCandleDomWrite (src : Source) (val : W64) (s : State) : Host.Outcome State Fault Refusal :=
  .next (s.ctlWrite src 0x10010 2 val fun s => s.candleDom src val)

/-- A strip in AUTO that is in neither plane mask powers down (R411). -/
def execStripAutoOff (strip : BitVec 3) (s : State) : Host.Outcome State Fault Refusal :=
  let d := 4 + strip.toNat
  .next (if s.domMode d = domAuto ∧ s.domOn d ∧ s.planeStrips / 2 ^ strip.toNat % 2 = 0 ∧ !s.bistField then s.domDown d else s)

def execFallowAutoOff (s : State) : Host.Outcome State Fault Refusal :=
  .next (if s.domMode 17 = domAuto ∧ s.domOn 17 ∧ !s.fallowNeeded then s.domDown 17 else s)

/-! ### Clocks (R418, R419) -/

/-- A write of CLOCK_FIELD: the setting waits for the next rotation or hold, or takes effect at once with the scheduler
STOPPED or HALTED. -/
def State.clockField (s : State) (val : W64) : State :=
  let s := (s.store 0x20000 val).put CLOCK_FIELD.PENDING 1
  if s.idleState || s.flag CANDLE_GOV.HOLD then s.clockApply else s

def execClockFieldWrite (src : Source) (val : W64) (s : State) : Host.Outcome State Fault Refusal :=
  .next (s.ctlWrite src 0x20000 2 val fun s => s.clockField val)

def execClockCoreWrite (src : Source) (cluster : Bool) (val : W64) (s : State) : Host.Outcome State Fault Refusal :=
  let off := if cluster then 0x20010 else 0x20008
  .next (s.ctlWrite src off 2 val fun s => s.store off val)

end Sys2Proof.Machine
end

