-- ==== Sys2Proof/Machine/Scan.lean ====
section
/-!
DEFINITION. The scan of a strip (R184 to R187) and the codewords that a BIST run saves and restores (R533 to R535).
-/
namespace Sys2Proof.Machine

/-! ### What a strip scans (R185, R186) -/

/-- One item of a strip's scan. -/
inductive ScanItem where
  | queue (q : QId)
  /-- The state word of a steering element, by its key. -/
  | elem (key : Nat)
  /-- Internal registers of a unit, in an order that is the part's own: unit and number of words. -/
  | block (unit n : Nat)
  deriving DecidableEq, Repr

def ScanItem.size : ScanItem → Nat
  | .queue q => 1 + 9 * queueDepth q
  | .elem _ => 1
  | .block _ n => n

/-- FU0, FU1, HU0 and HU1 of a plot. -/
def plotItems (p : Nat) : List ScanItem :=
  ([0, 1].flatMap fun u => (List.range 21).map (fun q => ScanItem.queue (furrowQ p u q)) ++
    (List.range 8).map (fun e => ScanItem.elem (8 * (2 * p + u) + e)) ++ [.block (4 * p + u) 36864]) ++
  [0, 1].flatMap fun u => (List.range 4).flatMap fun g =>
    [.queue (hopperQ p u g), .queue (hopperQ p u (4 + g)), .queue (hopperQ p u (8 + g)), .block (4 * p + 2 + u) 16]

/-- The agent queues of a Stile. -/
def stileItems (k : Nat) : List ScanItem :=
  (List.range 7).map (fun a => ScanItem.queue (stileQ k a)) ++ (List.range 7).map fun a => .queue (stileQ k (8 + a))

/-- A strip in scan order, after its header: plots in ascending logical index, then the Stiles of its rows, west then
east. -/
def stripItems (k : Nat) : List ScanItem :=
  (List.range 64).flatMap (fun p => plotItems (64 * k + p)) ++ (List.range 8).flatMap fun i => stileItems (8 * k + i)

/-- The items with the word at which each begins. -/
def placed : Nat → List ScanItem → List (Nat × ScanItem)
  | _, [] => []
  | o, i :: is => (o, i) :: placed (o + i.size) is

/-- The words of a strip's header. -/
def scanHeader (s : State) (k : Nat) : List Nat := [s.field.cycle % 2 ^ 48 + s.field.rotSeq * 2 ^ 48, k + 2 ^ 8]

/-- The state word of a queue. -/
def Queue.scanWord (v : Queue) (q : QId) : Nat :=
  v.toks.length + (if isCircuitQ q then v.seqRx else v.seqTx) * 2 ^ 8 + (queueDepth q - v.out) * 2 ^ 16 + v.used * 2 ^ 24 +
    v.undriven * 2 ^ 32

def Token.scanWords (t : Token) : List Nat :=
  (t.hdr.toNat + t.side.toNat * 2 ^ 32) :: (List.range 8).map fun i => payBits t.payload (64 * i) 64

def Queue.scanWords (v : Queue) (q : QId) : List Nat :=
  v.scanWord q :: (List.range (queueDepth q)).flatMap fun i => (v.toks[i]?).elim (List.replicate 9 0) Token.scanWords

def ElemSt.scanWord (e : ElemSt) : Nat := e.next % 16 + bit e.rowOpen * 16 + e.held % 16 * 32 + bit e.once * 512

/-- The words of an item; those of a block are free values (assumption 2). -/
def ScanItem.words (s : State) : ScanItem → List Nat
  | .queue q => (s.queue q).scanWords q
  | .elem k => [(s.elem k).scanWord]
  | .block u n => (List.range n).map fun i => (Config.scanWord (s.freeCtr + u) i).toNat

/-- The scan-out of strip `k`. -/
def State.scanOut (s : State) (k : Nat) : List Nat := scanHeader s k ++ (stripItems k).flatMap (ScanItem.words s)

/-! ### Scan-in (R187) -/

/-- Word `i` of a scan that lies at an offset of Topsoil. -/
def State.scanAt (s : State) (o i : Nat) : Nat := leNat (s.topsoil.read 64 (o + 8 * i) 8)

/-- An entry of a queue, whose nine words begin at word `i`. -/
def State.scanToken (s : State) (o i : Nat) : Token :=
  ⟨BitVec.ofNat 32 (s.scanAt o i), BitVec.ofNat 512 (leNat (s.topsoil.read 64 (o + 8 * (i + 1)) 64)),
    BitVec.ofNat 32 (s.scanAt o i / 2 ^ 32)⟩

/-- The queue whose words begin at word `i`. -/
def State.scanQueue (s : State) (o i : Nat) (q : QId) : Queue :=
  let w := s.scanAt o i
  let seq := w / 2 ^ 8 % 256
  { toks := (List.range (w % 128)).map fun j => s.scanToken o (i + 1 + 9 * j)
    out := queueDepth q - w / 2 ^ 16 % 128
    undriven := w / 2 ^ 32 % 128
    wires := 0
    seqTx := if isCircuitQ q then 0 else seq
    seqRx := if isCircuitQ q then seq else 0
    used := w / 2 ^ 24 % 128 }

/-- The state word of a queue refuses the scan-in: a count or credit counter above the depth, or a circuit whose credits
do not add up. -/
def queueWordBad (q : QId) (w : Nat) : Bool :=
  let d := queueDepth q
  let n := w % 128
  let c := w / 2 ^ 16 % 128
  decide (d < n ∨ d < c) || isCircuitQ q && n + c + w / 2 ^ 32 % 128 != d

/-- Whether the scan of strip `k` at an offset of Topsoil is refused. -/
def State.scanBad (s : State) (k o : Nat) : Bool :=
  s.scanAt o 0 / 2 ^ 48 != s.field.rotSeq || s.scanAt o 1 % 8 != k ||
    (placed 2 (stripItems k)).any fun e => match e.2 with
      | .queue q => queueWordBad q (s.scanAt o e.1)
      | _ => false

/-- Writes back one item; the registers of a block are those that the halt found (R186). -/
def State.scanItemIn (s : State) (o : Nat) (e : Nat × ScanItem) : State :=
  match e.2 with
  | .queue q => s.setQueue q (s.scanQueue o e.1 q)
  | .elem k =>
    let w := s.scanAt o e.1
    s.setElem k ⟨w % 16, w / 16 % 2 == 1, w / 32 % 16, w / 512 % 2 == 1⟩
  | .block _ _ => s

/-- Scans strip `k` in, with the Field cycle count of its header. -/
def State.scanIn (s : State) (k o : Nat) : State :=
  let s := { s with field := { s.field with cycle := s.scanAt o 0 % 2 ^ 48 } }
  s.each (placed 2 (stripItems k)) fun s e => s.scanItemIn o e

/-! ### Codewords (R533, R534) -/

/-- The codewords of a line of a memory: eight data words, each with its check bits (R464, assumption 7). -/
def Mem.codeLine (m : Mem) (l : Nat) : List Byte :=
  (List.range 8).flatMap fun w =>
    let d := (List.range 8).map fun i => m.stored (64 * l + 8 * w + i)
    d ++ leBytes 2 (Config.checkBits (BitVec.ofNat 64 (leNat d))).toNat

def Mem.codeLines (m : Mem) (l n : Nat) : List Byte := (List.range n).flatMap fun i => m.codeLine (l + i)

/-- The data bytes of a saved line. -/
def savedLine (m : Mem) (o : Nat) : List Byte :=
  (List.range 8).flatMap fun w => (List.range 8).map fun i => m.byte 64 (o + 10 * w + i)

/-- Restores `n` lines of a memory from their codewords at an offset of the save area; a word that was uncorrectable stays
so. -/
def Mem.restored (m : Mem) (gran l n : Nat) (save : Mem) (o : Nat) : Mem :=
  (List.range n).foldl (fun m i => m.pokes gran (64 * (l + i)) (savedLine save (o + 80 * i))) m

end Sys2Proof.Machine
end

