-- ==== Sys2Proof/Machine/Bist.lean ====
section
/-!
DEFINITION. BIST and repair (R528 to R545): runs, results, spares, the repair list and eFuse.
-/
namespace Sys2Proof.Machine

def State.bistRefuse (s : State) : State := s.put BIST_ERR.REFUSED 1

def bistIdle : Nat := 0
def bistSaving : Nat := 1
def bistTesting : Nat := 2

/-! ### Repair entries (R537 to R541) -/

/-- The fields of a location, at the bits of a result record (R536, R539). -/
def locStrip (w : W64) : Nat := bitsOf w 4 3
def locRow (w : W64) : Nat := bitsOf w 7 5
def locCol (w : W64) : Nat := bitsOf w 12 5
def entKind (w : W64) : Nat := bitsOf w 0 4

/-- A repair entry for the failure that a result record locates. -/
def entryFor (kind : Nat) (w0 : W64) (top : Nat) : RepEntry := ⟨withBits (w0 &&& 0x7FFFFFFFFFF) 0 4 kind, BitVec.ofNat 64 top⟩

/-- What the spares of an entry's kind are counted by, and how many there are (R537): a bank for Seedbed rows and
columns, a plane of a plot for plane rows, a stack for Topsoil rows. -/
def spareGroup (e : RepEntry) : Nat × Nat :=
  match entKind e.w0 with
  | 2 => (bitsOf e.w0 4 19, 8)
  | 3 => (bitsOf e.w0 4 19, 2)
  | 4 => (bitsOf e.w0 4 19, 4)
  | _ => (e.w1.toNat / 2 ^ 37, 4096)

/-- What an entry repairs. -/
def spareTarget (e : RepEntry) : Nat :=
  match entKind e.w0 with
  | 2 => bitsOf e.w0 4 29
  | 3 => bitsOf e.w0 4 19 + 2 ^ 19 * bitsOf e.w0 33 10
  | 4 => bitsOf e.w0 4 29
  | _ => e.w1.toNat

/-- eFuse entries in effect: those that the last start sensed (R542). -/
def State.fused (s : State) : List RepEntry := s.bist.fuses.take s.bist.sensed

/-- A spare of an entry's kind is left, given the entries in effect. -/
def spareLeft (inEffect : List RepEntry) (e : RepEntry) : Bool :=
  let same := inEffect.filter fun x => entKind x.w0 == entKind e.w0 && (spareGroup x).1 == (spareGroup e).1
  decide (same.length < (spareGroup e).2)

/-- Whether an entry's resource is repaired already. -/
def repaired (inEffect : List RepEntry) (e : RepEntry) : Bool :=
  inEffect.any fun x => entKind x.w0 == entKind e.w0 && spareTarget x == spareTarget e

def State.strip (s : State) (k : Nat) : StripRep := KMap.get (fun _ => StripRep.clear) s.bist.strips k

/-- The plot repair of a strip after an entry (R28, R30, R541). -/
def StripRep.apply (v : StripRep) (w : W64) (fuse : Bool) : StripRep :=
  let row := locRow w % 4
  let col := locCol w
  if v.active ∧ v.frow = row ∧ v.fcol = col then v
  else if v.active ∨ v.bad ∨ col = 16 then { v with bad := true }
  else ⟨true, false, row, col, fuse⟩

/-- The plot repairs that eFuse gives. -/
def fusedStrips (es : List RepEntry) : KMap StripRep :=
  (es.filter fun e => entKind e.w0 == 1).foldl (fun m e =>
    let k := locStrip e.w0
    KMap.set (fun _ => StripRep.clear) m k ((KMap.get (fun _ => StripRep.clear) m k).apply e.w0 true)) []

/-- A start senses the fuse shadows: every burned entry is in effect (R540, R542). -/
def State.senseFuses (s : State) : State :=
  { s with bist := { s.bist with sensed := s.bist.fuses.length, strips := fusedStrips s.bist.fuses } }

/-- Whether two plot repairs of a strip remap it alike (R28). -/
def StripRep.sameMap (v u : StripRep) : Bool := v.active == u.active && v.frow == u.frow && v.fcol == u.fcol

/-- A change of a strip's remap discards both planes of the strip (R31). -/
def State.stripPlanesClear (s : State) (k : Nat) : State :=
  let lit := s.flag ROTATE_STATUS.LIT_VALID && decide (s.lit.mask / 2 ^ k % 2 = 1)
  let dark := s.flag ROTATE_STATUS.DARK_VALID && decide (s.dark.mask / 2 ^ k % 2 = 1)
  let s := { s with lit := s.lit.stripCleared k, dark := s.dark.stripCleared k }
  let s := if lit then s.litInvalid else s
  if dark then s.darkInvalid else s

/-- One soft entry takes effect, or is ignored with LIST_CONFLICT (R541). -/
def State.applyEntry (s : State) (e : RepEntry) : State :=
  if entKind e.w0 = 1 then
    let k := locStrip e.w0
    let v := s.strip k
    let fusedSame := s.fused.any fun x => entKind x.w0 == 1 && bitsOf x.w0 4 13 == bitsOf e.w0 4 13
    if fusedSame then s.put BIST_ERR.LIST_CONFLICT 1
    else
      let v' := v.apply e.w0 false
      if v' = v then s
      else
        let s := { s with bist := { s.bist with strips := KMap.set (fun _ => StripRep.clear) s.bist.strips k v' } }
        if v'.sameMap v then s else s.stripPlanesClear k
  else
    let used := s.fused ++ s.bist.soft
    if repaired s.fused e || !spareLeft used e then s.put BIST_ERR.LIST_CONFLICT 1
    else if repaired used e then s
    else { s with bist := { s.bist with soft := s.bist.soft ++ [e] } }

/-! ### The repair list (R539, R540) -/

/-- The list in force: a copy whose digest fails is replaced by the other. -/
def State.repairList (s : State) : Option RepList :=
  match s.bist.list0 with
  | some l => some l
  | none => s.bist.list1

/-- Whether a soft entry is in effect. -/
def State.softInEffect (s : State) (e : RepEntry) : Bool :=
  if entKind e.w0 = 1 then
    let v := s.strip (locStrip e.w0)
    v.active && !v.fused && v.frow == locRow e.w0 % 4 && v.fcol == locCol e.w0
  else s.bist.soft.contains e

/-- BIST_REPINFO.LIST_COUNT: the entries of the list that are applied (R544). -/
def State.listCount (s : State) (l : RepList) : State := s.put BIST_REPINFO.LIST_COUNT (l.entries.countP s.softInEffect)

/-- The controller reads the list once FALLOW_STATUS.READY is set, and applies its Topsoil rows. A copy whose digest fails is
replaced by the other; when both fail, no soft repair is applied (R539, R540). -/
def State.readList (s : State) (bad0 bad1 : Bool) : State :=
  let s := { s with bist := { s.bist with
    list0 := if bad0 then none else s.bist.list0, list1 := if bad1 then none else s.bist.list1 } }
  match s.repairList with
  | none => s.put BIST_ERR.LIST_BAD 1
  | some l =>
    let s := { s with bist := { s.bist with list0 := some l, list1 := some l, boot := some l } }
    let rows := l.entries.filter fun e => entKind e.w0 == 5
    ((s.each rows State.applyEntry).put BIST_REPINFO.LIST_SEQ l.seq).listCount l

/-- APPLY: plot, Seedbed and plane entries of the list that the start read (R31), only in Field reset. -/
def State.bistApply (s : State) : State :=
  if !s.flag CHIP_STATUS.FIELD_IN_RESET then s.bistRefuse
  else match s.bist.boot with
    | none => s
    | some l =>
      let es := l.entries.filter fun e => entKind e.w0 != 5
      (s.each es State.applyEntry).listCount l

/-- The list image at BIST_LIST, when its format and digest hold. -/
def State.listImage (s : State) : Option RepList :=
  let a := s.get BIST_LIST.ADDR
  if a % 64 ≠ 0 ∨ !topRange a 64 then none
  else
    let h := s.topPeek a 64
    let n := leNat ((h.drop 6).take 2)
    let body := s.topPeek (a + 64) (16 * n)
    let es := (List.range n).map fun i => RepEntry.mk (s.topWord (a + 64 + 16 * i)) (s.topWord (a + 72 + 16 * i))
    if h.take 4 ≠ [0x42, 0x52, 0x45, 0x50] ∨ leNat ((h.drop 4).take 2) ≠ 1 ∨ 8192 < n ∨ !topRange (a + 64) (16 * n) ∨
        sha384 body ≠ (h.drop 16).take 48 then none
    else if es.all fun e => decide (1 ≤ entKind e.w0 ∧ entKind e.w0 ≤ 5) then some ⟨leNat ((h.drop 8).take 8), es⟩
    else none

/-- The reads that LIST_WRITE and FUSE make of the list image (R311). -/
def State.listReads (s : State) : State :=
  let a := s.get BIST_LIST.ADDR
  if a % 64 ≠ 0 then s
  else
    let t := s.partReads a 64 false
    let n := leNat ((s.topPeek (a + 6) 2))
    if topRange a 64 ∧ n ≤ 8192 then t.partReads (a + 64) (16 * n) false else t

/-- LIST_WRITE: SEQ must exceed the stored one. -/
def State.listWrite (s : State) : State :=
  let image := s.listImage
  let s := s.listReads
  match image with
  | none => s.bistRefuse
  | some l =>
    if s.repairList.elim false fun o => decide (l.seq ≤ o.seq) then s.bistRefuse
    else ({ s with bist := { s.bist with list0 := some l, list1 := some l } }).put BIST_REPINFO.LIST_SEQ l.seq

/-- FUSE (R542, R564). -/
def State.fuse (s : State) (vppMv : Nat) : State :=
  let image := s.listImage
  let s := s.listReads
  match image with
  | none => s.bistRefuse
  | some l =>
    if s.net.slice.isSome ∨ 512 < s.bist.fuses.length + l.entries.length ∨ vppMv < 1710 then s.bistRefuse
    else
      let s := { s with bist := { s.bist with fuses := s.bist.fuses ++ l.entries } }
      s.put BIST_REPINFO.FUSE_FREE (512 - s.bist.fuses.length)

/-! ### Runs (R528 to R535) -/

/-- The region and the save area, as first unit and units. -/
def State.bistRegion (s : State) : Nat × Nat := (s.get BIST_REGION.BASE, s.get BIST_REGION.LEN)
def State.bistSave (s : State) : Nat × Nat := (s.get BIST_SAVE.BASE, s.get BIST_SAVE.LEN)

/-- Tested strips that are powered. -/
def State.testedOn (s : State) : List Nat := (stripsOf (s.get BIST_CFG.STRIPS)).filter fun k => s.domOn (4 + k)

/-- Units of 64 KiB that the save takes (R534). -/
def State.saveNeed (s : State) : Nat :=
  if s.get BIST_CFG.TARGET = 0 then 2708 * s.testedOn.length else cdiv (5 * s.get BIST_REGION.LEN) 4

/-- Whether `units` 64 KiB units from `base` on fit a tier. -/
def State.unitsFit (s : State) (sub : Bool) (base units : Nat) : Bool :=
  if sub then s.subRange (65536 * base) (65536 * units) else topRange (65536 * base) (65536 * units)

/-- R528: the reasons that refuse RUN; a memory run needs an entry of the range list (R318, assumption 58). -/
def State.bistBad (s : State) : Bool :=
  let t := s.get BIST_CFG.TARGET
  let r := s.bistRegion
  let v := s.bistSave
  !s.idleState || s.get BIST_STATUS.STATE != 0 || s.flag CHIP_RESTORE0.VALID || t == 3 || decide (v.2 < s.saveNeed) ||
    !s.unitsFit false v.1 s.saveNeed ||
    if t = 0 then
      s.loadState == loadBusy || s.rotState != rotNone || s.get BIST_CFG.STRIPS &&& s.stripBadMask != 0
    else
      !s.unitsFit (t == 2) r.1 r.2 || decide (64 ≤ s.harrow.ranges.length) || t == 1 && (overlaps r.1 r.2 v.1 v.2 ||
        s.get WARD_STATUS.STATE != 0 && (List.range 8).any fun j => (s.wardRange j).elim false fun w => overlaps r.1 r.2 w.1 w.2)

/-- The global fabric address of a region. -/
def State.regionAddr (s : State) (sub : Bool) (base : Nat) : Nat := s.gaddr (if sub then 2 else 1) (65536 * base)

/-- Bytes of the save area, which send no Ward delta (R530). -/
def State.saveBytes (s : State) (o : Nat) (bs : List Byte) : State := { s with topsoil := s.topsoil.write 64 o bs }

/-- The save of strip `k` at an offset of Topsoil: its scan in 756 units, the Seedbed of its Hoppers in 1,920, and both
planes in 32, whose bits the spec does not lay out (R534, assumption 2). -/
def State.saveStrip (s : State) (k o : Nat) : State :=
  let scan := wordBytes (s.scanOut k)
  let beds := (List.range 128).flatMap fun h => s.seedbed.codeLines ((128 * k + h) * 2 ^ 14) 12288
  let planes := s.freeBytes (65536 * 32)
  ((s.saveBytes o (scan ++ List.replicate (65536 * 756 - scan.length) 0 ++ beds ++ planes)).drawn).drawn

/-- The strips that a Field run saves: those tested that it did not have to power (R529). -/
def State.savedStrips (s : State) : List Nat :=
  (stripsOf (s.get CHIP_RESTORE1.STRIPS)).filter fun k => s.power.bistStrips / 2 ^ k % 2 == 0

/-- The Topsoil offset of the save of the `i`-th saved strip. -/
def State.stripSave (s : State) (i : Nat) : Nat := 65536 * (s.get CHIP_RESTORE0.SAVE + 2708 * i)

/-- Whether the halt of R184 is complete: no token in a Headland, no credit on a return sideband. -/
def State.haltDone (s : State) : Bool :=
  s.field.hlOut.all (fun e => !e.2.valid) && s.field.queues.all fun e => e.2.wires == 0

/-- Whether the strips that a Field run had to power are on (R529). -/
def State.testedPowered (s : State) : Bool := (stripsOf s.power.bistStrips).all fun k => s.domOn (4 + k)

/-- Once the halt of a Field run is complete and every tested strip is on, the strips are saved and testing begins; a power hold
delays it (R184, R529, R531, R533). -/
def State.scanReady (s : State) : State :=
  if s.bistField && s.field.halted && !s.field.scanned && !s.flag CANDLE_GOV.HOLD && s.haltDone && s.testedPowered then
    let s := s.each s.savedStrips.zipIdx fun s k => s.saveStrip k.1 (s.stripSave k.2)
    ({ s with field := { s.field with scanned := true } }).put BIST_STATUS.STATE bistTesting
  else s

/-- The save of a memory run: the codewords of a Topsoil region, and for Subsoil those of its ciphertext, which are free
values (R532, assumption 2). -/
def State.saveRegion (s : State) (sub : Bool) : State :=
  let r := s.bistRegion
  let o := 65536 * s.bistSave.1
  if sub then (s.saveBytes o (s.freeBytes (80 * 1024 * r.2))).drawn
  else s.saveBytes o (s.topsoil.codeLines (1024 * r.1) (1024 * r.2))

/-- RUN: the restore flag is set, the tested state is saved, and testing begins. The state under test stays in the model
until the restore: nothing can read it (assumption 24). -/
def State.bistRun (s : State) : State :=
  if s.bistBad then s.bistRefuse
  else
    let t := s.get BIST_CFG.TARGET
    let strips := s.get BIST_CFG.STRIPS
    let s := ((((s.put CHIP_RESTORE0.KIND (bit (t != 0))).put CHIP_RESTORE0.TIER (bit (t == 2))).put CHIP_RESTORE0.REGION
      (if t = 0 then 0 else s.bistRegion.1)).put CHIP_RESTORE0.SAVE s.bistSave.1).put CHIP_RESTORE1.LEN
      (if t = 0 then 0 else s.bistRegion.2)
    let s := (s.put CHIP_RESTORE1.STRIPS (if t = 0 then strips else 0)).put CHIP_RESTORE0.VALID 1
    let s := (((s.put BIST_STATUS.STATE (if t = 0 then bistSaving else bistTesting)).put BIST_STATUS.FAILS 0).put BIST_STATUS.DROPPED 0).put BIST_STATUS.OUTCOME 0
    let s := { s with bist := { s.bist with aborted := false } }
    if t = 0 then
      let off := (stripsOf strips).filter fun k => !s.domOn (4 + k)
      let s := { s with
        field := { s.field with halted := true }
        power := { s.power with bistStrips := off.foldl (fun m k => m ||| 2 ^ k) 0 } }
      (s.each off fun s k => s.domRequest (4 + k)).scanReady
    else State.harrowStatus ((s.saveRegion (t == 2)).addRange .vacated (s.regionAddr (t == 2) s.bistRegion.1) (65536 * s.bistRegion.2))

/-! ### Results (R536, R538) -/

/-- The repair entries to try for a failure, with the spare kind first that covers it. -/
def repairTries (f : BistFail) : List RepEntry :=
  match bitsOf f.w0 0 4 with
  | 0 => [entryFor 2 f.w0 0, entryFor 3 f.w0 0]
  | 1 => [entryFor 4 f.w0 0]
  | 5 => [entryFor 5 f.w0 (f.addr.toNat % 2 ^ 42)]
  | _ => []

/-- Assigns a spare to a failure: bit 47 REPAIRED, or bit 48 UNREPAIRABLE, and the soft entries after it (R538). -/
def State.assignSpare (s : State) (f : BistFail) : State × Nat :=
  let target := bitsOf f.w0 0 4
  if !s.flag BIST_CFG.AUTO_REP || bitOf f.w0 46 then (s, 0)
  else if target = 6 then (s, 2 ^ 48)
  else
    let tries := repairTries f
    let used := s.fused ++ s.bist.soft
    if tries.isEmpty then (s, 0)
    else if tries.any (repaired used) then (s, 2 ^ 47)
    else match tries.find? (spareLeft used) with
      | some e => ({ s with bist := { s.bist with soft := s.bist.soft ++ [e] } }, 2 ^ 47)
      | none => (s, 2 ^ 48)

/-- One result record. -/
def State.bistRecord (s : State) (f : BistFail) : State :=
  let r := s.assignSpare f
  let s := r.1.bump BIST_STATUS.FAILS 1
  let s := if r.2 = 2 ^ 48 then s.put BIST_ERR.UNREPAIRABLE 1 else s
  let h := s.get BIST_RPTR.HEAD
  let n := 2 ^ s.get BIST_RES.LOG2N
  if idxSub 32 h (s.get BIST_RPTR.TAIL) = n then s.bump BIST_STATUS.DROPPED 1
  else
    let w0 := bitsOf f.w0 0 47 + r.2
    let bs := leBytes 8 w0 ++ leBytes 8 f.addr.toNat ++ leBytes 8 (bitsOf f.w2 0 34) ++ leBytes 8 (s.get STEP_QCLK.TICKS % 2 ^ 48)
    (s.topWrite (4096 * s.get BIST_RES.BASE + 32 * (h % n)) bs).put BIST_RPTR.HEAD (h + 1)

/-- The saved strips with their places. -/
def State.strips2 (s : State) : List (Nat × Nat) := s.savedStrips.zipIdx.map fun k => (k.1, s.stripSave k.2)

/-- Whether the scan-in is refused whole (R187): one strip's is, or the cycle counts of the headers differ. -/
def State.scansBad (s : State) : Bool :=
  let c := s.strips2.map fun k => s.scanAt k.2 0 % 2 ^ 48
  s.strips2.any (fun k => s.scanBad k.1 k.2) || c.any fun x => some x != c.head?

/-- The restore of a Field run: Seedbed from the save area, then the scan-in (R535). -/
def State.restoreField (s : State) : State :=
  let ks := s.strips2
  let s := s.each ks fun s k => s.each (List.range 128) fun s h =>
    { s with seedbed := s.seedbed.restored 8 ((128 * k.1 + h) * 2 ^ 14) 12288 s.topsoil (k.2 + 65536 * 756 + 80 * 12288 * h) }
  if s.scansBad then s else s.each ks fun s k => s.scanIn k.1 k.2

/-- The restore of a memory run (R533). -/
def State.restoreRegion (s : State) : State :=
  if s.flag CHIP_RESTORE0.TIER then s
  else
    let first := 1024 * s.get CHIP_RESTORE0.REGION
    let n := 1024 * s.get CHIP_RESTORE1.LEN
    { s with topsoil := s.topsoil.restored 64 first n s.topsoil (65536 * s.get CHIP_RESTORE0.SAVE) }

/-- The restore ends: the region or the Field is back, VALID clears, and what waited for it goes on (R529, R535, R543). A
refused scan-in leaves the Field in Field reset, as a failure of the chip in its step (R470). -/
def State.bistEnd (s : State) : State :=
  let field := s.bistField
  let sub := s.flag CHIP_RESTORE0.TIER
  let region := s.get CHIP_RESTORE0.REGION
  let refused := field && s.scansBad
  let outcome := if refused then 2 else if s.bist.aborted then 1 else 0
  let s := if field then s.restoreField else s.restoreRegion
  let s := ((s.put BIST_STATUS.STATE bistIdle).put BIST_STATUS.OUTCOME outcome).put CHIP_RESTORE0.VALID 0
  let off := (stripsOf s.power.bistStrips).filter fun k => s.domMode (4 + k) == domOff
  let s := { s with
    field := { s.field with halted := false, scanned := false }
    bist := { s.bist with aborted := false }
    power := { s.power with bistStrips := 0 } }
  if field then
    let s := s.each off fun s k => s.domDown (4 + k)
    let s := if refused then (s.put BIST_ERR.RESTORE_FAIL 1).fieldResetNow.put CHIP_STATUS.FIELD_IN_RESET 1 else s
    if s.bist.resetWait then s.fieldResetNow else s
  else (s.dropRange .vacated (s.regionAddr sub region)).harrowStatus

/-- Testing ends: not before the save, and not in a power hold for a Field run (R531). What the restore corrects in the save
area counts in TOPSOIL_CE of its stack (R341). -/
def execBistRunDone (fails : List BistFail) (corrected : List (BitVec 2)) (s : State) : Host.Outcome State Fault Refusal :=
  .next (if decide (s.get BIST_STATUS.STATE = bistTesting) && !(s.bistField && s.flag CANDLE_GOV.HOLD) then
    ((s.each fails State.bistRecord).each corrected fun s k => s.bump (TOPSOIL_CE.CE k.toNat) 1).bistEnd else s)

/-! ### Commands (R544) -/

/-- ABORT: testing stops, and the restore follows (R543). -/
def State.bistAbort (s : State) : State :=
  if s.bistRunning then { s with bist := { s.bist with aborted := true } } else s

/-- A write of BIST_CMD. -/
def State.bistOp (s : State) (op vppMv : Nat) : State :=
  match op with
  | 1 => s.bistRun
  | 2 => s.bistAbort
  | 3 => s.bistApply
  | 4 => s.listWrite
  | 5 => s.fuse vppMv
  | _ => s.bistRefuse

def State.bistCmd (s : State) (src : Source) (op vppMv : Nat) : State := s.ctlWrite src 0x130000 2 (BitVec.ofNat 64 op) fun s => s.bistOp op vppMv

def execBistRun (src : Source) (s : State) : Host.Outcome State Fault Refusal := .next (s.bistCmd src 1 0)
def execBistAbort (src : Source) (s : State) : Host.Outcome State Fault Refusal := .next (s.bistCmd src 2 0)
def execBistApply (src : Source) (s : State) : Host.Outcome State Fault Refusal := .next (s.bistCmd src 3 0)
def execListWrite (src : Source) (s : State) : Host.Outcome State Fault Refusal := .next (s.bistCmd src 4 0)
def execFuse (src : Source) (vppMv : Nat) (s : State) : Host.Outcome State Fault Refusal := .next (s.bistCmd src 5 vppMv)

end Sys2Proof.Machine
end

