-- ==== Sys2Proof/Machine/Lamp.lean ====
section
/-!
DEFINITION. The Lamplighter's commands (R508 to R526): attestation, rack plans, the scrub, debug, fabric keys and host
sessions.
-/
namespace Sys2Proof.Machine

/-! ### The rack plan (R519 to R521; record layouts: assumption 21) -/

/-- Record sizes of a plan's sections. -/
def planRecSize (t : Nat) : Option Nat :=
  if t = 0x0101 then some 256 else if t = 0x0102 then some 64 else if t = 0x0103 then some 40
  else if t = 0x0104 then some 128 else if t = 0x0105 then some 8 else if t = 0x0106 then some 8 else none

/-- The header of a plan: one copy of that of R189, with the changes of R519. -/
def planHeaderBad (rd : List Byte) (len : Nat) : Bool :=
  let f := Header.ofBytes rd
  decide (rdBytes rd 0 4 ≠ [0x52, 0x50, 0x4C, 0x4E]) || decide (rdNat rd 4 2 ≠ 1) || decide (rdNat rd 6 1 ≠ 1) ||
    decide (f.length ≠ len) || decide (16 * 2 ^ 20 < f.length) || decide (2 ^ 32 ≤ f.imageId.toNat) ||
    decide (f.modelId ≠ 0) || decide (f.pwrPeak ≠ 0) || decide (f.pwrIdle ≠ 0) || decide (rdNat rd 0x26 2 ≠ 0) ||
    decide (rdNat rd 0x48 136 ≠ 0) || decide (f.sections = 0) || decide (4096 < f.sections) ||
    decide (f.tableOff < 0x100) || decide (f.length < f.tableOff + 80 * f.sections) || decide (f.sigOff < 0x100) ||
    decide (f.length < f.sigOff + 128)

/-- A section of a plan: its place, its records and its digest. -/
def planSecBad (rd : List Byte) (f : Header) (s : Sec) : Bool :=
  s.off % 64 != 0 || decide (f.length < s.off + s.len) || s.zeros != 0 ||
    (planRecSize s.type).elim true (fun n => s.len != n * s.count) || sha384 (rdBytes rd s.off s.len) != s.digest

/-- The offsets of the records of a type. -/
def planRecs (secs : List Sec) (t : Nat) : List Nat :=
  (secs.filter fun s => s.type == t).flatMap fun s => (List.range s.count).map fun i => s.off + ((planRecSize t).getD 0) * i

/-- A public key as an uncompressed point (R519). -/
def pointAt (rd : List Byte) (o : Nat) : Nat × Nat := (beNat (rdBytes rd (o + 1) 48), beNat (rdBytes rd (o + 49) 48))

def planLink (rd : List Byte) (o : Nat) : LinkRec :=
  ⟨rdNat rd o 8, rdNat rd (o + 8) 1, rdNat rd (o + 9) 1, rdNat rd (o + 10) 1, rdNat rd (o + 16) 8, rdNat rd (o + 24) 1,
    rdNat rd (o + 25) 1, rdNat rd (o + 32) 8, rdNat rd (o + 26) 1⟩

/-- The wheels: the n-th record of a chip is that of its port n (assumption 21). -/
def planWheels (rd : List Byte) : List Nat → List (Nat × Nat × List Nat) → List (Nat × Nat × List Nat)
  | [], acc => acc
  | o :: os, acc =>
    let serial := rdNat rd o 8
    let port := acc.countP fun w => w.1 == serial
    let entries := (rdBytes rd (o + 8) 32).flatMap fun b => [b.toNat % 16, b.toNat / 16]
    planWheels rd os (acc ++ [(serial, port, entries)])

/-- The checks of R520 on the plan of `len` bytes: the plan, when they pass. -/
def readPlan (k : PartSt) (rd : List Byte) (len : Nat) : Option Plan :=
  let h := rdBytes rd 0 256
  if planHeaderBad h len then none
  else
    let f := Header.ofBytes h
    let secs := (List.range f.sections).map (secAt rd f.tableOff)
    match planRecs secs 0x0101 with
    | [c] =>
      let key := pointAt rd (c + 0x11)
      let certOk := ecdsaVerify k.integratorKeyX k.integratorKeyY (sha384Nat (rdBytes rd c 0x72))
        (beNat (rdBytes rd (c + 0x72) 48)) (beNat (rdBytes rd (c + 0xA2) 48))
      let rs := sigRS rd f
      if !certOk || sigBlockBad rd f || rdBytes rd c 16 != f.keyId || rdNat rd (c + 0x10) 1 != f.mask ||
          !ecdsaVerify key.1 key.2 (sha384Nat h) rs.1 rs.2 ||
          sha384 (rdBytes rd f.tableOff (80 * f.sections)) != f.tableDigest || secs.any (planSecBad rd f) ||
          decide (16 < (planRecs secs 0x0104).length) then none
      else some
        { rack := f.mask, seq := f.imageId.toNat, digest := shaLe (rdBytes rd 0 len)
          rackKeyX := key.1, rackKeyY := key.2, rackKeyId := leNat f.keyId
          links := (planRecs secs 0x0102).map (planLink rd)
          wheels := planWheels rd (planRecs secs 0x0103) []
          pubkeys := (planRecs secs 0x0104).map fun o => ⟨rdNat rd o 16, (pointAt rd (o + 16)).1, (pointAt rd (o + 16)).2⟩
          standby := (planRecs secs 0x0105).map fun o => rdNat rd o 8
          bridges := (planRecs secs 0x0106).map fun o => rdNat rd o 8 }
    | _ => none

/-- Role and port of a link under the plan; link 23 takes the host role only with BRIDGE_EN (R386, R406). -/
def State.planRole (s : State) (l : Nat) : State :=
  match s.linkRec l with
  | none => (s.put (LINK_STATE.ROLE l) 0).put (LINK_STATE.PORT l) 0
  | some r =>
    let role := if r.role = 3 ∧ !(l == 23 && s.flag CHIP_STRAPS.BRIDGE_EN) then 0 else r.role
    (s.put (LINK_STATE.ROLE l) role).put (LINK_STATE.PORT l) r.port

/-- The wheels of this chip's ports (R380). -/
def State.planWheel (s : State) (w : Nat × Nat × List Nat) : State :=
  if w.1 ≠ s.part.serial.toNat ∨ 16 ≤ w.2.1 then s
  else s.each (List.range 4) fun s h =>
    s.put (LINK_WHEEL.ENTRIES w.2.1 h) ((List.range 16).foldl (fun a k => a + (w.2.2.getD (16 * h + k) 0) % 16 * 16 ^ k) 0)

/-- The place in the tray that the straps give differs from the plan's (R452). -/
def State.positionCheck (s : State) : State :=
  let d := s.get ROUTE_SELF.XYZ
  if s.get CHIP_STRAPS.TRAY_POS = d % 2 + 2 * (d / 4 % 2) then s
  else (s.put CHIP_ERR.POS_MISMATCH 1).errlog { cls := 0x11, block := 0 }

/-- A plan takes effect: own rack and coordinates, roles, ports and wheels; decided links decide again (R391, R452,
R521). -/
def State.planEffect (s : State) (p : Plan) : State :=
  let s := { s with net := { s.net with plan := some p } }
  let s := ((s.put LAMP_SEC.PLAN_OK 1).put ROUTE_SELF.RACK p.rack).put ROUTE_SELF.XYZ (Config.planPosition s.part.serial.toNat % 64)
  let s := (s.put ROUTE_SELF.BRIDGE (s.get CHIP_STRAPS.BRIDGE_EN)).positionCheck
  let s := s.each (List.range 24) State.planRole
  let s := s.each p.wheels State.planWheel
  s.each ((List.range 24).filter fun l => decide (3 ≤ s.linkState l ∧ s.linkState l ≤ 7)) fun s l =>
    (s.setLink l { s.link l with basis := none }).put (LINK_STATE.STATE l) linkHello |>.dropLink l

/-! ### The mailbox (R526) -/

def lampDone : Nat := 0
def lampRefused : Nat := 1
def reasonBusy : Nat := 1
def reasonSignature : Nat := 3
def reasonSequence : Nat := 4
def reasonState : Nat := 5
def reasonGrant : Nat := 6
def reasonAddress : Nat := 7

/-- LAMP_STATUS.OWNER of a source. -/
def lampOwner : Source → Nat
  | .core i _ => i.toNat
  | .lamp => 31
  | _ => 16

/-- The outcome of a command. -/
def State.lampEnd (s : State) (outcome reason : Nat) : State :=
  { (((s.put LAMP_STATUS.BUSY 0).put LAMP_STATUS.OUTCOME outcome).put LAMP_STATUS.REASON reason) with
    lamp := { s.lamp with running := 0 } }

def State.lampRefuse (s : State) (reason : Nat) : State := s.lampEnd lampRefused reason

/-- Whether `n` bytes at an address lie in the chip's own Topsoil, 64-byte aligned, and may be written or read. -/
def State.ownTop (s : State) (write : Bool) (a n : Nat) : Bool :=
  a % 64 == 0 && decide (a / 2 ^ 44 % 2 ^ 20 = s.self ∧ a / 2 ^ 42 % 4 = 1) && !s.accessRefused write a n

/-! ### ATTEST (R511) -/

/-- The 256-byte report. -/
def State.report256 (s : State) (nonce : List Byte) : List Byte :=
  let flags := bit (s.flag LAMP_SEC.DBG_UNLOCKED) + 2 * bit s.lamp.dbgSince + 4 * bit s.net.slice.isSome +
    8 * bit (s.flag LAMP_JOB.SCRUBBED) + 16 * s.get CHIP_STRAPS.COMPAT
  padTo 256 ([0x4C, 0x41, 0x54, 0x54] ++ leBytes 2 1 ++ leBytes 2 flags ++ leBytes 8 s.part.serial.toNat ++ nonce ++
    leBytes 48 s.lamp.lfwDigest ++ leBytes 48 s.lamp.mfwDigest ++ leBytes 48 ((s.net.plan.map (·.digest)).getD 0) ++
    leBytes 4 ((s.net.plan.map (·.seq)).getD 0) ++ leBytes 2 (s.get LAMP_SEC.LFW_SVN) ++ leBytes 2 (s.get LAMP_SEC.MFW_SVN) ++
    leBytes 2 s.job ++ leBytes 2 s.gen ++ leBytes 4 s.lamp.starts.toNat ++ leBytes 8 (if s.net.slice.isSome then s.net.lastIssued else 0) ++
    leBytes 8 (s.get ROTATE_LIT_ID.IMAGE_ID) ++ leBytes 8 (s.get ROTATE_DARK_ID.IMAGE_ID) ++
    leBytes 8 (s.power.epoch.getD 0) ++ leBytes 8 (s.get CANDLE_MS.MS))

/-- A signature block (R192). -/
def sigBlock (keyId r v : Nat) : List Byte := padTo 32 (leBytes 2 1 ++ leBytes 2 0 ++ leBytes 16 keyId) ++ beBytes 48 r ++ beBytes 48 v

def State.attest (s : State) : State :=
  let dst := s.get (LAMP_ARG.ARG 0)
  let src := s.get (LAMP_ARG.ARG 1)
  if !s.ownTop true dst 1152 || !s.ownTop false src 32 then s.lampRefuse reasonAddress
  else
    let nonce := s.peek src 32
    let s := (s.readErrors src 32 false).1.touch src 32
    let report := s.report256 nonce
    -- The alias key has no KEY_ID in the spec: a free value (assumption 2).
    let keyId := s.freeNat % 2 ^ 128
    let s := s.drawn
    let rs := ecdsaSign (s.lamp.aliasKey.getD 0) (sha384Nat report) s.freeNat
    let bs := report ++ sigBlock keyId rs.1 rs.2 ++ padTo 256 s.lamp.aliasCert ++ padTo 512 (s.part.identityCert.take 512)
    (s.drawn.pokeAt dst bs).lampEnd lampDone 0

/-! ### PLAN_INSTALL (R520) -/

def State.planInstall (s : State) : State :=
  let a := s.get (LAMP_ARG.ARG 0)
  let n := s.get (LAMP_ARG.ARG 1)
  if !s.ownTop false a n then s.lampRefuse reasonAddress
  else
    let r := readPlan s.part (s.peek a n) n
    let s := (s.readErrors a n false).1.touch a n
    match r with
    | none => s.lampRefuse reasonSignature
    | some p =>
      match s.net.stored with
      | some o =>
        if o.rack ≠ p.rack then s.lampRefuse reasonState
        else if p.seq < o.seq ∨ (p.seq = o.seq ∧ p.digest ≠ o.digest) then s.lampRefuse reasonSequence
        else (({ s with net := { s.net with stored := some p } }).planEffect p).lampEnd lampDone 0
      | none => (({ s with net := { s.net with stored := some p } }).planEffect p).lampEnd lampDone 0

/-! ### The scrub (R516 to R518) -/

/-- What the tenancy key's change leaves of Subsoil: bytes without meaning (R517). -/
def State.subScrambled (s : State) : State :=
  ({ s with subsoil := ⟨[], s.subsoil.bad, s.freeCtr + 1⟩ }).drawn

/-- A new tenancy Subsoil key (R512). -/
def State.newSubKey (s : State) : State :=
  (({ s with lamp := { s.lamp with subKey := some (s.freeNat % 2 ^ 512) } }).drawn).subScrambled

/-- Link keys end (R512). -/
def State.dropLinkKeys (s : State) : State :=
  let s := { s with lamp := { s.lamp with linkKeys := [], prevSlot := none, draining := false, joining := false, keyWait := false } }
  (((s.put LAMP_JOB.KEYED 0).put LAMP_JOB.DRAINED 1).put LAMP_JOB.KEYSLOT 0).put LAMP_JOB.GEN 0

/-- The first queued Fallow descriptor of L2, from `i` on. -/
def State.firstL2 (s : State) : Nat → Nat → Nat
  | 0, i => i
  | n + 1, i => if KMap.get (fun _ => 0) s.fallow.atL2 i = 1 then i else s.firstL2 n ((i + 1) % 65536)

/-- L1 descriptors of the Fallow queue end; descriptors before the first one of L2 leave the queue. -/
def State.dropFallowL1 (s : State) : State :=
  let h := s.get FALLOW_QPTR.HEAD
  let first := s.firstL2 (idxSub 16 (s.get FALLOW_QPTR.TAIL) h) h
  let issue := if posIn h (s.get FALLOW_QPTR.ISSUE) first then s.get FALLOW_QPTR.ISSUE else first
  let s := { s with fallow := { s.fallow with
    reads := s.fallow.reads.filter fun (r : ReadSt) => KMap.get (fun _ => 0) s.fallow.atL2 r.pos == 1 } }
  (s.put FALLOW_QPTR.HEAD first).put FALLOW_QPTR.ISSUE issue

/-- Borrower grants turn off and send RELEASED (R324, R516). -/
def State.releaseGrants (s : State) : State :=
  s.each ((List.range 8).filter s.isBorrower) fun s k =>
    (s.send 3 0x0402 (s.grantPeer k) (s.grantMsg k)).put (TIER_GNT_A.EN k) 0

/-- The start of a scrub: what the table of R516 has up to T+20 µs. -/
def State.scrubStart (s : State) (op : Nat) : State :=
  let s := (s.put CHIP_CTRL.FIELD_HOLD 1).fieldRst
  let s := s.each [0, 1] fun s q =>
    (s.put (HARROW_QPTR.ISSUE q) (s.get (HARROW_QPTR.TAIL q))).put (HARROW_QPTR.HEAD q) (s.get (HARROW_QPTR.TAIL q))
  let s := State.harrowStatus { s with harrow := HarrowSt.reset, drill := DrillSt.reset }
  let s := ((s.put DRILL_STATUS.ROLE 0).put DRILL_STATUS.STATE 0).dropFallowL1.releaseGrants
  let s := (if s.net.slice.isSome then s.leaveSlice else s).dropLinkKeys.newSubKey
  { s.put LAMP_STATUS.BUSY 1 with lamp := { s.lamp with running := op } }

/-- JOB_END and SCRUB: refused for a lender grant that is not revoked (R325), during a BIST run (R543), and JOB_END
outside a slice or SCRUB inside one. -/
def State.scrubCmd (s : State) (op : Nat) : State :=
  if (op == 3) != s.net.slice.isSome || s.bistRunning then s.lampRefuse reasonState
  else if s.lenderHolds then s.lampRefuse reasonGrant
  else s.scrubStart op

/-- The blocks whose registers the scrub resets (R516). -/
def scrubbedReg (o : Nat) : Bool :=
  [0x4, 0x6, 0x7, 0x8, 0x9, 0x10, 0x11, 0x12].contains (o / 0x10000) || o == 0x30 || decide (0xF0200 ≤ o ∧ o < 0xF0400)

/-- The end of the scrub. -/
def State.scrubEnd (s : State) : State :=
  let rights := s.lamp.grantRights
  let unlock := s.lamp.running == 6
  let s := { s with
    regs := s.regs.filter fun e => !scrubbedReg e.1
    results := s.results.filter fun e => !scrubbedReg (e.1 / 32)
    topsoil := .zero, subsoil := .zero, seedbed := .zero, lit := .cleared, dark := .cleared
    sched := .reset, moe := .reset, serve := .reset, harrow := .reset
    ward := { WardSt.reset with latch := s.ward.latch, sealed := s.ward.sealed }
    lamp := { s.lamp with grantRights := 0, dbgSince := s.lamp.dbgSince || unlock } }
  let s := (s.litInvalid.darkInvalid.put LAMP_JOB.SCRUBBED 1).lampEnd lampDone 0
  if unlock then (s.put LAMP_SEC.DBG_UNLOCKED 1).put LAMP_SEC.DBG_RIGHTS rights else s

def execScrubComplete (s : State) : Host.Outcome State Fault Refusal :=
  .next (if s.lamp.running = 3 ∨ s.lamp.running = 4 ∨ s.lamp.running = 6 then s.scrubEnd else s)

/-! ### Debug (R525) -/

def State.debugNonce (s : State) : State :=
  let a := s.get (LAMP_ARG.ARG 0)
  if !s.ownTop true a 32 then s.lampRefuse reasonAddress
  else
    let n := s.freeNat % 2 ^ 256
    (({ s.drawn with lamp := { s.lamp with dbgNonce := some n } }).pokeAt a (leBytes 32 n)).lampEnd lampDone 0

/-- The token's checks. -/
def State.tokenOk (s : State) (t : List Byte) : Bool :=
  let nat (o n : Nat) : Nat := leNat ((t.drop o).take n)
  let key := nat 0x30 16
  let signer : Option (Nat × Nat) :=
    if key = s.part.debugKeyId then some (s.part.debugKeyX, s.part.debugKeyY)
    else if key = s.part.integratorKeyId then some (s.part.integratorKeyX, s.part.integratorKeyY)
    else none
  t.take 4 == [0x44, 0x42, 0x47, 0x54] && nat 8 8 == s.part.serial.toNat && s.lamp.dbgNonce == some (nat 0x10 32) &&
    nat 0x40 192 == 0 && nat 256 2 == 1 && nat 258 2 == 0 && nat 260 16 == key && nat 276 12 == 0 &&
    match signer with
    | some q => ecdsaVerify q.1 q.2 (sha384Nat (t.take 256)) (beAt t 288 48) (beAt t 336 48)
    | none => false

/-- DEBUG_UNLOCK: keys are zeroised, the seed's fuse gate closes and the scrub runs; the rights open at its end. A nonce
serves one attempt. -/
def State.debugUnlock (s : State) : State :=
  let a := s.get (LAMP_ARG.ARG 0)
  if s.net.slice.isSome || !s.flag LAMP_JOB.SCRUBBED || s.bistRunning then s.lampRefuse reasonState
  else if s.lenderHolds then s.lampRefuse reasonGrant
  else if !s.ownTop false a 384 then s.lampRefuse reasonAddress
  else
    let t := s.peek a 384
    let ok := s.tokenOk t
    let s := (s.readErrors a 384 false).1.touch a 384
    let s := { s with lamp := { s.lamp with dbgNonce := none } }
    if !ok then s.lampRefuse reasonSignature
    else
      let s := { s with lamp := { s.lamp with
        fabricKey := none, acked := [], peerFabric := [], pairs := [], subKey := none, aliasKey := none, aliasCert := [], identity := false
        grantRights := leNat ((t.drop 4).take 4) % 16 } }
      s.scrubStart 6

/-! ### Fabric keys and host sessions (R512, R523) -/

/-- A fresh fabric sending key, sent to every chip with which a pairwise key exists. -/
def State.newFabricKey (s : State) : State :=
  let s := { s.drawn with lamp := { s.lamp with fabricKey := some (s.freeNat % 2 ^ 256), acked := [] } }
  s.each (s.lamp.pairs.map fun e => s.chipAt e.1) State.sendFabricKey

/-- HOST_SESSION: on a bridge chip only. -/
def State.hostSession (s : State) : State :=
  let a := s.get (LAMP_ARG.ARG 0)
  if !s.flag CHIP_STRAPS.BRIDGE_EN ∨ 2 ≤ a % 4 then s.lampRefuse reasonState
  else if a % 4 = 0 then s.hostClose.lampEnd lampDone 0
  else ((s.put LAMP_HSESS.LEVEL 1).put LAMP_HSESS.JOB (a / 65536 % 65536)).lampEnd lampDone 0

/-- The signature that the host has written, as 96 bytes. -/
def State.hostSig (s : State) : List Byte := (List.range 12).flatMap fun k => leBytes 8 (s.get (LAMP_HSIG.SIG k))

/-- The last signature word starts the check; a session at L2 opens. -/
def State.hostVerify (s : State) : State :=
  let bs := s.hostSig
  let msg := leBytes 8 (s.get LAMP_HNONCE.NONCE) ++ leBytes 8 s.part.serial.toNat
  match s.net.plan with
  | none => s
  | some p =>
    if s.flag CHIP_STRAPS.BRIDGE_EN && ecdsaVerify p.rackKeyX p.rackKeyY (sha384Nat msg) (beAt bs 0 48) (beAt bs 48 48) then
      (s.put LAMP_HSESS.LEVEL 2).put LAMP_HSESS.JOB 0
    else s

/-- A write of LAMP_HSIG_k. -/
def State.hsigWrite (s : State) (k : Nat) (val : W64) : State :=
  let s := s.put (LAMP_HSIG.SIG k) val.toNat
  if k = 11 then s.hostVerify else s

def execHostSignature (src : Source) (val : W64) (s : State) : Host.Outcome State Fault Refusal :=
  .next (s.ctlWrite src 0x30090 0 val fun s => s.hsigWrite 11 val)

/-! ### LAMP_CMD -/

/-- The level of a command. -/
def lampLevel (op : Nat) : Nat := if 2 ≤ op ∧ op ≤ 8 then 2 else 1

/-- A write of LAMP_CMD: one command at a time; an OP that names none has no effect. -/
def State.lampWrite (s : State) (src : Source) (op : Nat) : State :=
  if s.flag LAMP_STATUS.BUSY then
    ((s.put LAMP_STATUS.OUTCOME lampRefused).put LAMP_STATUS.REASON reasonBusy).put LAMP_STATUS.OWNER (lampOwner src)
  else
    let s := (s.put LAMP_CMD.OP op).put LAMP_STATUS.OWNER (lampOwner src)
    match op with
    | 1 => s.attest
    | 2 => s.planInstall
    | 3 => s.scrubCmd 3
    | 4 => s.scrubCmd 4
    | 5 => s.debugNonce
    | 6 => s.debugUnlock
    | 7 => s.newFabricKey.lampEnd lampDone 0
    | 8 => s.hostSession
    | _ => s

def State.lampCmd (s : State) (src : Source) (op : Nat) : State :=
  s.ctlWrite src 0x30000 (lampLevel op) (BitVec.ofNat 64 op) fun s => s.lampWrite src op

def execAttest (src : Source) (s : State) : Host.Outcome State Fault Refusal := .next (s.lampCmd src 1)
def execPlanInstall (src : Source) (s : State) : Host.Outcome State Fault Refusal := .next (s.lampCmd src 2)
def execJobEnd (src : Source) (s : State) : Host.Outcome State Fault Refusal := .next (s.lampCmd src 3)
def execScrub (src : Source) (s : State) : Host.Outcome State Fault Refusal := .next (s.lampCmd src 4)
def execDebugNonce (src : Source) (s : State) : Host.Outcome State Fault Refusal := .next (s.lampCmd src 5)
def execDebugUnlock (src : Source) (s : State) : Host.Outcome State Fault Refusal := .next (s.lampCmd src 6)
def execFabricRekey (src : Source) (s : State) : Host.Outcome State Fault Refusal := .next (s.lampCmd src 7)
def execHostSession (src : Source) (s : State) : Host.Outcome State Fault Refusal := .next (s.lampCmd src 8)

end Sys2Proof.Machine
end

