-- ==== Sys2Proof/Machine/Candle.lean ====
section
/-!
DEFINITION. The Candle (R416, R423 to R441): the cap, the governor, power holds, Glow, the meters, the minute records
and the ledger, and the attention lamp. Draws are in hundredths of a watt (cW).
-/
namespace Sys2Proof.Machine

/-! ### Power holds (R428 to R431) -/

def holdCapDrop : Nat := 0
def holdFastPin : Nat := 1
def holdEscalation : Nat := 2

/-- FLOOR in cW. -/
def State.floorW (s : State) : Nat := 100 * s.get CANDLE_CAP.FLOOR_W
def State.capW (s : State) : Nat := 100 * s.get CANDLE_CAP.CAP_W

def State.setMinute (s : State) (f : MinuteRec → MinuteRec) : State := { s with power := { s.power with minute := f s.power.minute } }

/-- A cause of a hold: it enters one, or joins the one in effect. The hold lasts 40 µs, which takes `ticks` ticks. -/
def State.holdEnter (s : State) (src ticks : Nat) : State :=
  let on := s.flag CANDLE_GOV.HOLD
  let s := s.put CANDLE_GOV.HOLD_SRC (s.get CANDLE_GOV.HOLD_SRC ||| 2 ^ src)
  if on then s
  else
    let s := (s.put CANDLE_GOV.HOLD 1).bump CANDLE_EVT.HOLDS 1
    let s := s.setMinute fun m => { m with holds := m.holds + 1 }
    let s := { s with power := { s.power with tgt := s.floorW, holdLeft := ticks } }
    if s.flag CLOCK_FIELD.PENDING then s.clockApply else s

/-- Whether the causes of the hold have cleared, at a draw of `p` W (R430). -/
def State.holdCleared (s : State) (p : Nat) : Bool :=
  let src := s.get CANDLE_GOV.HOLD_SRC
  (src / 2 ^ holdCapDrop % 2 == 0 || decide (p ≤ s.get CANDLE_CAP.CAP_W + s.get CANDLE_CAP.FOLLOW_W)) &&
  !s.flag CANDLE_PINS.CAP_FAST &&
  (src / 2 ^ holdEscalation % 2 == 0 || decide (p ≤ s.get CANDLE_CAP.CAP_W))

/-- What waited for the release: a swap, a Field reset, a seal (R431, R432). -/
def State.holdReleased (s : State) : State :=
  let s := if s.power.goHeld.isSome then ({ s with power := { s.power with goHeld := none } }).goSwap else s
  let s := if s.power.resetHeld then s.fieldRst else s
  s.sealCheck

/-- The release (R430). -/
def State.holdRelease (s : State) (p : Nat) : State :=
  let s := (((s.put CANDLE_GOV.HOLD 0).put CANDLE_GOV.HOLD_SRC 0).put CANDLE_GOV.SKIP 63)
  let s := { s with power := { s.power with lvl := 100 * p } }
  s.clockEff.holdReleased

/-! ### The governor (R424 to R426, R575) -/

/-- Whether pred(`k`) is at most `w` cW, with the SKIP `k` and a peak in cW. -/
def predLe (peak k w : Nat) : Bool :=
  decide (64 * 60000 + ((peak : Int) - 60000) * (64 - (k : Int)) ≤ 64 * (w : Int))

/-- The least SKIP that fits, sought from `k` downwards. -/
def leastSkip (peak hi : Nat) : Nat → Nat
  | 0 => 0
  | k + 1 => if predLe peak k hi then leastSkip peak hi k else k + 1

/-- R426, for a workload draw of `w` cW. -/
def State.peakCheck (s : State) (w : Nat) : State :=
  let left := 64 - s.get CANDLE_GOV.SKIP
  let peak := s.power.peak
  if 20 * 64 * (w : Int) ≤ 21 * (64 * 60000 + ((peak : Int) - 60000) * (left : Int)) then s
  else
    let raised := (60000 + ((w : Int) - 60000) * 64 / (left : Int)).toNat
    let s := s.put CANDLE_ERR.PEAK_EXCEED 1
    let s := { s with power := { s.power with peak := max peak raised } }
    s.put CANDLE_GOV.PEAK_W (min 4095 (max peak raised / 100))

/-- Escalation (R428): 16 consecutive ticks above CAP that begin after a CAP write. -/
def State.escalate (s : State) (p : Nat) : State :=
  if s.power.capWritten then { s with power := { s.power with capWritten := false } }
  else if s.get CANDLE_EVT.CAP_WRITES = 0 then s
  else
    let n := if s.get CANDLE_CAP.CAP_W < p then s.power.overCap + 1 else 0
    if n < 16 then { s with power := { s.power with overCap := n } }
    else
      let s := { s with power := { s.power with overCap := 0 } }
      (s.bump CANDLE_EVT.ESCALATIONS 1).holdEnter holdEscalation 5

/-- The tick outside a hold (R425). -/
def State.governRun (s : State) (p : Nat) : State :=
  let lvl := s.power.lvl
  let r := s.get CANDLE_CAP.RAMP_WPMS
  let skip0 := s.get CANDLE_GOV.SKIP
  let hi := min s.capW (lvl + r)
  let lo := min hi (max s.floorW (lvl - r))
  let skip := max (leastSkip s.power.peak hi 63) (skip0 - 1)
  let tgt := if skip > 0 && !predLe s.power.peak 0 hi then hi else lo
  let s := (s.put CANDLE_GOV.SKIP skip).clockEff
  let s := { s with power := { s.power with tgt := tgt, lvl := min (100 * p) hi } }
  let s := if 100 * p < lo then s.put CANDLE_ERR.RAMP_SHORT 1 else s
  if 100 * p < lo ∧ 100 * p < s.floorW then s.put CANDLE_ERR.FLOOR_SHORT 1 else s

/-- The tick in a hold (R425, R429, R430). -/
def State.governHold (s : State) (p : Nat) : State :=
  let s := { s with power := { s.power with tgt := s.floorW, holdLeft := s.power.holdLeft - 1 } }
  if s.power.holdLeft ≠ 0 then s
  else
    let s := if 100 * p < s.floorW then s.put CANDLE_ERR.FLOOR_SHORT 1 else s
    if s.holdCleared p then s.holdRelease p else s

/-- A governor tick whose averaged draw is `p` W. With the Field stopped by RESET_N the draw is held at FLOOR as in a
hold (R448). -/
def State.governorTick (s : State) (p : Nat) : State :=
  let glow := if s.power.glowSamples = 0 then s.power.glow / 625 * 625 else s.power.glowSum / s.power.glowSamples
  let s := { s with power := { s.power with
    ticked := true, lvl := if s.power.ticked then s.power.lvl else 100 * p, glowSum := 0, glowSamples := 0 } }
  let s := (s.put CANDLE_GOV.DRAW_W p).peakCheck (100 * p - glow)
  let s := s.escalate p
  let s := if s.flag CANDLE_GOV.HOLD then s.governHold p
    else if s.power.resetLow && !s.power.snuffed then { s with power := { s.power with tgt := s.floorW } }
    else s.governRun p
  s.put CANDLE_GOV.LVL_W (s.power.lvl / 100)

def execGovernorTick (pTick : BitVec 12) (s : State) : Host.Outcome State Fault Refusal := .next (s.governorTick pTick.toNat)

/-- One step of the Glow loop, after a sample of `p` W (R425, R433). -/
def State.glowStep (s : State) (p : Nat) : State :=
  let w : Int := s.power.glow
  let d : Int := max (-5000) (min 5000 ((s.power.tgt : Int) - 100 * (p : Int)))
  let s := { s with power := { s.power with
    glowSum := s.power.glowSum + s.power.glow / 625 * 625, glowSamples := s.power.glowSamples + 1 } }
  s.setGlow (max 0 (min (s.glowMax : Int) (w + d))).toNat

def execGlowLoop (pUs : BitVec 12) (s : State) : Host.Outcome State Fault Refusal := .next (s.glowStep pUs.toNat)

/-! ### The cap (R423, R428) -/

/-- Whether a CAP write is refused. -/
def capBad (val : W64) : Bool :=
  let cap := bitsOf val 0 12
  let ramp := bitsOf val 12 12
  let floor := bitsOf val 24 12
  let follow := bitsOf val 36 10
  decide (cap < floor ∨ 2400 < cap ∨ floor < 600 ∨ ramp < 1 ∨ 1000 < ramp ∨ follow < 50 ∨ 600 < follow)

def State.capWrite (s : State) (val : W64) : State :=
  if capBad val then s.put CANDLE_ERR.CAP_BAD 1
  else
    let s := (s.store 0x10000 val).bump CANDLE_EVT.CAP_WRITES 1
    let cap := s.get CANDLE_CAP.CAP_W
    let s := s.setMinute fun m => { m with
      capMax := max m.capMax cap, capMin := min m.capMin cap, floorMin := min m.floorMin (s.get CANDLE_CAP.FLOOR_W)
      capWrites := m.capWrites + 1 }
    let s := { s with power := { s.power with capWritten := true, overCap := 0 } }
    if cap + s.get CANDLE_CAP.FOLLOW_W < s.get CANDLE_GOV.DRAW_W then s.holdEnter holdCapDrop 5 else s

def execCapWrite (src : Source) (val : W64) (s : State) : Host.Outcome State Fault Refusal :=
  .next (s.ctlWrite src 0x10000 2 val fun s => s.capWrite val)

/-- CAP_FAST_N goes low for `ns`, or high. A low shorter than 80 ns acts whole or not at all, and the Candle may miss it
(R556, R557). -/
def State.capFast (s : State) (asserted : Bool) (ns : Nat) : State :=
  if !asserted then s.put CANDLE_PINS.CAP_FAST 0
  else
    let acts := decide (80 ≤ ns) || s.freeNat % 2 == 1
    let s := if ns < 80 then s.drawn else s
    if !acts then s
    else
      let s := s.put CANDLE_PINS.CAP_FAST (bit (decide (80 ≤ ns)))
      let s := s.setMinute fun m => { m with fastPin := m.fastPin + 1 }
      s.holdEnter holdFastPin 5

def execCapFast (asserted : Bool) (ns : Nat) (s : State) : Host.Outcome State Fault Refusal := .next (s.capFast asserted ns)

/-- An edge of PWR_GRANT (R416). -/
def State.grantPin (s : State) (high : Bool) : State := s.put CANDLE_PINS.PWR_GRANT (bit high)

/-! ### Meters and minute records (R435 to R437) -/

def listSum (l : List Nat) : Nat := l.foldl (· + ·) 0

/-- Two records as one (R436). -/
def MinuteRec.merge (a b : MinuteRec) : MinuteRec :=
  { seq := a.seq, msFirst := a.msFirst, msCount := a.msCount + b.msCount, minutes := a.minutes + b.minutes
    energy := a.energy + b.energy, glow := a.glow + b.glow, pmax := max a.pmax b.pmax, pmin := min a.pmin b.pmin
    capMax := max a.capMax b.capMax, capMin := min a.capMin b.capMin, floorMin := min a.floorMin b.floorMin
    capWrites := a.capWrites + b.capWrites, holds := a.holds + b.holds, fastPin := a.fastPin + b.fastPin
    snuff := a.snuff || b.snuff, refLost := a.refLost || b.refLost, meterFault := a.meterFault || b.meterFault
    merged := true, eTotal := b.eTotal }

/-- Closes the open record and queues it: in a full queue the two oldest merge first (R436). -/
def State.closeMinute (s : State) : State :=
  let m := { s.power.minute with seq := s.power.nextSeq, eTotal := s.get CANDLE_E_TOTAL.UJ }
  let s := if s.power.queue.length < 64 then s
    else
      match s.power.queue with
      | a :: b :: l => ({ s with power := { s.power with queue := a.merge b :: l } }).put CANDLE_ERR.LEDGER_MERGED 1
      | _ => s
  { s with power := { s.power with
      queue := s.power.queue ++ [m], nextSeq := s.power.nextSeq + 1
      minute := .start (s.get CANDLE_MS.MS) (s.get CANDLE_CAP.CAP_W) (s.get CANDLE_CAP.FLOOR_W) } }

/-- Intervals that CANDLE_E_60S covers (R435). -/
def histLength : Nat := 60000

/-- Milliseconds of a minute record (R436). -/
def minuteMs : Nat := 60000

/-- A 1 ms interval closes (R435). -/
def State.msInterval (s : State) (uj glowUj : Nat) (meterFault : Bool) : State :=
  let s := ((s.advance CANDLE_MS.MS 1).advance CANDLE_E_TOTAL.UJ uj).advance CANDLE_E_GLOW.UJ glowUj
  let s := { s with power := { s.power with hist := (uj :: s.power.hist).take histLength } }
  let s := (s.put CANDLE_E_1S.UJ (listSum (s.power.hist.take 1000))).put CANDLE_E_60S.UJ (listSum s.power.hist)
  let s := (s.put CANDLE_P1MS.LAST_MW (min (2 ^ 24 - 1) uj)).put CANDLE_P1MS.MAX60_MW
    (min (2 ^ 24 - 1) (s.power.hist.foldl max 0))
  let s := if meterFault then s.put CANDLE_ERR.METER_FAULT 1 else s
  let s := s.setMinute fun m => { m with
    msCount := m.msCount + 1, energy := m.energy + uj, glow := m.glow + glowUj
    pmax := max m.pmax (min (2 ^ 24 - 1) uj), pmin := min m.pmin uj, meterFault := m.meterFault || meterFault }
  if s.get CANDLE_MS.MS % minuteMs = 0 then s.closeMinute else s

def execMsInterval (uj glowUj : BitVec 32) (meterFault : Bool) (s : State) : Host.Outcome State Fault Refusal :=
  .next (s.msInterval uj.toNat glowUj.toNat meterFault)

/-! ### The ledger (R437, R438) -/

/-- A minute record as 128 bytes. -/
def State.minuteBytes (s : State) (m : MinuteRec) : List Byte :=
  padTo 128 ([0x43, 0x4E, 0x44, 0x4C, 1] ++ leBytes 1 (s.get ROUTE_SELF.RACK) ++ leBytes 2 (s.get ROUTE_SELF.XYZ) ++
    leBytes 8 s.part.serial.toNat ++ leBytes 8 (s.power.epoch.getD 0) ++ leBytes 8 m.seq ++ leBytes 8 m.msFirst ++
    leBytes 4 m.msCount ++ leBytes 4 (min 65535 m.minutes) ++ leBytes 8 m.energy ++ leBytes 8 m.glow ++
    leBytes 3 m.pmax ++ leBytes 5 m.pmin ++
    leBytes 8 (m.capMax + 2 ^ 12 * m.capMin + 2 ^ 24 * m.floorMin + 2 ^ 36 * min 65535 m.capWrites) ++
    leBytes 8 (min 65535 m.holds + 2 ^ 16 * min 65535 m.fastPin + 2 ^ 32 * bit m.snuff + 2 ^ 33 * bit m.refLost +
      2 ^ 34 * bit m.meterFault + 2 ^ 35 * bit m.merged) ++ leBytes 8 m.eTotal)

/-- Signs the oldest queued record with the identity key (R438, R510). No record is signed while debug is unlocked
(R527). -/
def State.signRecord (s : State) : State :=
  match s.power.queue with
  | [] => s
  | m :: q =>
    if s.flag LAMP_SEC.LFW_OK && s.domOn 1 && !s.flag LAMP_SEC.DBG_UNLOCKED && decide (s.power.signed.length < 64) then
      let body := s.minuteBytes m
      let rs := ecdsaSign s.part.identityKey (sha384Nat body) s.freeNat
      let slot := padTo 256 (body ++ beBytes 48 rs.1 ++ beBytes 48 rs.2)
      State.drawn { s with power := { s.power with queue := q, signed := s.power.signed ++ [slot] } }
    else s

/-- Room in the ledger ring, with stack 0 in service. -/
def State.ledgerRoom (s : State) : Bool :=
  s.domOn 12 && s.flag TOPSOIL_STATUS.READY_0 &&
    decide (idxSub 32 (s.get CANDLE_LPTR.HEAD) (s.get CANDLE_LPTR.TAIL) < 2 ^ s.get CANDLE_LEDGER.LOG2N)

/-- Writes the signed slots that fit into the ring. -/
def State.ledgerDrain : Nat → State → State
  | 0, s => s
  | n + 1, s =>
    match s.power.signed with
    | [] => s
    | b :: l =>
      if s.ledgerRoom then
        let h := s.get CANDLE_LPTR.HEAD
        let s := s.topWrite (4096 * s.get CANDLE_LEDGER.BASE + 256 * (h % 2 ^ s.get CANDLE_LEDGER.LOG2N)) b
        let s := { s with power := { s.power with signed := l } }
        (s.put CANDLE_LPTR.HEAD (h + 1)).ledgerDrain n
      else s

def execLedgerSign (s : State) : Host.Outcome State Fault Refusal := .next (s.signRecord.ledgerDrain 64)

/-! ### The attention lamp (R441, R558) -/

/-- A write of CANDLE_LAMP sets the mode and ends FORCED. -/
def State.candleLamp (s : State) (val : W64) : State := (s.store 0x10078 val).put CANDLE_LAMP.FORCED 0

def execCandleLampWrite (src : Source) (val : W64) (s : State) : Host.Outcome State Fault Refusal :=
  .next (s.ctlWrite src 0x10078 2 val fun s => s.candleLamp val)

end Sys2Proof.Machine
end

