-- ==== Sys2Proof/Machine/Boot.lean ====
section
/-!
DEFINITION. Power-off, sleep, the resets by pin and rail, and the start sequence (R420, R439 to R442, R447 to R462,
R508 to R510, R551 to R560).
-/
namespace Sys2Proof.Machine

/-! ### Turning off (R420, R439, R440, R555) -/

def causePowerOn : Nat := 0
def causeSnuff : Nat := 1
def causeRefLost : Nat := 2
def causeResetN : Nat := 3
def causeWake : Nat := 4

/-- The attention lamp blinks at 4 Hz until a write at L2 (R441). -/
def State.lampForced (s : State) : State := (s.put CANDLE_LAMP.MODE 3).put CANDLE_LAMP.FORCED 1

/-- The sequence of R439, with its cause: every domain but D0 is off, and Topsoil and Subsoil are lost. -/
def State.powerOff (s : State) (cause : Nat) : State :=
  let s := { s.resetAll with topsoil := .zero, subsoil := .zero }
  let s := ((s.put CANDLE_DSTAT.ON 1).put CANDLE_DSTAT.PEND 0).setGlow 0
  let s := { s with power := { s.power with
    closing := [], snuffed := true, asleep := false, cause := cause, warm := false, subCfg := none } }
  s.lampForced

/-- SNUFF_N acts, or a droop as though it had. -/
def State.snuffActs (s : State) : State :=
  if s.domOn 0 then
    let s := (s.put CANDLE_EVT.SNUFF 1).setMinute fun m => { m with snuff := true }
    s.powerOff causeSnuff
  else s

/-- A pulse of SNUFF_N: between 20 ns and 100 ns the latch may set or stay clear (R556, R557). -/
def State.snuffPin (s : State) (ns : Nat) : State :=
  if ns < 20 then s
  else if 100 ≤ ns then s.snuffActs
  else if s.freeNat % 2 = 1 then s.drawn.snuffActs else s.drawn

def execSnuff (ns : Nat) (s : State) : Host.Outcome State Fault Refusal := .next (s.snuffPin ns)

/-- A sensor reaches 110 °C: THERM_N is asserted, which brings SNUFF_N low (R559). -/
def execThermalTrip (s : State) : Host.Outcome State Fault Refusal :=
  .next (if s.domOn 0 then State.snuffActs { s with power := { s.power with therm := true } } else s)

def execThermalClear (s : State) : Host.Outcome State Fault Refusal :=
  .next { s with power := { s.power with therm := false } }

def execRailDroop (s : State) : Host.Outcome State Fault Refusal := .next s.snuffActs

/-- SYSREF has been absent for 1 µs (R420). -/
def State.sysrefLost (s : State) : State :=
  if s.domOn 0 then
    let s := ((s.put CLOCK_STATUS.CANDLE_INT 1).put CANDLE_EVT.REF_LOST 1).put CANDLE_PINS.SYSREF_OK 0
    (s.setMinute fun m => { m with refLost := true }).lampForced
  else s

def execSysrefLost (s : State) : Host.Outcome State Fault Refusal := .next s.sysrefLost

/-- SYSREF has been absent for 10 µs (R420). -/
def execRefLost (s : State) : Host.Outcome State Fault Refusal :=
  .next (if s.flag CLOCK_STATUS.CANDLE_INT && !s.power.snuffed then s.powerOff causeRefLost else s)

/-! ### The start (R451 to R454, R508 to R510) -/

/-- The straps are latched (R451). -/
def State.latchStraps (s : State) (p : Pins) : State :=
  let s := ((s.put CHIP_STRAPS.INRUSH p.inrush.toNat).put CHIP_STRAPS.BRIDGE_EN (bit p.bridgeEn)).put CHIP_STRAPS.TRAY_POS
    p.trayPos.toNat
  s.put CANDLE_PINS.INRUSH p.inrush.toNat

/-- The levels of the other pins. -/
def State.pinLevels (s : State) (p : Pins) : State :=
  let s := (s.put CHIP_STRAPS.COMPAT (bit p.compat)).put CANDLE_PINS.PWR_GRANT (bit p.pwrGrant)
  (s.put CANDLE_PINS.CAP_FAST (bit (!p.capFastN))).put CANDLE_PINS.LATCH_OPEN (bit (!p.latchN))

/-- The domains that a start powers: those of mode ON, and D3 and D23 by their AUTO rules; D17 is requested by the boot
ROM (R411, R453). -/
def State.startDomains (s : State) : State :=
  s.each ((List.range 22).map (· + 2)) fun s d =>
    let m := s.domMode d
    if s.domOn d ∨ m = domOff then s
    else if m = domAuto ∧ (4 ≤ d ∧ d ≤ 11 ∨ d = 17) then s
    else if m = domAuto ∧ d = 3 then s.autoCores
    else if m = domAuto ∧ d = 23 then s.autoGlow
    else s.domRequest d

/-- What the Lamplighter draws at a start: its alias key, the tenancy key and its fabric sending key, and EPOCH once
(R437, R510, R512). -/
def State.startKeys (s : State) (warm : Bool) : State :=
  let s := { s with lamp := { s.lamp with starts := s.lamp.starts + 1 } }
  let s := if s.power.epoch.isSome then s
    else State.drawn { s with power := { s.power with epoch := some (s.freeNat % 2 ^ 64) } }
  let s := s.newAlias
  let s := if warm then s.newSubKey
    else State.drawn { s with lamp := { s.lamp with subKey := some (s.freeNat % 2 ^ 512) } }
  s.newFabricKey

/-- A start from its rising edge (R453, R454). Domains that stayed powered are not powered again. -/
def State.startUp (s : State) (warm : Bool) (cause : Nat) : State :=
  let s := s.resetAll
  let s := s.put CHIP_RESET.CAUSE cause
  let s := if warm then (s.bump CHIP_RESET.WARMS 1).put LAMP_JOB.SCRUBBED 0
    else { s with topsoil := .zero, subsoil := .zero, net := { s.net with lastIssued := 0 } }
  let s := { s with power := { s.power with
    boot := 1, warm := warm, cause := cause, snuffed := false, asleep := false, falStart := true
    fresh := if warm then s.power.fresh else 31
    subCfg := if warm then s.power.subCfg else none } }
  let s := ((s.put CLOCK_STATUS.CANDLE_INT 0).put CANDLE_PINS.SYSREF_OK 1).put CANDLE_PINS.LINKREF_OK 1
  let s := (s.senseFuses).startKeys warm
  let on := ((List.range 23).map (· + 1)).filter s.domOn
  let s := s.each on State.domStarted
  let s := if s.domOn 1 || s.power.closing.contains 1 || s.domMode 1 == domOff then s
    else { s with power := { s.power with closing := s.power.closing ++ [1] } }
  s.startDomains

/-- RESET_N rises. It is ignored while SNUFF_N is low or until 100 µs after it rose, and without SYSREF (R453, R556,
R560). -/
def State.resetRise (s : State) (p : Pins) (sinceSnuffNs : Nat) : State :=
  if !s.power.resetLow || !s.domOn 0 then s
  else
    let s := { s with power := { s.power with resetLow := false } }
    if sinceSnuffNs < 100000 ∨ s.power.therm ∨ s.flag CLOCK_STATUS.CANDLE_INT then s
    else
      let s := (s.latchStraps p).pinLevels p
      if s.power.asleep then (s.put CANDLE_WAKE.SRC 1).startUp true causeWake
      else s.startUp s.power.warm s.power.cause

def execResetNRise (pins : Pins) (sinceSnuffNs : Nat) (s : State) : Host.Outcome State Fault Refusal :=
  .next (s.resetRise pins sinceSnuffNs)

/-- SYSREF returns: a cold start follows a power-off by REF_LOST (R420, R447). -/
def State.sysrefReturn (s : State) : State :=
  if !s.domOn 0 then s
  else
    let s := (s.put CLOCK_STATUS.CANDLE_INT 0).put CANDLE_PINS.SYSREF_OK 1
    if s.power.snuffed && s.power.cause == causeRefLost && !s.power.resetLow && !s.power.therm then s.startUp false causeRefLost
    else s

def execSysrefReturn (s : State) : Host.Outcome State Fault Refusal := .next s.sysrefReturn

/-! ### The warm reset (R448) -/

/-- SUBSOIL_CFG is recorded in D0 when Subsoil is in service. -/
def State.recordSubCfg (s : State) : State :=
  if s.flag SUBSOIL_STATUS.READY then { s with power := { s.power with subCfg := some (s.reg 0xB0000) } } else s

/-- RESET_N acts: while any of D1 to D23 is powered, the part enters warm reset with its memory in self-refresh. -/
def State.resetFall (s : State) : State :=
  let s := { s with power := { s.power with resetLow := true } }
  if s.get CANDLE_DSTAT.ON / 2 = 0 then s
  else
    let s := s.recordSubCfg.resetAll
    let s := s.each (List.range 4) fun s k => s.put ⟨0xA0000, 2 * k + 1, 1⟩ 1
    let s := s.put SUBSOIL_STATUS.SREF 1
    { s with power := { s.power with cause := causeResetN, warm := true } }

/-- A low of RESET_N: between 1 µs and 1.04 µs it may act whole or change nothing (R556, R557). -/
def State.resetPin (s : State) (ns : Nat) : State :=
  if ns < 1000 ∨ s.power.resetLow ∨ !s.domOn 0 then s
  else if 1040 ≤ ns then s.resetFall
  else if s.freeNat % 2 = 1 then s.drawn.resetFall else s.drawn

def execWarmReset (ns : Nat) (s : State) : Host.Outcome State Fault Refusal := .next (s.resetPin ns)

/-! ### Sleep and wake (R442) -/

/-- A write of CANDLE_WAKE. SLEEP is refused in a slice, with the scheduler at work, and during a BIST run (R543). -/
def State.wakeWrite (s : State) (val : W64) : State :=
  let s := s.store 0x10080 val
  if !bitOf val 0 then s
  else if !s.idleState || s.net.slice.isSome || s.bistRunning then s.put CANDLE_ERR.DOM_BAD 1
  else
    let s := s.recordSubCfg
    let s := s.each ((List.range 23).map fun i => 23 - i) fun s d => if s.domOn d || s.domPend d then s.domDown d else s
    let s := s.resetAll
    { s with power := { s.power with asleep := true, closing := [] } }

def execSleep (src : Source) (val : W64) (s : State) : Host.Outcome State Fault Refusal :=
  .next (s.ctlWrite src 0x10080 3 val fun s => s.wakeWrite val)

/-- A wake by source `n`. -/
def State.wake (s : State) (n : Nat) : State :=
  if s.power.asleep && !s.power.resetLow then (s.put CANDLE_WAKE.SRC n).startUp true causeWake else s

def execWakeTimer (s : State) : Host.Outcome State Fault Refusal :=
  .next (if s.get CANDLE_WAKE.TIMER_MS = 0 then s else s.wake 3)

def execHostWake (s : State) : Host.Outcome State Fault Refusal :=
  .next (if s.flag CANDLE_WAKE.HOST_WAKE_EN && s.flag CHIP_STRAPS.BRIDGE_EN then s.wake 4 else s)

/-- PWR_GRANT; its rising edge wakes a sleeping part (R416, R442). -/
def execPwrGrant (high : Bool) (s : State) : Host.Outcome State Fault Refusal :=
  let rises := high && !s.flag CANDLE_PINS.PWR_GRANT
  .next (if !s.domOn 0 then s else if rises then (s.grantPin high).wake 2 else s.grantPin high)

/-! ### The Candle rail (R446, R447, R554) -/

/-- What outlives the Candle rail: eFuse, Fallow contents and the plan that is stored there. -/
def State.railState (s : State) : State :=
  { State.reset with
    freeCtr := s.freeCtr, pending := s.pending
    bist := { BistSt.reset with fuses := s.bist.fuses, list0 := s.bist.list0, list1 := s.bist.list1 }
    fallow := { s.fallow with reads := [], repairs := [], held := [], atL2 := [] }
    lamp := { LampSt.reset with lfwFuse := s.lamp.lfwFuse, mfwFuse := s.lamp.mfwFuse }
    net := { NetSt.reset with stored := s.net.stored } }

/-- The Candle rail powers on: D0 starts with every register at its reset value, and the straps are latched. -/
def State.railOn (s : State) (p : Pins) : State :=
  let s := (s.railState.latchStraps p).pinLevels p
  if p.capFastN then s else (s.setMinute fun m => { m with fastPin := 1 }).holdEnter holdFastPin 5

def execCandlePowerOn (pins : Pins) (s : State) : Host.Outcome State Fault Refusal := .next (s.railOn pins)

/-- The Candle rail is lost: D0 is off with every other domain. -/
def execCandleRailLoss (s : State) : Host.Outcome State Fault Refusal := .next (s.railState.put CANDLE_DSTAT.ON 0)

/-! ### Training (R453 to R455, R460) -/

/-- A start is in progress, or over: RESET_N is high and the part is on. -/
def State.isUp (s : State) : Bool := !s.power.resetLow && !s.power.snuffed && !s.power.asleep

def execTopsoilReady (stack : BitVec 2) (ok : Bool) (s : State) : Host.Outcome State Fault Refusal :=
  let k := stack.toNat
  .next (if !s.domOn (12 + k) || !s.isUp || s.flag ⟨0xA0000, 2 * k, 1⟩ then s
    else if !ok then s.put CHIP_ERR.TRAIN_FAIL 1
    else
      let s := if s.power.fresh / 2 ^ k % 2 = 1 then
          { s with
            topsoil := s.topsoil.wiped 64 (2 ^ 37 * k) (2 ^ 37), power := { s.power with fresh := s.power.fresh - 2 ^ k } }
        else s
      let s := (s.put ⟨0xA0000, 2 * k, 1⟩ 1).put ⟨0xA0000, 2 * k + 1, 1⟩ 0
      (s.putBit CLOCK_STATUS.TOP_LOCK k true).ledgerDrain 64)

/-- Fallow training ends. The first one after a start settles the pointer and frees what no slot holds before READY
(R462); the BIST controller then reads the two copies of the repair list (R539, R540). -/
def execFallowReady (r : FallowTrained) (s : State) : Host.Outcome State Fault Refusal :=
  .next (if !s.domOn 17 || !s.isUp || s.flag FALLOW_STATUS.READY then s
    else if !r.ok then s.put CHIP_ERR.TRAIN_FAIL 1
    else
      let s := s.put CLOCK_STATUS.FAL_LOCK 1
      if s.power.falStart then
        (State.falSettle { s with power := { s.power with falStart := false } }).readList r.bad0 r.bad1
      else s.put FALLOW_STATUS.READY 1)

/-- Stage 4: core 0 leaves reset, and the stored rack plan takes effect (R453, R508). -/
def State.bootEnd (s : State) : State :=
  let s := { s.put CHIP_STATUS.STAGE 4 with power := { s.power with boot := 0, restoreSub := false } }
  match s.net.stored with
  | some p => s.planEffect p
  | none => s

/-- The region of a restore that cannot be made holds what testing left in it (R460). -/
def State.restoreLost (s : State) : State :=
  let n := 65536 * s.get CHIP_RESTORE1.LEN
  let s := { s with subsoil := s.subsoil.write 64 (65536 * s.get CHIP_RESTORE0.REGION) (s.freeBytes n) }
  (s.drawn.put CHIP_ERR.RESTORE_LOST 1).put CHIP_RESTORE0.VALID 0

/-- Stage 3: the restore flag is settled (R459, R460). A Topsoil region is copied from SAVE; one of Subsoil stays as it is in
the model (assumption 24). -/
def State.restoreOnBoot (s : State) : State :=
  let s := s.put CHIP_STATUS.STAGE 3
  if !s.flag CHIP_RESTORE0.VALID then s.bootEnd
  else if !s.flag CHIP_RESTORE0.KIND then (s.put CHIP_RESTORE0.VALID 0).bootEnd
  else if !s.power.warm then ((s.put CHIP_ERR.RESTORE_LOST 1).put CHIP_RESTORE0.VALID 0).bootEnd
  else if !s.flag CHIP_RESTORE0.TIER then (s.restoreRegion.put CHIP_RESTORE0.VALID 0).bootEnd
  else
    let s := match s.power.subCfg with
      | some w => s.setReg 0xB0000 w
      | none => s
    { s with power := { s.power with boot := 3, subTrain := true, restoreSub := true } }

/-- Subsoil training ends, and after a cold start its zeroing. -/
def State.subTrained (s : State) (chOk : Nat) : State :=
  let want := if s.flag SUBSOIL_CFG.NCH then 0xFF else 0xFFFF
  let ok := chOk &&& want
  let s := if s.power.fresh / 16 % 2 = 1 then
      { s with subsoil := .zero, power := { s.power with fresh := s.power.fresh - 16 } } else s
  let s := { s with power := { s.power with subTrain := false } }
  let s := s.put SUBSOIL_STATUS.CH_OK ok
  let s := if ok = want then s else s.put CHIP_ERR.TRAIN_FAIL 1
  let s := if ok = 0 then s
    else ((s.put SUBSOIL_STATUS.READY 1).put SUBSOIL_STATUS.SREF 0).put CLOCK_STATUS.SUB_LOCK 1
  if !s.power.restoreSub then s
  else if (List.range 16).any fun c => want / 2 ^ c % 2 == 1 && ok / 2 ^ c % 2 == 0 &&
      s.subHolds c (65536 * s.get CHIP_RESTORE0.REGION) (65536 * s.get CHIP_RESTORE1.LEN) then s.restoreLost.bootEnd
  else (s.put CHIP_RESTORE0.VALID 0).bootEnd

def execSubsoilReady (chOk : BitVec 16) (s : State) : Host.Outcome State Fault Refusal :=
  .next (if s.power.subTrain && s.domOn 16 then s.subTrained chOk.toNat else s)

/-! ### Firmware (R455, R508, R509) -/

/-- The verification of the boot stage in progress ends. A version below the fused one is refused. -/
def State.firmware (s : State) (ok : Bool) (digest svn : Nat) (raise : Bool) : State :=
  let lfw := s.power.boot == 1
  let fused := if lfw then s.lamp.lfwFuse else s.lamp.mfwFuse
  if !(lfw || s.power.boot == 2) || !s.domOn 1 || ok && !s.flag FALLOW_STATUS.READY then s
  else if !ok || decide (svn < fused) then { s.put CHIP_ERR.BOOT_FAIL 1 with power := { s.power with boot := 0 } }
  else
    let fused := if raise then svn else fused
    if lfw then
      let s := (s.put LAMP_SEC.LFW_OK 1).put LAMP_SEC.LFW_SVN svn
      { s with
        lamp := { s.lamp with lfwDigest := digest, lfwFuse := fused }
        power := { s.power with boot := 2 } }
    else
      let s := (s.put LAMP_SEC.MFW_OK 1).put LAMP_SEC.MFW_SVN svn
      State.restoreOnBoot { s with lamp := { s.lamp with mfwDigest := digest, mfwFuse := fused } }

def execFirmwareVerified (ok : Bool) (digest : BitVec 384) (svn : BitVec 16) (raiseSvn : Bool) (s : State) :
    Host.Outcome State Fault Refusal :=
  .next (s.firmware ok digest.toNat svn.toNat raiseSvn)

end Sys2Proof.Machine
end

