-- ==== Sys2Proof/Machine/Headland.lean ====
section
/-!
DEFINITION. Headlands, Stiles and circuits (R36 to R53, R122, R158 to R167): arrival of tokens and of credits.
-/
namespace Sys2Proof.Machine

/-- The slot of the current cycle (R37). -/
def State.slotNow (s : State) : Nat := s.field.cycle % 16

/-- An uncorrectable Field error at a port of a plot, for ERRLOG and the step in progress (R467, R496). -/
def State.fieldError (s : State) (plot port slot : Nat) : State :=
  s.stepError { cls := 3, block := 0x20 + plot / 16, plot := plot, detail := port + 16 * slot,
                addr := s.gaddr 3 (0x200000 + 0x1000 * plot) }

/-- A Headland discards a token: its error bit, the capture and the report (R36, R43). -/
def State.hlDiscard (s : State) (plot port slot kind : Nat) (err : Fld) : State :=
  ((s.hlCapture plot port slot kind).put err 1).fieldError plot port slot

/-! ### Circuit receivers (R159, R166) -/

/-- A receiving queue takes a token: the sequence check, and the discard of CLASS 11. Inside the unit its SEQ is 0. -/
def State.circuitTake (s : State) (q : QId) (t : Token) (plot port slot : Nat) : State :=
  let v := s.queue q
  let bad := t.seq != v.seqRx || t.cls == 3
  let toks := if t.cls = 3 then v.toks else v.toks ++ [t.withSeq 0]
  let s := s.setQueue q { v with toks := toks, seqRx := (t.seq + 1) % 256 }
  if bad then s.fieldError plot port slot else s

/-- A unit takes the token that its Headland delivers in a slot (R122, R167). -/
def State.unitTake (s : State) (plot port slot : Nat) (t : Token) : State :=
  match unitIn s.lit plot port slot with
  | none => s.fieldError plot port slot
  | some q => s.circuitTake (if port < 2 then furrowQ plot port q else hopperQ plot (port - 2) q) t plot port slot

/-! ### Circuit senders (R48, R122, R164, R167) -/

/-- The queue whose head the unit or Stile behind an input drove into the Headland one cycle earlier. -/
def State.driver (s : State) (plot port : Nat) : Option QId :=
  let slot := (s.slotNow + 15) % 16
  if port < 2 then (unitOut s.lit plot port slot).map fun q => furrowQ plot port (8 + q)
  else if port < 4 then (unitOut s.lit plot port slot).map fun q => hopperQ plot (port - 2) (4 + q)
  else match edgeStile plot port with
    | some k => (stileIn s.lit k slot).map fun a => stileQ k a
    | none => none

/-- A sender has driven its head: the token leaves its queue, a credit of the receiver is spent, SEQ advances (R159,
R161). -/
def State.drive (s : State) (q rcv : QId) : State :=
  let s := s.popN q 1
  let v := s.queue q
  let s := s.setQueue q { v with seqTx := (v.seqTx + 1) % 256 }
  let r := s.queue rcv
  s.setQueue rcv { r with out := r.out + 1 }

/-- The sender behind an input drives a token: the head of its queue, with a credit, under the next SEQ; `none` where it
can drive only a bubble (R164). -/
def State.driven (s : State) (plot port : Nat) (t : Token) : Option State :=
  match s.driver plot port with
  | none => none
  | some q =>
    match (s.queue q).toks, circuitEnd s.lit q with
    | h :: _, some rcv =>
      if h.withSeq (s.queue q).seqTx = t ∧ s.canPush rcv ∧ !s.field.halted then
        let s := (s.drive q rcv).agentPump
        some (if 2048 ≤ q / 32 then
          ((s.sowerRetire false).sowerRetire true).gleanRetire false |>.gleanRetire true else s)
      else none
    | _, _ => none

/-- What left the register or queue behind an input; `none` when a sender on this chip would have driven a bubble (R39,
R164). A bubble leaves everything as it is. -/
def State.departed (s : State) (plot port : Nat) (t : Token) : Option State :=
  if !t.valid then some s
  else match hlPartner plot port with
    | some (p, o, _) => some { s with field := { s.field with hlOut := KMap.erase s.field.hlOut (10 * p + o) } }
    | none => s.driven plot port t

/-! ### Arrival (R36 to R43, R50) -/

/-- A token whose codes pass is forwarded to the output that claims it in this slot, or discarded (R39, R43). -/
def State.hlForward (s : State) (plot port : Nat) (t : Token) : State :=
  let slot := s.slotNow
  match s.lit.hlOut plot port slot with
  | none => s.hlDiscard plot port slot 1 (HL_ERR.UNCLAIMED plot)
  | some o =>
    let s := s.bump (HL_TOK_CNT.COUNT plot o) 1
    if o < 4 then s.unitTake plot o ((slot + 2) % 16) t
    else { s with field := { s.field with hlOut := KMap.insert (KMap.erase s.field.hlOut (10 * plot + o)) (10 * plot + o) t } }

/-- The outcomes of a port's codes in ascending order of the bits they cover: code `k` covers payload bits
`[128k + 127:128k]` and header bits `[8k + 7:8k]` (R34). -/
def portCodes (c : PortCodes) : List CodeResult := [c.c0, c.c1, c.c2, c.c3]

/-- Some code is uncorrectable: a SEC-DED code corrects one bit (R36). -/
def codesUe (c : PortCodes) : Bool := (portCodes c).any fun r => r == .ue || r == .two

/-- The codes that corrected a bit. -/
def codesCe (c : PortCodes) : Nat :=
  ((portCodes c).filter fun r => match r with
    | .one _ => true
    | _ => false).length

/-- Code `k` is miscorrected: what it covers becomes a free value (R464, assumption 2). -/
def spoilCode (t : Token) (k x : Nat) : Token :=
  { t with
    hdr := withBits t.hdr (8 * k) 8 x
    payload := withBits t.payload (128 * k) 128 (x / 256) }

/-- A token as the codes of its port deliver it. -/
def State.decoded (s : State) (t : Token) (c : PortCodes) : State × Token :=
  (portCodes c).zipIdx.foldl (fun a r => if r.1 = .miscorrected then (a.1.drawn, spoilCode a.2 r.2 a.1.freeNat) else a) (s, t)

/-- The corrected errors of a Headland, one for each code that corrected a bit (R36). -/
def State.hlCorrected (s : State) (plot n : Nat) : State :=
  if n = 0 then s else (s.put (HL_ERR.ECC_CE plot) 1).bump (HL_ECC_CNT.CE_COUNT plot) n

/-- What a cycle brings to a Headland input: the checks of R36, which a bubble has too, then the token. A sender on this
chip brings only what it may drive (R164). -/
def State.hlArrival (s : State) (plot port : Nat) (t : Token) (c : PortCodes) (sidePar : Bool) : State :=
  match s.departed plot port t with
  | none => s
  | some s =>
    let s := s.hlCorrected plot (codesCe c)
    if sidePar || codesUe c then s.hlDiscard plot port s.slotNow 2 (HL_ERR.ECC_UE plot)
    else
      let r := s.decoded t c
      if r.2.valid then r.1.hlForward plot port r.2 else r.1

/-- An agent other than the Sower and the Gleaner takes the tokens that reach its outbound queue at once; what it does
with them the spec does not say (R49, assumption 56). -/
def State.agentDrain (s : State) (k a : Nat) : State :=
  if a < 2 then s else s.popN (stileQ k (8 + a)) (s.queue (stileQ k (8 + a))).toks.length

/-- What a cycle brings to the Field side of Stile `k`, from the edge output of its plot. A Stile has no register for its
corrected errors (R51). -/
def State.stileArrival (s : State) (k : Nat) (t : Token) (c : PortCodes) (sidePar refuse : Bool) : State :=
  let plot := 16 * (k / 2) + (if k % 2 = 0 then 0 else 15)
  let port := if k % 2 = 0 then 7 else 6
  let slot := s.slotNow
  let s := if t.valid then { s with field := { s.field with hlOut := KMap.erase s.field.hlOut (10 * plot + port) } } else s
  if sidePar || codesUe c then s.fieldError plot port slot
  else
    let r := s.decoded t c
    if !r.2.valid then r.1
    else match stileOut s.lit k slot with
      | none => (r.1.put (STILE_ERR.EDGE_UNCLAIMED plot) 1).fieldError plot port slot
      | some a =>
        if refuse then (r.1.put (STILE_ERR.AGENT_REFUSED plot) 1).fieldError plot port slot
        else (r.1.circuitTake (stileQ k (8 + a)) r.2 plot port slot).agentDrain k a

def execTokenArrival (at_ : Input) (tok : Token) (codes : PortCodes) (sidePar refuse : Bool) (s : State) :
    Host.Outcome State Fault Refusal :=
  .next (match at_ with
    | .headland plot port => if s.plotMoves plot.toNat then s.hlArrival plot.toNat port.val tok codes sidePar else s
    | .stile row east =>
      if s.plotMoves (16 * row.toNat) then s.stileArrival (2 * row.toNat + bit east) tok codes sidePar refuse else s)

/-! ### Credits (R162, R163) -/

/-- The queue of a circuit sender, its plot and its Headland port. -/
def senderQ : Sender → QId × Nat × Nat
  | .furrow p u o => (furrowQ p.toNat (bit u) (8 + o.toNat), p.toNat, bit u)
  | .hopper p u g => (hopperQ p.toNat (bit u) (4 + g.toNat), p.toNat, 2 + bit u)
  | .stile r e a => (stileQ (2 * r.toNat + bit e) a.val, 16 * r.toNat + (if e then 15 else 0), if e then 6 else 7)

/-- Even parity over a return sideband byte. -/
def sidebandOk (sb : BitVec 8) : Bool := ((List.range 8).filter fun i => sb.getLsbD i).length % 2 == 0

/-- Whether a sender's outbound table gives a slot to its queue (R48, R122, R167). -/
def sendsIn (m : Image) (q : QId) (slot : Nat) : Bool :=
  let unit := q / 32
  if 2048 ≤ unit then stileIn m (unit - 2048) slot == some (q % 32)
  else (unitOut m (unit / 4) (unit % 4) slot).map (· + (if unit % 4 < 2 then 8 else 4)) == some (q % 32)

/-- A slot in which the return sideband of a circuit reaches its sender: two after a slot of the sender's outbound table,
as the loop time of R165 gives it (assumption 56). -/
def State.returnSlot (s : State) (q : QId) : Bool := sendsIn s.lit q ((s.slotNow + 14) % 16)

/-- A return sideband byte reaches its sender, whose credit counter rises by the credits that the receiver has driven; a
parity error is an uncorrectable Field error (R36). A byte with credits comes only in a return slot. -/
def execCreditReturn (snd : Sender) (sb : BitVec 8) (s : State) : Host.Outcome State Fault Refusal :=
  .next (
    if !s.plotMoves (senderQ snd).2.1 then s
    else
      let q := senderQ snd
      if !sidebandOk sb then s.hlDiscard q.2.1 q.2.2 s.slotNow 2 (HL_ERR.ECC_UE q.2.1)
      else if !s.returnSlot q.1 then s
      else match circuitEnd s.lit q.1 with
        | none => s
        | some rcv =>
          let v := s.queue rcv
          let n := min (sb.toNat % 16) v.wires
          s.setQueue rcv { v with out := v.out - n, wires := v.wires - n })

/-! ### Counters (R51) -/

def execPlotCntClr (src : Source) (plot : BitVec 9) (s : State) : Host.Outcome State Fault Refusal :=
  let p := plot.toNat
  .next (s.ctlWrite src (PLOT_CTRL.CNT_CLR p).reg 1 1 fun s =>
    s.each (List.range 10) (fun s o => s.put (HL_TOK_CNT.COUNT p o) 0) |>.put (HL_ECC_CNT.CE_COUNT p) 0)

end Sys2Proof.Machine
end

