-- ==== Sys2Proof/Machine/Steer.lean ====
section
/-!
DEFINITION. Steering elements (R156, R158, R168 to R178): FORK, JOIN, STEER, MERGE and SELECT.
-/
namespace Sys2Proof.Machine

/-- The Pass in flight whose rectangle holds a plot (R216). -/
def State.passAt (s : State) (plot : Nat) : Option PassSt :=
  s.sched.inflight.find? fun p => (List.range 16).any fun k => (passRectOf p.desc k).holds plot

/-- Counts steering faults in the Pass of a plot (R179). -/
def State.steerFault (s : State) (plot n : Nat) : State :=
  match s.passAt plot with
  | none => s
  | some p => if n = 0 then s else s.countPass p.pseq fun c => { c with steerF := c.steerF + n }

/-- Whether MX beats of a queue come with scale tokens: everywhere but on the operand paths, where the sideband carries
the scales (R157). -/
def scaleTokens (q : QId) : Bool :=
  let unit := q / 32
  decide (2048 ≤ unit) || (if unit % 4 < 2 then decide (q % 32 < 16) else decide (q % 32 < 8))

/-- The head of a queue as its reader sees it: an MX beat is available once its group's scale token is in the queue
(R158). -/
def State.headTok (s : State) (q : QId) : Option Token :=
  match (s.queue q).toks with
  | [] => none
  | t :: ts => if scaleTokens q && t.cls == 0 && isMx t.fmt && !ts.any (fun x => x.cls == 2) then none else some t

/-- The head with its block scales in the sideband, which its group's scale token gives (R157). -/
def State.headScaled (s : State) (q : QId) : Option Token :=
  (s.headTok q).map fun t =>
    if scaleTokens q && t.cls == 0 && isMx t.fmt then
      match (s.queue q).toks.find? fun x => x.cls == 2 with
      | some u =>
        let bpb := blocksPerBeat t.fmt
        { t with side := BitVec.ofNat 32 (payBits u.payload (8 * bpb * t.sidx) (8 * bpb)) }
      | none => t
    else t

/-- Retires the head, with the scale token behind the last beat of its group (R158). -/
def State.retireHead (s : State) (q : QId) : State :=
  match (s.queue q).toks with
  | _ :: u :: _ => s.popN q (if u.cls = 2 then 2 else 1)
  | _ => s.popN q 1

/-- Retires control tokens of VCOUNT 0 at the head of a control queue (R156). -/
def State.retireEmpty (s : State) (q : QId) : State :=
  let n := ((s.queue q).toks.takeWhile fun t => t.vcount == 0).length
  if n = 0 then s else s.popN q n

/-- The next control value of a queue (R156). -/
def State.ctlValue (s : State) (q : QId) : Option Nat :=
  (s.queue q).toks.head?.map fun t => payBits t.payload (8 * (s.queue q).used) 8

/-- Consumes one control value. -/
def State.ctlUse (s : State) (q : QId) : State :=
  let v := s.queue q
  match v.toks with
  | [] => s
  | t :: _ =>
    if t.vcount ≤ v.used + 1 then (s.setQueue q { v with used := 0 }).popN q 1
    else s.setQueue q { v with used := v.used + 1 }

/-- A control value as STEER and SELECT take it: 0xF when it names no input or output, with its fault (R178). -/
def ctlTarget (nio v : Nat) : Option Nat × Nat :=
  if v = 0xF then (none, 0) else if 16 ≤ v ∨ nio ≤ v then (none, 1) else (some v, 0)

/-- The configuration of an element (R169). -/
structure ElemCfg where
  op : Nat
  perRow : Bool
  nio : Nat
  once : Nat
  ctl : QId
  ins : List QId
  outs : List QId
  key : Nat
  plot : Nat

/-- Element `el` of a Furrow Unit in the lit plane. -/
def State.elemCfg (s : State) (plot : BitVec 9) (unit : Bool) (el : BitVec 3) : ElemCfg :=
  let p := plot.toNat
  let u := bit unit
  let w := (s.lit.furrowAt (2 * p + u)).elems.getD el.toNat 0
  let src (c : Nat) : QId := (srcQ p u c 0).getD 0
  { op := bitsOf w 0 3, perRow := bitOf w 3, nio := bitsOf w 4 4, once := bitsOf w 8 4, ctl := src (bitsOf w 12 4),
    ins := (elemIns w).map src, outs := (elemOuts w).map fun c => (dstQ p u c).getD 0, key := 8 * (2 * p + u) + el.toNat,
    plot := p }

def ElemCfg.inQ (c : ElemCfg) (j : Nat) : QId := c.ins.getD j 0
def ElemCfg.outQ (c : ElemCfg) (j : Nat) : QId := c.outs.getD j 0

/-- An element fires when it is of the kind named and the Field runs. -/
def State.elemFire (s : State) (plot : BitVec 9) (unit : Bool) (el : BitVec 3) (op : Nat) (fire : ElemCfg → State) : State :=
  let c := s.elemCfg plot unit el
  if s.fieldRuns && c.op == op then fire c else s

/-! ### FORK (R172) -/

def State.fork (s : State) (c : ElemCfg) : State :=
  match s.headTok (c.inQ 0) with
  | none => s
  | some t =>
    if c.outs.all s.canPush then (s.popN (c.inQ 0) 1).each c.outs fun s q => s.push q t else s

def execForkFire (plot : BitVec 9) (unit : Bool) (el : BitVec 3) (s : State) : Host.Outcome State Fault Refusal :=
  .next (s.elemFire plot unit el 1 s.fork)

/-! ### JOIN (R173, R174) -/

/-- Whether input `j` of a JOIN takes part in a firing whose input 0 token starts a row, or does not. -/
def joins (once : Nat) (rowS : Bool) (j : Nat) : Bool := once / 2 ^ j % 2 == 0 || rowS

/-- Whether the ordinary inputs of a JOIN carry the marks of input 0. -/
def marksAgree (once : Nat) (ts : List (Nat × Token)) : Bool :=
  match ts with
  | [] => true
  | h :: _ => ts.all fun t => once / 2 ^ t.1 % 2 == 1 || t.2.marks == h.2.marks

def State.joinTokens (s : State) (c : ElemCfg) (js : List Nat) : Option (List (Nat × Token)) :=
  js.mapM fun j => (s.headTok (c.inQ j)).map fun t => (j, t)

def State.join4 (s : State) (c : ElemCfg) : State :=
  match s.headTok (c.inQ 0) with
  | none => s
  | some t0 =>
    let js := (List.range c.nio).filter (joins c.once t0.marks.rowS)
    match s.joinTokens c js with
    | none => s
    | some ts =>
      if js.all fun j => s.canPush (c.outQ j) then
        let s := s.each ts fun s t => (s.popN (c.inQ t.1) 1).push (c.outQ t.1) t.2
        let e := s.elem c.key
        let open_ := (t0.marks.rowS || e.rowOpen) && !t0.marks.rowE
        let s := s.setElem c.key { e with rowOpen := open_, once := open_ && decide (c.once ≠ 0) }
        s.steerFault c.plot (bit (!marksAgree c.once ts))
      else s

def execJoinFire (plot : BitVec 9) (unit : Bool) (el : BitVec 3) (s : State) : Host.Outcome State Fault Refusal :=
  .next (s.elemFire plot unit el 2 s.join4)

/-! ### STEER (R171, R175, R178) -/

/-- Sends the head of IN0 to an output, or drops it; `none` when the output has no credit. -/
def State.steerTo (s : State) (c : ElemCfg) (t : Token) (target : Option Nat) : Option State :=
  match target with
  | none => some (s.popN (c.inQ 0) 1)
  | some j => if s.canPush (c.outQ j) then some ((s.popN (c.inQ 0) 1).push (c.outQ j) t) else none

def State.steer (s : State) (c : ElemCfg) : State :=
  let s := s.retireEmpty c.ctl
  match s.headTok (c.inQ 0) with
  | none => s
  | some t =>
    let e := s.elem c.key
    if c.perRow && e.rowOpen && !t.marks.rowS then
      match s.steerTo c t (ctlTarget c.nio e.held).1 with
      | none => s
      | some s => s.setElem c.key { e with rowOpen := !t.marks.rowE }
    else match s.ctlValue c.ctl with
      | none => s
      | some v =>
        let r := ctlTarget c.nio v
        match s.steerTo c t r.1 with
        | none => s
        | some s =>
          let s := s.ctlUse c.ctl
          let s := if c.perRow then s.setElem c.key { e with rowOpen := !t.marks.rowE, held := (r.1).getD 0xF } else s
          s.steerFault c.plot (r.2 + bit (c.perRow && !t.marks.rowS))

def execSteerFire (plot : BitVec 9) (unit : Bool) (el : BitVec 3) (s : State) : Host.Outcome State Fault Refusal :=
  .next (s.elemFire plot unit el 3 s.steer)

/-! ### MERGE (R176) -/

def State.mergeFire (s : State) (c : ElemCfg) : State :=
  let e := s.elem c.key
  match s.headTok (c.inQ e.next) with
  | none => s
  | some t =>
    if s.canPush (c.outQ 0) then
      let s := (s.popN (c.inQ e.next) 1).push (c.outQ 0) t
      let go := !c.perRow || t.marks.rowE
      s.setElem c.key { e with next := if go then (e.next + 1) % c.nio else e.next, rowOpen := c.perRow && !t.marks.rowE }
    else s

def execMergeFire (plot : BitVec 9) (unit : Bool) (el : BitVec 3) (s : State) : Host.Outcome State Fault Refusal :=
  .next (s.elemFire plot unit el 4 s.mergeFire)

/-! ### SELECT (R177, R178) -/

/-- Takes one token of input `j`; `none` when it has none or OUT0 has no credit. -/
def State.selectFrom (s : State) (c : ElemCfg) (j : Nat) : Option (State × Token) :=
  match s.headTok (c.inQ j) with
  | none => none
  | some t => if s.canPush (c.outQ 0) then some ((s.popN (c.inQ j) 1).push (c.outQ 0) t, t) else none

def State.select (s : State) (c : ElemCfg) : State :=
  let s := s.retireEmpty c.ctl
  let e := s.elem c.key
  if c.perRow && e.rowOpen then
    match s.selectFrom c e.held with
    | none => s
    | some (s, t) => s.setElem c.key { e with rowOpen := !t.marks.rowE }
  else match s.ctlValue c.ctl with
    | none => s
    | some v =>
      match ctlTarget c.nio v with
      | (none, f) => (s.ctlUse c.ctl).steerFault c.plot f
      | (some j, _) =>
        match s.selectFrom c j with
        | none => s
        | some (s, t) =>
          let s := s.ctlUse c.ctl
          if c.perRow then s.setElem c.key { e with rowOpen := !t.marks.rowE, held := j } else s

def execSelectFire (plot : BitVec 9) (unit : Bool) (el : BitVec 3) (s : State) : Host.Outcome State Fault Refusal :=
  .next (s.elemFire plot unit el 5 s.select)

end Sys2Proof.Machine
end

