-- ==== Sys2Proof/Machine/Furrow.lean ====
section
/-!
DEFINITION. The Furrow Unit (R54 to R84): one firing of its six stages, and the output conversion of its Pass stage; the
Lantern's firings (R87 to R114).
-/
namespace Sys2Proof.Machine

/-! ### Lane values -/

/-- The exact value of a lane value (R58, R90). -/
def LaneVal.num (v : LaneVal) : Num :=
  let n := decodeElem v.fmt v.bits
  match v.scale with
  | some e => applyScale e n
  | none => n

def LaneVal.ofT (t : Tallow) : LaneVal := ⟨0xC, t.toNat, none⟩
/-- The value widened to Tallow. -/
def LaneVal.tallow (v : LaneVal) : Tallow := if v.fmt = 0xC then BitVec.ofNat 80 v.bits else roundT v.num

/-- The joined tokens of the roles A, B and C. -/
structure RoleToks where
  a : Option Token
  b : Option Token
  c : Option Token

/-- Element `e` of a joined token read in a format; a masked element is none (R68, R134). Of a Tallow container only bits
[79:0] are read (R61). -/
def tokElem (t : Option Token) (fmt e : Nat) : Option LaneVal :=
  match t with
  | none => none
  | some t =>
    let b := beatElem fmt t.payload e
    if t.vcount ≤ e then none
    else some ⟨fmt, if fmt = 0xC then b % 2 ^ 80 else b, if isMx fmt then some (beatScale t.side e) else none⟩

/-- What a lane reference names; port C is read in its token's own format. -/
def laneRef (r : RoleToks) (prev : Option LaneVal) (fmt : Nat) : LaneRef → Option LaneVal
  | .roleA e => tokElem r.a fmt e.toNat
  | .roleB e => tokElem r.b fmt e.toNat
  | .roleC e => tokElem r.c ((r.c.map (·.fmt)).getD fmt) e.toNat
  | .prev => prev
  | .none => none

/-- One lane's resolved operands. -/
structure LaneOps where
  a : List (Option LaneVal)
  b : List (Option LaneVal)
  c : Option LaneVal

def resolveLane (w : W64) (r : RoleToks) (prev : Option LaneVal) (f : LaneFeed) : LaneOps :=
  ⟨f.a.map (laneRef r prev (bitsOf w 2 4)), f.b.map (laneRef r prev (bitsOf w 6 4)), laneRef r prev 0 f.c⟩

/-! ### The chunks of a firing (R64, R66, R67) -/

/-- Products that a lane of a DOT stage forms per cycle: the chunk size c (R64). -/
def chunkSize (fa fb : Nat) : Nat := if fa = 8 ∧ fb = 8 then 32 else if 3 ≤ fa then 16 else 8

/-- The elements of a role's token that one operand of a chunk lists; `none` where it lists anything else: DOT operands
have the formats of the stage word alone (R64). -/
def chunkElems (isB : Bool) (l : List LaneRef) : Option (List Nat) :=
  l.mapM fun r => match isB, r with
    | false, .roleA e => some e.toNat
    | true, .roleB e => some e.toNat
    | _, _ => none

/-- Whether `c` elements are one MX block or one half of it, in order (R66). -/
def inOneBlock (c : Nat) (es : List Nat) : Bool := es.headD 0 % c == 0 && es == (List.range c).map (es.headD 0 + ·)

/-- Whether a lane's operands of a DOT stage are one whole chunk (R64, R66). -/
def chunkOk (w : W64) (f : LaneFeed) : Bool :=
  let fa := bitsOf w 2 4
  let fb := bitsOf w 6 4
  let c := chunkSize fa fb
  match chunkElems false f.a, chunkElems true f.b with
  | some a, some b => a.length == c && b.length == c && (!isMx fa || inOneBlock c a) && (!isMx fb || inOneBlock c b)
  | _, _ => false

/-- Whether the first elements of an MX operand ascend over a lane's chunks. -/
def blocksAscend (isB : Bool) (fs : List (W64 × LaneFeed)) : Bool :=
  let hs := fs.filterMap fun f =>
    if isMx (bitsOf f.1 (if isB then 6 else 2) 4) then (chunkElems isB (if isB then f.2.b else f.2.a)).map (·.headD 0) else none
  (List.zip hs hs.tail).all fun e => decide (e.1 < e.2)

/-- Whether a lane's chunks of one cycle fill its DOT stages in pipeline order, ascending in K (R67). -/
def laneChunksOk (cfg : FurrowCfg) (dots : List Nat) (feed : FurrowFeed) (l : Nat) : Bool :=
  let fs := dots.map fun k => (cfg.stages.getD k 0, (feed.getD k []).getD l ⟨[], [], .none⟩)
  let on := fs.takeWhile fun f => !f.2.a.isEmpty || !f.2.b.isEmpty
  (fs.drop on.length).all (fun f => f.2.a.isEmpty && f.2.b.isEmpty) && on.all (fun f => chunkOk f.1 f.2) &&
    blocksAscend false on && blocksAscend true on

/-- Whether the operands of a firing keep the rules of chunks: a firing takes no others (assumption 62). -/
def feedOk (cfg : FurrowCfg) (dots : List Nat) (feed : FurrowFeed) : Bool := (List.range 32).all (laneChunksOk cfg dots feed)

/-! ### Modes -/

/-- The exact chunk sum D of a lane (R65, R68, R69): a NaN element of either operand makes it NaN. -/
def dotChunk (o : LaneOps) : Num :=
  let nan (l : List (Option LaneVal)) : Bool := l.any fun v => (v.map fun x => x.num.isNan).getD false
  if nan o.a || nan o.b then .nan
  else (List.zip o.a o.b).foldl (fun s p => match p with
    | (some x, some y) => s.add (x.num.mul y.num)
    | _ => s) .zero

/-- One DOT accumulation: an exact zero rounds to +0 (R65, R69). -/
def dotStep (acc : Tallow) (o : LaneOps) : Tallow :=
  let v := (tallowNum acc).add (dotChunk o)
  if numIsZero v then 0 else roundT v

/-- A Tallow or FP32 result (R70). -/
def elemRound (tallow : Bool) (n : Num) : LaneVal := if tallow then .ofT (roundT n) else ⟨0x0, roundFp32 n, none⟩

/-- The larger or the smaller of two values (R72). -/
def pickNum (wantMax : Bool) (a b : Num) : Num :=
  if a.isNan || b.isNan then .nan else if a.lt b == wantMax then b else a

/-- ELEM (R70 to R72). A lane with a masked operand gives no value (assumption 35). -/
def elemLane (w : W64) (o : LaneOps) : Option LaneVal :=
  let op := bitsOf w 12 3
  let rd := elemRound (bitOf w 15)
  match (o.a.headD none), (o.b.headD none) with
  | some x, some y =>
    match op with
    | 0 => o.c.map fun z => rd ((x.num.mul y.num).add z.num)
    | 1 => some (rd (x.num.mul y.num))
    | 2 => some (rd (x.num.add y.num))
    | 3 => some (rd (pickNum true x.num y.num))
    | _ => some (rd (pickNum false x.num y.num))
  | _, _ => none

/-- Combines two lanes of a REDUCE group; a lane without a value passes the other on. -/
def redPair (op : Nat) (a b : Option Tallow) : Option Tallow :=
  match a, b with
  | some x, some y => some (match op with
    | 0 => addT x y
    | 1 => pickT true x y
    | _ => pickT false x y)
  | some x, none => some x
  | none, y => y

/-- REDUCE (R73): every lane of a group gets the group's result. -/
def reduceLanes (w : W64) (ins : List (Option LaneVal)) : List (Option LaneVal) :=
  let g := 2 ^ bitsOf w 18 3
  let ts := ins.map fun v => v.map (·.tallow)
  (List.range 32).map fun l =>
    ((mergeTree (redPair (bitsOf w 16 2)) 5 ((ts.drop (l / g * g)).take g)).headD none).map .ofT

/-- SHUF (R74). A lane whose source or index is masked gives no value (assumption 35). -/
def shufLanes (w : W64) (table : List Byte) (os : List LaneOps) : List (Option LaneVal) :=
  let ins := os.map fun o => o.a.headD none
  (List.range 32).map fun l =>
    let p := if bitOf w 21 then ((os[l]?).bind (·.c)).map fun v => v.bits % 32 else some ((table.getD l 0).toNat % 32)
    p.bind fun i => ins.getD i none

/-- The chunks of one cycle at a DOT stage: a lane without one keeps its accumulator. `first` starts a chain from the initial
value, which is +0 where port C gives the lane none (R67, assumption 62). -/
def dotStage (w : W64) (os : List LaneOps) (first : Bool) (ch : Chain) : Chain :=
  let init (o : LaneOps) : Tallow := if bitsOf w 10 2 = 1 then (o.c.map (·.tallow)).getD 0 else 0
  { acc := os.zipIdx.map fun o =>
      let a := if first then init o.1 else ch.acc.getD o.2 0
      if o.1.a.isEmpty then a else dotStep a o.1
    fed := os.zipIdx.map fun o => (!first && ch.fed.getD o.2 false) || !o.1.a.isEmpty }

/-- One stage: lane values in, lane values and accumulators out. `first` marks the start of a chain at the first DOT
stage, `last` its end at the last one: every lane that the chain has fed gives its result there (R67). -/
def stageStep (w : W64) (table : List Byte) (os : List LaneOps) (first last : Bool) (ch : Chain) :
    List (Option LaneVal) × Chain :=
  match bitsOf w 0 2 with
  | 0 =>
    let ch := dotStage w os first ch
    ((List.zip ch.acc ch.fed).map fun x => if last && x.2 then some (.ofT x.1) else none, ch)
  | 1 => (os.map (elemLane w), ch)
  | 2 => (reduceLanes w (os.map fun o => o.a.headD none), ch)
  | _ => (shufLanes w table os, ch)

/-- The stages from number `k` on. -/
def runStages (cfg : FurrowCfg) (r : RoleToks) (feed : FurrowFeed) (dots : List Nat) (chS chE : Bool) :
    Nat → Nat → List (Option LaneVal) → Chain → List (Option LaneVal) × Chain
  | 0, _, prev, ch => (prev, ch)
  | n + 1, k, prev, ch =>
    let w := cfg.stages.getD k 0
    let os := (List.range 32).map fun l =>
      resolveLane w r (prev.getD l none) (((feed.getD k []).getD l ⟨[], [], .none⟩))
    let out := stageStep w (cfg.shuf.getD k []) os (chS && dots.head? == some k) (chE && dots.getLast? == some k) ch
    runStages cfg r feed dots chS chE n (k + 1) out.1 out.2

/-! ### Output conversion (R78 to R84, R154) -/

/-- The stage of the Pass that holds a plot (R216). -/
def passStage (p : List W64) (plot : Nat) : Nat := ((List.range 16).find? fun k => (passRectOf p k).holds plot).getD 0

/-- The write binding that takes the results of a Furrow Unit over the operand path in a stage (R121, R168). -/
def Image.resultBinding (m : Image) (plot u k : Nat) : Option (Nat × Nat × Binding) :=
  ([0, 1].flatMap fun h => (List.range 4).map fun g => (2 * plot + h, g, (m.hopperAt (2 * plot + h)).binding k g)).find? fun e =>
    e.2.2.en && e.2.2.write && e.2.2.role == 5 && e.2.2.port == u

/-- The queue that a destination code names in a stage (R168). -/
def Image.destQ (m : Image) (plot u k c : Nat) : Option QId :=
  if c = 9 then (m.resultBinding plot u k).map fun b => hopperQ plot (b.1 % 2) (8 + b.2.1)
  else dstQ plot u c

/-- Index values of a walk's levels after `n` iterations, the first level fastest (R130). -/
def walkIdx (d : LoopDesc) : List Nat → Nat → List (Nat × Nat)
  | [], _ => []
  | i :: is, n => (i, n % d.iters i) :: walkIdx d is (n / d.iters i)

def productOf (l : List Nat) : Nat := l.foldl (· * ·) 1

/-- Accesses of one tile, and tiles of a walk. -/
def LoopDesc.accesses (d : LoopDesc) : Nat := productOf (d.sLevels.map d.iters)
def LoopDesc.tiles (d : LoopDesc) : Nat := productOf (d.fLevels.map d.iters)

/-- Index of level `i` in a list of indices. -/
def idxOf (l : List (Nat × Nat)) (i : Nat) : Nat := ((l.find? fun e => e.1 == i).map (·.2)).getD 0

/-- The position of element `e` of the access of a walk's tile `t`, access `a` (R135). -/
def elemPos (b : Binding) (d : LoopDesc) (t a e : Nat) : Nat :=
  let ix := walkIdx d d.fLevels t ++ walkIdx d d.sLevels a
  let lv := (List.range 6).filter fun i => some i != d.requestLevel
  let digit (i : Nat) : Nat := if i = d.vector then idxOf ix i * d.beats * elemsPerBeat d.fmt + e else idxOf ix i
  b.posOff + (lv.map fun i => digit i * productOf ((lv.filter fun j => decide (j < i)).map fun j => d.extent.getD j 1)).foldl (· + ·) 0

/-- The write binding whose walk stores the results of a Furrow Unit, with its Hopper: on the operand path, or at the end of
an OQ's circuit (R121, R122, R168). -/
def Image.resultWalk (m : Image) (d : List W64) (plot u k dst : Nat) : Option (Nat × Binding) :=
  if dst = 9 then (m.resultBinding plot u k).map fun b => (b.1, b.2.2)
  else ((dstQ plot u dst).bind (circuitEnd m)).bind fun e =>
    let unit := e / 32
    let hop := 2 * (unit / 4) + unit % 4 - 2
    if 2048 ≤ unit ∨ unit % 4 < 2 ∨ 4 ≤ e % 32 then none
    else (((List.range 16).filter (passUses d)).map fun j => (m.hopperAt hop).binding j (e % 32)).findSome? fun b =>
      if b.en && b.write && b.port == 2 then some (hop, b) else none

/-- The position of the element at place `n` of a write binding's walk (R80, R135). -/
def Image.walkPos (m : Image) (b : Nat × Binding) (n : Nat) : Nat :=
  let d := (m.hopperAt b.1).descAt b.2.desc
  let per := d.beats * elemsPerBeat d.fmt
  let a := n / per
  elemPos b.2 d (a / d.accesses) (a % d.accesses) (n % per)

/-- How a unit's results leave: its conversion and step number; the walk that stores them, which numbers their positions;
and whether they go by the operand path. -/
structure OutPlan where
  conv : ConvWord
  step : Nat
  walk : Option (Nat × Binding)
  path : Bool

/-- The position of the element at place `n`: its place in the walk, or without a walk in its own row (R77, R80, assumption
35). -/
def Image.resultPos (m : Image) (o : OutPlan) (n : Nat) : Nat := (o.walk.map fun b => m.walkPos b n).getD n

/-- One result token: its values converted (R82). On the operand path the sideband carries the block scales, on a circuit
the scale tokens do (R157). -/
def convToken (c : ConvWord) (step : Nat) (pos : Nat → Nat) (vs : List LaneVal) (m : Marks) (path : Bool)
    (group : List (List Byte)) : List Token × List (Option ConvEvent) × List (List Byte) :=
  let nums := vs.map (·.num)
  if isMx c.fmt then
    let blocks := (List.range (blocksPerBeat c.fmt)).map fun b =>
      if vs.length ≤ 32 * b then (0, []) else
      convBlock c step ((List.range (min 32 (vs.length - 32 * b))).map fun i => pos (32 * b + i)) ((nums.drop (32 * b)).take 32)
    let es := blocks.flatMap (·.2)
    let sc := blocks.map fun b => BitVec.ofNat 8 b.1
    let t : Token := ⟨mkHdr 0 m vs.length c.fmt, packBeat c.fmt (es.map (·.bits)), if path then BitVec.ofNat 32 (leNat sc) else 0⟩
    let r := if path then ([t], []) else groupTokens c.fmt group t sc
    (r.1, es.map (·.ev), r.2)
  else
    let es := List.zipWith (fun v i => if c.fmt = 0xC ∧ v.fmt = 0xC then
        (⟨v.bits, if v.num.isNan then some ConvEvent.nan else none⟩ : Conv) else convElem c step (pos i) v.num) vs (List.range vs.length)
    ([⟨mkHdr 0 m vs.length c.fmt, packBeat c.fmt (es.map (·.bits)), 0⟩], es.map (·.ev), [])

/-- What leaves a unit for its result queue: the tokens, the events, and the pipeline after it. -/
structure Emission where
  toks : List Token
  evs : List (Option ConvEvent)
  pipe : PipeSt

/-- Closes full tokens, and at an end mark the open one (R154). A token of a walk takes a beat's places; without a walk the
places begin anew with each row. -/
def closeToks (im : Image) (o : OutPlan) (m : Marks) : Nat → List LaneVal → Emission → Emission
  | 0, _, e => e
  | n + 1, vs, e =>
    let ev := elemsPerBeat o.conv.fmt
    let ends := m.chE || m.rowE
    let final := ends && decide (vs.length ≤ ev)
    if vs.length < ev ∧ !final then { e with pipe := { e.pipe with outVals := vs } }
    else
      let st := e.pipe.outMarks
      let tm : Marks := ⟨st.chS, final && m.chE, st.rowS, final && m.rowE⟩
      let p := if o.walk.isNone && st.rowS then 0 else e.pipe.outPos
      let r := convToken o.conv o.step (fun i => im.resultPos o (p + i)) (vs.take ev) tm o.path e.pipe.group
      let e : Emission := ⟨e.toks ++ r.1, e.evs ++ r.2.1,
        { e.pipe with outVals := [], outMarks := .none, group := r.2.2, outPos := if o.walk.isSome then p + ev else p + (vs.take ev).length }⟩
      if final then e else closeToks im o m n (vs.drop ev) e

/-- How the results of a Furrow Unit leave in a Pass. -/
def State.outPlan (s : State) (p : PassSt) (plot u : Nat) : OutPlan :=
  let k := passStage p.desc plot
  let dst := bitsOf (s.lit.furrowAt (2 * plot + u)).port 25 4
  ⟨ConvWord.ofWord (passOcw p.desc k), s.get STEP_NUM.STEP, s.lit.resultWalk p.desc plot u k dst, dst == 9⟩

/-- Values that reach the output conversion of a Furrow Unit. -/
def State.emit (s : State) (p : PassSt) (plot u : Nat) (pipe : PipeSt) (vs : List LaneVal) (m : Marks) : Emission :=
  let pipe := { pipe with outMarks := ⟨pipe.outMarks.chS || m.chS, false, pipe.outMarks.rowS || m.rowS, false⟩ }
  closeToks s.lit (s.outPlan p plot u) m (vs.length + 2) (pipe.outVals ++ vs) ⟨[], [], pipe⟩

/-- Delivers an emission: `none` while its queue lacks credits. -/
def State.deliverOut (s : State) (p : PassSt) (plot u dst : Nat) (e : Emission) : Option State :=
  match s.lit.destQ plot u (passStage p.desc plot) dst with
  | none => if e.toks.isEmpty then some (s.setPipe (2 * plot + u) e.pipe) else none
  | some q =>
    if s.credits q < e.toks.length then none
    else
      let s := (s.setPipe (2 * plot + u) e.pipe).each e.toks fun s t => s.push q t
      some (s.countPass p.pseq fun c => c.addEvents e.evs)

/-! ### Firing the pipeline (R54, R173) -/

/-- The sources of roles 0 to 4: A, B, C, MASK and DEN. -/
def State.roleQ (s : State) (plot u r : Nat) : Option QId :=
  srcQ plot u (bitsOf (s.lit.furrowAt (2 * plot + u)).port (5 * r) 5) r

/-- The bound roles among A, B and C. -/
def State.boundRoles (s : State) (plot u : Nat) : List (Nat × QId) :=
  [0, 1, 2].filterMap fun r => (s.roleQ plot u r).map fun q => (r, q)

/-- Rows in the Lantern's buffer: complete ones, and the one that drains (R111). -/
def rowsWaiting (p : PipeSt) : Nat := (p.lin.filter fun b => b.marks.rowE).length + bit !p.drain.isEmpty

/-- The tokens that join a stage-6 result at the Lantern: MASK in every cycle under MASK_EN, DEN in the first of a row under
DEN_SRC; `none` while one is missing (R90, R173). -/
def State.lanternSide (s : State) (plot u : Nat) (w : W64) (opens : Bool) : Option (Option Token × Option Token) :=
  let take (b : Bool) (r : Nat) : Option (Option Token) := if b then ((s.roleQ plot u r).bind s.headScaled).map some else some none
  (take (bitOf w 7) 3).bind fun m => (take (bitOf w 8 && opens) 4).map fun d => (m, d)

/-- Retires the head of a role's queue, when the role gave a token. -/
def State.takeSide (s : State) (plot u r : Nat) (t : Option Token) : State :=
  match t, s.roleQ plot u r with
  | some _, some q => s.retireHead q
  | _, _ => s

/-- A stage-6 result enters the Lantern, joined with its side inputs; `none` while it cannot. `raw` are the marks of the
firing, `m` those that go with the result. Elements that arrive before any row-start mark open a row too (R91, assumption
62). -/
def State.lanternTake (s : State) (plot u : Nat) (w : W64) (pipe : PipeSt) (vs : List LaneVal) (raw m : Marks) : Option State :=
  (s.lanternSide plot u w (!pipe.rowOpen || raw.rowS)).map fun side =>
    let s := (s.takeSide plot u 3 side.1).takeSide plot u 4 side.2
    let s := s.steerFault plot (bit ((side.1.map fun t => t.marks != raw).getD false))
    let pipe := { pipe with rowOpen := !m.rowE, dens := pipe.dens ++ side.2.toList }
    let mask := (side.1.map fun t => payBits t.payload 0 32).getD 0
    s.setPipe (2 * plot + u) (if vs.isEmpty && !m.rowE then { pipe with inMarks := m }
      else { pipe with inMarks := .none, lin := pipe.lin ++ [⟨vs.map (·.tallow), mask, m⟩] })

/-- The values and marks of one cycle leave stage 6 (R55): to the Lantern, or to the output conversion, which waits where no
Pass holds the unit (R216). -/
def State.stage6Out (s : State) (plot u : Nat) (cfg : FurrowCfg) (pipe : PipeSt) (result : Bool) (vs : List LaneVal) (raw m : Marks) :
    Option State :=
  let lan := bitOf (cfg.stages.getD 5 0) 22
  if lan && bitsOf cfg.lantern 0 3 != 0 && decide (2 ≤ rowsWaiting pipe) then none
  else if !result || (!lan && vs.isEmpty && !m.rowE && !m.chE) then some (s.setPipe (2 * plot + u) { pipe with inMarks := m })
  else if lan then s.lanternTake plot u cfg.lantern pipe vs raw m
  else
    let pipe := { pipe with inMarks := .none }
    match s.passAt plot with
    | some p => s.deliverOut p plot u (bitsOf cfg.port 25 4) (s.emit p plot u pipe vs m)
    | none => some (s.setPipe (2 * plot + u) { pipe with held := some (vs, m) })

/-- A held result goes to its output conversion once a Pass holds the unit (R216); `none` while it waits. -/
def State.releaseHeld (s : State) (plot u : Nat) : Option State :=
  let pipe := s.pipe (2 * plot + u)
  match pipe.held with
  | none => some s
  | some (vs, m) => (s.passAt plot).bind fun p =>
    s.deliverOut p plot u (bitsOf (s.lit.furrowAt (2 * plot + u)).port 25 4) (s.emit p plot u { pipe with held := none } vs m)

/-- One firing of a Furrow Unit's pipeline: the bound roles join, and the marks of the first act (R173, R174); `none` while it
cannot fire. A unit without DOT stages passes chain marks on; with one, its chains end here. A token without CH_S that comes
while no chain is open starts one, and CH_S in an open chain starts it anew (assumption 62). -/
def State.pipelineFire (s : State) (plot u : Nat) (feed : FurrowFeed) : Option State :=
  let cfg := s.lit.furrowAt (2 * plot + u)
  let roles := s.boundRoles plot u
  let dots := (List.range 6).filter fun k => bitsOf (cfg.stages.getD k 0) 0 2 == 0
  match roles.mapM (fun r => (s.headScaled r.2).map fun t => (r.1, t)) with
  | some ((r0, t0) :: ts) =>
    if cfg.idlePipe || !feedOk cfg dots feed then none
    else
      let tok (r : Nat) : Option Token := (((r0, t0) :: ts).find? fun t => t.1 == r).map (·.2)
      let m := t0.marks
      let pipe := s.pipe (2 * plot + u)
      let out := runStages cfg ⟨tok 0, tok 1, tok 2⟩ feed dots (m.chS || !pipe.chainOpen) m.chE 6 0 [] pipe.chain
      let pipe := if dots.isEmpty then pipe else { pipe with chain := if m.chE then .none else out.2, chainOpen := !m.chE }
      let chS := dots.isEmpty && (m.chS || pipe.inMarks.chS)
      let om : Marks := ⟨chS, dots.isEmpty && m.chE, m.rowS || pipe.inMarks.rowS, m.rowE⟩
      (s.stage6Out plot u cfg pipe (dots.isEmpty || m.chE) (out.1.filterMap id) m om).map fun s =>
        let s := s.each roles fun s r => s.retireHead r.2
        s.steerFault plot (bit (ts.any fun t => t.2.marks != m))
  | _ => none

/-- FURROW_FIRE: results that wait for their Pass leave first (R216), then the pipeline fires. How it takes chains that are not
marked as R67 has them is the model's choice, at State.pipelineFire (assumption 62). -/
def State.furrowFire (s : State) (plot u : Nat) (feed : FurrowFeed) : State :=
  match s.releaseHeld plot u with
  | none => s
  | some s => (s.pipelineFire plot u feed).getD s

def execFurrowFire (plot : BitVec 9) (unit : Bool) (feed : FurrowFeed) (s : State) : Host.Outcome State Fault Refusal :=
  .next (if s.fieldRuns then s.furrowFire plot.toNat (bit unit) feed else s)

/-! ### The Lantern -/

/-- The beats of the first row that waits, and those behind it: elements that came before any row-start mark are of the row
(R91, assumption 62). -/
def rowSplit : List LBeat → Option (List LBeat × List LBeat)
  | [] => none
  | b :: bs => if b.marks.rowE then some ([b], bs) else (rowSplit bs).map fun r => (b :: r.1, r.2)

/-- The Lantern of a unit fires when its word has the operation named and a Pass holds the plot. -/
def State.lantern (s : State) (plot : BitVec 9) (unit : Bool) (op : Nat) (fire : PassSt → Nat → Nat → W64 → State) : State :=
  let pl := plot.toNat
  let u := bit unit
  let cfg := s.lit.furrowAt (2 * pl + u)
  match s.passAt pl with
  | none => s
  | some p =>
    if s.fieldRuns && bitOf (cfg.stages.getD 5 0) 22 && bitsOf cfg.lantern 0 3 == op then fire p pl u cfg.lantern else s

/-- The status token of a row (R110). -/
def statusToken (st : RowStatus) : Token := ⟨mkHdr 0 ⟨false, false, true, true⟩ 1 0xB, BitVec.ofNat 512 st.word, 0⟩

/-- A row's token of 32 lanes: the given ones, then +0 (R100, R103, R108). -/
def lanes32 (l : List Tallow) : List Tallow := l ++ List.replicate (32 - l.length) 0

/-- Writes waiting tokens in order while their queues have credit. -/
def State.pumpTokens (s : State) : List (Nat × Token) → State × List (Nat × Token)
  | [] => (s, [])
  | e :: es => if s.canPush e.1 then (s.push e.1 e.2).pumpTokens es else (s, e :: es)

/-- The row that drains delivers what its queues have credit for (R111). -/
def State.lanternPump (s : State) (unit : Nat) : State :=
  let pipe := s.pipe unit
  if pipe.drain.isEmpty then s
  else
    let r := s.pumpTokens pipe.drain
    r.1.setPipe unit { pipe with drain := r.2 }

/-- A row's results pass the output conversion and begin to drain, with the status token after them under STATUS_EN (R110);
`one` says that they are the lanes of one token (R100, R103, R108). -/
def State.lanternOut (s : State) (p : PassSt) (plot u : Nat) (w : W64) (one : Bool) (pipe : PipeSt) (vs : List Tallow)
    (st : RowStatus) : State :=
  let port := (s.lit.furrowAt (2 * plot + u)).port
  let stage := passStage p.desc plot
  match s.lit.destQ plot u stage (bitsOf port 25 4) with
  | none => s
  | some q =>
    let vs := if one then (lanes32 vs).take (elemsPerBeat (bitsOf (passOcw p.desc stage) 0 4)) else vs
    let e := s.emit p plot u pipe (vs.map .ofT) ⟨false, false, true, true⟩
    let stat := if bitOf w 9 then ((s.lit.destQ plot u stage (bitsOf port 29 4)).map fun q => (q, statusToken st)).toList else []
    let s := s.setPipe (2 * plot + u) { e.pipe with drain := e.toks.map (fun t => (q, t)) ++ stat }
    (s.countPass p.pseq fun c => c.addEvents e.evs).lanternPump (2 * plot + u)

/-- Every Lantern whose row drains delivers what it can (R111). -/
def State.lanternDrains (s : State) : State :=
  if s.fieldRuns then s.each (s.field.pipes.map (·.1)) State.lanternPump else s

/-- FUNC: one cycle's values (R92 to R95). -/
def State.lanternFuncFire (s : State) (p : PassSt) (plot u : Nat) (w : W64) : State :=
  let pipe := s.pipe (2 * plot + u)
  match pipe.lin with
  | [] => s
  | b :: bs =>
    let e := s.emit p plot u { pipe with lin := bs } (b.vals.map fun v => .ofT (lanternFunc (bitsOf w 3 4) v)) b.marks
    (s.deliverOut p plot u (bitsOf (s.lit.furrowAt (2 * plot + u)).port 25 4) e).getD s

def execLanternFunc (plot : BitVec 9) (unit : Bool) (s : State) : Host.Outcome State Fault Refusal :=
  .next (s.lantern plot unit 0 s.lanternFuncFire)

/-- The next whole row of the Lantern, once the one before it has drained: `f` gives its results from the row and its
denominator token. -/
def State.rowFire (s : State) (one : Bool) (f : List LBeat → Option Token → List Tallow × RowStatus) (p : PassSt) (plot u : Nat)
    (w : W64) : State :=
  let s := s.lanternPump (2 * plot + u)
  let pipe := s.pipe (2 * plot + u)
  match pipe.drain, rowSplit pipe.lin with
  | [], some (row, rest) =>
    let den := if bitOf w 8 then pipe.dens.head? else none
    let r := f row den
    s.lanternOut p plot u w one { pipe with lin := rest, dens := if bitOf w 8 then pipe.dens.tail else pipe.dens } r.1 r.2
  | _, _ => s

def rowValuesOf (row : List LBeat) : List Tallow := row.flatMap (·.vals)

/-- A row's elements with their mask bits. -/
def maskedRow (row : List LBeat) : List RowElem :=
  row.flatMap fun b => b.vals.zipIdx.map fun v => (v.1, decide (b.mask / 2 ^ v.2 % 2 = 1))

/-- STATS of a row, in the mode that the image has latched (R98, R103, R114). -/
def statsOut (compat : Bool) (row : List LBeat) : List Tallow × RowStatus :=
  let r := if compat then statsCompat (rowValuesOf row) else statsRow (rowValuesOf row)
  ([r.1, r.2.1], r.2.2)

/-- STATS_MERGE of a row of tokens (R100). -/
def mergeOut (row : List LBeat) : List Tallow × RowStatus :=
  let r := statsMergeRow (row.map fun b => (b.vals.getD 0 0, b.vals.getD 1 0, b.vals.getD 2 0))
  ([r.1, r.2.1], r.2.2)

/-- SOFTMAX of a row (R104 to R109, R113). -/
def softmaxOut (compat maskEn : Bool) (row : List LBeat) (den : Option Token) : List Tallow × RowStatus :=
  if compat then softmaxCompat maskEn (maskedRow row)
  else softmaxRow maskEn (den.map fun t => roundT (beatNum t.fmt t.payload t.side 0)) (maskedRow row)

/-- EXPSUM of a row (R108). -/
def expsumOut (maskEn : Bool) (row : List LBeat) : List Tallow × RowStatus :=
  let r := expsumRow maskEn (maskedRow row)
  ([r.1], r.2)

def execLanternStatsRow (plot : BitVec 9) (unit : Bool) (s : State) : Host.Outcome State Fault Refusal :=
  .next (s.lantern plot unit 1 (s.rowFire true fun row _ => statsOut s.lit.compat row))

def execStatsPart (plot : BitVec 9) (unit : Bool) (s : State) : Host.Outcome State Fault Refusal :=
  .next (s.lantern plot unit 4 (s.rowFire true fun row _ => statsPartRow (rowValuesOf row)))

def execStatsMerge (plot : BitVec 9) (unit : Bool) (s : State) : Host.Outcome State Fault Refusal :=
  .next (s.lantern plot unit 5 (s.rowFire true fun row _ => mergeOut row))

def execLanternSoftmaxRow (plot : BitVec 9) (unit : Bool) (s : State) : Host.Outcome State Fault Refusal :=
  .next (s.lantern plot unit 2 fun p pl u w => s.rowFire false (softmaxOut s.lit.compat (bitOf w 7)) p pl u w)

def execLanternExpsumRow (plot : BitVec 9) (unit : Bool) (s : State) : Host.Outcome State Fault Refusal :=
  .next (s.lantern plot unit 3 fun p pl u w => s.rowFire true (fun row _ => expsumOut (bitOf w 7) row) p pl u w)

end Sys2Proof.Machine
end

