-- ==== Sys2Proof/Machine/Hopper.lean ====
section
/-!
DEFINITION. Address generators (R115 to R152): the walk of a loop nest, far tiles, index and page translation, masks,
hand-over rings, and tree masks.
-/
namespace Sys2Proof.Machine

/-- What an address generator runs: its key `4 * Hopper + AG`, its Hopper, generator number, Pass, stage, binding and
descriptor. -/
structure AgRun where
  key : Nat
  hop : Nat
  g : Nat
  pass : PassSt
  b : Binding
  d : LoopDesc
  st : AgSt
  deriving DecidableEq, Repr

/-- The running generator, if it walks for a Pass in flight. -/
def State.agRun (s : State) (plot : BitVec 9) (unit : Bool) (ag : BitVec 2) : Option AgRun :=
  let hop := 2 * plot.toNat + bit unit
  let key := 4 * hop + ag.toNat
  let st := s.ag key
  if !st.running || st.ended || !s.fieldRuns then none
  else (s.sched.inflight.find? fun p => p.pseq == st.pseq).map fun p =>
    let b := (s.lit.hopperAt hop).binding st.stage ag.toNat
    ⟨key, hop, ag.toNat, p, b, (s.lit.hopperAt hop).descAt b.desc, st⟩

/-! ### Seedbed words of a Hopper (R115, R116) -/

/-- The Seedbed offset of a byte of a Hopper. -/
def AgRun.at (r : AgRun) (off : Nat) : Nat := r.hop * 2 ^ 20 + off

/-- A little-endian number in a Hopper's Seedbed, as a read delivers it. -/
def State.hopNat (s : State) (r : AgRun) (off n : Nat) : Nat := leNat (s.seedbed.read 8 (r.at off) n)

/-- A generator's own read of `n` bytes, whose uncorrectable words are reported (R117, R145). -/
def State.hopRead (s : State) (r : AgRun) (off n : Nat) : State := (s.readErrors (s.gaddr 0 (r.at off)) n true).1

/-- Event counts of the generator's Pass. -/
def State.agCount (s : State) (r : AgRun) (f : PassCnt → PassCnt) : State := s.countPass r.pass.pseq f

/-- What the code check of a Seedbed read finds (R117): corrected errors count in the Pass's record. -/
def State.sbCode (s : State) (r : AgRun) (o : Nat) (code : CodeResult) : State :=
  match code with
  | .one _ => s.agCount r fun c => { c with sbCe := c.sbCe + 1 }
  | .two => s.agCount r fun c => { c with sbCe := c.sbCe + 1 }
  | .ue => s.spoil (s.gaddr 0 (r.at o))
  | _ => s

/-! ### Indices and pages (R139 to R145) -/

/-- Index of level `i` in tile `t` and access `a`. -/
def AgRun.idx (r : AgRun) (t a i : Nat) : Nat := idxOf (walkIdx r.d r.d.fLevels t ++ walkIdx r.d r.d.sLevels a) i

/-- Entry `k` of the index buffer. -/
def State.indexEntry (s : State) (r : AgRun) (k : Nat) : Int := sext 32 (s.hopNat r (64 * r.b.idxLine + 4 * k) 4)

/-- What a level contributes to an address: its index times its stride, with index values for the indexed level. -/
def State.levelOff (s : State) (r : AgRun) (t a i : Nat) : Int :=
  let k := r.idx t a i
  let v : Int := if r.d.kind = 1 ∧ r.d.indexedLevel = some i then s.indexEntry r k else k
  v * r.d.stride.getD i 0

def sumI (l : List Int) : Int := l.foldl (· + ·) 0

/-- Whether an index value masks its iteration, and whether it counts as an index fault (R140). -/
def State.indexMasks (s : State) (r : AgRun) (t a : Nat) : Bool × Bool :=
  if r.d.kind ≠ 1 then (false, false)
  else match r.d.indexedLevel with
    | none => (false, false)
    | some i =>
      let v := s.indexEntry r (r.idx t a i)
      (decide (v < 0 ∨ (r.d.limit1 : Int) ≤ v), decide ((v < 0 ∧ v ≠ -1) ∨ (r.d.limit1 : Int) ≤ v))

/-- The page-table row of a request row: its offset, and its length word (R143). -/
def AgRun.pageRow (r : AgRun) (row : Nat) : Nat := 64 * r.b.idxLine + row * 8 * (r.d.limit1 + 1)
def State.pageLength (s : State) (r : AgRun) (row : Nat) : Nat := s.hopNat r (r.pageRow row) 8

/-- Request row and page index of tile `t` of a KIND PAGED walk. -/
def AgRun.pageAt (r : AgRun) (t : Nat) : Nat × Nat :=
  (r.idx t 0 (r.d.requestLevel.getD 0), r.idx t 0 (r.d.pagedLevel.getD 0))

/-- The page entry of tile `t`; `none` when it translates to nothing (R144). -/
def State.kvEntry (s : State) (r : AgRun) (t : Nat) : Option Nat :=
  let (row, k) := r.pageAt t
  if r.d.limit1 ≤ k then none
  else
    let e := s.hopNat r (r.pageRow row + 8 * (k + 1)) 8
    if e / 2 ^ 63 = 1 ∧ e / 2 ^ 42 % 4 = 1 then some (e % 2 ^ 42) else none

/-! ### Masks (R133, R134) -/

/-- The mixed-radix position of constraint `c` for element `e` of access `a` of tile `t`. -/
def AgRun.constraint (r : AgRun) (c t a e : Nat) : Nat :=
  let lv := (List.range 6).filter fun i => r.d.mask.getD i 0 == c
  let digit (i : Nat) : Nat :=
    if i = r.d.vector then r.idx t a i * r.d.beats * elemsPerBeat r.d.fmt + e else r.idx t a i
  (lv.map fun i => digit i * productOf ((lv.filter fun j => decide (j < i)).map fun j => r.d.extent.getD j 1)).foldl (· + ·) 0

/-- LIMIT of a constraint; a paged walk takes constraint 0's from the row's length word, which it has read once (R143,
R145). -/
def State.limitOf (s : State) (r : AgRun) (c t : Nat) : Nat :=
  if c = 2 then r.d.limit1
  else if r.d.kind = 2 then KMap.get (fun row => s.pageLength r row) r.st.lens (r.pageAt t).1
  else r.d.limit0

/-- Whether element `e` of access `a` of tile `t` is masked by extents, rows and limits (R133). -/
def State.elemLimited (s : State) (r : AgRun) (t a e : Nat) : Bool :=
  let v := r.idx t a r.d.vector * r.d.beats * elemsPerBeat r.d.fmt + e
  decide (r.d.extent.getD r.d.vector 1 ≤ v) ||
  (match r.d.requestLevel with
   | some i => !passRowActive r.pass.desc (if i = r.d.vector then v else r.idx t a i)
   | none => false) ||
  ([1, 2].any fun c => r.d.mask.contains c && decide (s.limitOf r c t ≤ r.constraint c t a e))

/-- Whether a tile holds an element that its limits leave unmasked: elements are masked from the end (R134). -/
def State.tileInLimits (s : State) (r : AgRun) (t : Nat) : Bool :=
  (List.range r.d.accesses).any fun a => !s.elemLimited r t a 0

/-- The same, with the iterations that an index value masks (R140). -/
def State.tileHolds (s : State) (r : AgRun) (t : Nat) : Bool :=
  (List.range r.d.accesses).any fun a => !s.elemLimited r t a 0 && !(s.indexMasks r t a).1

/-- A translation fault of tile `t` (R144). -/
def State.tileFaults (s : State) (r : AgRun) (t : Nat) : Bool :=
  r.d.kind == 2 && s.tileHolds r t && (s.kvEntry r t).isNone

/-- Whether element `e` of access `a` of tile `t` is masked; a tile with a translation fault is, wholly (R133, R140,
R144). -/
def State.elemMasked (s : State) (r : AgRun) (t a e : Nat) : Bool :=
  s.elemLimited r t a e || (s.indexMasks r t a).1 || s.tileFaults r t

/-- Unmasked elements of an access, which form a prefix (R134). -/
def State.validOf (s : State) (r : AgRun) (t a : Nat) : Nat :=
  if (s.indexMasks r t a).1 || s.tileFaults r t then 0
  else ((List.range (r.d.beats * elemsPerBeat r.d.fmt)).takeWhile fun e => !s.elemLimited r t a e).length

/-- A tile in which every element is masked, a translation fault included: it is neither fetched nor translated
(R132, R144). -/
def State.tileMasked (s : State) (r : AgRun) (t : Nat) : Bool := !s.tileHolds r t || s.tileFaults r t

/-! ### Far addresses (R130, R131, R136, R142) -/

/-- The slot of a tile. -/
def AgRun.slot (r : AgRun) (t : Nat) : Nat := if r.d.tileLines = 0 then 0 else t % 2

/-- The distance of tile `t` from `base + FAR_OFF`. -/
def State.farOff (s : State) (r : AgRun) (t : Nat) : Int :=
  sumI ((r.d.fLevels.filter fun i => r.d.kind != 2 || (some i != r.d.pagedLevel && some i != r.d.requestLevel)).map
    fun i => s.levelOff r t 0 i) + (if r.d.kind = 2 then ((s.kvEntry r t).getD 0 : Nat) else 0)

/-- The global fabric address at a signed distance from the far base; pages lie in this chip's Topsoil (R142, R143). -/
def State.farAddr (s : State) (r : AgRun) (off : Int) : Nat :=
  let base : Int := ((passBase r.pass.desc r.b.baseSel).toNat : Int)
  if r.d.kind = 2 then s.gaddr 1 (wrapI 42 (base + off)) else wrapI 64 (base + off)

/-- The element and scale address of tile `t`. -/
def State.tileAddr (s : State) (r : AgRun) (t : Nat) : Nat := s.farAddr r (r.b.farOff + s.farOff r t)
def State.tileScaleAddr (s : State) (r : AgRun) (t : Nat) : Nat :=
  s.farAddr r (r.b.farScaleOff + s.farOff r t / 64 * blocksPerBeat r.d.fmt)

/-- Bytes of a tile's elements and scales, and where they lie in the Hopper. -/
def AgRun.tileBytes (r : AgRun) : Nat := 64 * r.d.tileLines
def AgRun.scaleBytes (r : AgRun) : Nat := if isMx r.d.fmt then r.d.tileLines * blocksPerBeat r.d.fmt else 0
def AgRun.slotOff (r : AgRun) (t : Nat) : Nat := 64 * r.b.sbBase + r.slot t * r.tileBytes
def AgRun.scaleOff (r : AgRun) (t : Nat) : Nat := 64 * r.b.sbScale + r.slot t * r.scaleBytes

/-! ### State updates -/

/-- Whether generator `key` has walked and drained everything (R217). -/
def AgRun.finished (r : AgRun) (st : AgSt) : Bool :=
  decide (r.d.tiles ≤ st.t) && (!(r.b.far && r.b.write) || decide (r.d.tiles ≤ st.far))

/-- Stores the walk's state, ended when nothing is left. -/
def State.putAg (s : State) (r : AgRun) (st : AgSt) : State := s.setAg r.key { st with ended := r.finished st }

/-- The ring slot of tile `t` (R150). -/
def AgRun.ringKey (r : AgRun) (t : Nat) : Nat := 2 * (16384 * r.hop + r.b.sbBase) + r.slot t

/-- The generators that read the ring in the Pass (R151). -/
def State.ringReaders (s : State) (r : AgRun) : List Nat :=
  ((passBindings (s.lit.hopperAt r.hop) r.pass.desc).filter fun e =>
    isRing e.2.2.1 e.2.2.2 && !e.2.2.1.write && e.2.2.1.sbBase == r.b.sbBase).map fun e => e.2.1

/-- The end of an S walk of a ring tile (R151). -/
def State.ringEnd (s : State) (r : AgRun) : State :=
  if !isRing r.b r.d then s
  else
    let k := r.ringKey r.st.t
    let v := s.ring k
    if r.b.write then s.setRing k ⟨true, []⟩
    else
      let done := v.done ++ [r.g]
      if (s.ringReaders r).all fun g => done.contains g then s.setRing k .empty else s.setRing k ⟨true, done⟩

/-! ### Far tiles (R131, R132, R227) -/

/-- The next tile to fetch or drain: fully masked tiles are passed over on a read, tiles without stores on a write. -/
def State.nextFar (s : State) (r : AgRun) : Nat → Nat → Nat
  | 0, n => n
  | fuel + 1, n =>
    if r.b.write then
      if n < r.st.t ∧ (if n % 2 = 0 ∨ r.d.tileLines = 0 then r.st.stored0 else r.st.stored1) = [] then s.nextFar r fuel (n + 1) else n
    else if n < r.d.tiles ∧ s.tileMasked r n then s.nextFar r fuel (n + 1) else n

/-- Whether an address names Commons space. -/
def State.isCommons (s : State) (a : Nat) : Bool :=
  match s.locate a with
  | .commons _ _ _ => true
  | _ => false

/-- Whether an access to far bytes is refused, with its record: a refusal of the range list or of a Commons access without
a grant, or of the address itself (R10, R318, R322, R467). -/
def State.farRefused (s : State) (write : Bool) (a n : Nat) : Option State :=
  if s.rangeRefuses write a n || s.isCommons a && s.accessRefused write a n then some (s.stepRefusal 8 a)
  else if s.accessRefused write a n then some ((s.addrFault 8 a).charge 1)
  else none

/-- Copies far bytes into the Hopper: zeros where the access is refused. -/
def State.tileIn (s : State) (r : AgRun) (a n off : Nat) (remote : List Byte) (feed : CodeResult) : State :=
  if n = 0 then s
  else match s.farRefused false a n with
    | some s => s.pokeAt (s.gaddr 0 (r.at off)) (List.replicate n 0)
    | none =>
      let x := s.readAny (some (.tile r.key)) a n .clean true remote
      if feedBad feed then (x.1.pokeAt (x.1.gaddr 0 (r.at off)) (x.1.freeBytes n)).drawn
      else x.1.pokeAt (x.1.gaddr 0 (r.at off)) x.2.1

/-- The stored bytes of a slot that lie in `[lo, lo + n)`, as distances. -/
def storedIn (l : List Nat) (lo n : Nat) : List Nat := (l.filter fun o => decide (lo ≤ o ∧ o < lo + n)).map fun o => o - lo

/-- Writes some bytes of the line at an address: under byte enables in this chip's tiers, and in the Commons the whole
line, encrypted, with `old` for the bytes that stay (R132, R322, assumption 58). -/
def State.lineOut (s : State) (r : AgRun) (a : Nat) (bs : List (Nat × Byte)) (old : List Byte) : State :=
  match s.locate a with
  | .top o => s.topWriteSome (o / 64) bs
  | .sub o => s.subWriteSome (o / 64) bs
  | .commons _ _ _ =>
    let own : Option Owner := some (.tile r.key)
    let x := if bs.length = 64 then (s, [], false) else s.readAny own a 64 .clean true old
    let line := (List.range 64).map fun i => ((bs.find? fun b => b.1 == i).map (·.2)).getD (x.2.1.getD i 0)
    x.1.writeAny (.commonsWrite own) a line
  | _ => s

/-- Drains stored bytes to the far tier, line by line (R132); `remote` holds the lines as the Commons hold them. -/
def State.tileOut (s : State) (r : AgRun) (a off n : Nat) (l : List Nat) (remote : List Byte) : State :=
  let ds := distinct (storedIn l off n)
  if ds.isEmpty then s
  else match s.farRefused true a n with
    | some s => s
    | none =>
      let s := s.each (distinct (ds.map fun d => (off + d) / 8)) fun s w => s.hopRead r (8 * w) 8
      -- scale bytes may begin inside a line of the far tier
      s.each (distinct (ds.map fun d => (a + d) / 64)) fun s k =>
        let here := ds.filter fun d => decide ((a + d) / 64 = k)
        s.lineOut r (64 * k) (here.map fun d => ((a + d) % 64, s.seedbed.byte 8 (r.at (off + d)))) (remote.drop (64 * (k - a / 64)))

/-- Reads the page entry of tile `n` (R145). -/
def State.pageRead (s : State) (r : AgRun) (n : Nat) : State :=
  let (row, k) := r.pageAt n
  if r.d.kind = 2 ∧ k < r.d.limit1 then s.hopRead r (r.pageRow row + 8 * (k + 1)) 8 else s

/-- Reads the length word of a tile's request row, once (R145). -/
def State.lengthRead (s : State) (r : AgRun) (n : Nat) : State × AgRun :=
  let row := (r.pageAt n).1
  if r.d.kind ≠ 2 ∨ r.st.lens.any (fun e => e.1 == row) then (s, r)
  else (s.hopRead r (r.pageRow row) 8, { r with st := { r.st with lens := KMap.insert r.st.lens row (s.pageLength r row) } })

/-- The transfer of far tile `n`, once it holds its scoreboard entry: `code` is what the bank reads of its page entry or its
drained lines find. Its entry retires when the transfer is acknowledged (R227). -/
def State.tileMove (s : State) (r : AgRun) (n : Nat) (remote : List Byte) (code feed : CodeResult) : State :=
  let a := s.tileAddr r n
  let c := s.tileScaleAddr r n
  let s := if r.b.write then s.sbCode r (r.slotOff n) code
    else (s.sbCode r (r.pageRow (r.pageAt n).1 + 8 * ((r.pageAt n).2 + 1)) (if r.d.kind = 2 then code else .clean)).pageRead r n
  let s := if feedBad feed then s.feedError r.hop else s
  let s := if r.b.write then
      let l := if r.slot n = 0 then r.st.stored0 else r.st.stored1
      (s.tileOut r a (r.slotOff n) r.tileBytes l remote).tileOut r c (r.scaleOff n) r.scaleBytes l (remote.drop r.tileBytes)
    else (s.tileIn r a r.tileBytes (r.slotOff n) remote feed).tileIn r c r.scaleBytes (r.scaleOff n) (remote.drop r.tileBytes) feed
  let st := { r.st with far := n + 1, wait := 0 }
  let st := if r.b.write then (if r.slot n = 0 then { st with stored0 := [] } else { st with stored1 := [] }) else st
  (s.putAg r st).ownerDone (.tile r.key)

/-- The next far tile takes its scoreboard entry, or waits for it, and moves (R131, R227, R228). -/
def State.farTile (s : State) (r : AgRun) (remote : List Byte) (code feed : CodeResult) : State :=
  let n := s.nextFar r r.d.tiles r.st.far
  let ready := if r.b.write then decide (n < r.st.t) else decide (n < r.d.tiles ∧ n ≤ r.st.t + 1)
  let a := s.tileAddr r n
  if !r.b.far || r.d.kind == 3 || s.ownerPending (.tile r.key) then s
  else if !ready then s.putAg r { r.st with far := n }
  else if r.b.write && s.writeWaits a r.tileBytes then s
  else
    let x := s.lengthRead r n
    let s := x.1
    let r := x.2
    let s := if r.st.wait = 0 then s.boardRequest (.tile r.key) r.pass.order (some r.pass.pseq) r.b.write a r.tileBytes else s
    if s.boardHeld (.tile r.key) then s.tileMove r n remote code feed
    else s.setAg r.key { r.st with wait := 1 }

def execFarTileFetch (plot : BitVec 9) (unit : Bool) (ag : BitVec 2) (remote : FarRead) (s : State) :
    Host.Outcome State Fault Refusal :=
  .next (match s.agRun plot unit ag with
    | none => s
    | some r => s.farTile r remote.bytes remote.code remote.feed)

/-! ### Accesses (R130, R134 to R138) -/

/-- Whether the tile of the next access is there (R131, R151). -/
def State.tileReady (s : State) (r : AgRun) : Bool :=
  if r.b.far then
    if r.b.write then decide (r.st.t < r.st.far + 2) else decide (r.st.t < r.st.far) || s.tileMasked r r.st.t
  else if isRing r.b r.d then
    let v := s.ring (r.ringKey r.st.t)
    if r.b.write then !v.full else v.full && !v.done.contains r.g
  else true

/-- The distance of an access from its slot (R130). -/
def State.accessDist (s : State) (r : AgRun) (t a : Nat) : Int := sumI (r.d.sLevels.map fun i => s.levelOff r t a i)

/-- The element-buffer offset of an access (R130), which the loader keeps in the buffer (R128). -/
def State.accessOff (s : State) (r : AgRun) (t a : Nat) : Nat := wrapI 20 ((r.slotOff t : Int) + s.accessDist r t a)

/-- The Hopper offset of the scale of block 0 of a beat of an access at a distance from its slot (R136). -/
def AgRun.beatScaleOff (r : AgRun) (t : Nat) (dist : Int) (beat : Nat) : Nat :=
  wrapI 20 ((r.scaleOff t : Int) + (dist / 64 + beat) * blocksPerBeat r.d.fmt)

/-- The translation fault of a tile, counted when its walk begins (R144). A tile that is drained, or that the fault keeps
from being fetched, has its page entry read here. ERRLOG has no field for the Hopper, the row and the page: ADDR holds them,
at bits [15:0], [31:16] and above (assumption 59). -/
def State.tileCounts (s : State) (r : AgRun) : State :=
  let t := r.st.t
  let s := if s.tileHolds r t && (r.b.write || s.tileFaults r t) then s.pageRead r t else s
  if s.tileFaults r t then
    (s.agCount r fun c => { c with xlateF := c.xlateF + 1 }).errlog
      { cls := 0xA, block := 0x20 + r.hop / 32, plot := r.hop / 2, addr := r.hop + (r.pageAt t).1 * 2 ^ 16 + (r.pageAt t).2 * 2 ^ 32 }
  else s

/-- The index read of an iteration, at its first access, and its fault (R140, R145). A read tile that its limits mask whole
is not indexed (R132). -/
def State.indexCount (s : State) (r : AgRun) : State :=
  match r.d.kind, r.d.indexedLevel with
  | 1, some i =>
    let first := (r.d.fLevels.all fun j => j == i || r.idx r.st.t r.st.si j == 0) &&
      (r.d.sLevels.all fun j => j == i || r.idx r.st.t r.st.si j == 0)
    if !first || !r.b.write && !s.tileInLimits r r.st.t then s
    else
      let s := s.hopRead r (64 * r.b.idxLine + 4 * r.idx r.st.t r.st.si i) 4
      if (s.indexMasks r r.st.t r.st.si).2 then s.agCount r fun c => { c with indexF := c.indexF + 1 } else s
  | _, _ => s

/-- After an access: the next one, or the next tile. -/
def State.agAdvance (s : State) (r : AgRun) (st : AgSt) : State :=
  if st.si + 1 < r.d.accesses then s.putAg r { st with si := st.si + 1 }
  else
    let s := s.ringEnd r
    let st := { st with si := 0, t := st.t + 1 }
    s.putAg r { st with far := if r.b.far && r.b.write then s.nextFar { r with st := st } 2 st.far else st.far }

/-- The queue behind a binding's port (R121, R160). -/
def AgRun.portQ (r : AgRun) : QId := bindPortQ r.hop r.g r.b

/-- The marks of beat `k` of an access. -/
def beatMarks (m : BitVec 4) (k n : Nat) : Marks :=
  ⟨bitOf m 0 && k == 0, bitOf m 1 && k + 1 == n, bitOf m 2 && k == 0, bitOf m 3 && k + 1 == n⟩

/-- The tokens of a read access and the scale group that stays open: a masked beat keeps its place in the group, with zero
scales (R134, R136, R157). -/
def State.readToks (s : State) (r : AgRun) (o : Nat) (dist : Int) (valid : Nat) (marks : BitVec 4) (spoiltBeats : Option (List Byte)) :
    List Token × List (List Byte) :=
  let ev := elemsPerBeat r.d.fmt
  (List.range r.d.beats).foldl (fun (x : List Token × List (List Byte)) k =>
    let n := min ev (valid - k * ev)
    let bs := if valid = 0 then [] else match spoiltBeats with
      | some l => (l.drop (64 * k)).take 64
      | none => s.seedbed.read 8 (r.at (o + 64 * k)) 64
    let sc := if !isMx r.d.fmt then []
      else if valid = 0 then List.replicate (blocksPerBeat r.d.fmt) 0
      else s.seedbed.read 8 (r.at (r.beatScaleOff r.st.t dist k)) (blocksPerBeat r.d.fmt)
    let path := r.b.port != 2
    let t : Token := ⟨mkHdr 0 (beatMarks marks k r.d.beats) n r.d.fmt, payOfBytes bs, if path then BitVec.ofNat 32 (leNat sc) else 0⟩
    if path || !isMx r.d.fmt then (x.1 ++ [t], x.2)
    else
      let y := groupTokens r.d.fmt x.2 t sc
      (x.1 ++ y.1, y.2)) ([], r.st.group)

/-- A read access: its beats go to the port (R134). -/
def State.agReadAccess (s : State) (r : AgRun) (marks : BitVec 4) (code : CodeResult) : State :=
  let valid := s.validOf r r.st.t r.st.si
  let o := s.accessOff r r.st.t r.st.si
  let s1 := if valid = 0 then s else s.sbCode r o code
  let bad := match code with
    | .miscorrected => some (s1.freeBytes (64 * r.d.beats))
    | _ => none
  let dist := s.accessDist r r.st.t r.st.si
  let x := s1.readToks r o dist valid marks bad
  if s.credits r.portQ < x.1.length then s
  else
    let s := if bad.isSome then s1.drawn else s1
    let s := if valid = 0 then s else s.hopRead r o (64 * r.d.beats)
    let s := if valid = 0 ∨ !isMx r.d.fmt then s
      else s.hopRead r (r.beatScaleOff r.st.t dist 0) (r.d.beats * blocksPerBeat r.d.fmt)
    let s := s.each x.1 fun s t => s.push r.portQ t
    s.agAdvance r { r.st with group := x.2 }

/-- A beat as it is stored: bits [127:80] of a Tallow container are zero (R61). -/
def storedPayload (fmt : Nat) (p : Payload) : Payload :=
  if fmt = 0xC then packBeat 0xC ((List.range 4).map fun e => beatElem 0xC p e % 2 ^ 80) else p

/-- Stores the first `n` elements of a beat in the line at `o`, and the scales of its blocks: the bytes written
(R118, R134, R136). -/
def State.storeBeat (s : State) (r : AgRun) (o : Nat) (dist : Int) (beat n : Nat) (t : Token) : State × List Nat :=
  let bits := n * elemBits r.d.fmt
  let nb := cdiv bits 8
  let line := o + 64 * beat
  let old := leNat ((List.range nb).map fun i => s.seedbed.stored (r.at (line + i)))
  let v := (storedPayload r.d.fmt t.payload).toNat % 2 ^ bits + old / 2 ^ bits * 2 ^ bits
  let pad := if 0 < n ∧ (r.d.fmt = 6 ∨ r.d.fmt = 7) then 16 else 0
  let w := r.at line / 8 + bits / 64
  -- a partly stored word that is uncorrectable is reported and not stored (R118, R466)
  let s := if bits % 64 ≠ 0 ∧ s.seedbed.isBad w then s.wordError w else s
  let s := s.pokeAt (s.gaddr 0 (r.at line)) (leBytes nb v)
  let s := if pad = 0 then s else s.pokeAt (s.gaddr 0 (r.at (line + 48))) (List.replicate pad 0)
  let sc := if isMx r.d.fmt then cdiv n 32 else 0
  let so := r.beatScaleOff r.st.t dist beat
  let s := if sc = 0 then s else s.pokeAt (s.gaddr 0 (r.at so)) (leBytes sc t.side.toNat)
  (s, (List.range nb).map (line + ·) ++ (List.range pad).map (line + 48 + ·) ++ (List.range sc).map (so + ·))

/-- The beats that a write access takes from its port: `none` while one is missing. -/
def State.takeBeats (s : State) (q : QId) : Nat → Option (List Token × State)
  | 0 => some ([], s)
  | n + 1 => (s.headScaled q).bind fun t => ((s.retireHead q).takeBeats q n).map fun r => (t :: r.1, r.2)

/-- A write access: it takes a beat for each of its lines and stores the unmasked elements. -/
def State.agWriteAccess (s : State) (r : AgRun) (code : CodeResult) : State :=
  let valid := s.validOf r r.st.t r.st.si
  let o := s.accessOff r r.st.t r.st.si
  match s.takeBeats r.portQ r.d.beats with
  | none => s
  | some (ts, s) =>
    let s := if valid = 0 then s else s.sbCode r o code
    let ev := elemsPerBeat r.d.fmt
    let x := ts.zipIdx.foldl (fun (x : State × List Nat) t =>
      let y := x.1.storeBeat r o (s.accessDist r r.st.t r.st.si) t.2 (min t.1.vcount (min ev (valid - t.2 * ev))) t.1
      (y.1, x.2 ++ y.2)) (s, [])
    let l := if r.b.far then x.2 else []
    let st := if r.slot r.st.t = 0 then { r.st with stored0 := (if r.st.si = 0 then [] else r.st.stored0) ++ l }
      else { r.st with stored1 := (if r.st.si = 0 then [] else r.st.stored1) ++ l }
    x.1.agAdvance r st

def State.agAccess (s : State) (r : AgRun) (marks : BitVec 4) (code : CodeResult) : State :=
  if r.d.kind = 3 ∨ r.d.tiles ≤ r.st.t ∨ !s.tileReady r then s
  else
    let x := s.lengthRead r r.st.t
    let s' := if r.b.write then x.1.agWriteAccess x.2 code else x.1.agReadAccess x.2 marks code
    -- the events of the tile and the iteration, when the access was made
    if s'.ag r.key = r.st then s
    else
      let s' := if r.st.si = 0 then s'.tileCounts x.2 else s'
      s'.indexCount x.2

def execAgAccess (plot : BitVec 9) (unit : Bool) (ag : BitVec 2) (marks : BitVec 4) (code : CodeResult) (s : State) :
    Host.Outcome State Fault Refusal :=
  .next (match s.agRun plot unit ag with
    | none => s
    | some r => s.agAccess r marks code)

/-! ### Tree masks (R146 to R149) -/

/-- The request row of F or S iteration `n` of a TREE walk: the request axis is its only level above 1. -/
def AgRun.treeRow (r : AgRun) : Nat := r.st.t

def AgRun.treeRows (r : AgRun) : Nat := r.d.extent.getD (r.d.requestLevel.getD 0) 1

/-- The ancestor sets of the attached nodes (R147). -/
def ancestors (p : List Int) (depths : List Nat) (n : Nat) : List (List Nat) :=
  (List.range n).foldl (fun acc i =>
    acc ++ [if depths.getD i 0 = 0 then [i] else if i = 0 then [0] else i :: acc.getD (p.getD i 0).toNat []]) []

/-- Mask bit of position `q` in the row of a node with ancestor set `anc`: 0 for the context and for the set (R147); a
detached node's set is itself (R148). -/
def treeBit (anc : List Nat) (len n q : Nat) : Nat :=
  let l := len - n
  if len ≤ q then 1 else if q < l then 0 else if anc.contains (q - l) then 0 else 1

/-- The mask tokens of one node's row. -/
def treeTokens (anc : List Nat) (len n : Nat) : List Token :=
  let c := cdiv len 32
  (List.range c).map fun k =>
    let w := ((List.range 32).map fun b => treeBit anc len n (32 * k + b) * 2 ^ b).foldl (· + ·) 0
    ⟨mkHdr 0 ⟨false, false, k == 0, k + 1 == c⟩ 1 0xB, BitVec.ofNat 512 w, 0⟩

/-- The mask tokens of node `i`, of `n` in a context of length `len`; of a row that is too short, all bits are 1 (R148). -/
def nodeTokens (short : Bool) (anc : List (List Nat)) (len n i : Nat) : List Token :=
  let c := cdiv len 32
  if short then
    (List.range c).map fun k => ⟨mkHdr 0 ⟨false, false, k == 0, k + 1 == c⟩ 1 0xB, BitVec.ofNat 512 (2 ^ 32 - 1), 0⟩
  else treeTokens (anc.getD i []) len n

/-- One request row of a TREE walk: its depths and faults when it begins, then the mask tokens of its next node, as many as
the queue has credits for (R146 to R149). For a row that the Pass marks absent nothing is read, written, counted or sent:
the spec is silent on it (assumption 59). -/
def State.treeMask (s : State) (r : AgRun) (code : CodeResult) : State :=
  let row := r.treeRow
  let parents := treeParents ((List.range 1024).map fun i => s.seedbed.byte 8 (r.at (64 * r.b.idxLine + row * 1024 + i)))
  let n := treeCount parents
  let len := s.hopNat r (64 * r.b.sbScale + row * 8 * (r.d.limit1 + 1)) 8
  let short := decide (len < n)
  let depths := if short then [] else treeDepths parents n
  let anc := ancestors parents depths n
  let active := passRowActive r.pass.desc row
  let next (s : State) (si : Nat) : State :=
    if si < n ∧ active then s.setAg r.key { r.st with si := si, sub := 0 }
    else s.setAg r.key { r.st with si := 0, sub := 0, t := r.st.t + 1, ended := decide (r.treeRows ≤ r.st.t + 1) }
  let start (s : State) : State :=
    if r.st.si ≠ 0 ∨ r.st.sub ≠ 0 ∨ !active then s
    else
      let s := s.sbCode r (64 * r.b.idxLine + row * 1024) code
      let s := (s.hopRead r (64 * r.b.idxLine + row * 1024) 1024).hopRead r (64 * r.b.sbScale + row * 8 * (r.d.limit1 + 1)) 8
      let bytes := (List.range 256).flatMap fun i => leBytes 4 (if i < n then depths.getD i 0 else 0)
      let s := s.pokeAt (s.gaddr 0 (r.at (64 * r.b.sbBase + row * 1024))) bytes
      let f := if short then 1 else ((List.range n).filter fun i => depths.getD i 0 == 0).length
      s.agCount r fun c => { c with treeF := c.treeF + f }
  if r.treeRows ≤ r.st.t then s
  else if !active ∨ n = 0 then next (start s) 0
  else
    let ts := (nodeTokens short anc len n r.st.si).drop r.st.sub
    let now := ts.take (s.credits r.portQ)
    let t := (start s).each now fun s t => s.push r.portQ t
    if now.length = ts.length then next t (r.st.si + 1)
    else if now.isEmpty then s
    else t.setAg r.key { r.st with sub := r.st.sub + now.length }

def execTreeMaskRow (plot : BitVec 9) (unit : Bool) (ag : TreeRead) (s : State) : Host.Outcome State Fault Refusal :=
  .next (match s.agRun plot unit ag.ag with
    | none => s
    | some r => if r.d.kind = 3 then s.treeMask r ag.code else s)

end Sys2Proof.Machine
end

