-- ==== Sys2Proof/Machine/RegWrite.lean ====
section
/-!
DEFINITION. Control-space writes (R6, R7, R10, R12, R26, R412, R502, R565 to R572): what a write of each register does,
by the operation of the command that names it, and REGISTER_WRITE.
-/
namespace Sys2Proof.Machine

/-- The state of an outcome that is a next state. -/
def nextOr (o : Host.Outcome State Fault Refusal) (s : State) : State :=
  match o with
  | .next t => t
  | _ => s

/-! ### Writes that commands name -/

/-- A write of FALLOW_CMD. -/
def State.fallowCmdWrite (s : State) (src : Source) (val : W64) : State :=
  match bitsOf val 0 3 with
  | 1 => nextOr (execInstBegin src s) s
  | 2 => nextOr (execInstManifest src s) s
  | 3 => nextOr (execInstCommit src s) s
  | 4 => nextOr (execInstAbort src s) s
  | 5 => nextOr (execScrubNow src [] s) s
  | _ => s.falResult src 2 0

/-- A write of TIER_CMD. -/
def State.tierCmdWrite (s : State) (src : Source) (val : W64) : State :=
  match bitsOf val 0 2 with
  | 1 => s.claim src (bitsOf val 2 20)
  | 2 => s.dropHome src (bitsOf val 2 20)
  | _ => s.setResult 0x90010 src (tierResult 2 0)

/-- A write of SERVE_CMD (R307). -/
def State.serveCmdWrite (s : State) (src : Source) (val : W64) : State :=
  s.serveTake ⟨src, bitsOf val 0 4, bitsOf val 4 10, bitOf val 14, bitsOf val 16 14⟩

/-- A write of HARROW_CTRL: the bits act in ascending order. -/
def State.harrowCtrl (s : State) (val : W64) : State :=
  let s := if bitOf val 0 then s.harrowCancel (bitsOf val 16 16) else s
  if bitOf val 1 then s.harrowCntClr else s

/-- A write of LAMP_ARG_k: refused with reason BUSY while a command runs (R526). -/
def State.lampArg (s : State) (src : Source) (off : Nat) (val : W64) : State :=
  if s.flag LAMP_STATUS.BUSY then
    ((s.put LAMP_STATUS.OUTCOME lampRefused).put LAMP_STATUS.REASON reasonBusy).put LAMP_STATUS.OWNER (lampOwner src)
  else s.store off val

/-! ### Writes with rules of their own -/

/-- A write of TIER_GNT_A_k: EN keeps its value while the grant is reclaiming, and a lender grant is enabled only outside
a slice (R322, R340). -/
def State.grantWrite (s : State) (k : Nat) (val : W64) : State :=
  let off := 0x90200 + 0x10 * k
  let was := s.flag (TIER_GNT_A.EN k)
  let lent := s.flag (TIER_GNT_A.ROLE k)
  let reclaiming := s.get (TIER_GNT_A.STATE k) == 2
  let s := s.storeFields off val fun lo => lo != 0
  let on := bitOf val 0 && !(s.flag (TIER_GNT_A.ROLE k) && s.net.slice.isSome && !(was && lent))
  if reclaiming ∨ on = was then s
  else if on then (s.put (TIER_GNT_A.EN k) 1).put (TIER_GNT_A.STATE k) 1
  else (s.put (TIER_GNT_A.EN k) 0).put (TIER_GNT_A.STATE k) 0

/-- The positions `h, h + 1, ...` of the Fallow queue are queued at a level (R354). -/
def State.fallowQueued (s : State) (l2 : Bool) (h : Nat) : Nat → State
  | 0 => s
  | n + 1 =>
    let s := { s with fallow := { s.fallow with atL2 := KMap.set (fun _ => 0) s.fallow.atL2 h (bit l2) } }
    s.fallowQueued l2 ((h + 1) % 65536) n

/-- A write of FALLOW_QPTR.TAIL queues descriptors at the privilege of the write (R354, R501). -/
def State.fallowTail (s : State) (src : Source) (val : W64) : State :=
  let t := s.get FALLOW_QPTR.TAIL
  let s := s.fallowQueued (decide (2 ≤ s.level src)) t (idxSub 16 (bitsOf val 32 16) t)
  (s.store 0xC0030 val).fallowWake

/-- The write of a register whose own rule is that it holds only in some state; of TIER_HOME and TIER_SPOOL the rule holds
for BASE alone (R340). -/
def State.guardedStore (s : State) (off : Nat) (val : W64) : State :=
  let stopped := s.stepState == stepStopped
  let serving := s.flag SERVE_CTRL.EN
  let ok :=
    if off = 0x40010 ∨ off = 0x40080 ∨ off = 0x40088 then stopped
    else if off = 0x60010 then s.idleState
    else if 0x100010 ≤ off ∧ off < 0x100040 then !serving
    else if 0x110018 ≤ off ∧ off < 0x110030 ∨ 0x110040 ≤ off ∧ off < 0x110080 then s.get WARD_STATUS.STATE == wardOff
    else true
  if off = 0x90000 then s.storeFields off val fun lo => stopped || lo != 12
  else if off = 0x90038 then s.storeFields off val fun lo => !serving || lo != 12
  else if ok then s.store off val else s

/-- The level that a write of a register takes, by its value (R502, R526). -/
def State.levelFor (s : State) (off : Nat) (val : W64) : Nat :=
  if off = 0x30000 then lampLevel (bitsOf val 0 4)
  else if off = 0x30008 ∨ off = 0x30010 then lampLevel (s.get LAMP_CMD.OP)
  else writeLevel off

/-- What an accepted write of `val` to the register at an offset does. -/
def State.regAct (s : State) (src : Source) (off : Nat) (val : W64) : State :=
  let b := off / 0x10000
  let o := off % 0x10000
  if 0x200000 ≤ off then
    if off % 0x1000 = 0x18 then (if bitOf val 0 then nextOr (execPlotCntClr src (BitVec.ofNat 9 (plotOf off)) s) s else s)
    else s.store off val
  else if b = 0 ∧ o = 0x20 then s.chipCtrl src val
  else if b = 1 then
    if o = 0 then s.capWrite val
    else if o = 0x10 then s.candleDom src val
    else if o = 0x70 then (s.store off val).ledgerDrain 64
    else if o = 0x78 then s.candleLamp val
    else if o = 0x80 then s.wakeWrite val
    else s.store off val
  else if b = 2 ∧ o = 0 then s.clockField val
  else if b = 3 then
    if o = 0 then s.lampWrite src (bitsOf val 0 4)
    else if o = 8 ∨ o = 0x10 then s.lampArg src off val
    else if 0x38 ≤ o ∧ o < 0x98 then s.hsigWrite ((o - 0x38) / 8) val
    else s.store off val
  else if b = 4 then
    if o = 0 then s.stepCtrl val
    else if o = 0x98 then (s.store off val).autoCores
    else if o = 0xB0 then s.qansWrite src (bitsOf val 0 16) (bitsOf val 16 4) (bitOf val 20) (bitsOf val 21 9)
    else s.guardedStore off val
  else if b = 5 ∧ o = 0 then s.rotateCtrl val
  else if b = 6 ∧ o = 0 then (if bitOf val 0 then nextOr (execSowerCntClr src s) s else s)
  else if b = 7 ∧ o = 0 then (if bitOf val 0 then nextOr (execGleanCntClr src s) s else s)
  else if b = 8 ∧ o = 0 then s.harrowCtrl val
  else if b = 9 then
    if o = 8 then s.tierCmdWrite src val
    else if o = 0x18 then s.reclaimWrite val
    else if 0x200 ≤ o ∧ o < 0x280 ∧ o % 0x10 = 0 then s.grantWrite ((o - 0x200) / 0x10) val
    else s.guardedStore off val
  else if b = 0xA ∧ o = 8 then (if bitOf val 0 then nextOr (execTopsoilCntClr src s) s else s)
  else if b = 0xB ∧ o = 0 then s.subsoilCfg val
  else if b = 0xB ∧ o = 0x10 then (if bitOf val 0 then nextOr (execSubsoilCntClr src s) s else s)
  else if b = 0xC ∧ o = 8 then s.fallowCmdWrite src val
  else if b = 0xC ∧ o = 0x30 then s.fallowTail src val
  else if b = 0xD ∧ o = 0 then s.drillCtrl val
  else if b = 0xE ∧ o = 0 then s.linkCtrl val
  else if b = 0xF ∧ o = 0x20 then s.routeCtrl val
  else if b = 0xF ∧ o = 0x38 then s.markFailed val.toNat
  else if b = 0xF ∧ 0x200 ≤ o ∧ o < 0x400 then s.routeMcWrite ((o - 0x200) / 8) val
  else if b = 0x10 ∧ o = 0 then s.serveCtrlWrite val
  else if b = 0x10 ∧ o = 0x50 then s.serveCmdWrite src val
  else if b = 0x11 ∧ o = 0 then s.wardCtrl val
  else if b = 0x13 ∧ o = 0 then s.bistOp (bitsOf val 0 3) 1800
  else if b = 0x14 ∧ o = 0 then (s.store off val).autoGlow
  else s.guardedStore off val

/-- Whether the spec lists a register at an offset; STILE registers stand only in columns 0 and 15 (R51). -/
def listed (off : Nat) : Bool :=
  (findReg off).isSome &&
    !(decide (0x200000 ≤ off ∧ 0x400 ≤ off % 0x1000) && plotOf off % 16 != 0 && plotOf off % 16 != 15)

/-- A write at an aligned offset of the own control window. An offset that no chapter lists is reserved: nothing happens
and nothing is recorded (R566). -/
def State.regWrite (s : State) (src : Source) (off : Nat) (val : W64) : State :=
  if off % 8 ≠ 0 ∨ 0x400000 ≤ off ∨ 0x150000 ≤ off ∧ off < 0x200000 then s.addrFault (blockOf off) (s.gaddr 3 off)
  else if !listed off then s
  else s.ctlWrite src off (s.levelFor off val) val fun s => s.regAct src off val

/-! ### Waiting writes (R412) -/

/-- The writes that wait for domain `d`, which is powered now, take effect in the order in which they came. -/
def State.settleWaits (s : State) (d : Nat) : State :=
  let due := s.power.waits.filter fun w => regDomain w.2.1 == d
  let s := { s with power := { s.power with waits := s.power.waits.filter fun w => regDomain w.2.1 != d } }
  s.each due fun s w => s.regWrite w.1 w.2.1 w.2.2

def execDomainPowered (d : Fin 24) (glowFault : Bool) (s : State) : Host.Outcome State Fault Refusal :=
  .next (if s.power.closing.contains d.val then
      let s := { s with power := { s.power with closing := s.power.closing.filter (· != d.val) } }
      let s := (s.putBit CANDLE_DSTAT.ON d.val true).domStarted d.val
      let s := if d.val = 23 ∧ glowFault then s.put GLOW_STATUS.FAULT 1 else s
      s.settleWaits d.val
    else s)

/-! ### REGISTER_WRITE (R6, R10 to R12, R384) -/

/-- The privilege that a packet carries for an access of this source (R376, R501). -/
def State.privOf (s : State) (src : Source) : BitVec 2 := BitVec.ofNat 2 (s.level src)

/-- A control-space write at a global fabric address. Another chip's control space takes L2 and is reached by a WRITE
packet of one flit on VC 3 (R10, R384). -/
def State.registerWrite (s : State) (src : Source) (size addr : Nat) (val : W64) : State :=
  let chip := addr / 2 ^ 44 % 2 ^ 20
  let off := addr % 2 ^ 42
  let bad := decide (chip / 4096 ≠ s.get ROUTE_SELF.RACK ∨ 3 < chip / 256 % 16 ∨ 3 < chip / 16 % 16 ∨ 3 < chip % 16) ||
    decide (addr / 2 ^ 42 % 4 ≠ 3) || decide (size ≠ 8 ∨ off % 8 ≠ 0 ∨ 0x400000 ≤ off) ||
    decide (chip ≠ s.self) && decide (s.level src < 2)
  if bad then s.addrFault (if off < 0x400000 then blockOf off else 0) addr
  else if chip = s.self then s.regWrite src off val
  else
    let t := s.net.nextTag % 65536
    let p := { s.mkPacket 3 1 chip addr t (leBytes 8 val.toNat) with priv := s.privOf src }
    let s := s.post p
    { s with net := { s.net with
      nextTag := s.net.nextTag + 1, requests := s.net.requests ++ [Request.mk t 3 .control addr] } }

def execRegisterWrite (src : Source) (size : Nat) (addr val : W64) (s : State) : Host.Outcome State Fault Refusal :=
  .next (s.registerWrite src size addr.toNat val)

end Sys2Proof.Machine
end

