-- ==== Sys2Proof/Machine/RegRead.lean ====
section
/-!
DEFINITION. Control-space reads (R6, R7, R12, R26, R412, R502, R523, R565 to R570): what each register reads as. Most
registers read as they are stored; the status views of this file are computed.
-/
namespace Sys2Proof.Machine

/-- A word with fields set: low bit, width, value. -/
def fieldsOf (l : List (Nat × Nat × Nat)) : W64 := l.foldl (fun w f => withBits w f.1 f.2.1 f.2.2) 0

/-! ### Plot windows (R28, R45 to R52) -/

/-- PLOT_ID: the spare shifts the physical columns from the failed plot on (R28). -/
def State.plotId (s : State) (p : Nat) : W64 :=
  let v := s.strip (p / 64)
  let c := p % 16
  let pc := if v.active ∧ v.frow = p / 16 % 4 ∧ v.fcol ≤ c then c + 1 else c
  fieldsOf [(0, 9, p), (16, 5, pc), (21, 3, p / 64), (24, 1, bit (pc == 16))]

def State.plotStatus (s : State) (p : Nat) : W64 :=
  let on (valid : Fld) (m : Image) : Nat := bit (s.flag valid && decide (m.mask / 2 ^ (p / 64) % 2 = 1))
  fieldsOf [(0, 1, on ROTATE_STATUS.LIT_VALID s.lit), (1, 1, on ROTATE_STATUS.DARK_VALID s.dark),
    (2, 1, bit (!(s.field.hlOut.any fun e => e.1 / 10 == p && e.2.valid))), (3, 1, bit (s.lit.usesPlot p)),
    (16, 16, s.field.rotSeq)]

def State.plotRepair (s : State) (p : Nat) : W64 :=
  let v := s.strip (p / 64)
  fieldsOf [(0, 1, bit v.active), (1, 1, bit v.bad), (2, 2, v.frow), (4, 4, v.fcol), (8, 1, bit v.fused)]

/-- Eight slot entries as one register: EN and the low four bits of each (R51). -/
def slotWord (bs : List Byte) (at_ : Nat) : W64 :=
  BitVec.ofNat 64 (leNat ((List.range 8).map fun i => bs.getD (at_ + i) 0 &&& 0x8F))

/-- HL_LSLOT and HL_DSLOT: output port and half at an offset from the first register. -/
def hlSlotWord (m : Image) (p o : Nat) : W64 := slotWord (m.headland.get (fun _ => []) p) (8 * (o / 8))

/-- The home stack of Stile `k` (R47). -/
def stileHome (k : Nat) : Nat := 2 * (k / 32) + k % 2

/-- Hopper Unit key of feed channel `j` of Stile `k` (R46). -/
def feedHopper (k j : Nat) : Nat := 2 * (16 * (k / 2) + 8 * (k % 2) + j / 2) + j % 2

/-- A feed channel has a transfer in flight: a generator of its Hopper Unit holds a scoreboard entry. -/
def State.feedBusy (s : State) (k j : Nat) : Bool :=
  let h := feedHopper k j
  s.sched.entries.any fun e => match e.owner with
    | .tile a => a / 4 == h
    | .stream _ _ => decide (e.first ≤ s.gaddr 0 ((h + 1) * 2 ^ 20) / 64 - 1 ∧ s.gaddr 0 (h * 2 ^ 20) / 64 ≤ e.last)
    | _ => false

def State.stileStatus (s : State) (k : Nat) : W64 :=
  let p := 16 * (k / 2) + 15 * (k % 2)
  let edge := (s.field.hlOut.any fun e => e.1 == 10 * p + (if k % 2 = 0 then 7 else 6) && e.2.valid) ||
    (List.range 8).any fun q => !(s.queue (stileQ k q)).toks.isEmpty
  fieldsOf [((STILE_STATUS.FEED_BUSY p).lo, (STILE_STATUS.FEED_BUSY p).len,
      (List.range 16).foldl (fun a j => a + bit (s.feedBusy k j) * 2 ^ j) 0),
    ((STILE_STATUS.EDGE_EMPTY p).lo, (STILE_STATUS.EDGE_EMPTY p).len, bit (!edge))]

def stileCfgWord (k : Nat) : W64 :=
  let p := 16 * (k / 2) + 15 * (k % 2)
  fieldsOf [((STILE_CFG.ROW p).lo, (STILE_CFG.ROW p).len, k / 2), ((STILE_CFG.SIDE p).lo, (STILE_CFG.SIDE p).len, k % 2),
    ((STILE_CFG.HOME_STACK p).lo, (STILE_CFG.HOME_STACK p).len, stileHome k)]

/-- A register of the window of plot `p`. -/
def State.plotValue (s : State) (p o off : Nat) : W64 :=
  let k := 2 * (p / 16) + bit (p % 16 == 15)
  if o = 0 then s.plotId p
  else if o = 8 then s.plotStatus p
  else if o = 0x10 then s.plotRepair p
  else if 0x40 ≤ o ∧ o < 0xE0 then hlSlotWord s.lit p (o - 0x40)
  else if 0x100 ≤ o ∧ o < 0x1A0 then hlSlotWord s.dark p (o - 0x100)
  else if o = 0x400 then stileCfgWord k
  else if o = 0x408 then s.stileStatus k
  else if 0x420 ≤ o ∧ o < 0x430 then slotWord (s.lit.stileAt k).slotIn (o - 0x420)
  else if 0x430 ≤ o ∧ o < 0x440 then slotWord (s.lit.stileAt k).slotOut (o - 0x430)
  else if 0x440 ≤ o ∧ o < 0x450 then slotWord (s.dark.stileAt k).slotIn (o - 0x440)
  else if 0x450 ≤ o ∧ o < 0x460 then slotWord (s.dark.stileAt k).slotOut (o - 0x450)
  else s.reg off

/-! ### Views of the blocks -/

/-- A stored register with some fields replaced. -/
def State.regWith (s : State) (off : Nat) (l : List (Fld × Nat)) : W64 :=
  l.foldl (fun w f => withBits w f.1.lo f.1.len f.2) (s.reg off)

/-- STEP_QTAKE for the source that reads it (R231, R570): only a core is dispatched queries. -/
def State.qtake (s : State) (src : Source) : W64 :=
  match src with
  | .core i _ =>
    match s.coreQuery i.toNat with
    | some q => fieldsOf [(STEP_QTAKE.QID.lo, STEP_QTAKE.QID.len, q), (STEP_QTAKE.VALID.lo, STEP_QTAKE.VALID.len, 1)]
    | none => 0
  | _ => 0

/-- SERVE_STATUS: the counts of slots. -/
def State.serveStatus (s : State) : W64 :=
  s.regWith 0x100008 [(SERVE_STATUS.ACTIVE, (s.slotsIn [slotActive]).length), (SERVE_STATUS.QUEUED, (s.slotsIn [slotQueued]).length),
    (SERVE_STATUS.PAUSED, (s.slotsIn [slotPausing, slotPaused, slotResuming]).length)]

/-- What a source's read of a register gives, before its write-only fields read as 0. -/
def State.regView (s : State) (src : Source) (off : Nat) : W64 :=
  if 0x200000 ≤ off then s.plotValue (plotOf off) (off % 0x1000) off
  else if off = 0 then s.regWith 0 [(CHIP_ID.PART, 1), (CHIP_ID.STEPPING, s.part.stepping.toNat)]
  else if off = 8 then s.part.serial
  else if off = 0x28 then s.regWith 0x28 [(CHIP_STATUS.RESTORE_PEND, s.get CHIP_RESTORE0.VALID)]
  else if off = STEP_STATUS.LEADER.reg then s.regWith off [(STEP_STATUS.LEADER, bit (s.net.slice.isSome && s.leads))]
  else if off = ROTATE_STATUS.LEADER.reg then s.regWith off [(ROTATE_STATUS.LEADER, bit (s.net.slice.isSome && s.leads))]
  else if off = 0x400A8 then s.qtake src
  else if off = 0x90010 ∨ off = 0xC0010 ∨ off = 0x100058 then s.result off src
  else if off = 0x100008 then s.serveStatus
  else if off = SERVE_PLAN.STEP.reg then s.regWith off [(SERVE_PLAN.STEP, s.planStep)]
  else s.reg off

/-- Write-only fields read as 0 (R7). -/
def hideWo (off : Nat) (w : W64) : W64 :=
  match findReg off with
  | none => 0
  | some r => (r.fields.filter fun f => f.acc = .wo).foldl (fun w f => withBits w f.lo f.len 0) w

/-- The value of a register at an aligned offset of the window, as a source reads it; an offset that no chapter lists
reads as 0 (R566). -/
def State.regValue (s : State) (src : Source) (off : Nat) : W64 :=
  if listed off then hideWo off (s.regView src off) else 0

/-! ### Reads -/

/-- Whether an offset cannot be accessed at all (R6, R12, R566). -/
def offsetBad (off : Nat) : Bool := decide (off % 8 ≠ 0 ∨ 0x400000 ≤ off ∨ 0x150000 ≤ off ∧ off < 0x200000)

/-- A read of the own control window: the record that it makes and the value that it returns. It requires L1, except
that the host port at L0 reads LAMP_HNONCE (R502, R523); a target that is off reads as 0 (R26, R412). -/
def State.ctlRead (s : State) (src : Source) (off : Nat) : State × W64 :=
  if offsetBad off then (s.addrFault (if off < 0x400000 then blockOf off else 0) (s.gaddr 3 off), 0)
  else if decide (s.level src < 1) && !(off == LAMP_HNONCE.NONCE.reg && src == .host) then (s.refusePriv off 1, 0)
  else if s.gatedAt off && !s.waitsFor off && listed off then (s.refuseGated off, 0)
  else (s, s.regValue src off)

end Sys2Proof.Machine
end

