-- ==== Sys2Proof/Machine/Answer.lean ====
section
/-!
DEFINITION. Requests and answers between chips (R10, R323, R377 to R379, R384, R400, R407, R501): WRITE, READ,
READ_DATA, WRITE_ACK, REFUSED and ANSWER_TIMEOUT.
-/
namespace Sys2Proof.Machine

/-! ### Requests at their destination -/

/-- Takes a packet out of the delivered ones. -/
def State.takePacket (s : State) (p : Packet) : State := { s with net := { s.net with delivered := s.net.delivered.erase p } }

/-- The bytes that a packet carries. -/
def packetBytes (p : Packet) : List Byte := p.payload.flatMap payBytes

/-- The source of a control-space access that a packet makes (R501, R570): at the bridge, the host port itself. -/
def State.packetSource (s : State) (p : Packet) : Source :=
  if p.vc = 4 ∧ p.src.toNat = s.self then .host
  else .chip (BitVec.ofNat 6 ((s.indexOf p.src.toNat).getD (rackIndex p.src.toNat))) p.priv

/-- Whether a packet may touch control space: on VC 3 or 4, from another chip at L2 and above (R10, R384, R407). -/
def State.controlAllowed (s : State) (p : Packet) : Bool :=
  p.vc == 4 && decide (p.src.toNat = s.self) || (p.vc == 4 || p.vc == 3) && decide (2 ≤ p.priv.toNat)

/-- Whether an active or reclaiming lender grant of a packet's sender holds `[o, o + n)` of a tier (R323). -/
def State.lends (s : State) (src : Nat) (subTier : Bool) (o n : Nat) : Bool :=
  (List.range 8).any fun k =>
    s.isLender k && decide (s.get (TIER_GNT_A.STATE k) = 1 ∨ s.get (TIER_GNT_A.STATE k) = 2) &&
    s.flag (TIER_GNT_A.LTIER k) == subTier &&
    decide (s.grantPeer k = src ∧ 65536 * s.get (TIER_GNT_B.BASE k) ≤ o ∧
      o + n ≤ 65536 * (s.get (TIER_GNT_B.BASE k) + s.get (TIER_GNT_A.LEN k)))

/-- Whether the traffic of a packet's VC reaches `n` bytes of this chip's memory: job and Ward traffic and the host do, a
Drill packet does at a member, and any other access is a Commons access under a grant (R11, R323, R362, R379). -/
def State.servesMemory (s : State) (p : Packet) (n : Nat) : Bool :=
  let a := p.addr.toNat
  if p.vc = 7 ∨ p.vc = 3 then p.vc == 7 && s.lends p.src.toNat (decide (a / 2 ^ 42 % 4 = 2)) (a % 2 ^ 42) n
  else if p.vc = 6 then s.drill.member.isSome
  else true

/-- A request that is refused: an address fault and the answer REFUSED (R10, R378). -/
def State.refuseRequest (s : State) (p : Packet) : State := (s.addrFault 0xE p.addr.toNat).reply p 6 []

/-- A memory access outside what the chip serves: TIER_ERR.GRANT and a refusal (R323). -/
def State.refuseGrant (s : State) (p : Packet) : State := (s.put TIER_ERR.GRANT 1).reply p 6 []

/-- The packet of a Ward delta: WARD_DELTA stages it and answers (R477, R479, assumption 42). -/
def State.isDelta (s : State) (p : Packet) : Bool :=
  decide (p.vc = 5 ∧ p.payload.length = 2) && (s.parityLine (p.addr.toNat % 2 ^ 42)).isSome

/-- A WRITE to this chip's memory. A write that the Ward holds waits (R477, R478). -/
def State.writeMemory (s : State) (p : Packet) : State :=
  let bs := packetBytes p
  let a := p.addr.toNat
  let t := s.takePacket p
  if !s.servesMemory p bs.length then t.refuseGrant p
  else if s.accessRefused true a bs.length then t.refuseRequest p
  else if s.writeWaits a bs.length then s
  else (t.pokeAt a bs).reply p 5 []

/-- A WRITE to this chip's control space takes one flit, whose first 8 bytes are the value; one to a domain that is not
powered yet waits (R6, R384, R412). -/
def State.writeControl (s : State) (p : Packet) : State :=
  let off := p.addr.toNat % 2 ^ 42
  let t := s.takePacket p
  if !s.controlAllowed p || p.payload.length != 1 || offsetBad off then t.refuseRequest p
  else if listed off && s.waitsFor off then s
  else (t.regWrite (s.packetSource p) off (BitVec.ofNat 64 (leNat ((packetBytes p).take 8)))).reply p 5 []

/-- A WRITE at its destination. -/
def State.writePacket (s : State) (p : Packet) : State :=
  let a := p.addr.toNat
  if isSegment p || s.isDelta p then s
  else if a / 2 ^ 44 % 2 ^ 20 ≠ s.self ∨ a / 2 ^ 42 % 4 = 0 then (s.takePacket p).refuseRequest p
  else if a / 2 ^ 42 % 4 = 3 then s.writeControl p
  else s.writeMemory p

def execWrite (p : Packet) (s : State) : Host.Outcome State Fault Refusal :=
  .next (if s.net.delivered.contains p && p.op == 1 then s.writePacket p else s)

/-- A READ at its destination: READ_DATA brings one flit; a register is in its first 8 bytes. -/
def State.readPacket (s : State) (p : Packet) : State :=
  let a := p.addr.toNat
  let off := a % 2 ^ 42
  let t := s.takePacket p
  if a / 2 ^ 44 % 2 ^ 20 ≠ s.self ∨ a / 2 ^ 42 % 4 = 0 then t.refuseRequest p
  else if a / 2 ^ 42 % 4 = 3 then
    if !s.controlAllowed p || offsetBad off then t.refuseRequest p
    else if listed off && s.waitsFor off then s
    else
      let r := t.ctlRead (s.packetSource p) off
      r.1.reply p 3 (leBytes 64 r.2.toNat)
  else if !s.servesMemory p 64 then t.refuseGrant p
  else if s.accessRefused false a 64 then t.refuseRequest p
  else ((t.touch a 64).readErrors a 64 false).1.reply p 3 (s.peek a 64)

def execRead (p : Packet) (s : State) : Host.Outcome State Fault Refusal :=
  .next (if s.net.delivered.contains p && p.op == 2 then s.readPacket p else s)

/-! ### Answers at the requester -/

/-- The request that a tag on a VC names. -/
def State.awaiting (s : State) (vc tag : Nat) : Option Request := s.net.requests.find? fun r => r.vc == vc && r.tag == tag

def State.dropRequest (s : State) (r : Request) : State := { s with net := { s.net with requests := s.net.requests.erase r } }

/-- A delta leaves the queue: the seal may end (R477, R491). -/
def State.deltaDone (s : State) (tag : Nat) : State :=
  let s := { s with ward := { s.ward with unacked := s.ward.unacked.filter fun d => d.tag != tag } }
  (s.put WARD_PEND.UNACKED s.ward.unacked.length).sealCheck

/-- A request completes: the engines and grants that waited for it go on (R264, R270, R324). -/
def State.settled (s : State) (r : Request) : State :=
  let s := s.dropRequest r
  match r.kind with
  | .wardDelta => s.deltaDone r.tag
  | .segment _ _ => (((s.sowerRetire false).sowerRetire true).gleanRetire false).gleanRetire true
  | .commonsWrite (some o) => (s.ownerDone o).grantsRelease
  | .commonsRead (some o) => (s.ownerDone o).grantsRelease
  | _ => s.grantsRelease

/-- The answer `p` completes the request of its tag by `act`. -/
def State.onAnswer (s : State) (p : Packet) (op : Nat) (act : State → Request → State) : State :=
  if s.net.delivered.contains p && p.op.toNat == op then
    let s := s.takePacket p
    match s.awaiting p.vc.toNat p.tag.toNat with
    | some r => act s r
    | none => s
  else s

def execReadData (p : Packet) (s : State) : Host.Outcome State Fault Refusal := .next (s.onAnswer p 3 State.settled)
def execWriteAck (p : Packet) (s : State) : Host.Outcome State Fault Refusal := .next (s.onAnswer p 5 State.settled)

/-- A Commons access of an owner is refused: its stream fails, or the step of its Pass or fetch does; a stream that has been
stopped, zeroing and reclaim moves leave the record alone (R318, R323). -/
def State.refusedAccess (s : State) (o : Option Owner) (addr : Nat) : State :=
  match o with
  | some (.stream q p) => (s.stream q p).elim s.accessRefusal fun t => s.streamRefused t addr
  | some _ => s.stepRefusal 9 addr
  | none => (s.addrFault 9 addr).accessRefusal

/-- A request completes as refused (R318, R365, R479). A segment that is refused stays unacknowledged, under the hang rule
(R264). -/
def State.refusedRequest (s : State) (r : Request) : State :=
  let u := s
  let s := s.settled r
  match r.kind with
  | .segment _ _ => u
  | .wardDelta => s.charge 1
  | .drill => s.drillBypass
  | .commonsWrite o => s.refusedAccess o r.addr
  | .commonsRead o => s.refusedAccess o r.addr
  | _ => s

def execRefused (p : Packet) (s : State) : Host.Outcome State Fault Refusal := .next (s.onAnswer p 6 State.refusedRequest)

/-- A delta that was lost is sent again, under a new tag (R477). -/
def State.resendDelta (s : State) (r : Request) : State :=
  match s.ward.unacked.find? fun d => d.tag == r.tag with
  | none => s.dropRequest r
  | some d =>
    let tag := s.net.nextTag % 65536
    let dst := r.addr / 2 ^ 44 % 2 ^ 20
    let s := (s.dropRequest r).request 5 1 dst r.addr (payBytes d.delta ++ leBytes 64 d.epoch) .wardDelta
    { s with ward := { s.ward with unacked := s.ward.unacked.map fun x => if x.tag = r.tag then { x with tag := tag } else x } }

/-- No answer came in time: a request of VC 6 or 7 completes as refused, and a delta is sent again (R400, R477). -/
def execAnswerTimeout (tag : BitVec 16) (s : State) : Host.Outcome State Fault Refusal :=
  .next (match s.net.requests.find? fun r => r.tag == tag.toNat && (decide (6 ≤ r.vc) || decide (r.kind = .wardDelta)) with
    | some r => if 6 ≤ r.vc then s.refusedRequest r else s.resendDelta r
    | none => s)

end Sys2Proof.Machine
end

