-- ==== Sys2Proof/Machine/Dispatch.lean ====
section
/-!
DEFINITION. The command dispatcher: one arm per constructor of `Instr`.
-/
namespace Sys2Proof.Machine

/-- The effect of a command on everything but the queue. -/
def exec (i : Instr) (s : State) : Host.Outcome State Fault Refusal :=
  match i with
  | .registerWrite src size addr val => Sys2Proof.Machine.execRegisterWrite src size addr val s
  | .plotCntClr src plot => Sys2Proof.Machine.execPlotCntClr src plot s
  | .tokenArrival p tok codes sidePar refuse => Sys2Proof.Machine.execTokenArrival p tok codes sidePar refuse s
  | .creditReturn snd sb => Sys2Proof.Machine.execCreditReturn snd sb s
  | .furrowFire plot unit feed => Sys2Proof.Machine.execFurrowFire plot unit feed s
  | .forkFire plot unit el => Sys2Proof.Machine.execForkFire plot unit el s
  | .joinFire plot unit el => Sys2Proof.Machine.execJoinFire plot unit el s
  | .steerFire plot unit el => Sys2Proof.Machine.execSteerFire plot unit el s
  | .mergeFire plot unit el => Sys2Proof.Machine.execMergeFire plot unit el s
  | .selectFire plot unit el => Sys2Proof.Machine.execSelectFire plot unit el s
  | .lanternFunc plot unit => Sys2Proof.Machine.execLanternFunc plot unit s
  | .lanternStatsRow plot unit => Sys2Proof.Machine.execLanternStatsRow plot unit s
  | .statsPart plot unit => Sys2Proof.Machine.execStatsPart plot unit s
  | .statsMerge plot unit => Sys2Proof.Machine.execStatsMerge plot unit s
  | .lanternSoftmaxRow plot unit => Sys2Proof.Machine.execLanternSoftmaxRow plot unit s
  | .lanternExpsumRow plot unit => Sys2Proof.Machine.execLanternExpsumRow plot unit s
  | .agAccess plot unit ag marks code => Sys2Proof.Machine.execAgAccess plot unit ag marks code s
  | .farTileFetch plot unit ag remote => Sys2Proof.Machine.execFarTileFetch plot unit ag remote s
  | .treeMaskRow plot unit ag => Sys2Proof.Machine.execTreeMaskRow plot unit ag s
  | .scoreboardWaitEnd op => Sys2Proof.Machine.execScoreboardWaitEnd op s
  | .passIssue => Sys2Proof.Machine.execPassIssue s
  | .passComplete pseq => Sys2Proof.Machine.execPassComplete pseq s
  | .hangTimeout pseq => Sys2Proof.Machine.execHangTimeout pseq s
  | .queryDispatch => Sys2Proof.Machine.execQueryDispatch s
  | .qans src qid bucket count => Sys2Proof.Machine.execQans src qid bucket count s
  | .noans src qid => Sys2Proof.Machine.execNoans src qid s
  | .queryDeadline qid => Sys2Proof.Machine.execQueryDeadline qid s
  | .queryWatchdog core => Sys2Proof.Machine.execQueryWatchdog core s
  | .stepComplete => Sys2Proof.Machine.execStepComplete s
  | .wardFlushEnd => Sys2Proof.Machine.execWardFlushEnd s
  | .flushed h step idx passes => Sys2Proof.Machine.execFlushed h step idx passes s
  | .commit h step => Sys2Proof.Machine.execCommit h step s
  | .ringWaitEnd => Sys2Proof.Machine.execRingWaitEnd s
  | .abandon h step cause idx => Sys2Proof.Machine.execAbandon h step cause idx s
  | .abandonEntriesRetired => Sys2Proof.Machine.execAbandonEntriesRetired s
  | .abandoned h step idx => Sys2Proof.Machine.execAbandoned h step idx s
  | .restart h step => Sys2Proof.Machine.execRestart h step s
  | .bndTimeout => Sys2Proof.Machine.execBndTimeout s
  | .stepLostTimeout => Sys2Proof.Machine.execStepLostTimeout s
  | .stepStart src val => Sys2Proof.Machine.execStepStart src val s
  | .stepHalt src val => Sys2Proof.Machine.execStepHalt src val s
  | .stepCtrlAbandon src val => Sys2Proof.Machine.execStepCtrlAbandon src val s
  | .msbClr src val => Sys2Proof.Machine.execMsbClr src val s
  | .load src => Sys2Proof.Machine.execLoad src s
  | .loadComplete readback => Sys2Proof.Machine.execLoadComplete readback s
  | .loadAbort src => Sys2Proof.Machine.execLoadAbort src s
  | .arm src => Sys2Proof.Machine.execArm src s
  | .disarm src => Sys2Proof.Machine.execDisarm src s
  | .ready h step imageId digest8 notLoaded => Sys2Proof.Machine.execReady h step imageId digest8 notLoaded s
  | .go h step imageId => Sys2Proof.Machine.execGo h step imageId s
  | .rotationComplete => Sys2Proof.Machine.execRotationComplete s
  | .abort h step cause => Sys2Proof.Machine.execAbort h step cause s
  | .rotateTimeout => Sys2Proof.Machine.execRotateTimeout s
  | .rotateLostTimeout => Sys2Proof.Machine.execRotateLostTimeout s
  | .planeScrubRead dark plot code => Sys2Proof.Machine.execPlaneScrubRead dark plot code s
  | .scoreRow mb => Sys2Proof.Machine.execScoreRow mb s
  | .dispatchSegment seg => Sys2Proof.Machine.execDispatchSegment seg s
  | .fetchComplete mb j read => Sys2Proof.Machine.execFetchComplete mb j read s
  | .expertOutputRow mb => Sys2Proof.Machine.execExpertOutputRow mb s
  | .combineSegment seg => Sys2Proof.Machine.execCombineSegment seg s
  | .sowerCntClr src => Sys2Proof.Machine.execSowerCntClr src s
  | .gleanCntClr src => Sys2Proof.Machine.execGleanCntClr src s
  | .admitSlot src slot mayPause => Sys2Proof.Machine.execAdmitSlot src slot mayPause s
  | .cancel src slot => Sys2Proof.Machine.execCancel src slot s
  | .pause src slot => Sys2Proof.Machine.execPause src slot s
  | .resume src slot => Sys2Proof.Machine.execResume src slot s
  | .setpos src slot arg => Sys2Proof.Machine.execSetpos src slot arg s
  | .release src slot => Sys2Proof.Machine.execRelease src slot s
  | .pageMoveComplete slot page => Sys2Proof.Machine.execPageMoveComplete slot page s
  | .resultCheck mb => Sys2Proof.Machine.execResultCheck mb s
  | .serveEn src val => Sys2Proof.Machine.execServeEn src val s
  | .serveCntClr src val => Sys2Proof.Machine.execServeCntClr src val s
  | .claim src index => Sys2Proof.Machine.execClaim src index s
  | .drop src index => Sys2Proof.Machine.execDrop src index s
  | .harrowStreamIssue queue1 => Sys2Proof.Machine.execHarrowStreamIssue queue1 s
  | .streamCopy queue1 pos codes remote => Sys2Proof.Machine.execStreamCopy queue1 pos codes remote s
  | .streamMove pos code remote => Sys2Proof.Machine.execStreamMove pos code remote s
  | .streamZero queue1 pos => Sys2Proof.Machine.execStreamZero queue1 pos s
  | .moveFlip index read => Sys2Proof.Machine.execMoveFlip index read s
  | .vacatedZeroed addr => Sys2Proof.Machine.execVacatedZeroed addr s
  | .harrowStreamComplete queue1 pos late => Sys2Proof.Machine.execHarrowStreamComplete queue1 pos late s
  | .harrowCancel src pos => Sys2Proof.Machine.execHarrowCancel src pos s
  | .harrowCntClr src => Sys2Proof.Machine.execHarrowCntClr src s
  | .reclaimStart src val => Sys2Proof.Machine.execReclaimStart src val s
  | .reclaim h base len ltier => Sys2Proof.Machine.execReclaim h base len ltier s
  | .released h base len ltier => Sys2Proof.Machine.execReleased h base len ltier s
  | .reclaimTimeout => Sys2Proof.Machine.execReclaimTimeout s
  | .revoked h base len ltier => Sys2Proof.Machine.execRevoked h base len ltier s
  | .subsoilCfgWrite src val => Sys2Proof.Machine.execSubsoilCfgWrite src val s
  | .topsoilCntClr src => Sys2Proof.Machine.execTopsoilCntClr src s
  | .subsoilCntClr src => Sys2Proof.Machine.execSubsoilCntClr src s
  | .patrolRead tier line code writtenSince => Sys2Proof.Machine.execPatrolRead tier line code writtenSince s
  | .fallowRead bad0 bad1 corrected => Sys2Proof.Machine.execFallowRead bad0 bad1 corrected s
  | .fallowReadDone pos => Sys2Proof.Machine.execFallowReadDone pos s
  | .fallowWrite readbackOk => Sys2Proof.Machine.execFallowWrite readbackOk s
  | .fallowScrubPeriod found => Sys2Proof.Machine.execFallowScrubPeriod found s
  | .scrubNow src found => Sys2Proof.Machine.execScrubNow src found s
  | .fallowRepair programmed => Sys2Proof.Machine.execFallowRepair programmed s
  | .instBegin src => Sys2Proof.Machine.execInstBegin src s
  | .instManifest src => Sys2Proof.Machine.execInstManifest src s
  | .instCommit src => Sys2Proof.Machine.execInstCommit src s
  | .instAbort src => Sys2Proof.Machine.execInstAbort src s
  | .commitPointerEffect => Sys2Proof.Machine.execCommitPointerEffect s
  | .drillStart src val => Sys2Proof.Machine.execDrillStart src val s
  | .drillCtrlAbort src val => Sys2Proof.Machine.execDrillCtrlAbort src val s
  | .drillCntClr src val => Sys2Proof.Machine.execDrillCntClr src val s
  | .drillEntry h header entry member later outsideBelowL2 => Sys2Proof.Machine.execDrillEntry h header entry member later outsideBelowL2 s
  | .chunk h jobId n len => Sys2Proof.Machine.execChunk h jobId n len s
  | .drillCredit h jobId credits => Sys2Proof.Machine.execDrillCredit h jobId credits s
  | .bypassTimeout => Sys2Proof.Machine.execBypassTimeout s
  | .bypass h jobId j sender => Sys2Proof.Machine.execBypass h jobId j sender s
  | .next h jobId n => Sys2Proof.Machine.execNext h jobId n s
  | .watermark h jobId member mark => Sys2Proof.Machine.execWatermark h jobId member mark s
  | .result h jobId member state cause => Sys2Proof.Machine.execResult h jobId member state cause s
  | .drillAbort h jobId => Sys2Proof.Machine.execDrillAbort h jobId s
  | .drillIdleTimeout => Sys2Proof.Machine.execDrillIdleTimeout s
  | .dataFrame link f => Sys2Proof.Machine.execDataFrame link f s
  | .idleFrame link f => Sys2Proof.Machine.execIdleFrame link f s
  | .hello link m => Sys2Proof.Machine.execHello link m s
  | .helloTimer link => Sys2Proof.Machine.execHelloTimer link s
  | .depart link serial reason => Sys2Proof.Machine.execDepart link serial reason s
  | .laneAlignLoss link => Sys2Proof.Machine.execLaneAlignLoss link s
  | .frameTimeout link => Sys2Proof.Machine.execFrameTimeout link s
  | .linkTrained link ok => Sys2Proof.Machine.execLinkTrained link ok s
  | .packetInject p => Sys2Proof.Machine.execPacketInject p s
  | .packetReceive port d1 p => Sys2Proof.Machine.execPacketReceive port d1 p s
  | .write p => Sys2Proof.Machine.execWrite p s
  | .read p => Sys2Proof.Machine.execRead p s
  | .readData p => Sys2Proof.Machine.execReadData p s
  | .writeAck p => Sys2Proof.Machine.execWriteAck p s
  | .refused p => Sys2Proof.Machine.execRefused p s
  | .packetAgeTimeout port vc => Sys2Proof.Machine.execPacketAgeTimeout port vc s
  | .answerTimeout tag => Sys2Proof.Machine.execAnswerTimeout tag s
  | .mcStallWarn port vc => Sys2Proof.Machine.execMcStallWarn port vc s
  | .linkReset src link => Sys2Proof.Machine.execLinkReset src link s
  | .linkDisable src link => Sys2Proof.Machine.execLinkDisable src link s
  | .linkEnable src link => Sys2Proof.Machine.execLinkEnable src link s
  | .apply src => Sys2Proof.Machine.execApply src s
  | .clear src => Sys2Proof.Machine.execClear src s
  | .routeMcWrite src group val => Sys2Proof.Machine.execRouteMcWrite src group val s
  | .routeFailedWrite src val => Sys2Proof.Machine.execRouteFailedWrite src val s
  | .candleDomWrite src val => Sys2Proof.Machine.execCandleDomWrite src val s
  | .domainSwitchClose => Sys2Proof.Machine.execDomainSwitchClose s
  | .domainPowered d glowFault => Sys2Proof.Machine.execDomainPowered d glowFault s
  | .stripAutoOff strip => Sys2Proof.Machine.execStripAutoOff strip s
  | .fallowAutoOff => Sys2Proof.Machine.execFallowAutoOff s
  | .pwrGrant high => Sys2Proof.Machine.execPwrGrant high s
  | .clockFieldWrite src val => Sys2Proof.Machine.execClockFieldWrite src val s
  | .clockCoreWrite src cluster val => Sys2Proof.Machine.execClockCoreWrite src cluster val s
  | .sysrefLost => Sys2Proof.Machine.execSysrefLost s
  | .refLost => Sys2Proof.Machine.execRefLost s
  | .capWrite src val => Sys2Proof.Machine.execCapWrite src val s
  | .capFast asserted ns => Sys2Proof.Machine.execCapFast asserted ns s
  | .governorTick pTick => Sys2Proof.Machine.execGovernorTick pTick s
  | .glowLoop pUs => Sys2Proof.Machine.execGlowLoop pUs s
  | .msInterval uj glowUj meterFault => Sys2Proof.Machine.execMsInterval uj glowUj meterFault s
  | .ledgerSign => Sys2Proof.Machine.execLedgerSign s
  | .snuff ns => Sys2Proof.Machine.execSnuff ns s
  | .candleLampWrite src val => Sys2Proof.Machine.execCandleLampWrite src val s
  | .sleep src val => Sys2Proof.Machine.execSleep src val s
  | .wakeTimer => Sys2Proof.Machine.execWakeTimer s
  | .hostWake => Sys2Proof.Machine.execHostWake s
  | .thermalTrip => Sys2Proof.Machine.execThermalTrip s
  | .railDroop => Sys2Proof.Machine.execRailDroop s
  | .candlePowerOn pins => Sys2Proof.Machine.execCandlePowerOn pins s
  | .warmReset ns => Sys2Proof.Machine.execWarmReset ns s
  | .resetNRise pins sinceSnuffNs => Sys2Proof.Machine.execResetNRise pins sinceSnuffNs s
  | .topsoilReady stack ok => Sys2Proof.Machine.execTopsoilReady stack ok s
  | .fallowReady r => Sys2Proof.Machine.execFallowReady r s
  | .firmwareVerified ok digest svn raiseSvn => Sys2Proof.Machine.execFirmwareVerified ok digest svn raiseSvn s
  | .subInit src val => Sys2Proof.Machine.execSubInit src val s
  | .subsoilReady chOk => Sys2Proof.Machine.execSubsoilReady chOk s
  | .fieldReset src val => Sys2Proof.Machine.execFieldReset src val s
  | .fieldHold src val => Sys2Proof.Machine.execFieldHold src val s
  | .trayLatch asserted ns => Sys2Proof.Machine.execTrayLatch asserted ns s
  | .drain h idx reason => Sys2Proof.Machine.execDrain h idx reason s
  | .haltAt h step => Sys2Proof.Machine.execHaltAt h step s
  | .seal h step member => Sys2Proof.Machine.execSeal h step member s
  | .latchSealTimeout => Sys2Proof.Machine.execLatchSealTimeout s
  | .freeze h missing => Sys2Proof.Machine.execFreeze h missing s
  | .wardCfg h p g self members => Sys2Proof.Machine.execWardCfg h p g self members s
  | .chainUnit h unit q rebuild bytes => Sys2Proof.Machine.execChainUnit h unit q rebuild bytes s
  | .wardDelta h source epoch line delta => Sys2Proof.Machine.execWardDelta h source epoch line delta s
  | .wardEnable src => Sys2Proof.Machine.execWardEnable src s
  | .wardDisable src => Sys2Proof.Machine.execWardDisable src s
  | .wardInit src => Sys2Proof.Machine.execWardInit src s
  | .wardFreeze src => Sys2Proof.Machine.execWardFreeze src s
  | .commitTo src => Sys2Proof.Machine.execCommitTo src s
  | .loadSrec src => Sys2Proof.Machine.execLoadSrec src s
  | .rebuild src => Sys2Proof.Machine.execRebuild src s
  | .attest src => Sys2Proof.Machine.execAttest src s
  | .planInstall src => Sys2Proof.Machine.execPlanInstall src s
  | .jobEnd src => Sys2Proof.Machine.execJobEnd src s
  | .scrub src => Sys2Proof.Machine.execScrub src s
  | .scrubComplete => Sys2Proof.Machine.execScrubComplete s
  | .debugNonce src => Sys2Proof.Machine.execDebugNonce src s
  | .debugUnlock src => Sys2Proof.Machine.execDebugUnlock src s
  | .fabricRekey src => Sys2Proof.Machine.execFabricRekey src s
  | .hostSession src => Sys2Proof.Machine.execHostSession src s
  | .hostSignature src val => Sys2Proof.Machine.execHostSignature src val s
  | .key h m => Sys2Proof.Machine.execKey h m s
  | .pair h aliasCert identCert => Sys2Proof.Machine.execPair h aliasCert identCert s
  | .genDrainEnd => Sys2Proof.Machine.execGenDrainEnd s
  | .keyTimeout => Sys2Proof.Machine.execKeyTimeout s
  | .bistRun src => Sys2Proof.Machine.execBistRun src s
  | .bistRunDone fails corrected => Sys2Proof.Machine.execBistRunDone fails corrected s
  | .bistAbort src => Sys2Proof.Machine.execBistAbort src s
  | .bistApply src => Sys2Proof.Machine.execBistApply src s
  | .listWrite src => Sys2Proof.Machine.execListWrite src s
  | .fuse src vppMv => Sys2Proof.Machine.execFuse src vppMv s
  | .sysrefReturn => Sys2Proof.Machine.execSysrefReturn s
  | .candleRailLoss => Sys2Proof.Machine.execCandleRailLoss s
  | .thermalClear => Sys2Proof.Machine.execThermalClear s
  | .catchUpStall => Sys2Proof.Machine.execCatchUpStall s
  | .poolPageZeroed page => Sys2Proof.Machine.execPoolPageZeroed page s

end Sys2Proof.Machine
end

