-- ==== Sys2Proof/Machine/Tick.lean ====
section
/-!
DEFINITION. What 10 ns bring without a command (assumption 3): the step clock and the Field's cycles count, each live
link takes its frames away, and a Fallow scrub pass ends.
-/
namespace Sys2Proof.Machine

/-! ### Clocks (R37, R231, R339, R418, R425) -/

/-- Field cycles of one tick, in parts of 1/6400: MHZ for (64 - SKIP) of 64 cycles; none while the clock is gated, the
Field is scanned out (R187) or a power hold stands. -/
def State.fieldRate (s : State) : Nat :=
  if s.field.gated || s.field.scanned || s.flag CANDLE_GOV.HOLD then 0
  else s.get CLOCK_FIELD.MHZ * (64 - s.get CANDLE_GOV.SKIP)

/-- Whether a receiver's inbound table names its queue in a slot (R48, R122, R167). -/
def receivesIn (m : Image) (q : QId) (slot : Nat) : Bool :=
  let unit := q / 32
  if 2048 ≤ unit then (stileOut m (unit - 2048) slot).map (· + 8) == some (q % 32)
  else unitIn m (unit / 4) (unit % 4) slot == some (q % 32)

/-- A receiver drives its freed credits, 15 at most (R163). -/
def Queue.driveCredits (v : Queue) : Queue :=
  { v with undriven := v.undriven - min 15 v.undriven, wires := v.wires + min 15 v.undriven }

/-- Circuit receivers drive credits in one slot: three before a slot of their inbound tables (R163). -/
def State.driveCredits (s : State) (slot : Nat) : State :=
  let on := fun q => isCircuitQ q && receivesIn s.lit q ((slot + 3) % 16)
  { s with field := { s.field with queues := s.field.queues.map (fun e => (e.1, if on e.1 then e.2.driveCredits else e.2)) } }

/-- The step clock and the Field cycle counts advance by one tick, and credits start on their way back. -/
def State.clocks (s : State) : State :=
  let x := s.field.frac + s.fieldRate
  let c := s.field.cycle
  let s := (s.advance STEP_QCLK.TICKS 1).advance HARROW_NOW.CYCLES (x / 6400)
  let s := { s with field := { s.field with cycle := c + x / 6400, frac := x % 6400 } }
  if s.fieldMoves then s.each (List.range (x / 6400)) fun s i => s.driveCredits ((c + i) % 16) else s

/-! ### Frames (R371 to R374, R380, R381, R389) -/

/-- Whether a port's wheel names a VC. -/
def State.wheelNames (s : State) (port vc : Nat) : Bool :=
  (List.range 64).any fun k => s.get (LINK_WHEEL.ENTRIES port (k / 16)) / 16 ^ (k % 16) % 16 == 8 + vc

/-- Whether a waiting packet may go out on a link now: it heads its VC, the wheel and the link's state carry that VC, and
the receiver's buffer class has room for it. -/
def State.sendable (s : State) (l : Nat) (t : TxPacket) : Bool :=
  t.port == s.get (LINK_STATE.PORT l) && s.headOf t.port t.vc == some t && s.wheelNames t.port t.vc &&
    (s.linkState l == linkUp || t.vc == 3 || t.vc == 4) &&
    decide (KMap.get (fun _ => 0) s.net.spent (creditKey t.port t.vc t.d1) + flitCount t.pkt ≤ 192)

/-- The credits that a port returns in its next frame, and what it then still owes. -/
def State.owedBytes (s : State) (port : Nat) : BitVec 128 :=
  BitVec.ofNat 128 ((List.range 16).foldl (fun a i =>
    a + min 255 (KMap.get (fun _ => 0) s.net.owed (creditKey port (i / 2) (i % 2 == 1))) * 2 ^ (8 * i)) 0)

def State.creditsGo (s : State) (port : Nat) : State :=
  s.each (List.range 16) fun s i =>
    let k := creditKey port (i / 2) (i % 2 == 1)
    { s with net := { s.net with owed := KMap.set (fun _ => 0) s.net.owed k (KMap.get (fun _ => 0) s.net.owed k - 255) } }

/-- The DATA frame that carries a packet on a link. -/
def State.frameOf (s : State) (l : Nat) (t : TxPacket) : Frame :=
  let v := s.link l
  { fseq := BitVec.ofNat 16 v.txSeq, ack := BitVec.ofNat 16 (v.rxSeq + 65535), nack := v.nack,
    pseq := BitVec.ofNat 16 (KMap.get (fun _ => 0) s.net.pseqTx t.port), credits := s.owedBytes t.port, good := true,
    corrected := false, packets := [(t.pkt, t.d1)] }

/-- A packet goes out: its frame stays in the replay buffer, its flits are spent, and its input buffer is free. -/
def State.sendFrame (s : State) (l : Nat) (t : TxPacket) : State :=
  let v := s.link l
  let f := s.frameOf l t
  let k := creditKey t.port t.vc t.d1
  let s := s.setLink l { v with txSeq := (v.txSeq + 1) % 65536, replay := v.replay ++ [f] }
  State.freeBuffer { s with net := { s.net with
    tx := s.net.tx.erase t
    pseqTx := KMap.set (fun _ => 0) s.net.pseqTx t.port ((KMap.get (fun _ => 0) s.net.pseqTx t.port + 1) % 65536)
    spent := KMap.set (fun _ => 0) s.net.spent k (KMap.get (fun _ => 0) s.net.spent k + flitCount t.pkt) } } t.held t.pkt

/-- One link's frame: its hellos and departures are taken by the peer, then at most one packet, and the port's credits. -/
def State.linkTick (s : State) (l : Nat) : State :=
  let v := s.link l
  let s := s.setLink l { v with sentHellos := [], sentDepart := none }
  if s.linkState l ≠ linkUp ∧ s.linkState l ≠ linkMgmt then s
  else
    let s := match s.net.tx.find? (s.sendable l) with
      | some t => if (s.link l).replay.length < 64 then s.sendFrame l t else s
      | none => s
    s.creditsGo (s.get (LINK_STATE.PORT l))

/-- One tick of 10 ns. Nothing happens while D22 is off. -/
def State.tick (s : State) : State :=
  if !s.domOn 22 then s
  else
    let s := s.clocks.scanReady.lanternDrains.each (List.range 24) State.linkTick
    if s.flag FALLOW_STATUS.READY then s.put FALLOW_STATUS.SCRUB_BUSY 0 else s

end Sys2Proof.Machine
end

