-- ==== Sys2Proof/WellFormed.lean ====
section
/-!
DEFINITION. Well-formed commands: what the types of `Instr` leave open and the formats of the spec bound (R6, R153,
R234, R256, R267, R360, R373, R376, R384, R476, R510).
-/
namespace Sys2Proof

/-- A header without V is a bubble, whose other bits are zero (R153). -/
def Token.wf (t : Token) : Bool := t.hdr.getLsbD 0 || decide (t = ⟨0, 0, 0⟩)

/-- Six stages of 32 lanes (R54). -/
def feedWf (f : FurrowFeed) : Bool := f.length == 6 && f.all fun st => st.length == 32

/-- NFLIT is 0 to 32 and OP is 1 to 6 (R376). -/
def Packet.wf (p : Packet) : Bool := decide (p.payload.length ≤ 32 ∧ 1 ≤ p.op.toNat ∧ p.op.toNat ≤ 6)

/-- At most nine flits, so at most nine last flits, ride in a frame (R372). -/
def Frame.wf (f : Frame) : Bool := decide (f.packets.length ≤ 9) && f.packets.all fun e => e.1.wf

/-- NC has 13 bits (R256). -/
def Segment.wf (g : Segment) : Bool := decide (g.counts.length < 2 ^ 13)

/-- Whether a command is well formed. -/
def Instr.wf : Instr → Bool
  | .registerWrite _ size _ _ => 0 < size && size ≤ 64
  | .plotCntClr _ _ => true
  | .tokenArrival _ tok _ _ _ => tok.wf
  | .creditReturn _ _ => true
  | .furrowFire _ _ feed => feedWf feed
  | .forkFire _ _ _ => true
  | .joinFire _ _ _ => true
  | .steerFire _ _ _ => true
  | .mergeFire _ _ _ => true
  | .selectFire _ _ _ => true
  | .lanternFunc _ _ => true
  | .lanternStatsRow _ _ => true
  | .statsPart _ _ => true
  | .statsMerge _ _ => true
  | .lanternSoftmaxRow _ _ => true
  | .lanternExpsumRow _ _ => true
  | .agAccess _ _ _ _ _ => true
  | .farTileFetch _ _ _ _ => true
  | .treeMaskRow _ _ _ => true
  | .scoreboardWaitEnd _ => true
  | .passIssue => true
  | .passComplete _ => true
  | .hangTimeout _ => true
  | .queryDispatch => true
  | .qans _ _ _ count => count.toNat ≤ 256
  | .noans _ _ => true
  | .queryDeadline _ => true
  | .queryWatchdog _ => true
  | .stepComplete => true
  | .wardFlushEnd => true
  | .flushed _ _ _ _ => true
  | .commit _ _ => true
  | .ringWaitEnd => true
  | .abandon _ _ _ _ => true
  | .abandonEntriesRetired => true
  | .abandoned _ _ _ => true
  | .restart _ _ => true
  | .bndTimeout => true
  | .stepLostTimeout => true
  | .stepStart _ _ => true
  | .stepHalt _ _ => true
  | .stepCtrlAbandon _ _ => true
  | .msbClr _ _ => true
  | .load _ => true
  | .loadComplete _ => true
  | .loadAbort _ => true
  | .arm _ => true
  | .disarm _ => true
  | .ready _ _ _ _ _ => true
  | .go _ _ _ => true
  | .rotationComplete => true
  | .abort _ _ _ => true
  | .rotateTimeout => true
  | .rotateLostTimeout => true
  | .planeScrubRead _ _ _ => true
  | .scoreRow _ => true
  | .dispatchSegment seg => seg.wf
  | .fetchComplete _ _ _ => true
  | .expertOutputRow _ => true
  | .combineSegment seg => seg.wf && seg.kept.length == seg.counts.length
  | .sowerCntClr _ => true
  | .gleanCntClr _ => true
  | .admitSlot _ _ _ => true
  | .cancel _ _ => true
  | .pause _ _ => true
  | .resume _ _ => true
  | .setpos _ _ _ => true
  | .release _ _ => true
  | .pageMoveComplete _ _ => true
  | .resultCheck _ => true
  | .serveEn _ _ => true
  | .serveCntClr _ _ => true
  | .claim _ _ => true
  | .drop _ _ => true
  | .harrowStreamIssue _ => true
  | .streamCopy _ _ _ _ => true
  | .streamMove _ _ _ => true
  | .streamZero _ _ => true
  | .moveFlip _ _ => true
  | .vacatedZeroed _ => true
  | .harrowStreamComplete _ _ _ => true
  | .harrowCancel _ _ => true
  | .harrowCntClr _ => true
  | .reclaimStart _ _ => true
  | .reclaim _ _ _ _ => true
  | .released _ _ _ _ => true
  | .reclaimTimeout => true
  | .revoked _ _ _ _ => true
  | .subsoilCfgWrite _ _ => true
  | .topsoilCntClr _ => true
  | .subsoilCntClr _ => true
  | .patrolRead _ line _ _ => line < 2 ^ 36
  | .fallowRead _ _ _ => true
  | .fallowReadDone _ => true
  | .fallowWrite _ => true
  | .fallowScrubPeriod _ => true
  | .scrubNow _ _ => true
  | .fallowRepair _ => true
  | .instBegin _ => true
  | .instManifest _ => true
  | .instCommit _ => true
  | .instAbort _ => true
  | .commitPointerEffect => true
  | .drillStart _ _ => true
  | .drillCtrlAbort _ _ => true
  | .drillCntClr _ _ => true
  | .drillEntry _ header entry _ later _ => header.length == 8 && entry.length == 8 && later.length < 64
  | .chunk _ _ _ _ => true
  | .drillCredit _ _ _ => true
  | .bypassTimeout => true
  | .bypass _ _ _ _ => true
  | .next _ _ _ => true
  | .watermark _ _ _ _ => true
  | .result _ _ _ _ _ => true
  | .drillAbort _ _ => true
  | .drillIdleTimeout => true
  | .dataFrame _ f => f.wf
  | .idleFrame _ f => f.packets.isEmpty
  | .hello _ _ => true
  | .helloTimer _ => true
  | .depart _ _ _ => true
  | .laneAlignLoss _ => true
  | .frameTimeout _ => true
  | .linkTrained _ _ => true
  | .packetInject p => p.pkt.wf
  | .packetReceive _ _ p => p.wf
  | .write p => p.wf && p.op == 1
  | .read p => p.wf && p.op == 2 && p.payload.isEmpty
  | .readData p => p.wf && p.op == 3
  | .writeAck p => p.wf && p.op == 5 && p.payload.isEmpty
  | .refused p => p.wf && p.op == 6 && p.payload.isEmpty
  | .packetAgeTimeout _ _ => true
  | .answerTimeout _ => true
  | .mcStallWarn _ _ => true
  | .linkReset _ _ => true
  | .linkDisable _ _ => true
  | .linkEnable _ _ => true
  | .apply _ => true
  | .clear _ => true
  | .routeMcWrite _ _ _ => true
  | .routeFailedWrite _ _ => true
  | .candleDomWrite _ _ => true
  | .domainSwitchClose => true
  | .domainPowered _ _ => true
  | .stripAutoOff _ => true
  | .fallowAutoOff => true
  | .pwrGrant _ => true
  | .clockFieldWrite _ _ => true
  | .clockCoreWrite _ _ _ => true
  | .sysrefLost => true
  | .refLost => true
  | .capWrite _ _ => true
  | .capFast _ _ => true
  | .governorTick _ => true
  | .glowLoop _ => true
  | .msInterval _ _ _ => true
  | .ledgerSign => true
  | .snuff _ => true
  | .candleLampWrite _ _ => true
  | .sleep _ _ => true
  | .wakeTimer => true
  | .hostWake => true
  | .thermalTrip => true
  | .railDroop => true
  | .candlePowerOn _ => true
  | .warmReset _ => true
  | .resetNRise _ _ => true
  | .topsoilReady _ _ => true
  | .fallowReady _ => true
  | .firmwareVerified _ _ _ _ => true
  | .subInit _ _ => true
  | .subsoilReady _ => true
  | .fieldReset _ _ => true
  | .fieldHold _ _ => true
  | .trayLatch _ _ => true
  | .drain _ _ _ => true
  | .haltAt _ _ => true
  | .seal _ _ _ => true
  | .latchSealTimeout => true
  | .freeze _ _ => true
  | .wardCfg _ _ _ _ members => 3 ≤ members.length && members.length ≤ 5
  | .chainUnit _ _ _ _ bytes => bytes.length == 65536
  | .wardDelta _ _ _ _ _ => true
  | .wardEnable _ => true
  | .wardDisable _ => true
  | .wardInit _ => true
  | .wardFreeze _ => true
  | .commitTo _ => true
  | .loadSrec _ => true
  | .rebuild _ => true
  | .attest _ => true
  | .planInstall _ => true
  | .jobEnd _ => true
  | .scrub _ => true
  | .scrubComplete => true
  | .debugNonce _ => true
  | .debugUnlock _ => true
  | .fabricRekey _ => true
  | .hostSession _ => true
  | .hostSignature _ _ => true
  | .key _ _ => true
  | .pair _ aliasCert identCert => aliasCert.length == 256 && identCert.length == 512
  | .genDrainEnd => true
  | .keyTimeout => true
  | .bistRun _ => true
  | .bistRunDone _ _ => true
  | .bistAbort _ => true
  | .bistApply _ => true
  | .listWrite _ => true
  | .fuse _ _ => true
  | .sysrefReturn => true
  | .candleRailLoss => true
  | .thermalClear => true
  | .catchUpStall => true
  | .poolPageZeroed _ => true

end Sys2Proof
end

