-- ==== Sys2Proof/Safety.lean ====
section
/-!
DEFINITION. What statements about the block are said with: the invariant of every state that a run can reach, and what
a command leaves as it was.
-/
namespace Sys2Proof.Machine

/-! ### The invariant -/

/-- A tier's contents are in their one form: cells and bad granules strictly rising, none equal to what an unlisted
address reads as. -/
def Mem.wf (m : Mem) : Bool := KMap.wf (memDefault m.epoch) m.cells && KMap.wf (fun _ => false) m.bad

/-- Registers, result registers and the three memories are in their one form, and the alias certificate fits its place in
the attestation report (R510, R511). -/
def Inv (s : State) : Prop :=
  KMap.wf regReset s.regs = true ∧ KMap.wf (fun _ => 0) s.results = true ∧
    s.seedbed.wf = true ∧ s.topsoil.wf = true ∧ s.subsoil.wf = true ∧ s.lamp.aliasCert.length ≤ 256

/-- A step answers a next state. -/
def Runs (s : State) : Prop := ∃ t, step s = .next t

/-! ### Access -/

/-- A control-space write of the register at `off` takes effect: its source has the level, and the register's domain is
powered and not under test (R412, R502, R529). -/
abbrev Takes (s : State) (src : Source) (off lvl : Nat) : Prop :=
  lvl ≤ s.level src ∧ s.waitsFor off = false ∧ s.gatedAt off = false

/-- The commands that are a write of one control register: source, register offset, level that the write takes, and the
value written (R565, R570, R571 and the register tables). A command named for an action bit writes that bit as well. -/
def controlWrite : Instr → Option (Source × Nat × Nat × W64)
  | .plotCntClr src p => some (src, 0x200018 + 0x1000 * p.toNat, 1, 1)
  | .qans src qid b n => some (src, 0x400B0, 1, BitVec.ofNat 64 (qid.toNat + 2 ^ 16 * b.toNat + 2 ^ 21 * n.toNat))
  | .noans src qid => some (src, 0x400B0, 1, BitVec.ofNat 64 (qid.toNat + 2 ^ 20))
  | .stepStart src v => some (src, 0x40000, 1, v ||| 1)
  | .stepHalt src v => some (src, 0x40000, 1, v ||| 2)
  | .stepCtrlAbandon src v => some (src, 0x40000, 1, v ||| 4)
  | .msbClr src v => some (src, 0x40000, 1, v ||| 8)
  | .load w => some (w.src, 0x50000, 1, 1)
  | .loadAbort src => some (src, 0x50000, 1, 2)
  | .arm src => some (src, 0x50000, 1, 4)
  | .disarm src => some (src, 0x50000, 1, 8)
  | .sowerCntClr src => some (src, 0x60000, 1, 1)
  | .gleanCntClr src => some (src, 0x70000, 1, 1)
  | .admitSlot src n p => some (src, 0x100050, 1, BitVec.ofNat 64 (1 + 16 * n.toNat + 2 ^ 14 * bit p))
  | .cancel src n => some (src, 0x100050, 1, BitVec.ofNat 64 (2 + 16 * n.toNat))
  | .pause src n => some (src, 0x100050, 1, BitVec.ofNat 64 (3 + 16 * n.toNat))
  | .resume src n => some (src, 0x100050, 1, BitVec.ofNat 64 (4 + 16 * n.toNat))
  | .setpos src n a => some (src, 0x100050, 1, BitVec.ofNat 64 (5 + 16 * n.toNat + 2 ^ 16 * a.toNat))
  | .release src n => some (src, 0x100050, 1, BitVec.ofNat 64 (6 + 16 * n.toNat))
  | .serveEn src v => some (src, 0x100000, 1, v)
  | .serveCntClr src v => some (src, 0x100000, 1, v)
  | .claim src i => some (src, 0x90008, 1, BitVec.ofNat 64 (1 + 4 * i.toNat))
  | .drop src i => some (src, 0x90008, 1, BitVec.ofNat 64 (2 + 4 * i.toNat))
  | .harrowCancel src p => some (src, 0x80000, 1, BitVec.ofNat 64 (1 + 65536 * p.toNat))
  | .harrowCntClr src => some (src, 0x80000, 1, 2)
  | .reclaimStart src v => some (src, 0x90018, 2, v)
  | .subsoilCfgWrite src v => some (src, 0xB0000, 1, v)
  | .topsoilCntClr src => some (src, 0xA0008, 1, 1)
  | .subsoilCntClr src => some (src, 0xB0010, 1, 1)
  | .scrubNow src _ => some (src, 0xC0008, 2, 5)
  | .instBegin src => some (src, 0xC0008, 2, 1)
  | .instManifest src => some (src, 0xC0008, 2, 2)
  | .instCommit src => some (src, 0xC0008, 2, 3)
  | .instAbort src => some (src, 0xC0008, 2, 4)
  | .drillStart src v => some (src, 0xD0000, 1, v ||| 1)
  | .drillCtrlAbort src v => some (src, 0xD0000, 1, v ||| 2)
  | .drillCntClr src v => some (src, 0xD0000, 1, v ||| 8)
  | .linkReset src l => some (src, 0xE0000, 2, BitVec.ofNat 64 (l.val + 32))
  | .linkDisable src l => some (src, 0xE0000, 2, BitVec.ofNat 64 (l.val + 64))
  | .linkEnable src l => some (src, 0xE0000, 2, BitVec.ofNat 64 (l.val + 128))
  | .apply src => some (src, 0xF0020, 2, 1)
  | .clear src => some (src, 0xF0020, 2, 2)
  | .routeMcWrite src g v => some (src, 0xF0200 + 8 * g.toNat, 1, v)
  | .routeFailedWrite src v => some (src, 0xF0038, 2, v)
  | .candleDomWrite src v => some (src, 0x10010, 2, v)
  | .clockFieldWrite src v => some (src, 0x20000, 2, v)
  | .clockCoreWrite src c v => some (src, if c then 0x20010 else 0x20008, 2, v)
  | .capWrite src v => some (src, 0x10000, 2, v)
  | .candleLampWrite src v => some (src, 0x10078, 2, v)
  | .sleep src v => some (src, 0x10080, 3, v)
  | .subInit src v => some (src, 0x20, 1, v ||| 4)
  | .fieldReset src v => some (src, 0x20, 1, v ||| 1)
  | .fieldHold src v => some (src, 0x20, 1, v)
  | .wardEnable src => some (src, 0x110000, 1, 1)
  | .wardDisable src => some (src, 0x110000, 1, 2)
  | .wardInit src => some (src, 0x110000, 1, 3)
  | .wardFreeze src => some (src, 0x110000, 1, 4)
  | .commitTo src => some (src, 0x110000, 1, 5)
  | .loadSrec src => some (src, 0x110000, 1, 6)
  | .rebuild src => some (src, 0x110000, 1, 7)
  | .attest src => some (src, 0x30000, 1, 1)
  | .planInstall src => some (src, 0x30000, 2, 2)
  | .jobEnd src => some (src, 0x30000, 2, 3)
  | .scrub src => some (src, 0x30000, 2, 4)
  | .debugNonce src => some (src, 0x30000, 2, 5)
  | .debugUnlock src => some (src, 0x30000, 2, 6)
  | .fabricRekey src => some (src, 0x30000, 2, 7)
  | .hostSession src => some (src, 0x30000, 2, 8)
  | .hostSignature src v => some (src, 0x30090, 0, v)
  | .bistRun src => some (src, 0x130000, 2, 1)
  | .bistAbort src => some (src, 0x130000, 2, 2)
  | .bistApply src => some (src, 0x130000, 2, 3)
  | .listWrite src => some (src, 0x130000, 2, 4)
  | .fuse src _ => some (src, 0x130000, 2, 5)
  | _ => none

/-- The state in which a control write stands: LOAD brings the level of the COMPAT pin (R112, R463). -/
def asWritten (c : Instr) (s : State) : State :=
  match c with
  | .load w => s.compatPin w.compat
  | _ => s

/-- The control writes whose row carries more than the write does: what a scrub pass finds (R355), and VPP_FUSE (R564). -/
def carriesMore : Instr → Bool
  | .scrubNow _ _ => true
  | .fuse _ _ => true
  | _ => false

/-! ### Power -/

/-- The part is off by the sequence of R439: only D0 is on, Topsoil and Subsoil are lost, and the attention lamp
is forced. -/
def PoweredOff (t : State) (cause : Nat) : Prop :=
  t.get CANDLE_DSTAT.ON = 1 ∧ t.get CANDLE_DSTAT.PEND = 0 ∧ t.topsoil = .zero ∧ t.subsoil = .zero ∧ t.seedbed = .zero ∧
    t.lit = .cleared ∧ t.dark = .cleared ∧ t.power.snuffed = true ∧ t.power.cause = cause ∧ t.power.warm = false ∧
    t.get CANDLE_LAMP.FORCED = 1 ∧ t.get CANDLE_LAMP.MODE = 3

/-- A start has begun (R447, R453): its cause, the boot ROM, no slice, an idle scheduler; a warm one keeps Topsoil, a cold one
zeroes it and Subsoil and forgets the last descriptor issued. -/
def Started (s t : State) (warm : Bool) (cause : Nat) : Prop :=
  t.get CHIP_RESET.CAUSE = cause ∧ t.power.boot = 1 ∧ t.power.asleep = false ∧ t.power.snuffed = false ∧ t.power.falStart = true ∧
    t.net.slice = none ∧ t.stepState = stepStopped ∧ t.lit = .cleared ∧ t.dark = .cleared ∧ t.get LAMP_HSESS.LEVEL = 0 ∧
    (warm = true → t.topsoil = s.topsoil ∧ t.get LAMP_JOB.SCRUBBED = 0 ∧ t.net.lastIssued = s.net.lastIssued) ∧
    (warm = false → t.topsoil = .zero ∧ t.subsoil = .zero ∧ t.net.lastIssued = 0)

/-! ### Frames -/

/-- Every byte of Seedbed, Topsoil and Subsoil reads as before, but those that `p` names by tier (0, 1, 2) and offset. -/
def SameMemoryBut (p : Nat → Nat → Prop) (s t : State) : Prop :=
  ∀ a, (¬ p 0 a → t.seedbed.byte 8 a = s.seedbed.byte 8 a) ∧ (¬ p 1 a → t.topsoil.byte 64 a = s.topsoil.byte 64 a) ∧
    (¬ p 2 a → t.subsoil.byte 64 a = s.subsoil.byte 64 a)

/-- Every byte of memory reads as before. -/
def SameMemory (s t : State) : Prop := SameMemoryBut (fun _ _ => False) s t

/-- Every register of control space reads as before but those at the offsets of `l`. -/
def SameRegsBut (l : List Nat) (s t : State) : Prop := ∀ off, off ∉ l → t.reg off = s.reg off

/-- Every field of a register but those of `l` is as before. -/
def SameFieldsBut (l : List Fld) (s t : State) : Prop :=
  ∀ f : Fld, (∀ g ∈ l, f.reg ≠ g.reg ∨ f.lo + f.len ≤ g.lo ∨ g.lo + g.len ≤ f.lo) → t.get f = s.get f

end Sys2Proof.Machine
end

