-- ==== Sys2Proof/Certificates/Slice0/Obligations.lean ====
section
/-!
DEFINITION. The statements for the provers. Each names the rules of the spec that it rests on in OBLIGATIONS.json; the
docstring says which clauses are the model's own choice, by assumption number. "Takes" is the access condition of a
control-space write.
-/

open Sys2Proof Sys2Proof.Machine

/-! ### The queue and the invariant -/

/-- A step takes the command at the front of the queue and runs it on the state with the queue's rest. With no command
waiting a step is one tick of 10 ns (assumption 3): while domain D22 is off nothing changes, and while it is on STEP_QCLK
counts one tick. -/
def Obligations.StepRunsFrontCommand : Prop :=
  (∀ (c : Instr) (rest : List Instr) (s : State), s.pending = c :: rest → step s = exec c { s with pending := rest }) ∧
  ∀ s : State, s.pending = [] →
    (s.domOn 22 = false → step s = .next s) ∧
    (s.domOn 22 = true → ∃ t, step s = .next t ∧ t.get STEP_QCLK.TICKS = (s.get STEP_QCLK.TICKS + 1) % 2 ^ 64 ∧
      t.pending = [] ∧ SameMemory s t ∧ t.lit = s.lit ∧ t.dark = s.dark ∧ t.sched = s.sched)

/-- Every step keeps the invariant: registers, result registers and the three memories stay in their one form, in which
equal contents are equal data, and the alias certificate fits the attestation report. -/
def Obligations.EveryStepKeepsInvariant : Prop := ∀ s t : State, Inv s → step s = .next t → Inv t

/-- No command stops the block, and only the step takes commands from the queue: every command in every state answers a
next state with the same commands waiting. A command that is a control write, or REGISTER_WRITE of a listed register of this
chip, completes with the effect of that register's write wherever the write is taken: its source has the level (R502), the
register's domain is powered (R412) and its unit is not under test (R529). -/
def Obligations.EveryCommandAnswers : Prop :=
  (∀ (c : Instr) (s : State), ∃ t, exec c s = .next t ∧ t.pending = s.pending) ∧
  (∀ (c : Instr) (s : State) (src : Source) (off lvl : Nat) (val : W64), controlWrite c = some (src, off, lvl, val) →
    carriesMore c = false → Takes (asWritten c s) src off lvl → exec c s = .next ((asWritten c s).regAct src off val)) ∧
  ∀ (s : State) (src : Source) (off : Nat) (val : W64), listed off = true → off % 8 = 0 →
    off < 0x150000 ∨ 0x200000 ≤ off → off < 0x400000 → Takes s src off (s.levelFor off val) →
    exec (.registerWrite src 8 (BitVec.ofNat 64 (s.gaddr 3 off)) val) s = .next (s.regAct src off val)

/-- At Candle power-on D0 alone is powered, every tier of memory reads as zero, no plane is valid, the step machine is
STOPPED and no command waits. Every register and result register holds its reset value, and the state meets the invariant. -/
def Obligations.ResetState : Prop :=
  Inv State.reset ∧
  State.reset.get CANDLE_DSTAT.ON = 1 ∧ State.reset.pending = [] ∧ State.reset.stepState = stepStopped ∧
  State.reset.get ROTATE_STATUS.LIT_VALID = 0 ∧ State.reset.get ROTATE_STATUS.DARK_VALID = 0 ∧
  (∀ a, State.reset.seedbed.byte 8 a = 0 ∧ State.reset.topsoil.byte 64 a = 0 ∧ State.reset.subsoil.byte 64 a = 0) ∧
  (∀ off, State.reset.reg off = regReset off) ∧ ∀ off src, State.reset.result off src = 0

/-! ### Access to control space -/

/-- A control-space write by any of the commands that is one: below its level it changes nothing but the error log, which
names the register and the level; a register whose domain is on its way up lets the write wait; and a register that is off
records a gated target. -/
def Obligations.ControlWritesRefused : Prop :=
  ∀ (c : Instr) (s : State) (src : Source) (off lvl : Nat) (val : W64), controlWrite c = some (src, off, lvl, val) →
    let s := asWritten c s
    (s.level src < lvl →
      exec c s = .next (s.errlog { cls := 1, block := blockOf off, plot := plotOf off, detail := lvl, addr := s.gaddr 3 off })) ∧
    (lvl ≤ s.level src → s.waitsFor off = true →
      exec c s = .next { s with power := { s.power with waits := s.power.waits ++ [(src, off, val)] } }) ∧
    (lvl ≤ s.level src → s.waitsFor off = false → s.gatedAt off = true →
      exec c s = .next (s.errlog { cls := 2, block := blockOf off, plot := plotOf off, addr := s.gaddr 3 off }))

/-- An error record: with room in the ring the four words of R496 stand at HEAD, HEAD moves on, and the Lamplighter and
the cores of an interrupting class are told; with the ring full only DROPPED counts, to its saturation; while D22 is off
nothing is recorded (assumption 13). -/
def Obligations.ErrorRecord : Prop :=
  ∀ (s : State) (r : ErrRec),
    (s.domOn 22 = false → s.errlog r = s) ∧
    (s.domOn 22 = true → idxSub 32 (s.get ERRLOG_PTR.HEAD) (s.get ERRLOG_PTR.TAIL) ≠ 256 →
      let i := s.get ERRLOG_PTR.HEAD % 256
      let t := s.errlog r
      t.reg (0x121000 + 0x20 * i) = BitVec.ofNat 64 r.word0 ∧ t.reg (0x121008 + 0x20 * i) = BitVec.ofNat 64 r.addr ∧
      t.reg (0x121010 + 0x20 * i) = s.reg 0x40010 ∧
      t.get (ERRLOG_REC.WORD i 3) = s.get STEP_QCLK.TICKS % 2 ^ 48 + r.bitPos % 128 * 2 ^ 48 + r.nbits % 8 * 2 ^ 55 ∧
      t.get ERRLOG_PTR.HEAD = (s.get ERRLOG_PTR.HEAD + 1) % 2 ^ 32 ∧
      t.sched.coreIrq = (if s.get ERRLOG_IRQ.CLASSES / 2 ^ (r.cls - 1) % 2 = 1 then
        s.sched.coreIrq ||| BitVec.ofNat 16 (s.get ERRLOG_IRQ.CORES) else s.sched.coreIrq) ∧
      t = { s with regs := t.regs, sched := { s.sched with coreIrq := t.sched.coreIrq, lampNotice := true } } ∧
      SameFieldsBut [ERRLOG_REC.WORD i 0, ERRLOG_REC.WORD i 1, ERRLOG_REC.WORD i 2, ERRLOG_REC.WORD i 3, ERRLOG_PTR.HEAD] s t) ∧
    (s.domOn 22 = true → idxSub 32 (s.get ERRLOG_PTR.HEAD) (s.get ERRLOG_PTR.TAIL) = 256 →
      (s.errlog r).get ERRLOG_STATUS.DROPPED = min 65535 (s.get ERRLOG_STATUS.DROPPED + 1) ∧
      s.errlog r = { s with regs := (s.errlog r).regs } ∧ SameFieldsBut [ERRLOG_STATUS.DROPPED] s (s.errlog r))

/-- REGISTER_WRITE of a register whose write does nothing but store it: a register of the STEP, ROTATE, SOWER, HARROW,
LINK, SERVE, WARD and ERRLOG blocks with settings alone. Each field takes its value by its access code, with RW values
normalised as R574 and the field's rule say, and every other register keeps its value. -/
def Obligations.RegisterWriteStores : Prop :=
  ∀ (s : State) (src : Source) (off : Nat) (val : W64) (r : RegSpec),
    off ∈ [0x40020, 0x40028, 0x40030, 0x40038, 0x40060, 0x40068, 0x40070, 0x40078, 0x400A0, 0x400C0, 0x400D8, 0x400E0, 0x400E8,
      0x400F0, 0x400F8, 0x50010, 0x50018, 0x50028, 0x50048, 0x50050, 0x60018, 0x60020, 0x80010, 0x80018, 0x80030, 0x80038,
      0xE0008, 0xE0020, 0x100010, 0x100018, 0x100020, 0x110030, 0x1100A0, 0x120008, 0x120010] →
    findReg off = some r → Takes s src off 1 →
    ∃ t, exec (.registerWrite src 8 (BitVec.ofNat 64 (s.gaddr 3 off)) val) s = .next t ∧
      (∀ f ∈ r.fields, bitsOf (t.reg off) f.lo f.len = (match f.acc with
        | .rw => f.norm.apply (bitsOf val f.lo f.len) % 2 ^ f.len
        | .w1c => bitsOf (s.reg off &&& ~~~val) f.lo f.len
        | _ => bitsOf (s.reg off) f.lo f.len)) ∧
      t = { s with regs := t.regs } ∧ SameRegsBut [off] s t

/-- REGISTER_WRITE elsewhere: an access that is not 8 bytes, aligned and inside control space is an address fault; another
chip's control space takes L2 and is reached by a WRITE packet of one flit on VC 3, below L2 it is an address fault; an
offset that no chapter lists takes the write without effect. -/
def Obligations.RegisterWriteElsewhere : Prop :=
  ∀ (s : State) (src : Source) (size off dst : Nat) (val : W64), off < 0x400000 →
    (size ≠ 8 ∨ off % 8 ≠ 0 →
      exec (.registerWrite src size (BitVec.ofNat 64 (s.gaddr 3 off)) val) s = .next (s.addrFault (blockOf off) (s.gaddr 3 off))) ∧
    (off % 8 = 0 → off < 0x150000 ∨ 0x200000 ≤ off → listed off = false →
      exec (.registerWrite src 8 (BitVec.ofNat 64 (s.gaddr 3 off)) val) s = .next s) ∧
    (off % 8 = 0 → dst < 64 → s.chipAt dst ≠ s.self →
      (s.level src < 2 →
        exec (.registerWrite src 8 (BitVec.ofNat 64 (s.chipAt dst * 2 ^ 44 + 3 * 2 ^ 42 + off)) val) s =
          .next (s.addrFault (blockOf off) (s.chipAt dst * 2 ^ 44 + 3 * 2 ^ 42 + off))) ∧
      (2 ≤ s.level src →
        ∃ t p, exec (.registerWrite src 8 (BitVec.ofNat 64 (s.chipAt dst * 2 ^ 44 + 3 * 2 ^ 42 + off)) val) s = .next t ∧
          t.net.outbox = s.net.outbox ++ [p] ∧ p.vc = 3 ∧ p.op = 1 ∧ p.dst.toNat = s.chipAt dst ∧ p.src.toNat = s.self ∧
          p.addr.toNat = s.chipAt dst * 2 ^ 44 + 3 * 2 ^ 42 + off ∧ p.priv = BitVec.ofNat 2 (s.level src) ∧
          p.payload = [payOfBytes (leBytes 8 val.toNat)] ∧ p.tag = BitVec.ofNat 16 s.net.nextTag ∧
          t.net.requests = s.net.requests ++ [⟨s.net.nextTag % 65536, 3, .control,
            s.chipAt dst * 2 ^ 44 + 3 * 2 ^ 42 + off⟩] ∧
          t = { s with net := { s.net with outbox := t.net.outbox, requests := t.net.requests, nextTag := s.net.nextTag + 1 } }))

/-! ### The Step Scheduler -/

/-- STEP_CTRL. HIGH_CLR sets the scoreboard's high-water mark to 0. HALT stays pending in a running step and is ignored in
STOPPED and HALTED. ABANDON of a step that has not been flushed reports cause 3 to the leader; after FLUSHED the cause is
kept for the next step; in STOPPED and HALTED it is ignored. START in STOPPED saves the tags and begins a step, and does
nothing while DRAINED is 0. QMASK takes its written value in STOPPED alone. -/
def Obligations.StepControl : Prop :=
  ∀ (s : State) (src : Source) (val : W64), Takes s src 0x40000 1 →
    (val &&& 7 = 0 → ∃ t, exec (.msbClr src val) s = .next t ∧ t.get STEP_MSB.HIGH = 0 ∧
      t.get STEP_CTRL.QMASK = (if s.stepState = stepStopped then bitsOf val 4 4 else s.get STEP_CTRL.QMASK) ∧
      t = { s with regs := t.regs } ∧ SameFieldsBut [STEP_MSB.HIGH, STEP_CTRL.QMASK] s t) ∧
    (val &&& 13 = 0 → ∃ t, exec (.stepHalt src val) s = .next t ∧
      t.sched.haltReq = (s.sched.haltReq || decide (s.stepState ≠ stepStopped ∧ s.stepState ≠ stepHalted)) ∧
      t = { s with regs := t.regs, sched := { s.sched with haltReq := t.sched.haltReq } } ∧
      SameFieldsBut [STEP_CTRL.QMASK] s t) ∧
    (val &&& 11 = 0 → s.stepState = stepRunning ∨ s.stepState = stepBoundary → s.sched.descHalt = false →
      (s.sched.flushedSent = false ∨ s.sched.committed = true → exec (.stepCtrlAbandon src val) s = .next (s.send 3 0x0202 s.leaderAt
        (stepMsg (s.get STEP_NUM.STEP) [3, BitVec.ofNat 8 (s.get ROUTE_SELF.INDEX)]))) ∧
      (s.sched.flushedSent = true → s.sched.committed = false →
        exec (.stepCtrlAbandon src val) s = .next { s with sched := { s.sched with chargeNext := some 3 } })) ∧
    (val &&& 11 = 0 → s.stepState = stepHalted → exec (.stepCtrlAbandon src val) s = .next s) ∧
    (val &&& 14 = 0 → s.stepState = stepStopped → s.get LAMP_JOB.DRAINED = 1 → s.sched.chargeNext = none →
      s.sched.heldAbandon = none → ∃ t, exec (.stepStart src val) s = .next t ∧ t.stepState = stepRunning ∧
      t.get STEP_STATUS.STEP_END_DONE = 0 ∧ t.get STEP_CTRL.QMASK = bitsOf val 4 4 ∧
      t.sched.savedTags0 = s.reg 0x40080 ∧ t.sched.savedTags1 = s.reg 0x40088 ∧ t.sched.queries = [] ∧
      t.sched.passesDone = 0 ∧ t.sched.endIssued = 0 ∧ t.sched.inflight = s.sched.inflight ∧
      t = { s with regs := t.regs, sched := t.sched, moe := { s.moe with stepSlots := [] } } ∧
      SameFieldsBut [STEP_STATUS.STATE, STEP_STATUS.STEP_END_DONE, STEP_CTRL.QMASK] s t) ∧
    (val &&& 14 = 0 → s.stepState ≠ stepStopped → s.get LAMP_JOB.DRAINED = 0 → exec (.stepStart src val) s = .next s)

/-- Issue of a Pass from the first queue that has one to examine: a descriptor that breaks R220 stops the step, and a good
one whose tags, units and places are free goes in flight as its bucket's variant. -/
def Obligations.PassIssue : Prop :=
  ∀ (s : State) (q : Nat), q < 4 → s.issueOpen = true → s.queueOpen q = true → (∀ p, p < q → s.queueOpen p = false) →
    let i := s.get (STEP_QHEAD.ISSUE q)
    let d := s.descAt q i
    (descRefused s.lit.passes d = true → s.sched.flushedSent = false → ∃ t, exec .passIssue s = .next t ∧
      t.stepState = stepHalted ∧ t.get STEP_ERR.DESC_BAD = 1 ∧ t.get STEP_ERR.DESC_Q = q ∧ t.get STEP_ERR.DESC_IDX = i ∧
      t.sched.inflight = s.sched.inflight ∧ t.seedbed = s.seedbed ∧ t.lit = s.lit ∧ t.field = s.field) ∧
    (∀ r, descRefused s.lit.passes d = false → s.runOf d = some r → s.mayIssue r.1 = true → s.engineRefuses r.1 = false →
      ∃ t p, exec .passIssue s = .next t ∧ t.sched.inflight = s.sched.inflight ++ [p] ∧ p.desc = r.1 ∧ p.queue = q ∧ p.pos = i ∧
        p.template = r.2.1 ∧ p.bucket = r.2.2.1 ∧ p.issueCycle = s.field.cycle ∧
        t.get (STEP_QHEAD.ISSUE q) = (i + 1) % 65536 ∧ t.get STEP_STATUS.INFLIGHT = s.sched.inflight.length + 1 ∧
        t.lit = s.lit ∧ t.dark = s.dark) ∧
    (∀ r, descRefused s.lit.passes d = false → s.runOf d = some r → s.mayIssue r.1 = false →
      (∀ p, p < 4 → q < p → s.queueOpen p = false) → exec .passIssue s = .next s)

/-- Completion of a Pass in flight that is done, outside a power hold: it leaves flight, its tags are cleared and set, and
the planes and the other tiers stay. A hang while it is in flight charges cause 2 to the step. A waiting operation that
nothing blocks takes its scoreboard entry. -/
def Obligations.PassCompletion : Prop :=
  ∀ (s : State),
    (∀ (n : BitVec 16) (p : PassSt), s.get CANDLE_GOV.HOLD = 0 → s.sched.inflight.find? (fun p => p.pseq == n.toNat) = some p →
      s.passDone p.pseq = true → ∃ t, exec (.passComplete n) s = .next t ∧
        t.sched.inflight = s.sched.inflight.filter (fun x => x.pseq != p.pseq) ∧
        t.sched.passesDone = s.sched.passesDone + 1 ∧
        (∀ j, j < 2 → t.reg (0x40080 + 8 * j) = s.reg (0x40080 + 8 * j) &&& ~~~passWord p.desc (6 + j) ||| passWord p.desc (4 + j)) ∧
        t.lit = s.lit ∧ t.dark = s.dark ∧ t.seedbed = s.seedbed ∧ t.subsoil = s.subsoil) ∧
    (∀ (n : BitVec 16), s.sched.inflight.any (fun p => p.pseq == n.toNat) = true → s.stepState = stepRunning →
      s.sched.descHalt = false → s.sched.flushedSent = false → exec (.hangTimeout n) s = .next ((s.put STEP_ERR.HANG 1).send 3 0x0202
        s.leaderAt (stepMsg (s.get STEP_NUM.STEP) [2, BitVec.ofNat 8 (s.get ROUTE_SELF.INDEX)]))) ∧
    (∀ (n : Nat) (o : MemOp), s.get CANDLE_GOV.HOLD = 0 → s.sched.waiting.find? (fun o => o.ticket == n) = some o →
      s.boardBlocks o = false → ∃ t, exec (.scoreboardWaitEnd n) s = .next t ∧ t.sched.entries = s.sched.entries ++ [o] ∧
        t.sched.waiting = s.sched.waiting.erase o ∧ t.get STEP_MSB.USED = (s.sched.entries.length + 1) % 2 ^ 15 ∧
        t = { s with regs := t.regs, sched := { s.sched with entries := t.sched.entries, waiting := t.sched.waiting, inflight := t.sched.inflight } } ∧
        SameFieldsBut [STEP_MSB.USED, STEP_MSB.HIGH] s t)

/-- Queries. The oldest undispatched one goes to the lowest-numbered idle core, which is interrupted. An answer in time by
the core that holds the query settles the answered bucket, and NOANS frees the core; a deadline settles bucket NB_M1 by
default; an answer of a core that holds nothing is refused; and a core that holds a query too long is marked STUCK. -/
def Obligations.Queries : Prop :=
  ∀ (s : State),
    (∀ q c, s.outstanding.find? (fun q => q.core.isNone) = some q → s.idleCore = some c →
      ∃ t, exec .queryDispatch s = .next t ∧ t.coreQuery c = some q.qid ∧
        t.sched.coreIrq = s.sched.coreIrq ||| BitVec.ofNat 16 (2 ^ c) ∧
        t.sched.queries = s.sched.queries.map (fun x => if x.qid = q.qid then { x with core := some c } else x) ∧
        t = { s with sched := t.sched }) ∧
    (∀ (i : BitVec 4) (m : Bool) (n : BitVec 16), Takes s (.core i m) 0x400B0 1 → ∃ t, exec (.noans (.core i m) n) s = .next t ∧
      t.coreQuery i.toNat = none ∧ t.get WARD_CORE.STUCK = s.get WARD_CORE.STUCK &&& (65535 - 2 ^ i.toNat) ∧
      t = { s with regs := t.regs, sched := { s.sched with coreHolds := t.sched.coreHolds } } ∧ SameFieldsBut [WARD_CORE.STUCK] s t) ∧
    (∀ (i : BitVec 4) (m : Bool) (n : BitVec 16) (b : BitVec 4) (k : BitVec 9), Takes s (.core i m) 0x400B0 1 →
      s.coreQuery i.toNat = none → ∃ t, exec (.qans (.core i m) n b k) s = .next t ∧
        t.get STEP_QSTAT.REFUSED = min (2 ^ STEP_QSTAT.REFUSED.len - 1) (s.get STEP_QSTAT.REFUSED + 1) ∧
        t = { s with regs := t.regs } ∧ SameFieldsBut [STEP_QSTAT.REFUSED] s t) ∧
    (∀ (i : BitVec 4) (m : Bool) (n : BitVec 16) (b : BitVec 4) (q : Query), Takes s (.core i m) 0x400B0 1 →
      s.sched.queries.find? (fun q => q.qid == n.toNat && q.core == some i.toNat) = some q → s.coreQuery i.toNat = some n.toNat →
      q.outstanding = true → b.toNat ≤ q.nbM1 →
      ∃ t, exec (.qans (.core i m) n b 0) s = .next t ∧ t.coreQuery i.toNat = none ∧
        t.get STEP_QSTAT.ONTIME = min (2 ^ STEP_QSTAT.ONTIME.len - 1) (s.get STEP_QSTAT.ONTIME + 1) ∧
        (∀ x ∈ t.sched.queries, x.qid = n.toNat → x.outstanding = false ∧ x.settled = some (b.toNat, false)) ∧
        ((∀ mb w, s.sower mb = some w → w.qid ≠ some n.toNat) → t.topsoil = s.topsoil) ∧ t.lit = s.lit ∧ t.dark = s.dark) ∧
    (∀ (n : BitVec 16) (q : Query), s.outstanding.find? (fun q => q.qid == n.toNat) = some q →
      ∃ t, exec (.queryDeadline n) s = .next t ∧
        t.get STEP_QSTAT.LATE = min (2 ^ STEP_QSTAT.LATE.len - 1) (s.get STEP_QSTAT.LATE + 1) ∧
        (∀ x ∈ t.sched.queries, x.qid = n.toNat → x.outstanding = false ∧ x.settled = some (q.nbM1, true)) ∧
        ((∀ mb w, s.sower mb = some w → w.qid ≠ some n.toNat) → t.topsoil = s.topsoil) ∧ t.lit = s.lit ∧ t.dark = s.dark) ∧
    (∀ (i : BitVec 4), (s.coreQuery i.toNat).isSome = true → s.get WARD_CORE.STUCK / 2 ^ i.toNat % 2 = 0 →
      exec (.queryWatchdog i) s =
        .next ((s.put WARD_CORE.STUCK (s.get WARD_CORE.STUCK ||| 2 ^ i.toNat)).errlog { cls := 0xE, block := 0x11 }))

/-! ### The step boundary -/

/-- The boundary on one chip: a complete step outside a power hold enters BOUNDARY with its state record; its flush ends in
FLUSHED to the leader once every delta is acknowledged; COMMIT of the own step advances STEP_NUM and the queue heads; a
Sheaf that waits is written when the rings have room, and the step that it delayed then begins; and a chip that hears nothing after FLUSHED or ABANDONED is LOST, and
freezes when its Ward is ON. -/
def Obligations.StepBoundary : Prop :=
  ∀ (s : State),
    (s.stepComplete = true → s.get CANDLE_GOV.HOLD = 0 → ∃ t, exec .stepComplete s = .next t ∧ t.stepState = stepBoundary ∧
      t.sched.flushing = true ∧ t.sched.bndWait = (s.sched.bndWait || s.leads) ∧ t.topsoil = (s.writeRecord false).topsoil ∧
      t.power.tgt = s.power.lvl ∧ t.power.savedGlow = some s.power.glow ∧ t.seedbed = s.seedbed ∧ t.subsoil = s.subsoil ∧
      t.lit = s.lit ∧ t.dark = s.dark ∧ t.field = s.field) ∧
    (s.sched.flushing = true → s.ward.unacked = [] → exec .wardFlushEnd s =
      .next (State.send { s with sched := { s.sched with flushing := false, flushedSent := true } } 3 0x0201 s.leaderAt
        (stepMsg (s.get STEP_NUM.STEP) (leBytes 4 (s.get ROUTE_SELF.INDEX) ++ leBytes 4 s.sched.passesDone)))) ∧
    (s.sched.flushing = true → s.ward.unacked ≠ [] → exec .wardFlushEnd s = .next s) ∧
    (∀ h step, s.msgOk h .fromLeader = true → s.stepState = stepBoundary → s.sched.flushedSent = true →
      s.sched.committed = false → s.sched.resetRejoin = false →
      (step.toNat = s.get STEP_NUM.STEP → ∃ t, exec (.commit h step) s = .next t ∧
        t.get STEP_NUM.STEP = (s.get STEP_NUM.STEP + 1) % 2 ^ 64 ∧
        (∀ q, q < 4 → t.get (STEP_QHEAD.HEAD q) = s.get (STEP_QHEAD.ISSUE q)) ∧ t.ward.epoch = s.ward.epoch + 1 ∧
        t.lit = s.lit ∧ t.dark = s.dark) ∧
      (step.toNat ≠ s.get STEP_NUM.STEP → exec (.commit h step) s = .next s)) ∧
    (∀ f, s.serve.sheaf = [f] → s.sheafFits f = true →
      (s.boundaryWork = false → ∃ t, exec .ringWaitEnd s = .next t ∧ t.get SERVE_STATUS.RING_WAIT = 0 ∧ t.serve.sheaf = [] ∧
        t.sched.ringWait = false ∧ t.topsoil = (s.sheafWrite f).topsoil ∧ t.seedbed = s.seedbed ∧ t.subsoil = s.subsoil ∧
        t.lit = s.lit) ∧
      (s.boundaryWork = true → s.sched.ringWait = true → s.serve.held = [] → s.haltsHere = false → s.sched.chargeNext = none →
        s.sched.heldAbandon = none → ∃ t, exec .ringWaitEnd s = .next t ∧ t.get SERVE_STATUS.RING_WAIT = 0 ∧
          t.stepState = stepRunning ∧ t.sched.ringWait = false ∧ t.topsoil = (s.sheafWrite f).topsoil ∧ t.lit = s.lit)) ∧
    (∀ f rest, s.serve.sheaf = f :: rest → s.sheafFits f = false → exec .ringWaitEnd s = .next s) ∧
    (s.sched.flushedSent = true → s.sched.committed = false → s.get WARD_STATUS.STATE = 0 →
      exec .stepLostTimeout s = .next (s.put STEP_ERR.LOST 1)) ∧
    (s.sched.flushedSent = true → s.sched.committed = false → s.get WARD_STATUS.STATE = 2 →
      ∃ t, exec .stepLostTimeout s = .next t ∧ t.get STEP_ERR.LOST = 1 ∧ t.stepState = stepHalted ∧
        t.get WARD_STATUS.STATE = 3 ∧ t.sched.inflight = [] ∧ t.lit = s.lit ∧ t.dark = s.dark)

/-- The boundary at the leader: a FLUSHED that does not complete the set is held; the one that completes it with every chip
at the leader's step multicasts COMMIT, and with a chip at another step ABANDON with cause 5; and the end of the wait
multicasts ABANDON with cause 4, with FREEZE of the missing chips when the Ward is ON. -/
def Obligations.LeaderDecides : Prop :=
  ∀ (s : State) (h : MsgHdr) (step : W64) (i : BitVec 6) (passes : BitVec 32) (k : Nat),
    let l := s.sched.flushedFrom.filter (fun e => e.1 != k) ++ [(k, step.toNat)]
    let n := s.get STEP_NUM.STEP
    let whole := (List.range s.sliceSize).all fun i => l.any fun e => e.1 == i
    (s.msgOk h .toLeader = true → s.indexOf h.src.toNat = some k → s.sched.abandonMcast = false → s.sched.commitSent = false →
      (whole = false → exec (.flushed h step i passes) s =
        .next { s with sched := { s.sched with flushedFrom := l, bndWait := true } }) ∧
      (whole = true → l.all (fun e => e.2 == n) = true → exec (.flushed h step i passes) s =
        .next (State.sendAll { s with sched := { s.sched with flushedFrom := l, bndWait := false, commitSent := true } } 0x0203
          (stepMsg n []))) ∧
      (whole = true → l.all (fun e => e.2 == n) = false → exec (.flushed h step i passes) s =
        .next (State.sendAll { s with sched := { s.sched with flushedFrom := l, bndWait := true, abandonMcast := true } } 0x0202
          (stepMsg n [5, BitVec.ofNat 8 (s.get ROUTE_SELF.INDEX)])))) ∧
    (s.msgOk h .toLeader = false → exec (.flushed h step i passes) s = .next (s.linkErr 9 0)) ∧
    (s.leads = true → s.sched.bndWait = true →
      let t := State.sendAll { s with sched := { s.sched with abandonMcast := true, bndWait := true } } 0x0202
        (stepMsg n [4, BitVec.ofNat 8 (s.get ROUTE_SELF.INDEX)])
      exec .bndTimeout s = .next (if s.get WARD_STATUS.STATE = 2 then t.sendAll 0x0301 (stepMsg s.missingChips []) else t))

/-- Abandonment of the step in progress: the leader multicasts the first report; at the leader's word a chip stops its
step, counts a replay and enters ABANDONING; once no access of the step is outstanding its entries retire: it restores tags and issue positions and reports;
the leader restarts the step once every chip has reported, and RESTART runs it again as a replay. -/
def Obligations.Abandonment : Prop :=
  ∀ (s : State) (h : MsgHdr) (step : W64) (c : BitVec 8) (i : BitVec 6),
    (s.msgOk h .inSlice = true → s.leads = true → s.sched.abandonMcast = false → s.sched.commitSent = false →
      s.stepState = stepRunning → step.toNat = s.get STEP_NUM.STEP → exec (.abandon h step c i) s =
        .next (State.sendAll { s with sched := { s.sched with abandonMcast := true, bndWait := true } } 0x0202
          (stepMsg step.toNat [BitVec.ofNat 8 c.toNat, BitVec.ofNat 8 i.toNat]))) ∧
    (s.msgOk h .inSlice = true → s.leads = false → h.src.toNat = s.leaderAt → s.stepState = stepRunning →
      step.toNat = s.get STEP_NUM.STEP → ∃ t, exec (.abandon h step c i) s = .next t ∧ t.stepState = stepAbandoning ∧
        t.get STEP_ERR.ABANDONED = 1 ∧ t.get STEP_ERR.CAUSE = c.toNat % 2 ^ STEP_ERR.CAUSE.len ∧
        t.get STEP_STATUS.REPLAYS = min 15 (s.get STEP_STATUS.REPLAYS + 1) ∧ t.get STEP_STATUS.INFLIGHT = 0 ∧
        t.sched.inflight = [] ∧ t.sched.queries = [] ∧ t.sched.abCause = c.toNat ∧
        t.lit = s.lit ∧ t.dark = s.dark ∧ t.seedbed = s.seedbed ∧ t.subsoil = s.subsoil) ∧
    (s.msgOk h .inSlice = true → s.leads = false → h.src.toNat ≠ s.leaderAt → exec (.abandon h step c i) s = .next (s.linkErr 9 0)) ∧
    (s.stepPending = true → exec .abandonEntriesRetired s = .next s) ∧
    (s.stepState = stepAbandoning → s.sched.abandonedSent = false → s.sched.resetRejoin = false → s.stepPending = false →
      s.get CHIP_STATUS.FIELD_IN_RESET = 0 → s.rot.now = false → ∃ t, exec .abandonEntriesRetired s = .next t ∧
        t.reg 0x40080 = s.sched.savedTags0 ∧ t.reg 0x40088 = s.sched.savedTags1 ∧
        (∀ q, q < 4 → t.get (STEP_QHEAD.ISSUE q) = s.get (STEP_QHEAD.HEAD q)) ∧
        t.sched.entries = s.sched.entries.filter MemOp.outside ∧ t.sched.abandonedSent = true ∧
        t.stepState = (if s.abandonHalts then stepHalted else stepAbandoning) ∧
        t.net.outbox = s.net.outbox ++ [s.mkPacket 3 4 s.leaderAt 0x0204 0
          (stepMsg (s.get STEP_NUM.STEP) (leBytes 1 (s.get ROUTE_SELF.INDEX)))] ∧
        t = { s with regs := t.regs, sched := t.sched, net := { s.net with outbox := t.net.outbox } }) ∧
    (∀ k, s.msgOk h .toLeader = true → s.indexOf h.src.toNat = some k → step.toNat = s.get STEP_NUM.STEP →
      s.sched.abandonMcast = true →
      let l := s.sched.abandonedFrom.filter (· != k) ++ [k]
      exec (.abandoned h step i) s = .next (
        if (List.range s.sliceSize).all (fun i => l.contains i) = true then
          (if s.abandonHalts then { s with sched := { s.sched with abandonedFrom := l, bndWait := false } }
           else State.sendAll { s with sched := { s.sched with abandonedFrom := l, bndWait := false } } 0x0205 (stepMsg step.toNat []))
        else { s with sched := { s.sched with abandonedFrom := l } })) ∧
    (s.msgOk h .fromLeader = true → s.stepState = stepAbandoning → s.sched.abandonedSent = true →
      step.toNat = s.get STEP_NUM.STEP → s.sched.chargeNext = none → s.sched.heldAbandon = none →
      ∃ t, exec (.restart h step) s = .next t ∧ t.stepState = stepRunning ∧ t.get STEP_STATUS.STEP_END_DONE = 0 ∧
        t.sched.replay = true ∧ t.sched.abandonedSent = false ∧ t.sched.passesDone = 0 ∧
        t = { s with regs := t.regs, sched := t.sched, moe := { s.moe with stepSlots := [] } } ∧
        SameFieldsBut [STEP_STATUS.STATE, STEP_STATUS.STEP_END_DONE] s t)

/-! ### Images and rotation -/

/-- Loading the dark plane. LOAD while a load or rotation stands is refused. Otherwise the dark plane goes idle: a load
whose address or checks fail ends FAILED with the code of the failure, and one that passes stays BUSY until the plane is
written. LOAD_ABORT fails a busy load and does nothing else; the end of the write makes the dark plane valid with the
loaded image, or fails the load when a word does not read back. The lit plane stays as it is throughout. -/
def Obligations.LoadDarkPlane : Prop :=
  ∀ (s₀ : State) (src : Source) (compat : Bool),
    let s := s₀.compatPin compat
    (Takes s src 0x50000 1 → s.loadState = loadBusy ∨ s.rotState ≠ rotNone →
      exec (.load ⟨src, compat⟩) s₀ = .next (s.put ROTATE_ERR.REFUSED 1)) ∧
    (Takes s src 0x50000 1 → s.loadState ≠ loadBusy → s.rotState = rotNone →
      let u := s.darkClear.put ROTATE_STATUS.LOAD_STATE loadBusy
      let a := s.get ROTATE_LOAD_ADDR.ADDR
      let n := s.get ROTATE_LOAD_LEN.LEN
      ∃ t, exec (.load ⟨src, compat⟩) s₀ = .next t ∧ t.dark = .cleared ∧ t.get ROTATE_STATUS.DARK_VALID = 0 ∧
        t.get ROTATE_DARK_ID.IMAGE_ID = 0 ∧ t.lit = s.lit ∧ t.get ROTATE_STATUS.LIT_VALID = s.get ROTATE_STATUS.LIT_VALID ∧
        t.rotState = rotNone ∧ t.field = s.field ∧ t.seedbed = s.seedbed ∧
        (u.loadAddrBad a n = true → t.loadState = loadFailed ∧ t.get ROTATE_LOAD_ERR.CODE = 0x0C ∧ t.rot.loading = none) ∧
        (u.loadAddrBad a n = false → match u.loadOutcome a n with
          | .error e => t.loadState = loadFailed ∧ t.get ROTATE_LOAD_ERR.CODE = e.code % 256 ∧
              t.get ROTATE_LOAD_ERR.SECTION = e.section_ % 2 ^ 12 ∧ t.get ROTATE_LOAD_ERR.RECORD = e.record % 2 ^ 32 ∧
              t.rot.loading = none
          | .ok m => t.loadState = loadBusy ∧ t.rot.loading = some m)) ∧
    (Takes s src 0x50000 1 → s.loadState = loadBusy → ∃ t, exec (.loadAbort src) s = .next t ∧ t.loadState = loadFailed ∧
      t.get ROTATE_LOAD_ERR.CODE = 0x0B ∧ t.get ROTATE_STATUS.DARK_VALID = 0 ∧
      t = { s with regs := t.regs, dark := .cleared, rot := { s.rot with loading := none } } ∧
      SameRegsBut [0x50008, 0x50020, 0x50038, 0x50040] s t) ∧
    (Takes s src 0x50000 1 → s.loadState ≠ loadBusy → exec (.loadAbort src) s = .next s) ∧
    (∀ m, s.rot.loading = some m → (stripsOf m.mask).all (fun k => s.domOn (4 + k)) = true →
      (∃ t, exec (.loadComplete ⟨true, compat⟩) s₀ = .next t ∧ t.dark = { m with compat := s.compatNow } ∧ t.loadState = loadValid ∧
        t.get ROTATE_STATUS.DARK_VALID = 1 ∧ t.get ROTATE_DARK_ID.IMAGE_ID = m.imageId.toNat % 2 ^ 64 ∧
        t.get ROTATE_PLANE_INFO.DARK_MASK = m.mask % 256 ∧ t.get ROTATE_PLANE_INFO.DARK_COMPAT = bit s.compatNow ∧
        t.get ROTATE_PLANE_INFO.DARK_FORMER = 0 ∧
        t = { s with regs := t.regs, dark := t.dark, rot := { s.rot with loading := none, darkBad := false } } ∧
        SameFieldsBut [ROTATE_STATUS.DARK_VALID, ROTATE_STATUS.LOAD_STATE, ROTATE_DARK_ID.IMAGE_ID,
          ROTATE_PLANE_INFO.DARK_MASK, ROTATE_PLANE_INFO.DARK_COMPAT, ROTATE_PLANE_INFO.DARK_FORMER] s t) ∧
      (∃ t, exec (.loadComplete ⟨false, compat⟩) s₀ = .next t ∧ t.dark = .cleared ∧ t.loadState = loadFailed ∧
        t.get ROTATE_LOAD_ERR.CODE = 0x0A ∧ t.get ROTATE_STATUS.DARK_VALID = 0 ∧
        t = { s with regs := t.regs, dark := .cleared, rot := { s.rot with loading := none } }))

/-- Arming and the leader's part. ARM of a step yet to complete arms it; of a step that is over it sets STALE; between
READY and the end of a rotation it is refused. DISARM forgets an armed step. READY of every chip with one image multicasts
GO, with different images ABORT cause 2, with an image not loaded ABORT cause 3; a leader that waits too long multicasts
ABORT cause 1, unless it has decided. ARM holds the streams of later steps, whose entries retire. -/
def Obligations.RotationAgreement : Prop :=
  ∀ (s : State) (src : Source), 
    (Takes s src 0x50000 1 → s.rotState = rotReady ∨ s.rotState = rotSwap → exec (.arm src) s = .next (s.put ROTATE_ERR.REFUSED 1)) ∧
    (Takes s src 0x50000 1 → s.rotState = rotNone ∨ s.rotState = rotArmed → s.rotatesNow (s.get ROTATE_AT_STEP.STEP) = false →
      (s.stepDone (s.get ROTATE_AT_STEP.STEP) = true → exec (.arm src) s = .next (s.put ROTATE_ERR.STALE 1)) ∧
      (s.stepDone (s.get ROTATE_AT_STEP.STEP) = false → ∃ t, exec (.arm src) s = .next t ∧ t.rotState = rotArmed ∧
        t.harrow.rotHold = some (s.get ROTATE_AT_STEP.STEP) ∧
        (∀ x ∈ t.harrow.streams, x ∈ s.harrow.streams ∧ (x.queue1 = true ∨ streamStep x.desc ≤ s.get ROTATE_AT_STEP.STEP)) ∧
        (∀ o ∈ t.sched.entries, o ∈ s.sched.entries) ∧
        (∀ o ∈ s.sched.entries, (∀ x ∈ s.harrow.streams, o.owner ≠ .stream false x.pos) → o ∈ t.sched.entries) ∧
        t = { s with regs := t.regs, harrow := t.harrow, sched := { s.sched with entries := t.sched.entries, waiting := t.sched.waiting },
                     rot := { s.rot with armed := some (s.get ROTATE_AT_STEP.STEP), now := false } } ∧
        SameFieldsBut [ROTATE_STATUS.ROT_STATE, HARROW_QPTR.ISSUE 0, HARROW_STATUS.ACTIVE, HARROW_STATUS.RANGES,
          HARROW_STATUS.ROT_HOLD, HARROW_STATUS.RECLAIM, STEP_MSB.USED, STEP_MSB.HIGH] s t)) ∧
    (Takes s src 0x50000 1 → s.rotState = rotArmed → ∃ t, exec (.disarm src) s = .next t ∧ t.rotState = rotNone ∧
      t = { s with regs := t.regs, harrow := { s.harrow with rotHold := none }, rot := { s.rot with armed := none, now := false } } ∧
      SameFieldsBut [ROTATE_STATUS.ROT_STATE, HARROW_STATUS.ACTIVE, HARROW_STATUS.RANGES, HARROW_STATUS.ROT_HOLD,
        HARROW_STATUS.RECLAIM] s t) ∧
    (Takes s src 0x50000 1 → s.rotState ≠ rotArmed → exec (.disarm src) s = .next s) ∧
    (∀ (h : MsgHdr) (step img dig : W64) (nl : Bool) (k : Nat), s.msgOk h .toLeader = true → s.indexOf h.src.toNat = some k →
      let r : ReadyMsg := ⟨k, step.toNat, img.toNat, dig.toNat, nl⟩
      let rs := s.rot.readies.filter (fun x => x.idx != k) ++ [r]
      let whole := (List.range s.sliceSize).all fun i => rs.any fun x => x.idx == i
      let n := ((rs.find? fun x => x.idx == 0).map (·.step)).getD step.toNat
      (whole = false → exec (.ready h step img dig nl) s = .next { s with rot := { s.rot with readies := rs } }) ∧
      (whole = true → (∀ x ∈ rs, x.step = step.toNat ∧ x.imageId = img.toNat ∧ x.digest8 = dig.toNat ∧ x.notLoaded = false) →
        exec (.ready h step img dig nl) s = .next (State.sendAll { s with rot := { s.rot with readies := [], decided := true } } 0x0102
          (stepMsg step.toNat (leBytes 8 img.toNat)))) ∧
      (whole = true → nl = true → exec (.ready h step img dig nl) s =
        .next (State.sendAll { s with rot := { s.rot with readies := [], decided := true } } 0x0103 (stepMsg n [3]))) ∧
      (whole = true → (∀ x ∈ rs, x.notLoaded = false) → (∃ x ∈ rs, x.imageId ≠ img.toNat) →
        exec (.ready h step img dig nl) s =
          .next (State.sendAll { s with rot := { s.rot with readies := [], decided := true } } 0x0103 (stepMsg n [2])))) ∧
    (∀ n, s.rot.armed = some n → s.leads = true → s.rotState = rotReady → s.rot.decided = false → exec .rotateTimeout s =
      .next (State.sendAll { s with rot := { s.rot with readies := [], decided := true } } 0x0103 (stepMsg n [1]))) ∧
    (s.rot.decided = true → exec .rotateTimeout s = .next s)

/-- The rotation itself. GO for the armed step of a chip that is READY exchanges the planes, empties the Field, restarts
its cycle count and sets the tags to their initial state; in a power hold it waits. Its completion counts, and lets the
Field clock run; ABORT ends the wait with the bit of its cause and keeps both planes; a chip that hears neither is LOST. -/
def Obligations.Rotation : Prop :=
  ∀ (s : State) (h : MsgHdr) (n : W64) (img : W64), 
    (s.msgOk h .fromLeader = true → s.rotState = rotReady → s.rot.armed = some n.toNat → s.get CANDLE_GOV.HOLD = 0 →
      ∃ t, exec (.go h n img) s = .next t ∧ t.lit = s.dark ∧ t.dark = s.lit ∧ t.rotState = rotSwap ∧
        t.get ROTATE_STATUS.LIT_VALID = 1 ∧ t.get ROTATE_STATUS.DARK_VALID = s.get ROTATE_STATUS.LIT_VALID ∧
        t.get ROTATE_LIT_ID.IMAGE_ID = s.dark.imageId.toNat % 2 ^ 64 ∧ t.get ROTATE_PLANE_INFO.DARK_FORMER = s.get ROTATE_STATUS.LIT_VALID ∧
        t.reg 0x40080 = s.reg 0x400F0 ∧ t.reg 0x40088 = s.reg 0x400F8 ∧ t.sched.savedTags0 = s.reg 0x400F0 ∧
        t.sched.savedTags1 = s.reg 0x400F8 ∧ t.field.cycle = 0 ∧ t.field.queues = [] ∧
        t.field.elems = [] ∧ t.field.hlOut = [] ∧ t.field.gated = true ∧ SameMemory s t) ∧
    (s.msgOk h .fromLeader = true → s.rotState = rotReady → s.rot.armed = some n.toNat → s.get CANDLE_GOV.HOLD = 1 →
      exec (.go h n img) s = .next { s.put ROTATE_STATUS.ROT_STATE rotSwap with power := { s.power with goHeld := some n.toNat } }) ∧
    (s.msgOk h .fromLeader = true → s.rotState ≠ rotReady ∨ s.rot.armed ≠ some n.toNat → exec (.go h n img) s = .next s) ∧
    (s.rotState = rotSwap → s.power.goHeld = none → s.stepState ≠ stepBoundary → ∃ t, exec .rotationComplete s = .next t ∧
      t.rotState = rotNone ∧ t.get ROTATE_COUNT.ROTATIONS = (s.get ROTATE_COUNT.ROTATIONS + 1) % 2 ^ 32 ∧
      t.get ROTATE_COUNT.LAST_NS = min (2 ^ 32 - 1) (10 * (s.get STEP_QCLK.TICKS - s.rot.readyAt)) ∧
      t = { s with regs := t.regs, field := { s.field with gated := false, darkStrips := ~~~(BitVec.ofNat 8 s.lit.mask) },
                   harrow := { s.harrow with rotHold := none },
                   rot := { s.rot with armed := none, now := false } }) ∧
    (∀ c : BitVec 8, s.msgOk h .fromLeader = true → s.rot.lost.contains n.toNat = false → s.rotState = rotArmed →
      ∃ t, exec (.abort h n c) s = .next t ∧ t.rotState = rotNone ∧
        (c = 1 → t.get ROTATE_ERR.TIMEOUT = 1) ∧ (c = 2 → t.get ROTATE_ERR.MISMATCH = 1) ∧ (c = 3 → t.get ROTATE_ERR.NOT_LOADED = 1) ∧
        t = { s with regs := t.regs, harrow := { s.harrow with rotHold := none }, rot := { s.rot with armed := none, now := false } }) ∧
    (s.rot.armed = some n.toNat → s.rotState = rotReady → s.get WARD_STATUS.STATE = 0 → s.stepState ≠ stepBoundary →
      ∃ t, exec .rotateLostTimeout s = .next t ∧ t.rotState = rotNone ∧ t.get ROTATE_ERR.LOST = 1 ∧
        t = { s with regs := t.regs, harrow := { s.harrow with rotHold := none },
                     rot := { s.rot with armed := none, now := false, lost := s.rot.lost ++ [n.toNat] } })

/-! ### Sower and Gleaner -/

/-- The Sower takes score rows and dispatch segments. A row that nobody expects only sets ROW_EXTRA; an expected one that
others follow is taken with the experts and gates of R253 to R255, empty and flagged ROW_LEN when its length is wrong. A
segment of another step waits, one of an earlier attempt sets STALE_SEG and is acknowledged, and a good one of the Pass that
is not the last is kept in ascending SRC and counted.
A fetch that ends while others run: its scoreboard entries retire; a good one, read from a memory tier of this chip or from
Fallow, writes the expert's bytes into its slot and marks its residence entry HOT with that slot; one that the range list or
a tier's bounds refuse is an error of the step; one that Fallow cannot give leaves its slot zeroed. Every other byte of memory
stays. -/
def Obligations.SowerAndFetches : Prop :=
  (∀ (s : State) (mb : Bool) (w : SowerSt), s.clocked (s.sower mb) = some w →
    (∀ row, rowPrefix (s.queue (stileQ w.cfg.stile 8)).toks = some row → w.expected = [] →
      exec (.scoreRow mb) s = .next ((s.popN (stileQ w.cfg.stile 8) row.length).put SOWER_ERR.ROW_EXTRA 1)) ∧
    (∀ row r rest, rowPrefix (s.queue (stileQ w.cfg.stile 8)).toks = some row → w.expected = r :: rest → rest ≠ [] →
      let scores := (row.filter fun t => t.cls == 0).flatMap fun t => (List.range t.vcount).map fun i =>
        decodeElem w.cfg.sfmt (beatElem w.cfg.sfmt t.payload i)
      let gates := if scores.length = w.cfg.e then (rowGates w.cfg scores (chooseExperts w.cfg.k scores)).1 else []
      ∃ t, exec (.scoreRow mb) s = .next t ∧
        t.sower mb = some { w with expected := rest, routed := w.routed ++ [⟨r, gates⟩] } ∧
        t.get SOWER_ROWS.ROWS = min (2 ^ 48 - 1) (s.get SOWER_ROWS.ROWS + 1) ∧
        (scores.length ≠ w.cfg.e → t.get SOWER_ERR.ROW_LEN = 1) ∧
        t = { s with regs := t.regs, moe := t.moe, field := (s.popN (stileQ w.cfg.stile 8) row.length).field } ∧
        SameRegsBut [0x60008, 0x60020, 0x60030, 0x70008] s t) ∧
    (∀ g : Segment, g.mb = mb → bitsOf g.w0 0 4 = 1 →
      (g.step.toNat ≠ s.get STEP_NUM.STEP → exec (.dispatchSegment g) s = .next s) ∧
      (g.step.toNat = s.get STEP_NUM.STEP → g.attempt = s.get STEP_STATUS.REPLAYS → g.layer = w.layer →
        bitsOf g.w0 31 6 = s.get ROUTE_SELF.INDEX → g.counts.length = w.cfg.ne → bitsOf g.w0 37 13 = w.cfg.ne → g.total = g.sum →
        w.received.any (fun h => h.src == g.src) = false → s.sowerBusy mb = true → (segInsert g w.received).length ≠ s.sliceSize →
        ∃ t, exec (.dispatchSegment g) s = .next t ∧ t.sower mb = some { w with received := segInsert g w.received } ∧
          t.get SOWER_SEGS.RECEIVED = min (2 ^ 32 - 1) (s.get SOWER_SEGS.RECEIVED + 1) ∧
          t = { s with regs := t.regs, moe := t.moe } ∧ SameRegsBut [0x60008, 0x60038, 0x70008] s t))) ∧
  (∀ (s : State) (g : Segment), bitsOf g.w0 0 4 = 1 → g.step.toNat = s.get STEP_NUM.STEP → g.attempt < s.get STEP_STATUS.REPLAYS →
    exec (.dispatchSegment g) s = .next ((s.put SOWER_ERR.STALE_SEG 1).ackSegment 0 g.src g)) ∧
  ∀ (s : State) (mb : Bool) (j : BitVec 12) (bad0 bad1 : List Nat) (corrected : Nat) (code : CodeResult) (remote : List Byte)
      (w : SowerSt) (slot : Nat) (e : ResEntry), s.fetchOf mb j.toNat = some (w, slot, e) → w.fetching.erase j.toNat ≠ [] →
    s.writeWaits (s.gaddr 1 (w.cfg.wslot + slot * w.cfg.wslotBytes)) w.cfg.expBytes = false →
    s.ownerPending (.fetch mb j.toNat) = false →
    let bytesOf (t : State) (r : State) (bs : List Byte) : Prop :=
      t.sower mb = some { w with fetching := w.fetching.erase j.toNat } ∧ t.boardHeld (.fetch mb j.toNat) = false ∧
      t.topsoil = (r.topsoil.write 64 (w.cfg.wslot + slot * w.cfg.wslotBytes) bs).write 64
        (w.cfg.res + 16 * j.toNat) (leBytes 8 (withBits (withBits e.w0 12 1 1) 16 16 slot).toNat) ∧
      t.seedbed = r.seedbed ∧ t.subsoil = r.subsoil ∧ t.lit = s.lit ∧ t.dark = s.dark ∧ t.field = s.field
    let done (c : Instr) (r : State) (bs : List Byte) : Prop := s.get WARD_STATUS.STATE = 0 →
      topRange (w.cfg.wslot + slot * w.cfg.wslotBytes) bs.length = true → topRange (w.cfg.res + 16 * j.toNat) 8 = true →
      ∃ t, exec c s = .next t ∧ bytesOf t r bs
    let c := Instr.fetchComplete mb j ⟨bad0, bad1, corrected, code, remote⟩
    let refused := s.accessRefused false e.source w.cfg.expBytes ||
      s.rangeRefuses true (s.gaddr 1 (w.cfg.wslot + slot * w.cfg.wslotBytes)) w.cfg.expBytes
    let r := (s.bump FALLOW_CE.CE corrected).falRead (e.source % 2 ^ 32) w.cfg.expBytes bad0 bad1
    (e.src = 0 → refused = false → (∀ d t o, s.locate e.source ≠ .commons d t o) →
      let r := s.readChecked e.source w.cfg.expBytes code true
      done c r.1 r.2.1) ∧
    (e.src = 0 → refused = true → ∃ t, exec c s = .next t ∧ t.sower mb = some { w with fetching := w.fetching.erase j.toNat } ∧
      t.boardHeld (.fetch mb j.toNat) = false ∧ t.get TIER_ERR.ACCESS = 1 ∧ t.get HARROW_ERR.ADDR = 1 ∧ SameMemory s t ∧
      t.lit = s.lit ∧ t.dark = s.dark ∧ t.field = s.field) ∧
    (e.src ≠ 0 → s.get FALLOW_STATUS.READY = 1 → r.2.1 = 0 → done c r.1 r.2.2) ∧
    (e.src ≠ 0 → s.get FALLOW_STATUS.READY = 1 → r.2.1 ≠ 0 → s.get WARD_STATUS.STATE = 0 →
      topRange (w.cfg.wslot + slot * w.cfg.wslotBytes) w.cfg.expBytes = true → ∃ t, exec c s = .next t ∧
        t.sower mb = some { w with fetching := w.fetching.erase j.toNat } ∧ t.boardHeld (.fetch mb j.toNat) = false ∧
        t.topsoil = r.1.topsoil.zeroed 64 (w.cfg.wslot + slot * w.cfg.wslotBytes) w.cfg.expBytes ∧ t.seedbed = s.seedbed ∧
        t.lit = s.lit ∧ t.dark = s.dark ∧ t.field = s.field) ∧
    (e.src ≠ 0 → s.get FALLOW_STATUS.READY = 0 → exec c s = .next s)

/-- The Gleaner takes expert output rows from Seedbed, once every binding of its Pass has ended its walk, or from its Stile, and
combine segments: a row that others follow is kept with its bytes, a segment of another step waits, one of an earlier attempt
sets STALE_SEG and is acknowledged, and a good one that is not the last is kept and acknowledged. -/
def Obligations.GleanerInputs : Prop :=
  ∀ (s : State) (mb : Bool) (g : GleanSt), s.clocked (s.glean mb) = some g →
    (∀ j i rest, g.cfg.xmode = false → s.walksEnded g.pseq = true → g.expected = (j, i) :: rest → rest ≠ [] →
      let rb := rowBytes g.cfg.xfmt g.cfg.rowElems
      ∃ t, exec (.expertOutputRow mb) s = .next t ∧
        t.glean mb = some { g with taken := g.taken ++ [(j, i, s.peek (g.cfg.xout + (j * g.cfg.capMax + i) * rb) rb)], expected := rest } ∧
        t = { s with regs := t.regs, moe := t.moe } ∧ SameRegsBut [0x60008, 0x70008] s t) ∧
    (s.walksEnded g.pseq = false → g.cfg.xmode = false → exec (.expertOutputRow mb) s = .next s) ∧
    (∀ j i rest row, g.cfg.xmode = true → g.expected = (j, i) :: rest → rest ≠ [] →
      rowPrefix (s.queue (stileQ g.cfg.stile 9)).toks = some row → s.sower mb = none → g.cfg.cap.getD g.bucket 0 ≤ i + 1 →
      ∃ t, exec (.expertOutputRow mb) s = .next t ∧ t.glean mb = some { g with expected := rest } ∧
        t = { s with regs := t.regs, moe := t.moe, field := (s.popN (stileQ g.cfg.stile 9) row.length).field } ∧
        SameRegsBut [0x60008, 0x70008] s t) ∧
    (∀ (x : Segment) (w : SowerSt), x.mb = mb → bitsOf x.w0 0 4 = 2 → s.sower mb = some w → g.done = false →
      (x.step.toNat ≠ s.get STEP_NUM.STEP → exec (.combineSegment x) s = .next s) ∧
      (x.step.toNat = s.get STEP_NUM.STEP → x.attempt = s.get STEP_STATUS.REPLAYS → x.layer = g.layer →
        bitsOf x.w0 31 6 = s.get ROUTE_SELF.INDEX → x.counts = (s.dispatchFor mb w (s.routeMap w.cfg) x.src).counts →
        x.total = x.sum → x.keptTotal = x.keptSum → x.kept.length = x.counts.length →
        (∀ j, j < x.counts.length → x.keptOf j ≤ x.count j) → g.received.any (fun h => h.src == x.src) = false →
        (segInsert x g.received).length ≠ s.sliceSize →
        ∃ t, exec (.combineSegment x) s = .next t ∧ t.glean mb = some { g with received := segInsert x g.received } ∧
          t = { s with regs := t.regs, moe := t.moe, net := { s.net with outbox := t.net.outbox, delivered := t.net.delivered,
                                                                         segHeld := t.net.segHeld, owed := t.net.owed } } ∧
          SameRegsBut [0x60008, 0x70008] s t)) ∧
    ∀ (x : Segment), bitsOf x.w0 0 4 = 2 → x.step.toNat = s.get STEP_NUM.STEP → x.attempt < s.get STEP_STATUS.REPLAYS →
      exec (.combineSegment x) s = .next ((s.put GLEAN_ERR.STALE_SEG 1).ackSegment 1 x.src x)

/-! ### Tiers and the Harrow -/

/-- CLAIM and DROP of a home entry. CLAIM charges the units of its range to its class and job, sets V and reports DONE;
it fails for a range being reclaimed (reason 4), outside its tier (2), or without quota (1, with TIER_ERR.QUOTA), and for
an index past the table. DROP releases the charge, clears V and lets the range be zeroed; a moving entry stays (3). Both read
the home entry first. -/
def Obligations.HomeCommands : Prop :=
  ∀ (s : State) (src : Source) (index : BitVec 20), Takes s src 0x90008 1 →
    let i := index.toNat
    let r := s.partReads (s.homeOff i) 32 false
    (s.homeCount ≤ i → exec (.claim src index) s = .next (s.setResult 0x90010 src (tierResult 2 0)) ∧
      exec (.drop src index) s = .next (s.setResult 0x90010 src (tierResult 2 0))) ∧
    (i < s.homeCount →
      let a := s.homeAddr i
      let n := s.homeLen i
      let c := s.homeClass i
      let top := s.chargedTop a
      (r.inReclaim a = true → exec (.claim src index) s = .next (r.setResult 0x90010 src (tierResult 1 4))) ∧
      (r.inReclaim a = false → r.homeRefused a n = true →
        exec (.claim src index) s = .next (r.setResult 0x90010 src (tierResult 1 2))) ∧
      (r.inReclaim a = false → r.homeRefused a n = false → r.chargeFits top c (units n) = false →
        exec (.claim src index) s = .next ((r.put TIER_ERR.QUOTA 1).setResult 0x90010 src (tierResult 1 1))) ∧
      (r.inReclaim a = false → r.homeRefused a n = false → r.chargeFits top c (units n) = true →
        topRange (r.homeOff i) 8 = true → r.get WARD_STATUS.STATE = 0 →
        ∃ t, exec (.claim src index) s = .next t ∧ t.result 0x90010 src = tierResult 0 0 ∧
          t.get (quotaClass top c).2 = r.get (quotaClass top c).2 + units n ∧ t.get (quotaJob top).2 = r.get (quotaJob top).2 + units n ∧
          t.topsoil = r.topsoil.write 64 (r.homeOff i) (leBytes 8 (withBits (r.homeWord i 0) 0 1 1).toNat) ∧
          t = { r with regs := t.regs, results := t.results, topsoil := t.topsoil } ∧
          SameFieldsBut [(quotaClass top c).2, (quotaJob top).2, TOPSOIL_LINES.LINES (r.homeOff i / 2 ^ 37)] r t)) ∧
    (i < s.homeCount → s.homeMoving i = true → exec (.drop src index) s = .next (r.setResult 0x90010 src (tierResult 1 3))) ∧
    (i < s.homeCount → s.homeMoving i = false → s.homeV i = false →
      exec (.drop src index) s = .next (r.setResult 0x90010 src (tierResult 0 0))) ∧
    (i < s.homeCount → s.homeMoving i = false → s.homeV i = true → topRange (r.homeOff i) 8 = true → r.get WARD_STATUS.STATE = 0 →
      let a := r.homeAddr i
      let n := r.homeLen i
      let c := r.homeClass i
      let top := r.chargedTop a
      ∃ t, exec (.drop src index) s = .next t ∧ t.result 0x90010 src = tierResult 0 0 ∧
        t.get (quotaClass top c).2 = r.get (quotaClass top c).2 - units n ∧ t.get (quotaJob top).2 = r.get (quotaJob top).2 - units n ∧
        t.topsoil = r.topsoil.write 64 (r.homeOff i) (leBytes 8 (withBits (r.homeWord i 0) 0 1 0).toNat) ∧
        t = { r with regs := t.regs, results := t.results, topsoil := t.topsoil,
                     harrow := { r.harrow with zeroing := r.harrow.zeroing ++ [⟨.vacated, a, n⟩] } })

/-- Issue of streams and their chunks on the chip's own tiers. A good descriptor becomes a stream at the end of the issue
order; a bad one of queue 1 ends with its cause in its own record. A COPY chunk reads the source and writes the
destination, a ZERO chunk writes zeros, and both advance the stream; a refused address fails it; an uncorrectable code on a
feed channel sets its Stile's STILE_ERR.FEED_UE. -/
def Obligations.HarrowStreams : Prop :=
  ∀ (s : State) (q : Bool), s.get CANDLE_GOV.HOLD = 0 →
    (let i := s.get (HARROW_QPTR.ISSUE (bit q))
     let d := s.streamDesc (bit q) i
     (i = s.get (HARROW_QPTR.TAIL (bit q)) → exec (.harrowStreamIssue q) s = .next s) ∧
     (i ≠ s.get (HARROW_QPTR.TAIL (bit q)) → s.harrow.streams.length < 64 → q = true → bitsOf (d.getD 7 0) 0 2 ≠ 2 →
       s.streamBad q d = false → bitOf (d.getD 0 0) 7 = false →
       topRange (s.streamOff (bit q) i) 64 = true → s.topsoil.badIn 64 (s.streamOff (bit q) i) 64 = [] →
       ∃ t, exec (.harrowStreamIssue q) s = .next t ∧
         t.harrow.streams = s.harrow.streams ++ [⟨q, i, d, 0, s.sched.nextOrder, 0, false, false, false⟩] ∧
         t.get (HARROW_QPTR.ISSUE 1) = (i + 1) % 65536 ∧ t.sched.nextOrder = s.sched.nextOrder + 1 ∧
         t.get HARROW_STATUS.ACTIVE = (s.harrow.streams.length + 1) % 128 ∧
         t = { s with regs := t.regs, sched := t.sched, harrow := t.harrow })) ∧
    (∀ (pos : BitVec 16) (t0 : StreamSt) (o : Nat), s.stream q pos.toNat = some t0 → s.get WARD_STATUS.STATE = 0 →
      let c := chunkDst t0
      s.locate c.1 = .top o → s.accessRefused true c.1 c.2 = false →
      (s.chunkReady t0 3 = true → ∃ t, exec (.streamZero q pos) s = .next t ∧
        t.topsoil = s.topsoil.write 64 o (List.replicate c.2 0) ∧
        t.stream q pos.toNat = some { t0 with done := t0.done + c.2 } ∧
        t = { s with regs := t.regs, sched := t.sched, harrow := { s.harrow with streams := t.harrow.streams }, topsoil := t.topsoil }) ∧
      (s.chunkReady t0 1 = true → streamDec t0.desc = false → streamEnc t0.desc = false →
        let a := (chunkSrc t0).1
        s.lostSource a c.2 = false → (∀ x y z, s.locate a ≠ .commons x y z) →
        (s.accessRefused false a c.2 = true → ∀ code feed r,
          exec (.streamCopy q pos ⟨code, feed⟩ r) s = .next (s.streamRefused t0 a)) ∧
        (s.accessRefused false a c.2 = false → (s.readErrors a c.2 (!q)).2 = false → ∀ feed r,
          ∃ t, exec (.streamCopy q pos ⟨.clean, feed⟩ r) s = .next t ∧
          t.topsoil = s.topsoil.write 64 o (s.peek a c.2) ∧ t.stream q pos.toNat = some { t0 with done := t0.done + c.2 } ∧
          t = { s with regs := t.regs, sched := t.sched, harrow := { s.harrow with streams := t.harrow.streams }, topsoil := t.topsoil }))) ∧
    (∀ (pos : BitVec 16) (t0 : StreamSt) (o : Nat) (code feed : CodeResult) (r : List Byte), s.stream q pos.toNat = some t0 →
      s.chunkReady t0 1 = true → s.locate (chunkDst t0).1 = .seedbed o → s.accessRefused true (chunkDst t0).1 (chunkDst t0).2 = false →
      s.lostSource (chunkSrc t0).1 (chunkSrc t0).2 = false → s.accessRefused false (chunkSrc t0).1 (chunkSrc t0).2 = false →
      feedBad feed = true → ∃ t, exec (.streamCopy q pos ⟨code, feed⟩ r) s = .next t ∧
        t.get (STILE_ERR.FEED_UE (stilePlot (hopStile ((chunkDst t0).1 % 2 ^ 42 / 2 ^ 20)))) = 1)

/-- MOVE. Its start charges the destination, sets MOVING and lists the source; its flip names the destination as home,
clears MOVING and makes the source a vacated range; so does the flip of a reclaim move, and a late one counts; the vacated
range is zeroed and leaves the list. -/
def Obligations.HarrowMove : Prop :=
  ∀ (s : State),
    (∀ (pos : BitVec 16) (t0 : StreamSt) (code : CodeResult), s.get CANDLE_GOV.HOLD = 0 → s.stream true pos.toNat = some t0 →
      streamOp t0.desc = 2 → t0.cause = 0 → t0.cancelled = false → t0.started = false →
      let i := streamHome t0.desc
      let d := streamDst t0.desc
      let top := s.chargedTop d
      i < s.homeCount → s.homeV i = true → s.homeMoving i = false → s.homeLen i = streamLen t0.desc → s.homeLost i = false →
      s.inReclaim d = false → s.homeRefused d (s.homeLen i) = false → s.harrow.ranges.length < 64 →
      topRange (s.homeOff i) 32 = true → s.topsoil.badIn 64 (s.homeOff i) 32 = [] →
      s.chargeFits top (s.homeClass i) (units (s.homeLen i)) = true →
      ∃ t, exec (.streamMove pos code []) s = .next t ∧
        t.get (quotaJob top).2 = s.get (quotaJob top).2 + units (s.homeLen i) ∧
        t.topsoil = (s.homeFlag i 1 1).topsoil ∧ t.harrow.ranges = s.harrow.ranges ++ [⟨.moving, s.homeAddr i, s.homeLen i⟩] ∧
        t.stream true pos.toNat = some { t0 with started := true, order := s.sched.nextOrder } ∧
        t.sched.nextOrder = s.sched.nextOrder + 1 ∧ t.lit = s.lit ∧ t.dark = s.dark ∧ t.seedbed = s.seedbed) ∧
    (∀ (index : BitVec 20) (t0 : StreamSt) (remote : List Byte) (late : Bool), let i := index.toNat
      s.moveOf i = some t0 → s.reclaiming = [] → ∃ t, exec (.moveFlip index ⟨remote, late⟩) s = .next t ∧
        t.topsoil = ((s.topPutWord (s.homeOff i + 8) (streamDst t0.desc)).homeFlag i 1 0).topsoil ∧
        t.harrow.ranges = (s.harrow.ranges.filter fun r => !(decide (r.kind = .moving) && r.addr == s.homeAddr i)) ++
          [⟨.vacated, s.homeAddr i, s.homeLen i⟩] ∧
        t.lit = s.lit ∧ t.dark = s.dark ∧ t.seedbed = s.seedbed ∧ t.subsoil = s.subsoil) ∧
    (∀ (index : BitVec 20) (m : ReclaimMove) (remote : List Byte) (late : Bool) (d : Nat) (x : Bool) (o o' : Nat), let i := index.toNat
      s.moveOf i = none → s.locate (s.homeAddr i) = .commons d x o → s.locate m.dst = .sub o' → s.harrow.reclaims.find? (fun m => m.index == i && m.started) = some m →
      s.get WARD_STATUS.STATE = 0 → topRange (s.homeOff i) 32 = true → ∃ t, exec (.moveFlip index ⟨remote, late⟩) s = .next t ∧
        (⟨.vacated, s.homeAddr i, s.homeLen i⟩ : Range) ∈ t.harrow.ranges ∧
        (late = true → t.get HARROW_LATE.LATE = min (2 ^ 32 - 1) (s.get HARROW_LATE.LATE + 1)) ∧ t.lit = s.lit ∧ t.dark = s.dark) ∧
    (∀ (addr : W64) (r : Range) (o : Nat), s.harrow.ranges.find? (fun r => decide (r.kind = .vacated) && r.addr == addr.toNat) = some r →
      s.locate r.addr = .top o → topRange o r.len = true → s.get WARD_STATUS.STATE = 0 → s.harrow.reclaims = [] →
      s.reclaiming = [] → ∃ t, exec (.vacatedZeroed addr) s = .next t ∧ t.topsoil = s.topsoil.zeroed 64 o r.len ∧
        t.harrow.ranges = (s.harrow.ranges.filter fun x => !(decide (x.kind = .vacated) && x.addr == r.addr)) ∧
        t = { s with regs := t.regs, topsoil := t.topsoil, harrow := { s.harrow with ranges := t.harrow.ranges } })

/-- The end of streams. A stream that has ended writes ST and CAUSE into word 7 of its descriptor and leaves; a late one
counts. CANCEL writes ST 2 into a descriptor that waits, stops an issued stream, and does nothing elsewhere. -/
def Obligations.StreamEnds : Prop :=
  ∀ (s : State) (pos : BitVec 16),
    (∀ (q late : Bool) (t0 : StreamSt), s.stream q pos.toNat = some t0 → s.streamEnded t0 = true → bitOf (t0.desc.getD 0 0) 15 = false →
      ∃ t, exec (.harrowStreamComplete q pos late) s = .next t ∧
        t.topsoil = (s.topPutWord (s.streamOff (bit q) t0.pos + 56) (streamSt t0)).topsoil ∧
        t.harrow = { s.harrow with streams := s.harrow.streams.filter fun x => !(x.queue1 == q && x.pos == t0.pos) } ∧
        t.get HARROW_LATE.LATE = (if late = true ∧ streamDl t0.desc ≠ 2 ^ 48 - 1 then
          min (2 ^ 32 - 1) (s.get HARROW_LATE.LATE + 1) else s.get HARROW_LATE.LATE) ∧
        t.boardHeld (.stream q t0.pos) = false ∧ t.lit = s.lit ∧ t.dark = s.dark ∧ t.seedbed = s.seedbed ∧ t.subsoil = s.subsoil) ∧
    (∀ (q late : Bool) (t0 : StreamSt), s.stream q pos.toNat = some t0 → s.streamEnded t0 = false →
      exec (.harrowStreamComplete q pos late) s = .next s) ∧
    (∀ src, Takes s src 0x80000 1 → s.stream true pos.toNat = none →
      (posIn (s.get (HARROW_QPTR.ISSUE 1)) (s.get (HARROW_QPTR.TAIL 1)) pos.toNat = true →
        exec (.harrowCancel src pos) s = .next (s.topPutWord (s.streamOff 1 pos.toNat + 56) 2)) ∧
      (posIn (s.get (HARROW_QPTR.ISSUE 1)) (s.get (HARROW_QPTR.TAIL 1)) pos.toNat = false →
        exec (.harrowCancel src pos) s = .next s)) ∧
    (∀ src t0, Takes s src 0x80000 1 → s.stream true pos.toNat = some t0 → t0.cause = 0 → t0.flipped = false → t0.cancelled = false →
      streamOp t0.desc ≠ 2 → ∃ t, exec (.harrowCancel src pos) s = .next t ∧
        t.stream true pos.toNat = some { t0 with cancelled := true } ∧ t.boardHeld (.stream true t0.pos) = false ∧
        t = { s with regs := t.regs, sched := t.sched, harrow := { s.harrow with streams := t.harrow.streams } })

/-- Commons grants. START asks every active lender grant's borrower for its range; RECLAIM at the borrower makes the grant
reclaiming and moves its homes; RELEASED at the lender revokes and zeroes the range; at the timeout every lender grant is
revoked; and REVOKED at the borrower loses the homes in the range. -/
def Obligations.CommonsGrants : Prop :=
  ∀ (s : State) (h : MsgHdr) (base len : W64) (lt : Bool) (k : Nat),
    (∀ src val, Takes s src 0x90018 2 → bitOf val 0 = true → ∃ t, exec (.reclaimStart src val) s = .next t ∧
      (∀ j, j < 8 → s.isLender j = true → s.get (TIER_GNT_A.STATE j) = 1 → t.get (TIER_GNT_A.STATE j) = 2 ∧ t.get TIER_RECLAIM.BUSY = 1) ∧
      (∀ j, j < 8 → ¬ (s.isLender j = true ∧ s.get (TIER_GNT_A.STATE j) = 1) → t.reg (0x90200 + 0x10 * j) = s.reg (0x90200 + 0x10 * j)) ∧
      t.net.outbox.length = s.net.outbox.length + ((List.range 8).filter fun j => s.isLender j && s.get (TIER_GNT_A.STATE j) == 1).length ∧
      t = { s with regs := t.regs, net := { s.net with outbox := t.net.outbox } }) ∧
    (s.grantOf false h base len lt = some k → s.get (TIER_GNT_A.STATE k) = 1 →
      s.topsoil.badIn 64 (s.homeOff 0) (32 * s.homeCount) = [] → ∀ i, i ∈ (s.homes fun i => s.inGrant k (s.homeAddr i) && !s.homeLost i) →
        ∃ t, exec (.reclaim h base len lt) s = .next t ∧ t.get (TIER_GNT_A.STATE k) = 2 ∧ t.get TIER_ERR.RECLAIM = 1 ∧
          (∃ m ∈ t.harrow.reclaims, m.index = i ∧ m.grant = k) ∧ t.lit = s.lit ∧ t.dark = s.dark ∧ t.seedbed = s.seedbed) ∧
    (s.grantOf true h base len lt = some k → s.get (TIER_GNT_A.STATE k) ≠ 3 → s.get (TIER_GNT_A.LTIER k) = 0 →
      s.get WARD_STATUS.STATE = 0 → topRange (65536 * s.get (TIER_GNT_B.BASE k)) (s.grantLen k) = true → ∃ t, exec (.released h base len lt) s = .next t ∧ t.get (TIER_GNT_A.STATE k) = 3 ∧
        (∀ a, 65536 * s.get (TIER_GNT_B.BASE k) ≤ a → a < 65536 * s.get (TIER_GNT_B.BASE k) + s.grantLen k → t.topsoil.byte 64 a = 0) ∧
        (∀ a, a < 65536 * s.get (TIER_GNT_B.BASE k) ∨ 65536 * s.get (TIER_GNT_B.BASE k) + s.grantLen k ≤ a →
          t.topsoil.byte 64 a = s.topsoil.byte 64 a) ∧
        t = { s with regs := t.regs, topsoil := t.topsoil }) ∧
    (s.get TIER_RECLAIM.BUSY = 0 → exec .reclaimTimeout s = .next s) ∧
    (s.get TIER_RECLAIM.BUSY = 1 → ∃ t, exec .reclaimTimeout s = .next t ∧ t.get TIER_RECLAIM.BUSY = 0 ∧
      (∀ j, j < 8 → s.isLender j = true → t.get (TIER_GNT_A.STATE j) = 3) ∧ t.lit = s.lit ∧ t.dark = s.dark ∧ t.seedbed = s.seedbed) ∧
    (s.grantOf false h base len lt = some k → ∃ t, exec (.revoked h base len lt) s = .next t ∧ t.get (TIER_GNT_A.STATE k) = 3 ∧
      t.get TIER_ERR.LOST = 1 ∧ (∀ m ∈ t.harrow.reclaims, m.grant ≠ k) ∧ t.lit = s.lit ∧ t.dark = s.dark ∧ t.field = s.field)

/-- SUBSOIL_CFG takes a legal value before Subsoil is ready and keeps its value otherwise. A patrol read of a tier counts a
corrected line; an uncorrectable one that has not been written since leaves its line marked and recorded.
The scrub of the configuration planes: a corrected word counts, an uncorrectable one makes the dark plane invalid, and in
the lit plane it is recorded and charged to the step; a clean read changes nothing. CNT_CLR of the engines, the tiers, the
Harrow and a plot zeroes the counters of its block and nothing else. -/
def Obligations.Upkeep : Prop :=
  (∀ (s : State),
    (∀ src val, Takes s src 0xB0000 1 → s.get SUBSOIL_STATUS.READY = 0 → bitsOf val 0 2 ≠ 3 → bitsOf val 16 2 ≠ 3 →
      1 ≤ bitsOf val 8 6 → bitsOf val 8 6 ≤ 32 → ∃ t, exec (.subsoilCfgWrite src val) s = .next t ∧
        t.get SUBSOIL_CFG.STRIPE = bitsOf val 0 2 ∧ t.get SUBSOIL_CFG.NCH = bitsOf val 2 1 ∧ t.get SUBSOIL_CFG.CH_GB = bitsOf val 8 6 ∧
        t.get SUBSOIL_CFG.RATE = bitsOf val 16 2 ∧ t = { s with regs := t.regs } ∧ SameRegsBut [0xB0000] s t) ∧
    (∀ src val, Takes s src 0xB0000 1 → s.get SUBSOIL_STATUS.READY = 1 ∨ bitsOf val 0 2 = 3 ∨ bitsOf val 16 2 = 3 ∨
      bitsOf val 8 6 = 0 ∨ 32 < bitsOf val 8 6 → exec (.subsoilCfgWrite src val) s = .next s) ∧
    (∀ (l o : Nat) (b : BitVec 6) (w : Bool), l * 64 < 2 ^ 42 → s.locate (s.lineAddr .topsoil l) = .top o →
      (∃ t, exec (.patrolRead .topsoil l (.one b) w) s = .next t ∧
        t.get (TOPSOIL_CE.CE (o / 2 ^ 37)) = min (2 ^ 32 - 1) (s.get (TOPSOIL_CE.CE (o / 2 ^ 37)) + 1) ∧ t = { s with regs := t.regs } ∧
        SameFieldsBut [TOPSOIL_CE.CE (o / 2 ^ 37)] s t) ∧
      exec (.patrolRead .topsoil l .ue true) s = .next s ∧
      (s.get WARD_STATUS.STATE ≠ 2 → ∃ t, exec (.patrolRead .topsoil l .ue false) s = .next t ∧ t.topsoil.isBad (o / 64) = true ∧
        (∀ g, g ≠ o / 64 → t.topsoil.isBad g = s.topsoil.isBad g) ∧ t.topsoil.cells = s.topsoil.cells ∧ t.seedbed = s.seedbed ∧
        t.subsoil = s.subsoil ∧ t.lit = s.lit ∧ t.dark = s.dark))) ∧
  (∀ (s : State) (dark : Bool) (p : BitVec 9),
    (∀ b, ∃ t, exec (.planeScrubRead dark p (.one b)) s = .next t ∧
      t.get ROTATE_PLANE_CE.CE_COUNT = min (2 ^ 32 - 1) (s.get ROTATE_PLANE_CE.CE_COUNT + 1) ∧ t = { s with regs := t.regs } ∧
      SameFieldsBut [ROTATE_PLANE_CE.CE_COUNT] s t) ∧
    (∃ t, exec (.planeScrubRead true p .ue) s = .next t ∧ t.get ROTATE_ERR.DARK_UE = 1 ∧ t.get ROTATE_STATUS.DARK_VALID = 0 ∧
      t.get ROTATE_DARK_ID.IMAGE_ID = 0 ∧ t = { s with regs := t.regs, rot := { s.rot with darkBad := t.rot.darkBad } } ∧
      t.rot.darkBad = decide (s.rotState = rotReady ∨ s.rotState = rotSwap ∧ s.power.goHeld.isSome = true) ∧
      SameRegsBut [0x50008, 0x50038, 0x50040, 0x50050] s t) ∧
    exec (.planeScrubRead false p .ue) s = .next (State.stepError { s.put ROTATE_ERR.LIT_UE 1 with rot := { s.rot with litBad := true } }
      { cls := 7, block := 5, plot := p.toNat, addr := s.gaddr 3 0x50000, nbits := 7 }) ∧
    exec (.planeScrubRead dark p .clean) s = .next s) ∧
  ∀ (s : State) (src : Source),
    (Takes s src 0x60000 1 → ∃ t, exec (.sowerCntClr src) s = .next t ∧ t.reg 0x60030 = 0 ∧ t.reg 0x60038 = 0 ∧ t.reg 0x60040 = 0 ∧
      t = { s with regs := t.regs } ∧ SameRegsBut [0x60030, 0x60038, 0x60040] s t) ∧
    (Takes s src 0x70000 1 → ∃ t, exec (.gleanCntClr src) s = .next t ∧ t.reg 0x70020 = 0 ∧ t.reg 0x70028 = 0 ∧
      t = { s with regs := t.regs } ∧ SameRegsBut [0x70020, 0x70028] s t) ∧
    (Takes s src 0xA0008 1 → ∃ t, exec (.topsoilCntClr src) s = .next t ∧
      (∀ k, k < 4 → t.get (TOPSOIL_CE.CE k) = 0 ∧ t.get (TOPSOIL_LINES.LINES k) = 0) ∧ t = { s with regs := t.regs } ∧
      SameRegsBut [0xA0020, 0xA0028, 0xA0030, 0xA0038, 0xA0040, 0xA0048, 0xA0050, 0xA0058] s t) ∧
    (Takes s src 0xB0010 1 → ∃ t, exec (.subsoilCntClr src) s = .next t ∧ t.get SUBSOIL_CE.CE = 0 ∧ t.get SUBSOIL_LINES.LINES = 0 ∧
      t = { s with regs := t.regs } ∧ SameFieldsBut [SUBSOIL_CE.CE, SUBSOIL_LINES.LINES] s t) ∧
    (Takes s src 0x80000 1 → ∃ t, exec (.harrowCntClr src) s = .next t ∧ t.get HARROW_LATE.LATE = 0 ∧
      t.get HARROW_BYTES.BYTES = 0 ∧ t = { s with regs := t.regs } ∧ SameFieldsBut [HARROW_LATE.LATE, HARROW_BYTES.BYTES] s t) ∧
    (∀ p : BitVec 9, Takes s src (0x200018 + 0x1000 * p.toNat) 1 → ∃ t, exec (.plotCntClr src p) s = .next t ∧
      (∀ o, o < 10 → t.get (HL_TOK_CNT.COUNT p.toNat o) = 0) ∧ t.get (HL_ECC_CNT.CE_COUNT p.toNat) = 0 ∧ t = { s with regs := t.regs } ∧
      SameFieldsBut (HL_ECC_CNT.CE_COUNT p.toNat :: (List.range 10).map fun o => HL_TOK_CNT.COUNT p.toNat o) s t)

/-! ### Fallow -/

/-- An installation of a slot: INST_BEGIN empties the slot that is not active, INST_MANIFEST takes a verified manifest,
INST_COMMIT programs the first pointer copy once both copies of every object are written, INST_ABORT gives up, and the
pointer's effect makes the new slot active. A command in another state fails with reason STATE. -/
def Obligations.FallowInstall : Prop :=
  ∀ (s : State) (src : Source), 
    (Takes s src 0xC0008 2 → s.power.falStart = false → s.instState = instIdle → ∃ t, exec (.instBegin src) s = .next t ∧
      t.instState = instOpen ∧ t.falSlot (!s.activeSlot) = .empty ∧ t.falSlot s.activeSlot = s.falSlot s.activeSlot ∧
      t.result 0xC0010 src = 1 ∧ t = { s with regs := t.regs, results := t.results, fallow := t.fallow, power := t.power }) ∧
    (Takes s src 0xC0008 2 → s.power.falStart = true ∨ s.instState ≠ instIdle →
      exec (.instBegin src) s = .next (s.falResult src 1 1).fallowWake) ∧
    (Takes s src 0xC0008 2 → s.power.falStart = true ∨ s.instState ≠ instOpen →
      exec (.instManifest src) s = .next (s.falResult src 1 1).fallowWake) ∧
    (Takes s src 0xC0008 2 → s.power.falStart = true ∨ s.instState ≠ instLoading →
      exec (.instCommit src) s = .next (s.falResult src 1 1).fallowWake) ∧
    (∀ o, Takes s src 0xC0008 2 → s.power.falStart = false → s.instState = instOpen →
      s.locate (s.get FALLOW_MADDR.ADDR) = .top o → topRange o (s.get FALLOW_MLEN.LEN) = true →
      let bs := s.peek (s.get FALLOW_MADDR.ADDR) (s.get FALLOW_MLEN.LEN)
      ∃ t, exec (.instManifest src) s = .next t ∧ t.falSlot s.activeSlot = s.falSlot s.activeSlot ∧
        (manFormatOk bs (s.get FALLOW_MLEN.LEN) (s.get ROUTE_SELF.XYZ) = true → s.manVerified bs = true →
          t.instState = instLoading ∧ t.falSlot (!s.activeSlot) = newSlot bs (s.falSlot s.activeSlot) ∧ t.result 0xC0010 src = 1) ∧
        (manFormatOk bs (s.get FALLOW_MLEN.LEN) (s.get ROUTE_SELF.XYZ) = false ∨ s.manVerified bs = false →
          t.instState = instOpen ∧ t.fallow = s.fallow ∧ t.result 0xC0010 src = 19)) ∧
    (Takes s src 0xC0008 2 → s.power.falStart = false → s.instState = instLoading →
      (s.falSlot (!s.activeSlot)).objs.all FalObj.written = true → ∃ t, exec (.instCommit src) s = .next t ∧
        t.instState = instCommitting ∧ t.fallow = { s.fallow with ptr0 := some ⟨s.get FALLOW_SEQ.SEQ + 1, !s.activeSlot⟩ } ∧
        t.result 0xC0010 src = 1 ∧ t = { s with regs := t.regs, results := t.results, fallow := t.fallow, power := t.power }) ∧
    (Takes s src 0xC0008 2 → s.power.falStart = false → s.instState = instOpen ∨ s.instState = instLoading →
      ∃ t, exec (.instAbort src) s = .next t ∧ t.instState = instIdle ∧ t.falSlot (!s.activeSlot) = .empty ∧
        t.falSlot s.activeSlot = s.falSlot s.activeSlot ∧ t.result 0xC0010 src = 1 ∧
        t = { s with regs := t.regs, results := t.results, fallow := t.fallow, power := t.power }) ∧
    (s.instState = instCommitting → ∃ t, exec .commitPointerEffect s = .next t ∧ t.activeSlot = !s.activeSlot ∧
      t.instState = instIdle ∧ t.falSlot s.activeSlot = .empty ∧ t.falSlot (!s.activeSlot) = s.falSlot (!s.activeSlot) ∧
      t.get FALLOW_SEQ.SEQ = (s.get FALLOW_SEQ.SEQ + 1) % 2 ^ FALLOW_SEQ.SEQ.len ∧ t.get FALLOW_STATUS.SLOT_BAD = 0 ∧
      t = { s with regs := t.regs, fallow := t.fallow }) ∧
    (s.instState ≠ instCommitting → exec .commitPointerEffect s = .next s)

/-- The Fallow queue, scrub and repair. A bad descriptor ends with cause DESC; a READ runs with the outcome of R352 and
moves ISSUE; its end writes the object, or zeros when it failed, and its status; a WRITE queued below L2 ends with cause
PRIV, a good one stores both copies of its object; a scrub pass queues the copies at the refresh limit; and a repair takes the
first copy queued and, with the pointer programmed, puts it on fresh superblocks. -/
def Obligations.FallowQueue : Prop :=
  ∀ (s : State),
    -- the descriptor has been read
    let got (i : Nat) := s.partReads (s.falOff i) 32 false
    (∀ i b0 b1 c, s.falNext = some i → s.falDescBad (s.falDesc i) = true →
      exec (.fallowRead b0 b1 c) s = .next ((got i).falRefuse i) ∧ exec (.fallowWrite true) s = .next ((got i).falRefuse i)) ∧
    (∀ i b0 b1 c, s.falNext = some i → s.falDescBad (s.falDesc i) = false → falOp (s.falDesc i) = 1 →
      s.writeWaits (falAddr (s.falDesc i)) (falLen (s.falDesc i)) = false →
      let d := s.falDesc i
      let r := ((got i).bump FALLOW_CE.CE c).falRead (falNum d) (falLen d) b0 b1
      ∃ t, exec (.fallowRead b0 b1 c) s = .next t ∧ t.fallow.reads = r.1.fallow.reads ++ [⟨i, falAddr d, falLen d, r.2.1, r.2.2⟩] ∧
        t.get FALLOW_QPTR.ISSUE = (i + 1) % 65536 ∧ t.seedbed = s.seedbed ∧ t.lit = s.lit ∧ t.dark = s.dark) ∧
    (∀ (pos : BitVec 16) r, s.fallow.reads.find? (fun r => r.pos == pos.toNat) = some r → s.writeWaits r.addr r.len = false →
      ∃ t, exec (.fallowReadDone pos) s = .next t ∧ t.fallow.reads = s.fallow.reads.filter (fun x => x.pos != r.pos) ∧
        t.topsoil = ((if r.cause = 0 then s.pokeAt r.addr r.data else s.zeroAt r.addr r.len).topPutWord (s.falOff r.pos + 24)
          (if r.cause = 0 then 1 else 3 + 4 * r.cause)).topsoil ∧
        t.lit = s.lit ∧ t.dark = s.dark ∧ t.field = s.field) ∧
    (∀ i b, s.falNext = some i → s.falDescBad (s.falDesc i) = false → falOp (s.falDesc i) = 2 →
      (KMap.get (fun _ => 0) s.fallow.atL2 i = 0 → exec (.fallowWrite b) s = .next (((got i).falIssued i).falEnd i 9)) ∧
      (∀ o bs p, KMap.get (fun _ => 0) s.fallow.atL2 i ≠ 0 → s.instState = instLoading →
        (s.falSlot (!s.activeSlot)).find (falNum (s.falDesc i)) = some o → o.written = false → o.len = falLen (s.falDesc i) →
        bs = s.peek (falAddr (s.falDesc i)) o.len → shaLe bs = o.digest →
        pickPairs s.fallow.targets s.fallow.blocks (if s.fallow.targets ≤ 1 then (s.fallow.blocks - 16) / 2 else s.fallow.total) 0
          (s.fallow.need o.len) s.fallow.used = some p →
        ∃ t, exec (.fallowWrite true) s = .next t ∧
          t.falSlot (!s.activeSlot) = (s.falSlot (!s.activeSlot)).setObj { o with c0 := some ⟨bs, p.1⟩, c1 := some ⟨bs, p.2⟩ } ∧
          t.falSlot s.activeSlot = s.falSlot s.activeSlot ∧ t.get FALLOW_QPTR.ISSUE = (i + 1) % 65536 ∧ t.lit = s.lit ∧
          t.dark = s.dark ∧ t.field = s.field)) ∧
    (∀ found o c d, s.power.falStart = false → (s.falSlot s.activeSlot).objs = [o] →
      (s.falSlot s.activeSlot).man0 = (s.falSlot s.activeSlot).man1 → o.c0 = some c → o.c1 = some d → c.data = d.data →
      shaLe c.data = o.digest → foundBits found o.num false ≤ 72 → s.get FALLOW_SCRUB.REFRESH_BITS ≤ foundBits found o.num false →
      foundBits found o.num true = 0 → 1 ≤ s.get FALLOW_SCRUB.REFRESH_BITS → 
      (∃ t, exec (.fallowScrubPeriod found) s = .next t ∧ t.get FALLOW_STATUS.SCRUB_BUSY = 1 ∧ (o.num, false) ∈ t.fallow.repairs ∧
        t = { s with regs := t.regs, fallow := { s.fallow with repairs := t.fallow.repairs }, power := t.power }) ∧
      (∀ src, Takes s src 0xC0008 2 → ∃ t, exec (.scrubNow src found) s = .next t ∧ t.get FALLOW_STATUS.SCRUB_BUSY = 1 ∧
        (o.num, false) ∈ t.fallow.repairs ∧ t.result 0xC0010 src = 1 ∧
        t = { s with regs := t.regs, results := t.results, fallow := { s.fallow with repairs := t.fallow.repairs }, power := t.power })) ∧
    (s.fallow.repairs = [] → ∀ n, exec (.fallowRepair n) s = .next s) ∧
    (∀ num rs o good sbs, s.fallow.repairs = (num, false) :: rs → s.instState ≠ instCommitting →
      (s.falSlot s.activeSlot).find num = some o → o.c1 = some good → shaLe good.data = o.digest →
      pickMatch s.fallow.targets s.fallow.blocks false good.sbs s.fallow.used = some sbs →
      ∃ t, exec (.fallowRepair 3) s = .next t ∧ t.fallow.repairs = rs ∧
        t.fallow.ptr0 = some ⟨s.get FALLOW_SEQ.SEQ + 1, s.activeSlot⟩ ∧ t.fallow.ptr2 = some ⟨s.get FALLOW_SEQ.SEQ + 1, s.activeSlot⟩ ∧
        ((t.falSlot s.activeSlot).find num).map (·.c0) = some (some ⟨good.data, sbs⟩) ∧
        t = { s with regs := t.regs, fallow := t.fallow })

/-! ### SERVE -/

/-- ADMIT of a request outside the work at a boundary. A slot that is not free reports WRONG_STATE; of a free one the request
words are read, and a request outside its bounds is refused with LIMIT.
One that passes the tests of R286 joins the open plan at the lowest free row with the next ADM_SEQ; with no free row it is
queued. -/
def Obligations.ServeAdmit : Prop :=
  ∀ (s : State) (src : Source) (slot : BitVec 10) (mp : Bool), Takes s src 0x100050 1 → s.get SERVE_CTRL.EN = 1 →
    s.boundaryWork = false →
    let i := slot.toNat
    let u := s.readRequest i
    let v := { u.requestOf i with cmdSeq := s.serve.nextCmd }
    let k := { u.knowSlot i v with serve := { (u.knowSlot i v).serve with nextCmd := s.serve.nextCmd + 1 } }
    let mb := chooseMb s.serve.planNew v.mbForce
    ((s.slot i).st ≠ slotFree → exec (.admitSlot src slot mp) s = .next (s.serveResult src 3 0 0)) ∧
    ((s.slot i).st = slotFree → u.requestBad i = true → exec (.admitSlot src slot mp) s = .next (u.serveResult src 2 reasonLimit 0)) ∧
    ((s.slot i).st = slotFree → u.requestBad i = false → k.admitReason i = none →
      (∀ r, freeRow s.serve.planNew mb = some r → ∃ t, exec (.admitSlot src slot mp) s = .next t ∧
        t.slot i = { v with admSeq := s.serve.nextAdm, st := slotActive, mb := mb, row := r, leaving := false } ∧
        t.serve.planNew = s.serve.planNew ++ [⟨i, mb, r, v.stepPos, false, false⟩] ∧ t.serve.nextAdm = s.serve.nextAdm + 1 ∧
        t.serve.planNow = s.serve.planNow ∧ t.serve.planNext = s.serve.planNext ∧
        t.result 0x100058 src = BitVec.ofNat 64 (1 + s.planStep % 2 ^ 32 * 2 ^ 32) ∧
        t.seedbed = s.seedbed ∧ t.subsoil = s.subsoil ∧ t.lit = s.lit ∧ t.dark = s.dark ∧ t.field = s.field) ∧
      (freeRow s.serve.planNew mb = none → exec (.admitSlot src slot mp) s =
        .next ((k.setSlot i { v with st := slotQueued }).serveResult src 1 reasonRow 0)))

/-- The other slot commands: CANCEL, PAUSE, RESUME, SETPOS and RELEASE by the state of the slot; WRONG_STATE (3) elsewhere.
While EN is 0 no slot command has an effect, and one that comes during the work at a boundary waits for its end with DONE 0. A
PAUSE leaves the open plan; with no planned step left the slot goes on at once. -/
def Obligations.ServeSlotCommands : Prop :=
  ∀ (s : State) (src : Source) (slot : BitVec 10) (arg : BitVec 14), Takes s src 0x100050 1 →
    let i := slot.toNat
    let v := s.slot i
    (s.get SERVE_CTRL.EN = 0 → ∀ c ∈ [Instr.admitSlot src slot true, Instr.admitSlot src slot false, .cancel src slot, .pause src slot,
      .resume src slot, .setpos src slot arg, .release src slot], exec c s = .next s) ∧
    (s.get SERVE_CTRL.EN = 1 → s.boundaryWork = true →
      ∀ e ∈ ([(.admitSlot src slot true, ⟨src, 1, i, true, 0⟩), (.admitSlot src slot false, ⟨src, 1, i, false, 0⟩),
          (.cancel src slot, ⟨src, 2, i, false, 0⟩), (.pause src slot, ⟨src, 3, i, false, 0⟩),
          (.resume src slot, ⟨src, 4, i, false, 0⟩), (.setpos src slot arg, ⟨src, 5, i, false, arg.toNat⟩),
          (.release src slot, ⟨src, 6, i, false, 0⟩)] : List (Instr × ServeCmd)),
        exec e.1 s = .next (State.setResult { s with serve := { s.serve with held := s.serve.held ++ [e.2] } } 0x100058 src 0)) ∧
    (s.get SERVE_CTRL.EN = 1 → s.boundaryWork = false →
      (v.st = slotQueued → exec (.cancel src slot) s = .next ((s.setSlot i SlotSt.free).serveResult src 0 0 0)) ∧
      (v.st = slotActive ∨ v.st = slotResuming →
        exec (.cancel src slot) s = .next ((s.setSlot i { v with cancelled := true }).serveResult src 0 0 0)) ∧
      (v.st = slotPausing ∨ v.st = slotPaused → exec (.cancel src slot) s = .next ((s.setSlot i
        { v with st := slotEnded, ending := 3, resumePend := false, freeIn := some 0 }).pagePump.serveResult src 0 0 0)) ∧
      (v.st = slotFree ∨ v.st = slotEnded → exec (.cancel src slot) s = .next (s.serveResult src 3 0 0)) ∧
      (v.st = slotActive → 2 ≤ v.prio → s.pauseFits i = true → v.releasing = false → ∃ t, exec (.pause src slot) s = .next t ∧
        t.serve.planNew = s.serve.planNew.filter (fun e => e.slot != i) ∧
        (s.planned i = true → t.slot i = { v with leaving := true }) ∧
        (s.planned i = false → v.cancelled = false → (t.slot i).st = slotPausing ∨ (t.slot i).st = slotPaused) ∧
        (s.planned i = false → v.cancelled = true → (t.slot i).st = slotEnded ∧ (t.slot i).ending = 3) ∧
        t.result 0x100058 src = BitVec.ofNat 64 (1 + s.planStep % 2 ^ 32 * 2 ^ 32) ∧ t.lit = s.lit ∧ t.field = s.field) ∧
      (v.st = slotActive → 2 ≤ v.prio → s.pauseFits i = false → exec (.pause src slot) s = .next (s.serveResult src 2 reasonQuota 0)) ∧
      (v.st ≠ slotActive ∨ v.prio < 2 → exec (.pause src slot) s = .next (s.serveResult src 3 0 0)) ∧
      (v.st = slotPausing ∨ v.st = slotPaused → s.resumeFits i = true → exec (.resume src slot) s =
        .next ((State.setSlot { s with serve := { s.serve with nextCmd := s.serve.nextCmd + 1 } } i
          { v with cmdSeq := s.serve.nextCmd, st := slotResuming, resumePend := false }).pagePump.serveResult src 0 0 0)) ∧
      (v.st = slotPausing ∨ v.st = slotPaused → s.resumeFits i = false → exec (.resume src slot) s =
        .next ((State.setSlot { s with serve := { s.serve with nextCmd := s.serve.nextCmd + 1 } } i
          { v with cmdSeq := s.serve.nextCmd, resumePend := true }).serveResult src 1 reasonQuota 0)) ∧
      (v.st ≠ slotPausing → v.st ≠ slotPaused → exec (.resume src slot) s = .next (s.serveResult src 3 0 0)) ∧
      (v.st = slotActive → 1 ≤ arg.toNat → arg.toNat ≤ v.stepPos → arg.toNat ≤ 8192 → arg.toNat ≤ v.limit →
        ∃ t, exec (.setpos src slot arg) s = .next t ∧ t.slot i = { v with stepPos := arg.toNat } ∧
          t.serve.planNew = s.serve.planNew.map (fun e => if e.slot = i then { e with stepPos := arg.toNat } else e) ∧
          t.serve.planNow = s.serve.planNow ∧ t.serve.planNext = s.serve.planNext ∧ t.lit = s.lit ∧ t.field = s.field) ∧
      (v.st = slotActive → arg.toNat = 0 ∨ 8192 < arg.toNat ∨ v.limit < arg.toNat →
        exec (.setpos src slot arg) s = .next (s.serveResult src 2 reasonLimit 0)) ∧
      (v.st ≠ slotActive → exec (.setpos src slot arg) s = .next (s.serveResult src 3 0 0)) ∧
      (v.st = slotActive → v.stepPos < arg.toNat → arg.toNat ≤ 8192 → arg.toNat ≤ v.limit →
        let p := s.serve.planNew.map fun e => if e.slot = i then { e with stepPos := arg.toNat } else e
        let k := s.knowSlot i { v with stepPos := arg.toNat }
        (k.quotaOk p i = false → exec (.setpos src slot arg) s = .next (s.serveResult src 2 reasonQuota 0)) ∧
        (k.quotaOk p i = true → k.timeOk p = false → exec (.setpos src slot arg) s = .next (s.serveResult src 2 reasonTime 0)) ∧
        (k.quotaOk p i = true → k.timeOk p = true → exec (.setpos src slot arg) s =
          .next (((s.setPlanNew p).setSlot i { v with stepPos := arg.toNat }).serveResult src 0 0 0))) ∧
      (v.st = slotEnded → v.freeIn = none → exec (.release src slot) s = .next ((s.setSlot i SlotSt.free).serveResult src 0 0 0)) ∧
      (v.st = slotEnded → v.freeIn ≠ none → exec (.release src slot) s =
        .next ((s.setSlot i { v with releasing := true }).pagePump.serveResult src 0 0 0)) ∧
      (v.st ≠ slotEnded → exec (.release src slot) s = .next (s.serveResult src 3 0 0)))

/-- Pages, results and the control register. The end of a page move ends the slot's move, unlists the source as moving and
lists it as vacated; a pool page is zeroed before it is free; a result Pass's record, once its bindings have ended their walks, gives its slot a result; EN resumes SERVE, and goes off in STOPPED
alone; CNT_CLR zeroes the Sheaf counters. -/
def Obligations.ServePagesAndResults : Prop :=
  ∀ (s : State),
    (∀ (slot : BitVec 10) (m : PageMove), (s.slot slot.toNat).move = some m → s.writeWaits m.dst s.pageSize = false →
      ∀ page : BitVec 12, page.toNat = m.page → s.serve.slots = [(slot.toNat, s.slot slot.toNat)] → (s.slot slot.toNat).st = slotActive →
      (s.slot slot.toNat).want = 0 → s.harrow.reclaims = [] → s.reclaiming = [] → ∃ t, exec (.pageMoveComplete slot page) s = .next t ∧
        t.slot slot.toNat = { s.slot slot.toNat with move := none } ∧ t.harrow.ranges =
          (s.harrow.ranges.filter fun r => !(decide (r.kind = .moving) && r.addr == m.src)) ++ [⟨.vacated, m.src, s.pageSize⟩] ∧
        (m.toSub = true → t.serve.poolDirty = s.serve.poolDirty ++ [s.pageOfOff (m.src % 2 ^ 42)]) ∧
        t.lit = s.lit ∧ t.dark = s.dark ∧ t.field = s.field) ∧
    (∀ slot page, (s.slot slot.toNat).move = none → exec (.pageMoveComplete slot page) s = .next s) ∧
    (∀ page : BitVec 16, s.serve.poolDirty.contains page.toNat = false → exec (.poolPageZeroed page) s = .next s) ∧
    (∀ page : BitVec 16, s.serve.poolDirty.contains page.toNat = true → s.get WARD_STATUS.STATE = 0 → s.serve.slots = [] →
      s.harrow.reclaims = [] → s.reclaiming = [] → topRange (s.poolOff page.toNat) s.pageSize = true → ∃ t, exec (.poolPageZeroed page) s = .next t ∧
        t.topsoil = s.topsoil.zeroed 64 (s.poolOff page.toNat) s.pageSize ∧
        t.serve = { s.serve with poolDirty := s.serve.poolDirty.erase page.toNat, poolFree := s.serve.poolFree ++ [page.toNat] } ∧
        t.get SERVE_POOLCFG.FREE = (s.serve.poolFree.length + 1) % 65536 ∧
        t = { s with regs := t.regs, topsoil := t.topsoil, serve := t.serve, harrow := { s.harrow with ranges := t.harrow.ranges } }) ∧
    (∀ mb p r e, s.resultPass mb = some p → s.boardHeld (.serve mb) = true →
      (List.range 512).filter (passRowActive p.desc) = [r] → s.serve.planNow.find? (fun e => e.mb == mb && e.row == r) = some e →
      e.dead = false → e.stalled = false → s.walksEnded p.pseq = true →
      let u := s.partReads (s.areaOff (0x20000 + 0x100 * (512 * bit e.mb + e.row))) 256 true
      (u.rowRead e).2 = none → ∃ t, exec (.resultCheck mb) s = .next t ∧
        t.serve = { s.serve with results := s.serve.results ++ [(u.rowRead e).1] } ∧ t.boardHeld (.serve mb) = false ∧
        ((u.rowRead e).1.bad = true → t.get SERVE_ERR.RES_BAD = 1) ∧ SameMemory u t ∧ t.lit = s.lit ∧ t.field = s.field) ∧
    (∀ mb p, s.resultPass mb = some p → s.walksEnded p.pseq = false → exec (.resultCheck mb) s = .next s) ∧
    (∀ src val, Takes s src 0x100000 1 → bitOf val 1 = false →
      (bitOf val 0 = true → s.get SERVE_CTRL.EN = 0 → exec (.serveEn src val) s = .next (s.put SERVE_CTRL.EN 1).serveResume) ∧
      (bitOf val 0 = true → s.get SERVE_CTRL.EN = 1 → exec (.serveEn src val) s = .next s) ∧
      (bitOf val 0 = false → s.stepState = stepStopped → ∃ t, exec (.serveEn src val) s = .next t ∧ t.get SERVE_CTRL.EN = 0 ∧
        t = { s with regs := t.regs } ∧ SameFieldsBut [SERVE_CTRL.EN] s t) ∧
      (bitOf val 0 = false → s.stepState ≠ stepStopped → exec (.serveEn src val) s = .next s)) ∧
    (∀ src val, Takes s src 0x100000 1 → bitOf val 1 = true → bitOf val 0 = true → s.get SERVE_CTRL.EN = 1 →
      ∃ t, exec (.serveCntClr src val) s = .next t ∧ t.get SERVE_CNT.SHEAVES = 0 ∧ t.get SERVE_CNT.DROPPED = 0 ∧
        t = { s with regs := t.regs } ∧ SameFieldsBut [SERVE_CNT.SHEAVES, SERVE_CNT.DROPPED] s t)

/-! ### Drill -/

/-- The head of a Drill job. A bad descriptor refuses START and sends nothing; a good one sends each member's entry ahead
of the first chunk and gives the chip the head's role. ABORT sends ABORT down the chain and fails every pending member;
CNT_CLR clears the byte count. A RESULT or WATERMARK changes its member's result; the last result ends the job; a credit
sends the next chunk; a catch-up that stalls fails its member with SLOW. -/
def Obligations.DrillHeadRole : Prop :=
  ∀ (s : State) (src : Source) (val : W64), s.get WARD_STATUS.STATE = 0 →
    (Takes s src 0xD0000 1 → bitOf val 1 = false → s.headRuns = false →
      let hdr := s.topWords s.jobOff 8
      let ms := (List.range (min 64 (bitsOf (hdr.getD 0 0) 0 7))).map fun i => s.topWords (s.jobOff + 64 + 64 * i) 8
      let later : List (Nat × W64) := ms.zipIdx.map fun m => (m.2, m.1.getD 0 0)
      let len := bitsOf (hdr.getD 2 0) 0 41
      (drillBad hdr ms = true → ∃ t, exec (.drillStart src val) s = .next t ∧ t.get DRILL_ERR.DESC_BAD = 1 ∧
        t.get DRILL_CTRL.ACCEPT = bitsOf val 2 1 ∧ t.drill = s.drill ∧ t.net = s.net ∧ SameMemory s t) ∧
      (∀ o, drillBad hdr ms = false → bitOf (hdr.getD 0 0) 7 = false → s.locate (hdr.getD 1 0).toNat = .top o →
        topRange o len = true → ∃ t h rest, exec (.drillStart src val) s = .next t ∧ t.drill.head = some h ∧
          h.jobId = bitsOf (hdr.getD 0 0) 32 32 ∧ h.src = (hdr.getD 1 0).toNat ∧ h.len = len ∧ h.members = ms ∧
          h.results = ms.map (fun _ => .pending) ∧ h.later = later ∧ t.drill.member = s.drill.member ∧
          t.get DRILL_STATUS.ROLE = 1 ∧ t.get DRILL_STATUS.STATE = 1 ∧ t.get DRILL_STATUS.MEMBER = 0 ∧
          t.net.outbox = s.net.outbox ++ later.map (fun m => s.mkPacket 6 4 (s.memChip m) 0x0501 0
            (wordBytes (hdr.map (·.toNat)) ++ wordBytes ((ms.getD m.1 []).map (·.toNat)))) ++ rest)) ∧
    (∀ h, Takes s src 0xD0000 1 → bitOf val 0 = false → s.headRuns = true → s.drill.head = some h →
      h.results.length = h.members.length → ∃ t, exec (.drillCtrlAbort src val) s = .next t ∧
        t.drill = { s.drill with head := some { h with
          catchUp := none, results := h.results.map fun r => r.finish resFailed causeAbort } } ∧ t.get DRILL_STATUS.STATE = 3 ∧
        t.net.outbox = s.net.outbox ++
          (h.later.take 1).map (fun m => s.mkPacket 6 4 (s.memChip m) 0x0508 0 (pad64 (le4 h.jobId)))) ∧
    (Takes s src 0xD0000 1 → bitOf val 0 = false → bitOf val 1 = false → ∃ t, exec (.drillCntClr src val) s = .next t ∧
      t.get DRILL_BYTES.BYTES = 0 ∧ t.get DRILL_CTRL.ACCEPT = bitsOf val 2 1 ∧
      t = { s with regs := t.regs, power := t.power }) ∧
    (∀ hd h i r, s.headRuns = true → s.drill.head = some h → h.results[i]? = some r → r.state = resPending → i < 64 →
      let job := BitVec.ofNat 32 h.jobId
      let m := BitVec.ofNat 6 i
      h.jobId < 2 ^ 32 → 
      ((∃ j, j ≠ i ∧ ∃ q, h.results[j]? = some q ∧ q.bypassed = false ∧ q.state = resPending) →
        (∃ t, exec (.result hd job m 1 0) s = .next t ∧
          t.drill = { s.drill with head := some { h with results := h.results.set i { r with state := resDone, cause := 0 } } } ∧
          t.topsoil = (s.putResult i { r with state := resDone, cause := 0 }).topsoil ∧ t.net = s.net ∧
          t.get DRILL_STATUS.STATE = s.get DRILL_STATUS.STATE) ∧
        (∀ mark, ∃ t, exec (.watermark hd job m mark) s = .next t ∧
          t.drill = { s.drill with head := some { h with
            results := h.results.set i { r with bypassed := true, watermark := mark.toNat } } } ∧ t.net = s.net)) ∧
      ((∀ j q, j ≠ i → h.results[j]? = some q → q.state ≠ resPending) →
        (∃ t g, exec (.result hd job m 1 0) s = .next t ∧ t.drill.head = some g ∧
          g.results = h.results.set i { r with state := resDone, cause := 0 } ∧ t.get DRILL_STATUS.STATE = 3) ∧
        (∀ n k, h.catchUp = some (i, n, k) → ∃ t g, exec .catchUpStall s = .next t ∧ t.drill.head = some g ∧
          g.results = h.results.set i { r with state := resFailed, cause := causeSlow } ∧ t.get DRILL_ERR.FAILED = 1 ∧
          t.get DRILL_STATUS.STATE = 3))) ∧
    (s.drill.head = none → exec .catchUpStall s = .next s) ∧
    (∀ hd h n bs, s.drill.member = none → s.headRuns = true → s.drill.head = some h → h.catchUp = none → h.credit = 0 →
      s.isNext h.later hd.src.toNat = true → nextNeeded h.later (chunkCount h.len) h.nextChunk = some n →
      s.headChunk h n = some bs → h.jobId < 2 ^ 32 → exec (.drillCredit hd (BitVec.ofNat 32 h.jobId) 1) s =
        .next (((s.headReads h n).setHead (some { h with nextChunk := n + 1, credit := 0 })).sendChunk h.jobId n h.later bs))

/-- A member of a Drill job. An entry is refused for the reasons of R361, else taken; a chunk below the one wanted is
discarded, a kept one is written at its place and returns a credit, and the last decides by the digest; a member that has
waited BYPASS_US bypasses the next; the bypassed member reports its WATERMARK and the member after it answers NEXT; a
chunk outside the retention window fails the members after it with WINDOW; ABORT and the idle timeout end the role. -/
def Obligations.DrillMemberRole : Prop :=
  ∀ (s : State) (hd : MsgHdr), 
    (∀ header entry i later out, s.get DRILL_CTRL.ACCEPT = 0 ∨ s.drillBusy = true ∨ out = true ∨
        s.drillDstBad entry (bitsOf (header.getD 2 0) 0 41) = true → exec (.drillEntry hd header entry i later out) s =
      .next (((s.put DRILL_ERR.REFUSED 1).sendResult hd.src.toNat (bitsOf (header.getD 0 0) 32 32) i.toNat resFailed
        causeRefused).fallowWake)) ∧
    (∀ header entry i later, s.get DRILL_CTRL.ACCEPT ≠ 0 → s.drillBusy = false →
        s.drillDstBad entry (bitsOf (header.getD 2 0) 0 41) = false → memKeep (entry.getD 0 0) = true →
      ∃ t m, exec (.drillEntry hd header entry i later false) s = .next t ∧ t.drill = { s.drill with member := some m } ∧
        m.jobId = bitsOf (header.getD 0 0) 32 32 ∧ m.idx = i.toNat ∧ m.head = hd.src.toNat ∧ m.entry = entry ∧ m.want = 0 ∧
        m.kept = 0 ∧ m.credit = 32 ∧ m.later = later.map (fun k => (k.1.toNat, k.2)) ∧ t.get DRILL_STATUS.ROLE = 2 ∧
        t.get DRILL_STATUS.STATE = 1 ∧ t.get DRILL_STATUS.MEMBER = i.toNat ∧ t.net = s.net ∧ SameMemory s t) ∧
    (∀ m, s.drill.member = some m → m.jobId < 2 ^ 32 →
      let job := BitVec.ofNat 32 m.jobId
      let w := m.entry.getD 0 0
      let a := (m.entry.getD 1 0).toNat
      (∀ n len, n.toNat < m.want → exec (.chunk hd job n len) s = .next s) ∧
      (∀ n len, m.want ≤ n.toNat → memKeeps w n.toNat = true → memKind w = 0 → m.reported = false → m.later = [] →
        s.get WARD_STATUS.STATE = 0 →
        let bs := s.topPeek (s.bufOff m.chain n.toNat) (chunkLen m.len n.toNat)
        let at_ := a + (n.toNat - memFirst w) * chunkBytes
        let msg (st cause : Nat) := s.mkPacket 6 4 m.head 0x0507 0
          (pad64 (le4 m.jobId ++ leBytes 1 m.idx ++ leBytes 1 st ++ leBytes 1 cause))
        let cred := s.mkPacket 6 4 hd.src.toNat 0x0502 0 (pad64 (le4 m.jobId ++ le4 1))
        ∃ t k, exec (.chunk hd job n len) s = .next t ∧ t.drill = { s.drill with member := some k } ∧
          k.want = n.toNat + 1 ∧ k.kept = m.kept + 1 ∧ k.bytes = m.bytes ++ bs ∧ t.lit = s.lit ∧ t.dark = s.dark ∧
          t.get DRILL_BYTES.BYTES = min (2 ^ DRILL_BYTES.BYTES.len - 1) (s.get DRILL_BYTES.BYTES + bs.length) ∧
          (n.toNat ≠ memLast w → k.reported = false ∧ t.net.outbox = s.net.outbox ++ [cred] ∧
            t.topsoil = (s.pokeAt at_ bs).topsoil ∧ t.subsoil = (s.pokeAt at_ bs).subsoil) ∧
          (n.toNat = memLast w → k.reported = true ∧ t.get DRILL_STATUS.STATE = 3 ∧
            (shaLe k.bytes = entryDigest m.entry → t.net.outbox = s.net.outbox ++ [msg resDone 0, cred] ∧
              t.topsoil = (s.pokeAt at_ bs).topsoil) ∧
            (shaLe k.bytes ≠ entryDigest m.entry → t.net.outbox = s.net.outbox ++ [msg resFailed causeDigest, cred] ∧
              t.topsoil = ((s.pokeAt at_ bs).zeroAt a (keptLen w m.len)).topsoil))) ∧
      (s.bypassDue = false → exec .bypassTimeout s = .next s) ∧
      (∀ j k rest, s.bypassDue = true → m.later = j :: k :: rest → ∃ t, exec .bypassTimeout s = .next t ∧
        t.get DRILL_ERR.BYPASS = 1 ∧ SameFieldsBut [DRILL_ERR.BYPASS] s t ∧
        t.drill = { s.drill with member := some { m with later := k :: rest, credit := 0 } } ∧
        t = { s with regs := t.regs, drill := t.drill, net := { s.net with
          outbox := s.net.outbox ++ [j, k].map (fun d =>
            s.mkPacket 6 4 (s.memChip d) 0x0504 0 (pad64 (le4 m.jobId ++ leBytes 1 j.1 ++ leBytes 1 m.idx))) } }) ∧
      (∀ j i, j.toNat = m.idx → memKeep w = true → 0 < m.kept → memFirst w + m.kept ≤ 2 ^ 20 →
        ∃ t, exec (.bypass hd job j i) s = .next t ∧
        t.drill.member = some { m with bypassed := true } ∧ t.net.outbox = s.net.outbox ++ [s.mkPacket 6 4 m.head 0x0506 0
          (pad64 (le4 m.jobId ++ le4 m.idx ++ le4 (memFirst w + m.kept - 1)))] ∧ t.get DRILL_ERR.BYPASS = 1) ∧
      (∀ j i, j.toNat ≠ m.idx →
        let n := (nextNeeded m.chain (chunkCount m.len) m.want).getD (chunkCount m.len)
        ∃ t, exec (.bypass hd job j i) s = .next t ∧ t.drill.member = some { m with up := hd.src.toNat, want := n } ∧
          t.net.outbox = s.net.outbox ++ [s.mkPacket 6 4 hd.src.toNat 0x0505 0 (pad64 (le4 m.jobId ++ le4 n))]) ∧
      (∀ n c, s.isNext m.later hd.src.toNat = true → memKeep w = true →
        nextNeeded m.later (chunkCount m.len) n.toNat = some c →
        (c < m.fwd → m.held.contains c = false → ∃ t, exec (.next hd job n) s = .next t ∧
          t = { s with drill := { s.drill with member := some { m with later := [], credit := 0 } }, net := { s.net with
            outbox := s.net.outbox ++ m.later.map (fun k => s.mkPacket 6 4 m.head 0x0507 0
              (pad64 (le4 m.jobId ++ leBytes 1 k.1 ++ leBytes 1 resFailed ++ leBytes 1 causeWindow))) } }) ∧
        (m.fwd ≤ c ∨ m.held.contains c = true → exec (.next hd job n) s =
          .next (((s.setMember (some { m with fwd := n.toNat, credit := 32 })).memberPump 32).idleDone))) ∧
      (m.reported = false → ∃ t u, exec (.drillAbort hd job) s = .next t ∧ exec .drillIdleTimeout s = .next u ∧
        t.drill = { s.drill with member := none } ∧ u.drill = { s.drill with member := none } ∧
        t.get DRILL_STATUS.ROLE = 0 ∧ u.get DRILL_STATUS.ROLE = 0 ∧ t.get DRILL_STATUS.STATE = 0 ∧ u.get DRILL_STATUS.STATE = 0 ∧
        let msg (cause : Nat) := s.mkPacket 6 4 m.head 0x0507 0
          (pad64 (le4 m.jobId ++ leBytes 1 m.idx ++ leBytes 1 resFailed ++ leBytes 1 cause))
        t.net.outbox = s.net.outbox ++ (m.later.take 1).map (fun k => s.mkPacket 6 4 (s.memChip k) 0x0508 0
          (pad64 (le4 m.jobId))) ++ [msg causeAbort] ∧
        u.net.outbox = s.net.outbox ++ [msg causeIdle])) ∧
    (s.drill.member = none → exec .drillIdleTimeout s = .next s ∧ ∀ job, exec (.drillAbort hd job) s = .next s)

/-! ### Links -/

/-- Frames. A link that is not live takes none. A frame that fails its checks is counted and asks for a replay; the next
DATA frame in order delivers its packets in PSEQ order and returns credits, any other one asks for a replay; an IDLE frame
returns credits and delivers nothing; a NACK resends what no ACK covers. -/
def Obligations.LinkFrames : Prop :=
  ∀ (s : State) (k : Fin 24) (f : Frame),
    let l := k.val
    let v := s.link l
    let port := s.get (LINK_STATE.PORT l)
    let rest := ackFrames f.ack.toNat v.replay
    let np := if rest.length = v.replay.length then v.noProgress else 0
    let spent (t : State) (n : Nat) := KMap.get (fun _ => 0) t.net.spent (creditKey port (n / 2) (n % 2 == 1))
    (s.linkLive l = false → exec (.dataFrame k f) s = .next s ∧ exec (.idleFrame k f) s = .next s) ∧
    (s.linkLive l = true → f.good = false → ∀ c ∈ [Instr.dataFrame k f, .idleFrame k f], ∃ t, exec c s = .next t ∧
      t.link l = { v with nack := true } ∧ t.get (LINK_FEC.UNCORR l) = min (2 ^ (LINK_FEC.UNCORR l).len - 1) (s.get (LINK_FEC.UNCORR l) + 1) ∧
      t.get LINK_ERR.FLAGS / 2 ^ 14 % 2 = 1 ∧ t.linkState l = s.linkState l ∧
      t = { s with regs := t.regs, net := { s.net with links := t.net.links } }) ∧
    (s.linkLive l = true → f.good = true → f.nack = false →
      (s.linkState l = linkUp → f.fseq.toNat = v.rxSeq →
        KMap.get (fun _ => []) s.net.portBuf port = [] → f.pseq.toNat = KMap.get (fun _ => 0) s.net.pseqRx port →
        ∃ t, exec (.dataFrame k f) s = .next t ∧
          t.link l = { v with replay := rest, noProgress := np, rxSeq := (v.rxSeq + 1) % 65536, nack := false } ∧
          t.net.rx = s.net.rx ++ f.packets.map (fun e => (port, e.2, e.1)) ∧
          KMap.get (fun _ => 0) t.net.pseqRx port = (f.pseq.toNat + 1) % 65536 ∧
          (∀ n, n < 16 → spent t n = spent s n - bitsOf f.credits (8 * n) 8) ∧ SameMemory s t ∧ t.lit = s.lit) ∧
      (s.linkState l = linkUp → f.fseq.toNat ≠ v.rxSeq → ∃ t, exec (.dataFrame k f) s = .next t ∧ (t.link l).nack = true ∧
        (t.link l).rxSeq = v.rxSeq ∧ t.net.rx = s.net.rx ∧ t.net.spent = s.net.spent) ∧
      (∃ t, exec (.idleFrame k f) s = .next t ∧ t.link l = { v with replay := rest, noProgress := np } ∧ t.net.rx = s.net.rx ∧
        (∀ n, n < 16 → spent t n = spent s n - bitsOf f.credits (8 * n) 8))) ∧
    (s.linkLive l = true → f.good = true → f.nack = true → rest ≠ [] → np + 1 < s.get LINK_CFG.DOWN_REPLAYS →
      ∃ t, exec (.idleFrame k f) s = .next t ∧ t.link l = { v with replay := rest, noProgress := np + 1 } ∧
        t.get (LINK_FEC.REPLAYS l) = min (2 ^ (LINK_FEC.REPLAYS l).len - 1) (s.get (LINK_FEC.REPLAYS l) + 1))

/-- A link that is lost, with no frame unacknowledged and no job or Ward on the chip: it is DOWN after a loss of lane alignment
or 1 µs without a frame, DEPARTED after a DEPART, which marks its sender on the torus failed, and the tables have it no more.
LINK_CTRL: RESET and ENABLE train a link that the plan uses, DISABLE stops it; on a link that is already off only ENABLE and
RESET act. -/
def Obligations.LinkLossAndControl : Prop :=
  (∀ (s : State) (k : Fin 24),
    let l := k.val
    (s.linkLive l = false → ∀ serial reason, ∀ c ∈ [Instr.laneAlignLoss k, .frameTimeout k, .depart k serial reason],
      exec c s = .next s) ∧
    (s.linkLive l = true → (s.link l).replay = [] → s.get WARD_STATUS.STATE = 0 → s.drill = .reset →
      KMap.get (fun _ => []) s.net.portBuf (s.get (LINK_STATE.PORT l)) = [] → s.get (LINK_STATE.ROLE l) ≠ 3 →
      (∀ c ∈ [Instr.laneAlignLoss k, .frameTimeout k], ∃ t, exec c s = .next t ∧ t.linkState l = linkIsDown ∧
        t.link l = .reset ∧ t.tableLink l = 0 ∧ t.get LINK_ERR.FLAGS / 2 ^ 4 % 2 = 1 ∧
        (∀ m, m < 24 → m ≠ l → t.linkState m = s.linkState m ∧ t.link m = s.link m) ∧
        t = { s with regs := t.regs, net := t.net }) ∧
      (∀ serial reason, (∀ i, i < 8 → s.get (TIER_GNT_A.EN i) = 0) → ∃ t, exec (.depart k serial reason) s = .next t ∧
        t.linkState l = linkDeparted ∧ t.link l = .reset ∧ t.tableLink l = 0 ∧ t.get LINK_ERR.FLAGS / 2 ^ 5 % 2 = 1 ∧
        (s.get (LINK_STATE.ROLE l) = 1 →
          t.get ROUTE_FAILED.FAILED = s.get ROUTE_FAILED.FAILED ||| 2 ^ s.get (LINK_PEERPOS.XYZ l)) ∧
        t = { s with regs := t.regs, net := t.net }))) ∧
  ∀ (s : State) (src : Source) (k : Fin 24), Takes s src 0xE0000 2 →
    let l := k.val
    (s.get (LINK_STATE.ROLE l) = 0 → exec (.linkReset src k) s = .next s ∧ exec (.linkEnable src k) s = .next s) ∧
    (s.linkState l = linkOff → exec (.linkDisable src k) s = .next s) ∧
    (s.linkState l ≠ linkOff → s.linkState l ≠ linkIsDown → exec (.linkEnable src k) s = .next s) ∧
    (s.get (LINK_STATE.ROLE l) ≠ 0 → s.linkState l = linkOff ∨ s.linkState l = linkIsDown →
      ∃ t, exec (.linkEnable src k) s = .next t ∧ t.linkState l = linkTraining ∧ t.link l = .reset ∧
        t.get (LINK_STATE.VERDICT l) = 0 ∧ t.get (LINK_STATE.PEER_VERDICT l) = 0 ∧
        t = { s with regs := t.regs, net := { s.net with links := t.net.links } } ∧
        SameFieldsBut [LINK_STATE.STATE l, LINK_STATE.VERDICT l, LINK_STATE.PEER_VERDICT l, LINK_STATE.RATE l] s t) ∧
    ((s.link l).replay = [] → s.get WARD_STATUS.STATE = 0 → s.drill = .reset → s.get (LINK_STATE.ROLE l) ≠ 3 →
      KMap.get (fun _ => []) s.net.portBuf (s.get (LINK_STATE.PORT l)) = [] →
      (s.get (LINK_STATE.ROLE l) ≠ 0 → ∃ t, exec (.linkReset src k) s = .next t ∧ t.linkState l = linkTraining ∧
        t.link l = .reset ∧ t.tableLink l = 0 ∧ t.reg (LINK_FEC.CORR l).reg = 0 ∧ t.reg (LINK_PEER.SERIAL l).reg = 0 ∧
        t = { s with regs := t.regs, net := t.net }) ∧
      (s.linkState l ≠ linkOff → ∃ t, exec (.linkDisable src k) s = .next t ∧ t.linkState l = linkOff ∧ t.link l = .reset ∧
        t.tableLink l = 0 ∧ t = { s with regs := t.regs, net := t.net }))

/-- Hellos and training. Training ends in HELLO or OFF; the hello timer sends this chip's hello; the first hello is noted and the
second equal one with a verdict decides the link by the worse of the two; a hello that differs in any field but VERDICT
from the one on which the state rests returns the link to HELLO. -/
def Obligations.LinkDecides : Prop :=
  ∀ (s : State) (k : Fin 24),
    let l := k.val
    let v := s.link l
    (∀ ok, s.linkState l = linkTraining → ∃ t, exec (.linkTrained k ok) s = .next t ∧
      t.linkState l = (if ok then linkHello else linkOff) ∧ (ok = false → t.get CHIP_ERR.TRAIN_FAIL = 1) ∧
      t = { s with regs := t.regs } ∧ SameFieldsBut [LINK_STATE.STATE l, CHIP_ERR.TRAIN_FAIL] s t) ∧
    (∀ ok, s.linkState l ≠ linkTraining → exec (.linkTrained k ok) s = .next s) ∧
    (s.linkLive l = true → exec (.helloTimer k) s =
      .next (s.setLink l { v with sentHellos := v.sentHellos ++ [s.ownHello l] })) ∧
    (s.linkLive l = false → exec (.helloTimer k) s = .next s ∧ ∀ m, exec (.hello k m) s = .next s) ∧
    (∀ m, s.linkState l = linkHello → v.lastHello ≠ some m → ∃ t, exec (.hello k m) s = .next t ∧
      t.linkState l = linkHello ∧ t.link l = { v with lastHello := some m } ∧ t.get (LINK_STATE.VERDICT l) = s.verdict l m ∧
      t.get (LINK_PEER.SERIAL l) = m.serial.toNat ∧ t.get (LINK_PEERPOS.XYZ l) = m.xyz.toNat % 64 ∧
      t = { s with regs := t.regs, net := { s.net with links := t.net.links } }) ∧
    (∀ m, s.linkState l = linkHello → v.lastHello = some m → verdictRank m.verdict.toNat ≠ 0 → s.net.plan.isSome = true →
      ∃ t, exec (.hello k m) s = .next t ∧ t.linkState l = worseVerdict (s.verdict l m) m.verdict.toNat ∧
        t.link l = { v with basis := some m } ∧
        (∀ f, verdictFlag (worseVerdict (s.verdict l m) m.verdict.toNat) = some f → t.get LINK_ERR.FLAGS / 2 ^ f % 2 = 1) ∧
        (s.net.slice = none → worseVerdict (s.verdict l m) m.verdict.toNat ≤ linkMgmt →
          t.tableLink l = worseVerdict (s.verdict l m) m.verdict.toNat)) ∧
    (∀ m, linkUp ≤ s.linkState l → s.linkState l ≤ 7 → v.basis.map (fun b => { b with verdict := m.verdict }) ≠ some m →
      s.drill = .reset → ∃ t, exec (.hello k m) s = .next t ∧ t.linkState l = linkHello ∧ t.tableLink l = 0 ∧
        t.link l = { v with lastHello := some m, basis := none } ∧ t = { s with regs := t.regs, net := t.net })

/-- Routes and the slice. A refused APPLY or CLEAR sets APPLY_BAD and does nothing else; an accepted APPLY puts the chip into
the slice of the descriptor, with its index and leader, and a new JOB or GEN waits for its key; CLEAR takes it out; a write of a
multicast group or of the failed marks acts by R398, R401 and R404. -/
def Obligations.SliceAndRoutes : Prop :=
  ∀ (s : State) (src : Source),
    (Takes s src 0xF0020 2 → s.applyBad = true → ∃ t, exec (.apply src) s = .next t ∧ t.get ROUTE_STATUS.APPLY_BAD = 1 ∧
      t = { s with regs := t.regs } ∧ SameFieldsBut [ROUTE_STATUS.APPLY_BAD] s t) ∧
    (Takes s src 0xF0020 2 → s.applyBad = false →
      let c := sliceOf (s.sliceWord 0) (s.sliceWord 1) (s.sliceWord 2)
      c.has (s.get ROUTE_SELF.XYZ) = true → s.substRegs = [] → s.net.slice = none →
      ∃ t, exec (.apply src) s = .next t ∧ t.net.slice = some c ∧ t.get ROUTE_SELF.IN_SLICE = 1 ∧
        t.get ROUTE_SELF.INDEX = c.index (s.get ROUTE_SELF.XYZ) ∧
        t.get ROUTE_SELF.LEADER = bit (c.index (s.get ROUTE_SELF.XYZ) == 0) ∧
        t.get STEP_STATUS.LEADER = bit (c.index (s.get ROUTE_SELF.XYZ) == 0) ∧ t.net.lastIssued = (s.sliceWord 3).toNat ∧
        t.get LAMP_JOB.LAST_JOB = c.job ∧ t.get LAMP_JOB.GEN = c.gen ∧ t.get LAMP_JOB.KEYSLOT = c.keyslot ∧
        t.get LAMP_JOB.DRAINED = 0 ∧ (c.index (s.get ROUTE_SELF.XYZ) ≠ 0 → t.get LAMP_JOB.KEYED = 0 ∧ t.lamp.keyWait = true) ∧
        t.lamp.draining = true ∧ SameMemory s t ∧ t.lit = s.lit ∧ t.dark = s.dark ∧ t.field = s.field) ∧
    (Takes s src 0xF0020 2 → s.idleState = false → ∃ t, exec (.clear src) s = .next t ∧ t.get ROUTE_STATUS.APPLY_BAD = 1 ∧
      t = { s with regs := t.regs } ∧ SameFieldsBut [ROUTE_STATUS.APPLY_BAD] s t) ∧
    (Takes s src 0xF0020 2 → s.idleState = true → ∃ t, exec (.clear src) s = .next t ∧ t.net.slice = none ∧
      t.get ROUTE_SELF.IN_SLICE = 0 ∧ t.get ROUTE_SELF.INDEX = 0 ∧ t.get ROUTE_SELF.LEADER = 0 ∧
      t.get STEP_STATUS.LEADER = 0 ∧ t.get ROUTE_STATUS.RETURN_PEND = 0 ∧ t = { s with regs := t.regs, net := t.net }) ∧
    (∀ g val, Takes s src (0xF0200 + 8 * g.toNat) 1 →
      (s.idleState = false ∨ g = 0 → exec (.routeMcWrite src g val) s = .next s) ∧
      (s.idleState = true → g ≠ 0 → bitOf val 18 = true → s.portsInSlice (bitsOf val 0 16) = false →
        exec (.routeMcWrite src g val) s = .next (s.linkErr 9 0)) ∧
      (s.idleState = true → g ≠ 0 → bitOf val 18 = false ∨ s.portsInSlice (bitsOf val 0 16) = true →
        ∃ t, exec (.routeMcWrite src g val) s = .next t ∧ t.get (ROUTE_MC.PORTS g.toNat) = bitsOf val 0 16 ∧
          t = { s with regs := t.regs } ∧ SameRegsBut [0xF0200 + 8 * g.toNat] s t)) ∧
    (∀ val, Takes s src 0xF0038 2 → s.drill = .reset → s.get WARD_STATUS.STATE = 0 →
      (∀ i, i < 8 → s.get (TIER_GNT_A.EN i) = 0) → ∃ t, exec (.routeFailedWrite src val) s = .next t ∧
        t.get ROUTE_FAILED.FAILED = val.toNat ∧ val &&& t.net.failedSeen = val ∧
        (s.net.slice = none → t.net.failedSeen = val) ∧ t = { s with regs := t.regs, net := t.net })

/-! ### Packets -/

/-- Injection. A packet that must wait for a key, a drain or the acknowledgment of the fabric key by its destination stays in the
outbox; one that R10, R395 or R398 refuses is an
address fault and never leaves, and a READ or WRITE among them is answered by REFUSED; any other takes the next CTR of its VC, is encrypted where its VC is, and is queued at the
port of the route table, or is discarded and counted when nothing reaches its destination. -/
def Obligations.PacketInjection : Prop :=
  ∀ (s : State) (p : Packet),
    let vc := p.vc.toNat
    let e := s.packetRoute p (rackIndex p.dst.toNat)
    let ctr (t : State) := KMap.get (fun _ => 0) t.net.ctr vc
    let answer := if p.op = 1 ∨ p.op = 2 then [s.mkPacket vc 6 s.self 0 p.tag.toNat []] else []
    let kept := (s.keepAck p).lamp
    (∀ a, s.injectHeld p a = true → exec (.packetInject ⟨p, a⟩) s = .next s) ∧
    (s.fabricBound p = true → rackIndex p.dst.toNat ∉ s.lamp.acked → exec (.packetInject ⟨p, false⟩) s = .next s) ∧
    (∀ a b, s.injectHeld p a = false → s.injectRefused p = some b → ∃ t, exec (.packetInject ⟨p, a⟩) s = .next t ∧
      t.net = { s.net with outbox := s.net.outbox.erase p ++ answer } ∧ (b = true → t.get LINK_ERR.FLAGS / 2 ^ 9 % 2 = 1) ∧
      t = { s with
        regs := t.regs, net := t.net, lamp := kept, sched := { s.sched with coreIrq := t.sched.coreIrq, lampNotice := t.sched.lampNotice } }) ∧
    (∀ a, s.injectHeld p a = false → s.injectRefused p = none → p.mcast = false → p.dst.toNat ≠ s.self →
      (e.unreach = false → e.outside = false → ∃ t u, exec (.packetInject ⟨p, a⟩) s = .next t ∧ t.net.tx = s.net.tx ++ [u] ∧
        u.port = e.port ∧ u.vc = s.hopVc p e.port (rackIndex p.dst.toNat) ∧ u.held = 0 ∧
        u.pkt.ctr = BitVec.ofNat 64 (ctr s) ∧ u.pkt.detour = (p.detour || e.detour) ∧ u.pkt.dst = p.dst ∧ u.pkt.addr = p.addr ∧
        (vcEncrypted vc = false → u.pkt.payload = p.payload) ∧
        (∀ key, s.sendKey vc = some key → vcEncrypted vc = true →
          u.pkt.payload = (encryptPacket key { p with ctr := BitVec.ofNat 64 (ctr s) }).payload) ∧
        ctr t = ctr s + 1 ∧ t = { s with lamp := kept, net := { s.net with tx := t.net.tx, ctr := t.net.ctr, outbox := s.net.outbox.erase p } }) ∧
      (e.unreach = true ∨ e.outside = true → ∃ t, exec (.packetInject ⟨p, a⟩) s = .next t ∧ t.net.tx = s.net.tx ∧
        t.net.outbox = s.net.outbox.erase p ++ answer ∧ t.get LINK_ERR.FLAGS / 2 ^ 13 % 2 = 1 ∧ t = { s with regs := t.regs, net := t.net, lamp := kept }))

/-- Arrival of a packet for this chip by a torus port, with nothing queued. A slice-bound one of another job or generation sets
LINK_ERR.JOB, one whose tag does not verify sets LINK_ERR.AUTH, and neither is delivered; a good one is delivered, decrypted
where its VC is encrypted; one for another chip goes on; and the credits of its buffer are owed back.
The head packet of a port that has waited AGE_US is lost and recorded, with a flag of its own for a multicast copy; the stall
warning marks a multicast copy alone. -/
def Obligations.PacketArrival : Prop :=
  (∀ (s : State) (port : Fin 16) (d1 : Bool) (p : Packet),
    let vc := p.vc.toNat
    let key := creditKey port.val (if vcSliceBound vc && !s.ownSlice p then 2 else vc) d1
    let owed (t : State) := KMap.get (fun _ => 0) t.net.owed key
    let e := s.packetRoute p (rackIndex p.dst.toNat)
    s.isHostPort port.val = false → p.mcast = false → s.net.tx = [] → 
    (p.dst.toNat = s.self → p.op = 1 ∨ p.op = 2 ∨ p.op = 3 → p.vc ≠ 4 →
      (vcSliceBound vc = true → p.job.toNat ≠ s.job → ∃ t, exec (.packetReceive port d1 p) s = .next t ∧
        t.get LINK_ERR.FLAGS / 2 ^ 8 % 2 = 1 ∧ t.net.delivered = s.net.delivered ∧ owed t = owed s + flitCount p ∧
        t = { s with regs := t.regs, net := t.net }) ∧
      (vcSliceBound vc = false → vcEncrypted vc = false → ∃ t, exec (.packetReceive port d1 p) s = .next t ∧
        t.net.delivered = s.net.delivered ++ [p] ∧ t.net.rx = s.net.rx.erase (port.val, d1, p) ∧ owed t = owed s + flitCount p ∧
        t = { s with net := t.net }) ∧
      (vcSliceBound vc = false → vcEncrypted vc = true →
        (∀ k q, s.recvKey p = some k → decryptPacket k p = some q → ∃ t, exec (.packetReceive port d1 p) s = .next t ∧
          t.net.delivered = s.net.delivered ++ [q] ∧ owed t = owed s + flitCount p ∧ t = { s with net := t.net }) ∧
        (((s.recvKey p).bind fun k => decryptPacket k p) = none → ∃ t, exec (.packetReceive port d1 p) s = .next t ∧
          t.get LINK_ERR.FLAGS / 2 ^ 7 % 2 = 1 ∧ t.net.delivered = s.net.delivered ∧ t = { s with regs := t.regs, net := t.net }))) ∧
    (p.dst.toNat ≠ s.self → e.unreach = false → e.outside = false → ∃ t u, exec (.packetReceive port d1 p) s = .next t ∧
      t.net.tx = [u] ∧ u.port = e.port ∧ u.pkt = { p with detour := p.detour || e.detour } ∧ u.held = key + 1 ∧
      t = { s with net := { s.net with tx := t.net.tx, rx := s.net.rx.erase (port.val, d1, p) } })) ∧
  ∀ (s : State) (port : Fin 16) (vc : BitVec 3),
    (s.headOf port.val vc.toNat = none → exec (.packetAgeTimeout port vc) s = .next s ∧ exec (.mcStallWarn port vc) s = .next s) ∧
    (∀ t, s.headOf port.val vc.toNat = some t →
      (∃ u, exec (.packetAgeTimeout port vc) s = .next u ∧ u.net.tx = s.net.tx.erase t ∧
        u.get LINK_ERR.FLAGS / 2 ^ (if t.mcast then 12 else 10) % 2 = 1 ∧ u.net.delivered = s.net.delivered ∧ SameMemory s u ∧
        u.lit = s.lit ∧ u.dark = s.dark) ∧
      (t.mcast = true → exec (.mcStallWarn port vc) s = .next (s.linkErr 11 ((s.portLinks port.val).headD 0))) ∧
      (t.mcast = false → exec (.mcStallWarn port vc) s = .next s))

/-- A READ or WRITE that has been delivered. It is served and answered with its TAG, or refused: an address that R10, R311, R312 or
R318 refuses is an address fault, and a Commons access without a grant sets TIER_ERR.GRANT; both are answered by REFUSED. -/
def Obligations.MemoryRequests : Prop :=
  ∀ (s : State) (p : Packet),
    let a := p.addr.toNat
    let bs := packetBytes p
    let t0 := s.takePacket p
    let answer (op addr : Nat) (b : List Byte) := s.mkPacket p.vc.toNat op p.src.toNat addr p.tag.toNat b
    (p ∉ s.net.delivered → exec (.write p) s = .next s ∧ exec (.read p) s = .next s) ∧
    (p ∈ s.net.delivered → a / 2 ^ 44 % 2 ^ 20 = s.self → a / 2 ^ 42 % 4 = 1 ∨ a / 2 ^ 42 % 4 = 2 →
      (p.op = 1 → isSegment p = false → s.isDelta p = false →
        (s.servesMemory p bs.length = false →
          exec (.write p) s = .next ((t0.put TIER_ERR.GRANT 1).post (answer 6 0 []))) ∧
        (s.servesMemory p bs.length = true → s.accessRefused true a bs.length = true →
          exec (.write p) s = .next ((t0.addrFault 0xE a).post (answer 6 0 []))) ∧
        (s.servesMemory p bs.length = true → s.accessRefused true a bs.length = false → s.get WARD_STATUS.STATE = 0 →
          ∃ t, exec (.write p) s = .next t ∧ t.topsoil = (s.pokeAt a bs).topsoil ∧ t.subsoil = (s.pokeAt a bs).subsoil ∧
            t.net = { s.net with delivered := s.net.delivered.erase p, outbox := s.net.outbox ++ [answer 5 a []] } ∧
            t = { s with regs := t.regs, topsoil := t.topsoil, subsoil := t.subsoil, net := t.net, sched := t.sched })) ∧
      (p.op = 2 →
        (s.servesMemory p 64 = false → exec (.read p) s = .next ((t0.put TIER_ERR.GRANT 1).post (answer 6 0 []))) ∧
        (s.servesMemory p 64 = true → s.accessRefused false a 64 = true →
          exec (.read p) s = .next ((t0.addrFault 0xE a).post (answer 6 0 []))) ∧
        (s.servesMemory p 64 = true → s.accessRefused false a 64 = false → ∃ t, exec (.read p) s = .next t ∧
          t.net = { s.net with delivered := s.net.delivered.erase p, outbox := s.net.outbox ++ [answer 3 a (s.peek a 64)] } ∧
          SameMemory s { t with topsoil := s.topsoil } ∧ t.lit = s.lit ∧ t.dark = s.dark ∧ t.field = s.field)))

/-- Answers. READ_DATA and WRITE_ACK end the request of their TAG; an answer to no request has no other effect than to be taken;
REFUSED of a Commons access sets TIER_ERR.ACCESS and HARROW_ERR.ADDR, and one of a Ward delta is charged to the step; when no answer comes, a
request of VC 6 or 7 ends as refused, and a delta is sent again under a new TAG. -/
def Obligations.AnswersComplete : Prop :=
  ∀ (s : State) (p : Packet) (r : Request), 
    (p ∈ s.net.delivered → s.awaiting p.vc.toNat p.tag.toNat = none →
      (p.op = 3 → exec (.readData p) s = .next (s.takePacket p)) ∧ (p.op = 5 → exec (.writeAck p) s = .next (s.takePacket p)) ∧
      (p.op = 6 → exec (.refused p) s = .next (s.takePacket p))) ∧
    (p ∈ s.net.delivered → s.awaiting p.vc.toNat p.tag.toNat = some r →
      (r.kind = .control ∨ r.kind = .chain ∨ (∃ o, r.kind = .commonsRead o) ∨ (∃ o, r.kind = .commonsWrite o) → ∀ c ∈ (if p.op = 3 then [Instr.readData p] else if p.op = 5 then [.writeAck p] else []),
        ∃ t, exec c s = .next t ∧ t.net.requests = s.net.requests.erase r ∧ t.net.delivered = s.net.delivered.erase p ∧
        SameMemory s t ∧ t.lit = s.lit ∧ t.dark = s.dark ∧ t.field = s.field) ∧
      (p.op = 5 → r.kind = .wardDelta → s.ward.sealing = false → ∃ t, exec (.writeAck p) s = .next t ∧
        t.net.requests = s.net.requests.erase r ∧ t.ward.unacked = s.ward.unacked.filter (fun d => d.tag != r.tag)) ∧
      (∀ o, p.op = 6 → r.kind = .commonsRead o ∨ r.kind = .commonsWrite o → ∃ t, exec (.refused p) s = .next t ∧ t.get TIER_ERR.ACCESS = 1 ∧
        t.get HARROW_ERR.ADDR = 1 ∧ t.net.requests = s.net.requests.erase r ∧ SameMemory s t)) ∧
    (∀ tag : BitVec 16, s.net.requests.find? (fun r => r.tag == tag.toNat && (decide (6 ≤ r.vc) || decide (r.kind = .wardDelta))) = none →
      exec (.answerTimeout tag) s = .next s) ∧
    (∀ (tag : BitVec 16) d, s.net.requests = [r] → r.tag = tag.toNat → r.vc = 5 → r.kind = .wardDelta → s.ward.unacked = [d] → d.tag = r.tag →
      ∃ t, exec (.answerTimeout tag) s = .next t ∧ t.net.nextTag = s.net.nextTag + 1 ∧
        t.net.requests = [⟨s.net.nextTag % 65536, 5, .wardDelta, r.addr⟩] ∧ t.ward.unacked = [{ d with tag := s.net.nextTag % 65536 }] ∧
        t.net.outbox = s.net.outbox ++ [s.mkPacket 5 1 (r.addr / 2 ^ 44 % 2 ^ 20) r.addr (s.net.nextTag % 65536)
          (payBytes d.delta ++ leBytes 64 d.epoch)] ∧
        t = { s with net := t.net, ward := { s.ward with unacked := t.ward.unacked } }) ∧
    (∀ (tag : BitVec 16) o, s.net.requests = [r] → r.tag = tag.toNat → r.vc = 7 → r.kind = .commonsRead o →
      ∃ t, exec (.answerTimeout tag) s = .next t ∧ t.get TIER_ERR.ACCESS = 1 ∧ t.get HARROW_ERR.ADDR = 1 ∧ t.net.requests = [] ∧ SameMemory s t)

/-! ### Power, clocks and the Candle -/

/-- Power domains. A CANDLE_DOM write that changes one mode has that change's effect, refused by R413; a waiting domain gets its
switch in the order of R415, strips and Glow only under PWR_GRANT; then its logic leaves reset; a strip or the Fallow domain in
AUTO that nothing needs goes off, and a strip that goes off loses its planes and Seedbed. -/
def Obligations.PowerDomains : Prop :=
  ∀ (s : State),
    (∀ src val d, Takes s src 0x10010 2 → 1 < d → d < 24 → d < 18 ∨ 21 < d →
      (∀ e, e < 24 → 0 < e → e ≠ d → bitsOf val (2 * e) 2 = s.domMode e) →
      let m := bitsOf val (2 * d) 2
      exec (.candleDomWrite src val) s = .next (s.modeWrite src d m) ∧
      (m ≠ s.domMode d → s.modeBad d m = true → exec (.candleDomWrite src val) s = .next (s.put CANDLE_ERR.DOM_BAD 1)) ∧
      (m = 1 → s.domMode d ≠ 1 → s.domOn d = false → s.power.closing.contains d = false → ∃ t,
        exec (.candleDomWrite src val) s = .next t ∧ t.domMode d = 1 ∧ t.domPend d = true ∧
        (d ≤ 21 → s.domOn 22 = false → s.power.closing.contains 22 = false → t.domPend 22 = true) ∧ t = { s with regs := t.regs }) ∧
      (∀ k, m = domOff → s.domMode d ≠ domOff → s.domOn d = true → d = 4 + k → k < 8 → s.keptStrips / 2 ^ k % 2 = 0 → s.seedbed.epoch = 0 →
        ∃ t, exec (.candleDomWrite src val) s = .next t ∧ t.domOn d = false ∧ t.domMode d = domOff ∧
          (∀ a, 128 * k * 2 ^ 20 ≤ a → a < 128 * (k + 1) * 2 ^ 20 → t.seedbed.byte 8 a = 0) ∧
          t.lit = s.lit.stripCleared k ∧ t.dark = s.dark.stripCleared k ∧ t.topsoil = s.topsoil)) ∧
    (∀ d, s.nextSwitch = some d → d < 24 → ∃ t, exec .domainSwitchClose s = .next t ∧ t.domPend d = false ∧
      t = { s with regs := t.regs, power := { s.power with closing := s.power.closing ++ [d] } } ∧ SameFieldsBut [CANDLE_DSTAT.PEND] s t) ∧
    (s.get CANDLE_PINS.PWR_GRANT = 0 → (∀ d, s.domPend d = true → 4 ≤ d ∧ d ≤ 11 ∨ d = 23) → exec .domainSwitchClose s = .next s) ∧
    (∀ (d : Fin 24) b, s.power.closing.contains d.val = false → exec (.domainPowered d b) s = .next s) ∧
    (∀ (d : Fin 24) b, s.power.closing.contains d.val = true → s.power.waits = [] → d.val ∈ [2, 3, 22, 23] →
      ∃ t, exec (.domainPowered d b) s = .next t ∧ t.domOn d.val = true ∧
        (d.val = 22 → t.get CLOCK_STATUS.CTRL_LOCK = 1 ∧ t.get CLOCK_FIELD.LOCK = 1) ∧
        (d.val = 23 → b = true → t.get GLOW_STATUS.FAULT = 1) ∧
        t = { s with regs := t.regs, power := { s.power with closing := s.power.closing.filter (· != d.val) } }) ∧
    (∀ k : BitVec 3,
      let d := 4 + k.toNat
      (s.domMode d = domAuto → s.domOn d = true → s.planeStrips / 2 ^ k.toNat % 2 = 0 → s.bistField = false → ∃ t,
        exec (.stripAutoOff k) s = .next t ∧ t.domOn d = false ∧ t.lit = s.lit.stripCleared k.toNat ∧
        t.dark = s.dark.stripCleared k.toNat ∧ t.domMode d = domAuto) ∧
      (s.domMode d ≠ domAuto ∨ s.domOn d = false ∨ s.planeStrips / 2 ^ k.toNat % 2 = 1 → exec (.stripAutoOff k) s = .next s)) ∧
    (s.domMode 17 = domAuto → s.domOn 17 = true → s.fallowNeeded = false → ∃ t, exec .fallowAutoOff s = .next t ∧
      t.domOn 17 = false ∧ t.get FALLOW_STATUS.READY = 0 ∧ t.get CLOCK_STATUS.FAL_LOCK = 0 ∧ t.fallow = s.fallow) ∧
    (s.fallowNeeded = true ∨ s.domOn 17 = false → exec .fallowAutoOff s = .next s)

/-- Clocks and the cap. A CLOCK_FIELD setting waits for a rotation or a hold unless the scheduler is idle; a CAP write that R423
refuses changes nothing but CAP_BAD, an accepted one counts, and one below the draw less FOLLOW starts a hold; CAP_FAST_N
starts a hold, and a short low acts whole or not at all; PWR_GRANT shows its level; a write of the lamp ends FORCED. -/
def Obligations.ClocksAndCap : Prop :=
  ∀ (s : State) (src : Source) (val : W64),
    (Takes s src 0x20000 2 → ∃ t, exec (.clockFieldWrite src val) s = .next t ∧
      (s.idleState = true ∨ s.get CANDLE_GOV.HOLD ≠ 0 → t.get CLOCK_FIELD.PENDING = 0 ∧ t.power.mhz = t.get CLOCK_FIELD.MHZ ∧
        t.get CLOCK_FIELD.EFF_MHZ = t.power.mhz * (64 - s.get CANDLE_GOV.SKIP) / 64 % 2 ^ CLOCK_FIELD.EFF_MHZ.len) ∧
      (s.idleState = false → s.get CANDLE_GOV.HOLD = 0 → t.get CLOCK_FIELD.PENDING = 1 ∧ t.power = s.power ∧
        t.get CLOCK_FIELD.EFF_MHZ = s.get CLOCK_FIELD.EFF_MHZ) ∧
      t = { s with regs := t.regs, power := { s.power with mhz := t.power.mhz } } ∧ SameRegsBut [0x20000] s t) ∧
    (∀ c : Bool, Takes s src (if c then 0x20010 else 0x20008) 2 → ∃ t, exec (.clockCoreWrite src c val) s = .next t ∧
      (bitsOf val 0 12 ∈ [400, 1000, 2000, 3000] → t.get (CLOCK_CORE.MHZ (bit c)) = bitsOf val 0 12) ∧
      t.get (CLOCK_CORE.LOCK (bit c)) = s.get (CLOCK_CORE.LOCK (bit c)) ∧ t = { s with regs := t.regs } ∧
      SameRegsBut [if c then 0x20010 else 0x20008] s t) ∧
    (Takes s src 0x10000 2 → 
      (capBad val = true → ∃ t, exec (.capWrite src val) s = .next t ∧ t.get CANDLE_ERR.CAP_BAD = 1 ∧
        t = { s with regs := t.regs } ∧ SameFieldsBut [CANDLE_ERR.CAP_BAD] s t) ∧
      (capBad val = false → s.get CANDLE_GOV.HOLD = 0 → s.get CLOCK_FIELD.PENDING = 0 → ∃ t, exec (.capWrite src val) s = .next t ∧
        t.get CANDLE_CAP.CAP_W = bitsOf val 0 12 ∧ t.get CANDLE_CAP.RAMP_WPMS = bitsOf val 12 12 ∧
        t.get CANDLE_CAP.FLOOR_W = bitsOf val 24 12 ∧ t.get CANDLE_CAP.FOLLOW_W = bitsOf val 36 10 ∧
        t.get CANDLE_EVT.CAP_WRITES = min (2 ^ CANDLE_EVT.CAP_WRITES.len - 1) (s.get CANDLE_EVT.CAP_WRITES + 1) ∧
        (bitsOf val 0 12 + bitsOf val 36 10 < s.get CANDLE_GOV.DRAW_W → t.get CANDLE_GOV.HOLD = 1 ∧
          t.get CANDLE_GOV.HOLD_SRC % 2 = 1 ∧ t.power.tgt = 100 * bitsOf val 24 12) ∧
        (s.get CANDLE_GOV.DRAW_W ≤ bitsOf val 0 12 + bitsOf val 36 10 → t.get CANDLE_GOV.HOLD = 0 ∧ t.power.tgt = s.power.tgt) ∧
        t = { s with regs := t.regs, power := t.power })) ∧
    (∀ ns, exec (.capFast false ns) s = .next (s.put CANDLE_PINS.CAP_FAST 0) ∧
      (80 ≤ ns → ∃ t, exec (.capFast true ns) s = .next t ∧ t.get CANDLE_GOV.HOLD = 1 ∧ t.get CANDLE_PINS.CAP_FAST = 1 ∧
        t.get CANDLE_GOV.HOLD_SRC / 2 % 2 = 1 ∧ t.power.minute.fastPin = s.power.minute.fastPin + 1 ∧
        t = { s with regs := t.regs, power := t.power }) ∧
      (ns < 80 → exec (.capFast true ns) s = .next s.drawn ∨ ∃ t, exec (.capFast true ns) s = .next t ∧ t.get CANDLE_GOV.HOLD = 1 ∧
        t.get CANDLE_PINS.CAP_FAST = 0)) ∧
    (∀ high, s.domOn 0 = true → s.power.asleep = false → exec (.pwrGrant high) s = .next (s.put CANDLE_PINS.PWR_GRANT (bit high))) ∧
    (Takes s src 0x10078 2 → ∃ t, exec (.candleLampWrite src val) s = .next t ∧ t.get CANDLE_LAMP.FORCED = 0 ∧
      t.get CANDLE_LAMP.MODE = bitsOf val 0 2 ∧ t = { s with regs := t.regs } ∧ SameFieldsBut [CANDLE_LAMP.MODE, CANDLE_LAMP.FORCED] s t)

/-- The governor. Outside a hold a tick lowers SKIP by at most one and else takes the least SKIP whose predicted draw fits
the ramp and the cap; the hold ends after its 40 µs once its causes have cleared, at SKIP 63; 16 ticks above CAP after a CAP
write escalate; and the Glow loop moves Glow towards tgt by at most 50 W a sample, within what the cells draw. -/
def Obligations.Governor : Prop :=
  ∀ (s : State) (p : BitVec 12),
    let w := p.toNat
    let hi := min s.capW (s.power.lvl + s.get CANDLE_CAP.RAMP_WPMS)
    (∃ t, exec (.glowLoop p) s = .next t ∧ t.power.glow ≤ s.glowMax ∧ t.power.glow ≤ s.power.glow + 5000 ∧
      (s.power.glow ≤ s.glowMax → s.power.glow ≤ t.power.glow + 5000) ∧
      (s.power.tgt = 100 * w → s.power.glow ≤ s.glowMax → t.power.glow = s.power.glow) ∧
      t.get GLOW_STATUS.CELLS_ON = t.power.glow / 625 % 2 ^ GLOW_STATUS.CELLS_ON.len ∧
      t.power.glowSamples = s.power.glowSamples + 1 ∧ t = { s with regs := t.regs, power := t.power }) ∧
    (s.power.ticked = true → 60000 ≤ s.power.peak →
        20 * 64 * (100 * w : Int) ≤ 21 * (64 * 60000 + ((s.power.peak : Int) - 60000) * (64 - s.get CANDLE_GOV.SKIP : Int)) →
      (s.get CANDLE_GOV.HOLD = 0 → s.power.resetLow = false → w ≤ s.get CANDLE_CAP.CAP_W →
        ∃ t, exec (.governorTick p) s = .next t ∧
          let k := t.get CANDLE_GOV.SKIP
          s.get CANDLE_GOV.SKIP ≤ k + 1 ∧ (s.get CANDLE_GOV.SKIP ≤ k → 0 < k → predLe s.power.peak (k - 1) hi = false) ∧
          (k < 63 → predLe s.power.peak k hi = true) ∧ t.power.lvl = min (100 * w) hi ∧ t.power.peak = s.power.peak ∧
          t.get CANDLE_GOV.DRAW_W = w ∧ t.get CANDLE_GOV.LVL_W = t.power.lvl / 100 % 4096 ∧
          t.get CLOCK_FIELD.EFF_MHZ = s.power.mhz * (64 - k) / 64 % 2048 ∧ t = { s with regs := t.regs, power := t.power }) ∧
      (s.get CANDLE_GOV.HOLD = 1 → w ≤ s.get CANDLE_CAP.CAP_W → s.power.goHeld = none → s.power.resetHeld = false →
        s.ward.sealing = false → s.get CANDLE_PINS.CAP_FAST = 0 → 100 * s.get CANDLE_CAP.FLOOR_W ≤ 100 * w →
        (s.power.holdLeft ≤ 1 → ∃ t, exec (.governorTick p) s = .next t ∧ t.get CANDLE_GOV.HOLD = 0 ∧ t.get CANDLE_GOV.HOLD_SRC = 0 ∧
          t.get CANDLE_GOV.SKIP = 63 ∧ t.power.lvl = 100 * w ∧ t = { s with regs := t.regs, power := t.power }) ∧
        (1 < s.power.holdLeft → ∃ t, exec (.governorTick p) s = .next t ∧ t.get CANDLE_GOV.HOLD = 1 ∧ t.power.tgt = s.floorW ∧
          t.power.holdLeft = s.power.holdLeft - 1 ∧ t.get CANDLE_GOV.SKIP = s.get CANDLE_GOV.SKIP)) ∧
      (s.get CANDLE_GOV.HOLD = 0 → s.get CANDLE_CAP.CAP_W < w → s.power.overCap = 15 → s.power.capWritten = false →
        0 < s.get CANDLE_EVT.CAP_WRITES → s.get CLOCK_FIELD.PENDING = 0 → ∃ t, exec (.governorTick p) s = .next t ∧
          t.get CANDLE_GOV.HOLD = 1 ∧ t.get CANDLE_GOV.HOLD_SRC / 4 % 2 = 1 ∧ t.power.overCap = 0 ∧ t.power.tgt = s.floorW))

/-- Meters and records. A 1 ms interval adds its energy to the totals and the open minute, and the sixty thousandth closes the minute
into the queue; the oldest record is signed into a slot of the ledger ring, and not while the ring has no room or debug is unlocked. -/
def Obligations.Metering : Prop :=
  ∀ (s : State),
    (∀ uj glow fault, ∃ t, exec (.msInterval uj glow fault) s = .next t ∧
      t.get CANDLE_E_TOTAL.UJ = (s.get CANDLE_E_TOTAL.UJ + uj.toNat) % 2 ^ CANDLE_E_TOTAL.UJ.len ∧
      t.get CANDLE_E_GLOW.UJ = (s.get CANDLE_E_GLOW.UJ + glow.toNat) % 2 ^ CANDLE_E_GLOW.UJ.len ∧
      t.get CANDLE_MS.MS = (s.get CANDLE_MS.MS + 1) % 2 ^ CANDLE_MS.MS.len ∧
      t.get CANDLE_P1MS.LAST_MW = min (2 ^ 24 - 1) uj.toNat ∧ (fault = true → t.get CANDLE_ERR.METER_FAULT = 1) ∧
      t.power.hist = (uj.toNat :: s.power.hist).take 60000 ∧
      (t.get CANDLE_MS.MS % 60000 ≠ 0 → t.power.queue = s.power.queue ∧
        t.power.minute.energy = s.power.minute.energy + uj.toNat ∧ t.power.minute.msCount = s.power.minute.msCount + 1) ∧
      (t.get CANDLE_MS.MS % 60000 = 0 → s.power.queue.length < 64 → ∃ m, t.power.queue = s.power.queue ++ [m] ∧
        m.seq = s.power.nextSeq ∧ m.energy = s.power.minute.energy + uj.toNat ∧ t.power.minute.energy = 0 ∧
        t.power.nextSeq = s.power.nextSeq + 1) ∧ t = { s with regs := t.regs, power := t.power }) ∧
    (s.power.queue = [] → s.power.signed = [] → exec .ledgerSign s = .next s) ∧
    (∀ m q, s.power.queue = m :: q → s.power.signed = [] → s.get LAMP_SEC.LFW_OK = 1 → s.domOn 1 = true → s.get WARD_STATUS.STATE = 0 →
      (s.get LAMP_SEC.DBG_UNLOCKED = 0 → s.ledgerRoom = false → ∃ t b, exec .ledgerSign s = .next t ∧ t.power.queue = q ∧ t.power.signed = [b] ∧
        b.take 128 = s.minuteBytes m ∧ b.length = 256 ∧ t = { s with power := t.power, freeCtr := s.freeCtr + 1 }) ∧
      (s.get LAMP_SEC.DBG_UNLOCKED = 0 → s.ledgerRoom = true → ∃ t b, exec .ledgerSign s = .next t ∧ t.power.queue = q ∧ t.power.signed = [] ∧
        b.take 128 = s.minuteBytes m ∧ t.get CANDLE_LPTR.HEAD = (s.get CANDLE_LPTR.HEAD + 1) % 2 ^ CANDLE_LPTR.HEAD.len ∧
        t.topsoil = (s.topWrite (4096 * s.get CANDLE_LEDGER.BASE +
          256 * (s.get CANDLE_LPTR.HEAD % 2 ^ s.get CANDLE_LEDGER.LOG2N)) b).topsoil) ∧
      (s.get LAMP_SEC.DBG_UNLOCKED = 1 → exec .ledgerSign s = .next s))

/-! ### Resets and the start -/

/-- Turning off. SNUFF_N, a thermal trip, a rail droop and 10 µs without SYSREF turn the part off by R439; 1 µs without SYSREF
only switches the Candle's clock; a short SNUFF_N or RESET_N acts whole or not at all; a warm reset keeps Topsoil and
Subsoil in self-refresh; and the loss of the Candle rail leaves eFuse and Fallow alone. -/
def Obligations.TurningOff : Prop :=
  ∀ (s : State),
    (s.domOn 0 = true →
      (∀ ns, 100 ≤ ns → ∃ t, exec (.snuff ns) s = .next t ∧ PoweredOff t 1 ∧ t.get CANDLE_EVT.SNUFF = 1) ∧
      (∀ ns, 20 ≤ ns → ns < 100 → exec (.snuff ns) s = .next s.drawn ∨ ∃ t, exec (.snuff ns) s = .next t ∧ PoweredOff t 1) ∧
      (∃ t, exec .thermalTrip s = .next t ∧ PoweredOff t 1 ∧ t.power.therm = true) ∧
      (∃ t, exec .railDroop s = .next t ∧ PoweredOff t 1) ∧
      (∃ t, exec .sysrefLost s = .next t ∧ t.get CLOCK_STATUS.CANDLE_INT = 1 ∧ t.get CANDLE_EVT.REF_LOST = 1 ∧
        t.get CANDLE_PINS.SYSREF_OK = 0 ∧ t.power.minute.refLost = true ∧ t.get CANDLE_LAMP.FORCED = 1 ∧
        t = { s with regs := t.regs, power := t.power })) ∧
    (∀ ns, ns < 20 → exec (.snuff ns) s = .next s) ∧
    (s.domOn 0 = false → exec .railDroop s = .next s ∧ exec .thermalTrip s = .next s ∧ exec .sysrefLost s = .next s) ∧
    (s.get CLOCK_STATUS.CANDLE_INT = 1 → s.power.snuffed = false → ∃ t, exec .refLost s = .next t ∧ PoweredOff t 2) ∧
    (s.get CLOCK_STATUS.CANDLE_INT = 0 ∨ s.power.snuffed = true → exec .refLost s = .next s) ∧
    exec .thermalClear s = .next { s with power := { s.power with therm := false } } ∧
    (∀ ns, ns < 1000 ∨ s.power.resetLow = true ∨ s.domOn 0 = false → exec (.warmReset ns) s = .next s) ∧
    (∀ ns, 1040 ≤ ns → s.power.resetLow = false → s.domOn 0 = true → 1 < s.get CANDLE_DSTAT.ON → ∃ t, exec (.warmReset ns) s = .next t ∧
      t.power.resetLow = true ∧ t.power.warm = true ∧ t.power.cause = 3 ∧ t.topsoil = s.topsoil ∧ t.subsoil = s.subsoil ∧
      t.seedbed = .zero ∧ t.lit = .cleared ∧ t.dark = .cleared ∧ t.net.slice = none ∧ t.stepState = stepStopped ∧
      t.get SUBSOIL_STATUS.SREF = 1 ∧ t.get TOPSOIL_STATUS.SREF_0 = 1 ∧ t.get TOPSOIL_STATUS.SREF_3 = 1 ∧
      t.get CANDLE_DSTAT.ON = s.get CANDLE_DSTAT.ON ∧ t.reg 0x10000 = s.reg 0x10000 ∧
      (s.get SUBSOIL_STATUS.READY = 1 → t.power.subCfg = some (s.reg 0xB0000)) ∧ t.fallow.slot0 = s.fallow.slot0 ∧
      t.fallow.slot1 = s.fallow.slot1 ∧ t.bist.fuses = s.bist.fuses) ∧
    (∃ t, exec .candleRailLoss s = .next t ∧ t.get CANDLE_DSTAT.ON = 0 ∧ t.topsoil = .zero ∧ t.subsoil = .zero ∧
      (∀ off, off ≠ 0x10018 → t.reg off = State.reset.reg off) ∧ t.bist.fuses = s.bist.fuses ∧ t.fallow.slot0 = s.fallow.slot0 ∧
      t.fallow.slot1 = s.fallow.slot1 ∧ t.net.stored = s.net.stored) ∧
    (∀ pins, ∃ t, exec (.candlePowerOn pins) s = .next t ∧ t.get CANDLE_DSTAT.ON = State.reset.get CANDLE_DSTAT.ON ∧
      t.power.resetLow = true ∧ t.get CHIP_STRAPS.INRUSH = pins.inrush.toNat ∧ t.get CHIP_STRAPS.BRIDGE_EN = bit pins.bridgeEn ∧
      t.get CHIP_STRAPS.TRAY_POS = pins.trayPos.toNat ∧ t.get CHIP_STRAPS.COMPAT = bit pins.compat ∧
      t.get CANDLE_PINS.PWR_GRANT = bit pins.pwrGrant ∧ t.get CANDLE_GOV.HOLD = bit (!pins.capFastN) ∧
      t.topsoil = .zero ∧ t.bist.fuses = s.bist.fuses ∧ t.fallow.slot0 = s.fallow.slot0)

/-- Starts. RESET_N rising starts the part, cold or warm, but not within 100 µs of SNUFF_N, under THERM_N or without SYSREF; SYSREF
returning after REF_LOST starts it cold; a sleeping part wakes warm by RESET_N, PWR_GRANT, its timer or the host. SLEEP is
refused while work is in progress. -/
def Obligations.Starts : Prop :=
  ∀ (s : State),
    (∀ pins ns, s.power.resetLow = false ∨ s.domOn 0 = false → exec (.resetNRise pins ns) s = .next s) ∧
    (∀ pins ns, s.power.resetLow = true → s.domOn 0 = true →
      (ns < 100000 ∨ s.power.therm = true ∨ s.get CLOCK_STATUS.CANDLE_INT = 1 →
        exec (.resetNRise pins ns) s = .next { s with power := { s.power with resetLow := false } }) ∧
      (100000 ≤ ns → s.power.therm = false → s.get CLOCK_STATUS.CANDLE_INT = 0 →
        (s.power.asleep = false → s.power.cause < 8 → ∃ t, exec (.resetNRise pins ns) s = .next t ∧ Started s t s.power.warm s.power.cause ∧
          t.get CHIP_STRAPS.TRAY_POS = pins.trayPos.toNat ∧ t.power.resetLow = false) ∧
        (s.power.asleep = true → ∃ t, exec (.resetNRise pins ns) s = .next t ∧ Started s t true 4 ∧ t.get CANDLE_WAKE.SRC = 1))) ∧
    (s.domOn 0 = true → s.power.snuffed = true → s.power.cause = 2 → s.power.resetLow = false → s.power.therm = false →
      ∃ t, exec .sysrefReturn s = .next t ∧ Started s t false 2 ∧ t.get CLOCK_STATUS.CANDLE_INT = 0) ∧
    (s.power.asleep = true → s.power.resetLow = false →
      (s.get CANDLE_WAKE.TIMER_MS ≠ 0 → ∃ t, exec .wakeTimer s = .next t ∧ Started s t true 4 ∧ t.get CANDLE_WAKE.SRC = 3) ∧
      (s.get CANDLE_WAKE.HOST_WAKE_EN = 1 → s.get CHIP_STRAPS.BRIDGE_EN = 1 → ∃ t, exec .hostWake s = .next t ∧
        Started s t true 4 ∧ t.get CANDLE_WAKE.SRC = 4) ∧
      (s.domOn 0 = true → s.get CANDLE_PINS.PWR_GRANT = 0 → ∃ t, exec (.pwrGrant true) s = .next t ∧ Started s t true 4 ∧
        t.get CANDLE_WAKE.SRC = 2)) ∧
    (s.power.asleep = false → exec .hostWake s = .next s ∧ exec .wakeTimer s = .next s) ∧
    (∀ src val, Takes s src 0x10080 3 → bitOf val 0 = true →
      (s.idleState = false ∨ s.net.slice.isSome = true ∨ s.bistRunning = true → ∃ t, exec (.sleep src val) s = .next t ∧
        t.get CANDLE_ERR.DOM_BAD = 1 ∧ t = { s with regs := t.regs }) ∧
      (s.idleState = true → s.net.slice = none → s.bistRunning = false → ∃ t, exec (.sleep src val) s = .next t ∧
        t.power.asleep = true ∧ t.power.closing = [] ∧ t.lit = .cleared ∧ t.dark = .cleared ∧ t.stepState = stepStopped ∧
        (s.drill = .reset → s.get WARD_STATUS.STATE = 0 → t.topsoil = s.topsoil ∧ t.subsoil = s.subsoil)))

/-- Training and firmware. A stack, the Fallow interface and Subsoil become ready, or fail with TRAIN_FAIL; memory is zeroed only at
a cold start; firmware that fails ends the boot, and good firmware goes on to the next stage; SUB_INIT trains Subsoil. -/
def Obligations.BootStages : Prop :=
  ∀ (s : State),
    (∀ k : BitVec 2, s.domOn (12 + k.toNat) = true → s.isUp = true → s.get ⟨0xA0000, 2 * k.toNat, 1⟩ = 0 →
      (∃ t, exec (.topsoilReady k false) s = .next t ∧ t.get CHIP_ERR.TRAIN_FAIL = 1 ∧ t = { s with regs := t.regs } ∧
        SameFieldsBut [CHIP_ERR.TRAIN_FAIL] s t) ∧
      (s.power.signed = [] → ∃ t, exec (.topsoilReady k true) s = .next t ∧ t.get ⟨0xA0000, 2 * k.toNat, 1⟩ = 1 ∧
        t.get ⟨0xA0000, 2 * k.toNat + 1, 1⟩ = 0 ∧ (s.power.fresh / 2 ^ k.toNat % 2 = 0 → t.topsoil = s.topsoil) ∧
        (s.power.fresh / 2 ^ k.toNat % 2 = 1 → s.topsoil.epoch = 0 → ∀ a, 2 ^ 37 * k.toNat ≤ a → a < 2 ^ 37 * (k.toNat + 1) →
          t.topsoil.byte 64 a = 0) ∧ t = { s with regs := t.regs, topsoil := t.topsoil, power := t.power })) ∧
    (s.domOn 17 = true → s.isUp = true → s.get FALLOW_STATUS.READY = 0 →
      (∀ b0 b1, ∃ t, exec (.fallowReady ⟨false, b0, b1⟩) s = .next t ∧ t.get CHIP_ERR.TRAIN_FAIL = 1 ∧ t = { s with regs := t.regs }) ∧
      (s.power.falStart = false → ∀ b0 b1, ∃ t, exec (.fallowReady ⟨true, b0, b1⟩) s = .next t ∧ t.get FALLOW_STATUS.READY = 1 ∧
        t.get CLOCK_STATUS.FAL_LOCK = 1 ∧ t = { s with regs := t.regs }) ∧
      (∀ r, s.power.falStart = true → majority s.fallow.ptr0 s.fallow.ptr1 s.fallow.ptr2 = some r →
        ∃ t, exec (.fallowReady ⟨true, true, true⟩) s = .next t ∧ t.get BIST_ERR.LIST_BAD = 1 ∧ t.repairList = none ∧ t.get FALLOW_STATUS.READY = 1 ∧ t.activeSlot = r.active ∧ t.instState = instIdle ∧
        t.get FALLOW_SEQ.SEQ = r.seq % 2 ^ 64 ∧ t.falSlot r.active = s.falSlot r.active ∧ t.falSlot (!r.active) = .empty ∧
        t.power.falStart = false)) ∧
    (∀ digest svn raise, s.domOn 1 = true →
      (s.power.boot = 1 ∨ s.power.boot = 2 → ∃ t, exec (.firmwareVerified false digest svn raise) s = .next t ∧
        t.get CHIP_ERR.BOOT_FAIL = 1 ∧ t.power.boot = 0 ∧ t = { s with regs := t.regs, power := t.power }) ∧
      (s.power.boot = 1 → s.get FALLOW_STATUS.READY = 1 → s.lamp.lfwFuse ≤ svn.toNat → ∃ t,
        exec (.firmwareVerified true digest svn raise) s = .next t ∧ t.power.boot = 2 ∧ t.get LAMP_SEC.LFW_OK = 1 ∧
        t.get LAMP_SEC.LFW_SVN = svn.toNat ∧ t.lamp.lfwDigest = digest.toNat ∧
        t.lamp.lfwFuse = (if raise then svn.toNat else s.lamp.lfwFuse)) ∧
      (s.power.boot = 1 → svn.toNat < s.lamp.lfwFuse → s.get FALLOW_STATUS.READY = 1 → ∃ t,
        exec (.firmwareVerified true digest svn raise) s = .next t ∧ t.get CHIP_ERR.BOOT_FAIL = 1 ∧ t.power.boot = 0 ∧ t.lamp = s.lamp) ∧
      (s.power.boot = 2 → s.get FALLOW_STATUS.READY = 1 → s.lamp.mfwFuse ≤ svn.toNat → s.get CHIP_RESTORE0.VALID = 0 → s.net.stored = none →
        ∃ t, exec (.firmwareVerified true digest svn raise) s = .next t ∧ t.get CHIP_STATUS.STAGE = 4 ∧ t.power.boot = 0 ∧
        t.get LAMP_SEC.MFW_OK = 1 ∧ t.lamp.mfwDigest = digest.toNat)) ∧
    (∀ src val, Takes s src 0x20 1 → 2 ≤ s.level src → bitOf val 0 = false → bitOf val 1 = s.flag CHIP_CTRL.FIELD_HOLD →
      s.get CHIP_STATUS.FIELD_IN_RESET = s.get CHIP_CTRL.FIELD_HOLD → s.get SUBSOIL_STATUS.READY = 0 →
      (s.get SUBSOIL_CFG.CH_GB = 0 → ∃ t, exec (.subInit src val) s = .next t ∧ t.get CHIP_ERR.SUB_CFG = 1 ∧
        t = { s with regs := t.regs } ∧ SameFieldsBut [CHIP_ERR.SUB_CFG] s t) ∧
      (s.get SUBSOIL_CFG.CH_GB ≠ 0 → s.power.subCfg = none ∨ s.power.subCfg = some (s.reg 0xB0000) → ∃ t,
        exec (.subInit src val) s = .next t ∧ t = { s with regs := t.regs, power := { s.power with subTrain := true } } ∧
        SameFieldsBut [] s t)) ∧
    (∀ ch, s.power.subTrain = true → s.domOn 16 = true → s.power.restoreSub = false →
      let want : Nat := if s.flag SUBSOIL_CFG.NCH then 0xFF else 0xFFFF
      ∃ t, exec (.subsoilReady ch) s = .next t ∧ t.get SUBSOIL_STATUS.CH_OK = ch.toNat &&& want ∧
        (ch.toNat &&& want ≠ 0 → t.get SUBSOIL_STATUS.READY = 1 ∧ t.get SUBSOIL_STATUS.SREF = 0) ∧
        (ch.toNat &&& want = 0 → t.get SUBSOIL_STATUS.READY = s.get SUBSOIL_STATUS.READY) ∧
        (ch.toNat &&& want ≠ want → t.get CHIP_ERR.TRAIN_FAIL = 1) ∧ t.power.subTrain = false ∧
        t.subsoil = (if s.power.fresh / 16 % 2 = 1 then .zero else s.subsoil) ∧
        t = { s with regs := t.regs, subsoil := t.subsoil, power := t.power }) ∧
    (∀ ch, s.power.subTrain = false ∨ s.domOn 16 = false → exec (.subsoilReady ch) s = .next s)

/-- The Field reset. In no step and with nothing loading or armed it flushes the Field, keeps both planes and every memory, counts,
and leaves the scheduler STOPPED; a power hold delays it; it is ignored in Field reset. FIELD_HOLD takes L2 and keeps the Field in
reset; clearing it releases the Field. -/
def Obligations.FieldResets : Prop :=
  ∀ (s : State) (src : Source) (val : W64), Takes s src 0x20 1 →
    (bitOf val 1 = s.flag CHIP_CTRL.FIELD_HOLD → bitOf val 2 = false → s.level src < 2 →
      (s.get CHIP_STATUS.FIELD_IN_RESET = 1 → exec (.fieldReset src val) s = .next s) ∧
      (s.get CHIP_STATUS.FIELD_IN_RESET = 0 → s.get CANDLE_GOV.HOLD = 1 →
        exec (.fieldReset src val) s = .next { s with power := { s.power with resetHeld := true } }) ∧
      (s.get CHIP_STATUS.FIELD_IN_RESET = 0 → s.get CANDLE_GOV.HOLD = 0 → s.bistField = false → s.stepState = stepStopped →
        s.sched.descHalt = false → s.rotState = rotNone → s.loadState ≠ loadBusy → ∃ t,
        exec (.fieldReset src val) s = .next t ∧ t.lit = s.lit ∧ t.dark = s.dark ∧ SameMemory s t ∧
        t.get CHIP_RESET.FIELD_RESETS = min 65535 (s.get CHIP_RESET.FIELD_RESETS + 1) ∧ t.stepState = stepStopped ∧
        t.get CHIP_STATUS.FIELD_IN_RESET = s.get CHIP_CTRL.FIELD_HOLD ∧ t.field.queues = [] ∧ t.field.elems = [] ∧
        t.field.pipes = [] ∧ t.field.ags = [] ∧ t.sched.inflight = [] ∧ t.net.slice = s.net.slice ∧ t.lamp = s.lamp ∧
        (∀ off, 0x200000 ≤ off → off < 0x400000 → t.reg off = regReset off))) ∧
    (bitOf val 0 = false → bitOf val 2 = false →
      (2 ≤ s.level src → ∃ t, exec (.fieldHold src val) s = .next t ∧ t.get CHIP_CTRL.FIELD_HOLD = bit (bitOf val 1) ∧
        t.get CHIP_STATUS.FIELD_IN_RESET = (if bitOf val 1 then s.get CHIP_STATUS.FIELD_IN_RESET else 0) ∧
        t = { s with regs := t.regs } ∧ SameFieldsBut [CHIP_CTRL.FIELD_HOLD, CHIP_STATUS.FIELD_IN_RESET] s t) ∧
      (s.level src < 2 → bitOf val 1 ≠ s.flag CHIP_CTRL.FIELD_HOLD →
        exec (.fieldHold src val) s = .next (s.refusePriv 0x20 2)))

/-! ### Ward -/

/-- WARD_CTRL. ENABLE sends this member's configuration to the others, and the Ward is in INIT once all have agreed; DISABLE drops
everything; FREEZE at a Ward that is ON halts the chip; an operation in a state that does not allow it sets WARD_ERR.CFG (the
spec gives these refusals for ENABLE; the others are assumption 43). -/
def Obligations.WardControl : Prop :=
  ∀ (s : State) (src : Source), Takes s src 0x110000 1 →
    (s.enableOk = false → exec (.wardEnable src) s = .next (s.put WARD_ERR.CFG 1)) ∧
    (s.enableOk = true → s.ward.cfgFrom = [] → ∃ t, exec (.wardEnable src) s = .next t ∧ t.get WARD_STATUS.BUSY = 1 ∧
      t.get WARD_STATUS.STATE = 0 ∧ t.ward = { s.ward with units := [], staged := [], unacked := [] } ∧
      t.net.outbox = s.net.outbox ++ s.others.map (fun i => s.mkPacket 5 4 (s.memberChip i) 0x0303 0
        (pad64 (leBytes 8 s.wardUnits ++ leBytes 1 s.wardG ++ leBytes 1 s.wardSelf ++ s.memberList.map (BitVec.ofNat 8)))) ∧
      t = { s with regs := t.regs, ward := t.ward, net := { s.net with outbox := t.net.outbox } } ∧ SameFieldsBut [WARD_STATUS.BUSY] s t) ∧
    (∃ t, exec (.wardDisable src) s = .next t ∧ t.get WARD_STATUS.STATE = 0 ∧ t.get WARD_STATUS.BUSY = 0 ∧ t.get WARD_STATUS.LOST = 0 ∧
      t.get WARD_PEND.STAGED = 0 ∧ t.ward = .reset ∧ t = { s with regs := t.regs, ward := t.ward }) ∧
    (s.get WARD_STATUS.STATE ≠ 1 ∨ s.get WARD_STATUS.BUSY = 1 → exec (.wardInit src) s = .next (s.put WARD_ERR.CFG 1)) ∧
    (s.get WARD_STATUS.STATE = 1 → s.get WARD_STATUS.BUSY = 0 → 
      (s.stripes = [] → ∃ t, exec (.wardInit src) s = .next t ∧ t.get WARD_STATUS.STATE = 2 ∧ t.get WARD_STATUS.BUSY = 0 ∧
        t = { s with regs := t.regs }) ∧
      (∀ b q o, (s.stripes.filter fun u => (s.dataMembers u.1 u.2).head? == some s.wardSelf) = [(b, q)] → s.ownUnit b q = some o →
        s.topsoil.badIn 64 o 65536 = [] → ∃ t rest, exec (.wardInit src) s = .next t ∧
        t.net.outbox = s.net.outbox ++ [s.mkPacket 5 4 (s.memberChip (chainNext (s.dataMembers b q) q s.wardSelf)) 0x0304 0
          (pad64 (leBytes 8 b ++ leBytes 1 q ++ leBytes 1 0))] ++ rest ∧ t.topsoil = s.topsoil)) ∧
    (s.get WARD_STATUS.STATE = 0 → exec (.wardFreeze src) s = .next s) ∧
    (s.get WARD_STATUS.STATE = 2 → s.get WARD_STATUS.LOST = 0 → ∃ t, exec (.wardFreeze src) s = .next t ∧
      t.get WARD_STATUS.STATE = 3 ∧ t.stepState = stepHalted ∧ t.sched.inflight = [] ∧ t.ward.staged = [] ∧
      (∀ q, q < 4 → t.get (STEP_QHEAD.ISSUE q) = t.get (STEP_QHEAD.HEAD q)) ∧ t.lit = s.lit ∧ t.dark = s.dark) ∧
    (s.get WARD_STATUS.STATE ≠ 3 → exec (.commitTo src) s = .next (s.put WARD_ERR.CFG 1) ∧
      exec (.loadSrec src) s = .next (s.put WARD_ERR.CFG 1)) ∧
    (s.get WARD_STATUS.STATE = 3 → s.get WARD_STEP.K ≠ s.get STEP_NUM.STEP → s.get WARD_STATUS.LOST = 0 →
      ∃ t, exec (.commitTo src) s = .next t ∧ t.ward = s.ward ∧ t.topsoil = s.topsoil ∧ t.get STEP_NUM.STEP = s.get STEP_NUM.STEP ∧
        t = { s with regs := t.regs }) ∧
    (let o := 65536 * s.get (WARD_RANGE.BASE 0)
     s.get WARD_STATUS.STATE = 3 → s.get (WARD_RANGE.EN 0) = 1 → bitsOf (s.topWord o) 0 32 = 0x52545357 → s.get SERVE_CTRL.EN = 0 →
      ∃ t, exec (.loadSrec src) s = .next t ∧ t.reg 0x40010 = s.topWord (o + 8) ∧ t.ward.epoch = (s.topWord (o + 8)).toNat ∧
        (∀ q, q < 4 → t.reg (STEP_QHEAD.HEAD q).reg = s.topWord (o + 16 + 8 * q) ∧ t.reg (STEP_QTAIL.TAIL q).reg = s.topWord (o + 48 + 8 * q)) ∧
        t.reg (STEP_TAGS.TAG 0).reg = s.topWord (o + 80) ∧ t.reg (STEP_TAGS.TAG 1).reg = s.topWord (o + 88) ∧
        (bitOf (s.topWord o) 32 = false → t.sched.flushedSent = true ∧ t.sched.committed = false) ∧ t.topsoil = s.topsoil) ∧
    (s.get WARD_STATUS.STATE ≠ 0 → exec (.rebuild src) s = .next (s.put WARD_ERR.CFG 1)) ∧
    (s.get WARD_STATUS.STATE = 0 → s.stripes = [] → ∃ t, exec (.rebuild src) s = .next t ∧ t.get WARD_STATUS.STATE = 3 ∧
      t.get WARD_STATUS.BUSY = 0 ∧ t.ward = { s.ward with units := [], rebuildBad := [] } ∧ t = { s with regs := t.regs, ward := t.ward }) ∧
    (∀ b q us m l, s.get WARD_STATUS.STATE = 0 →
      (s.stripes.filter fun u => u.2 == s.wardSelf || s.hasUnit s.wardSelf u.1 u.2) = (b, q) :: us →
      (s.chainOf true s.wardSelf b q).1 = m :: l → ∃ t rest, exec (.rebuild src) s = .next t ∧ t.get WARD_STATUS.STATE = 4 ∧
      t.get WARD_STATUS.BUSY = 1 ∧ t.net.outbox = s.net.outbox ++ [s.mkPacket 5 4 (s.memberChip m) 0x0304 0
        (pad64 (leBytes 8 b ++ leBytes 1 q ++ leBytes 1 1))] ++ rest ∧ t.topsoil = s.topsoil)

/-- The Ward's messages. A member's configuration is kept, and the last one decides; a chain's unit ends at its last member, or goes
on with this member's own unit XORed in; a delta joins the staging entry of its source, epoch and line, or takes a new one, and
is answered; SEAL brings a member's staging into parity; a message that fails R384 is counted alone. -/
def Obligations.WardMessages : Prop :=
  ∀ (s : State) (h : MsgHdr), 
    (s.msgOk h .inSlice = false → ∀ p g i ms u q b bs so ep ln d st m, ∀ c ∈ [Instr.wardCfg h p g i ms, .chainUnit h u q b bs,
      .wardDelta h so ep ln d, .seal h st m], exec c s = .next (s.linkErr 9 0)) ∧
    (s.msgOk h .inSlice = true →
      (∀ (p : W64) (g i : BitVec 8) (ms : List (BitVec 8)),
        let c : WardCfg := ⟨i.toNat, p.toNat, g.toNat, ms.map (·.toNat)⟩
        let l := s.ward.cfgFrom.filter (fun x => x.member != c.member) ++ [c]
        let whole := s.others.all fun k => l.any fun x => x.member == k
        (s.get WARD_STATUS.STATE ≠ 0 ∨ s.get WARD_STATUS.BUSY = 0 ∨ whole = false →
          exec (.wardCfg h p g i ms) s = .next { s with ward := { s.ward with cfgFrom := l } }) ∧
        (s.get WARD_STATUS.STATE = 0 → s.get WARD_STATUS.BUSY = 1 → whole = true → ∃ t, exec (.wardCfg h p g i ms) s = .next t ∧
          t.get WARD_STATUS.BUSY = 0 ∧ t.ward = { s.ward with cfgFrom := [], epoch := s.get STEP_NUM.STEP } ∧
          (l.all (fun x => x.p == s.wardUnits && x.g == s.wardG && x.members == s.memberList) = true →
            t.get WARD_STATUS.STATE = 1) ∧
          (l.all (fun x => x.p == s.wardUnits && x.g == s.wardG && x.members == s.memberList) = false →
            t.get WARD_STATUS.STATE = 0 ∧ t.get WARD_ERR.CFG = 1) ∧ t = { s with regs := t.regs, ward := t.ward })) ∧
      (∀ (u : W64) (q : BitVec 8) bs o, s.get WARD_STATUS.STATE = 1 → s.ownUnit u.toNat q.toNat = some o → bs.length = 65536 →
        (q.toNat = s.wardSelf → ∃ t, exec (.chainUnit h u q false bs) s = .next t ∧ t.topsoil = s.topsoil.write 64 o bs ∧
          t.ward = { s.ward with units := s.ward.units ++ [(u.toNat, q.toNat)] } ∧ t.net = s.net ∧
          (s.get WARD_STATUS.BUSY = 1 → (s.awaited.all fun v => (s.ward.units ++ [(u.toNat, q.toNat)]).contains v) = true →
            t.get WARD_STATUS.STATE = 2)) ∧
        (q.toNat ≠ s.wardSelf → (s.dataMembers u.toNat q.toNat).contains s.wardSelf = true → s.topsoil.badIn 64 o 65536 = [] →
          ∃ t, exec (.chainUnit h u q false bs) s = .next t ∧ t.topsoil = s.topsoil ∧ t.ward = s.ward ∧
            t.net = (s.sendUnit (chainNext (s.dataMembers u.toNat q.toNat) q.toNat s.wardSelf) u.toNat q.toNat false
              (xorRun bs (s.topPeek o 65536))).net)) ∧
      (∀ u q b bs, s.get WARD_STATUS.STATE = 0 → exec (.chainUnit h u q b bs) s = .next s) ∧
      (∀ so ep ln d, s.get WARD_STATUS.STATE = 0 → exec (.wardDelta h so ep ln d) s = .next s) ∧
      (∀ (so : BitVec 3) (ep : W64) (ln : BitVec 32) (d : Payload), s.get WARD_STATUS.STATE = 2 → s.net.delivered = [] →
        (s.ward.staged = [] → 1 ≤ s.stageCap → ∃ t, exec (.wardDelta h so ep ln d) s = .next t ∧
          t.ward = { s.ward with staged := [⟨so.toNat, ep.toNat, ln.toNat, d⟩] } ∧ t.get WARD_PEND.STAGED = 1 ∧
          t = { s with regs := t.regs, ward := t.ward } ∧ SameFieldsBut [WARD_PEND.STAGED] s t) ∧
        (∀ e, s.ward.staged = [⟨so.toNat, ep.toNat, ln.toNat, e⟩] → ∃ t, exec (.wardDelta h so ep ln d) s = .next t ∧
          t.ward = { s.ward with staged := [⟨so.toNat, ep.toNat, ln.toNat, e ^^^ d⟩] } ∧ t = { s with regs := t.regs, ward := t.ward }) ∧
        (s.ward.staged = [] → s.stageCap = 0 → exec (.wardDelta h so ep ln d) s = .next (s.put WARD_ERR.STAGE_FULL 1))) ∧
      (∀ (st : W64) (m : BitVec 8) d, s.ward.staged = [d] → d.source = m.toNat → topRange (s.parityOff d.line) 64 = true →
        s.topsoil.isBad (s.parityOff d.line / 64) = false → ∃ t, exec (.seal h st m) s = .next t ∧ t.ward.staged = [] ∧
          t.get WARD_PEND.STAGED = 0 ∧
          (∀ i, i < 64 → t.topsoil.byte 64 (s.parityOff d.line + i) =
            s.topsoil.byte 64 (s.parityOff d.line + i) ^^^ (payBytes d.delta).getD i 0) ∧
          SameMemoryBut (fun tier a => tier = 1 ∧ s.parityOff d.line ≤ a ∧ a < s.parityOff d.line + 64) s t))

/-- The latch drain. The edge asks the leader for a drain, or departs at once without a slice or Ward; a short low changes nothing;
the leader names the step to halt at, each chip notes it, and FREEZE from the leader freezes a Ward that is ON; the seal timeout
departs with LATCH_LATE. With no link UP, nothing departs. -/
def Obligations.LatchDrain : Prop :=
  ∀ (s : State) (h : MsgHdr) (step : W64),
    (∀ ns, ns < 200 → exec (.trayLatch true ns) s = .next s) ∧
    (∀ ns, exec (.trayLatch false ns) s = .next (s.put CANDLE_PINS.LATCH_OPEN 0)) ∧
    (∀ ns, 200 ≤ ns → s.drainAllowed = false → exec (.trayLatch true ns) s = .next (s.put CANDLE_PINS.LATCH_OPEN 1)) ∧
    (∀ ns, 200 ≤ ns → s.drainAllowed = true → s.net.slice.isSome = true → s.get WARD_STATUS.STATE ≠ 0 → ∃ t,
      exec (.trayLatch true ns) s = .next t ∧ t.get CANDLE_PINS.LATCH_OPEN = 1 ∧ t.ward = { s.ward with latch := true } ∧
      t.net.outbox = s.net.outbox ++ [s.mkPacket 3 4 s.leaderAt 0x0206 0 (pad64 (leBytes 1 (s.get ROUTE_SELF.INDEX) ++ [1]))]) ∧
    (∀ ns, 200 ≤ ns → s.drainAllowed = true → s.net.slice = none → (∀ l, l < 24 → s.linkState l ≠ linkUp) → ∃ t,
      exec (.trayLatch true ns) s = .next t ∧ t.ward = { s.ward with latch := true } ∧ t.net = s.net) ∧
    (∀ idx reason, s.msgOk h .toLeader = true → exec (.drain h idx reason) s =
      .next (s.sendAll 0x0207 (stepMsg (s.get STEP_NUM.STEP + bit s.sched.commitSent) []))) ∧
    (∀ idx reason, s.msgOk h .toLeader = false → exec (.drain h idx reason) s = .next (s.linkErr 9 0)) ∧
    (s.msgOk h .fromLeader = true → s.idleState = false → s.get STEP_NUM.STEP ≤ step.toNat →
      exec (.haltAt h step) s = .next { s with sched := { s.sched with haltAt := some step.toNat } }) ∧
    (s.msgOk h .fromLeader = true → s.idleState = true → s.ward.latch = true → s.ward.sealing = false → s.ward.sealed = false →
      s.ward.unacked = [] → s.get CANDLE_GOV.HOLD = 0 → s.get (WARD_RANGE.EN 0) = 0 → (∀ l, l < 24 → s.linkState l ≠ linkUp) → ∃ t,
      exec (.haltAt h step) s = .next t ∧ t.ward.sealed = true ∧ t.get WARD_STATUS.STATE = 5 ∧ t.topsoil = s.topsoil) ∧
    (∀ missing, s.msgOk h .fromLeader = true → s.get WARD_STATUS.STATE = 0 →
      exec (.freeze h missing) s = .next { s with ward := { s.ward with missing := missing } }) ∧
    (∀ missing, s.msgOk h .fromLeader = true → s.get WARD_STATUS.STATE = 2 → ∃ t, exec (.freeze h missing) s = .next t ∧
      t.get WARD_STATUS.STATE = 3 ∧ t.stepState = stepHalted ∧ t.ward.missing = missing ∧ t.lit = s.lit ∧ t.dark = s.dark) ∧
    (s.ward.latch = true → s.ward.sealed = false → s.net.slice.isSome = true → (∀ l, l < 24 → s.linkState l ≠ linkUp) →
      ∃ t, exec .latchSealTimeout s = .next t ∧ t.get WARD_ERR.LATCH_LATE = 1 ∧ t.ward = { s.ward with sealing := false, sealed := true } ∧
        t = { s with regs := t.regs, ward := t.ward }) ∧
    (s.ward.latch = false ∨ s.ward.sealed = true ∨ s.net.slice = none → exec .latchSealTimeout s = .next s)

/-! ### The Field: Headlands, credits and steering -/

/-- Tokens at a Headland and at a Stile, and the credits that come back. What a cycle brings is checked first, a bubble too: the
codes that corrected a bit count, one by one, and a code that is uncorrectable or a sideband parity error discards the token with
ECC_UE and captures the first fault. A token then leaves the neighbour's output register or the queue of the sender behind the
input, which brings only what it may drive; it goes to the output register that claims its input in this slot, or to the queue of
the unit behind the output, and counts; one that no output claims is discarded with UNCLAIMED. A Stile's edge delivers to the agent
that its slot names; agents 2 to 6 take their tokens at once (the model's choice, assumption 56). A return byte with good parity in
a return slot gives the sender the credits on the wires. -/
def Obligations.HeadlandTokens : Prop :=
  ∀ (s : State) (tok : Token) (codes : PortCodes) (refuse : Bool),
    let slot := s.slotNow
    let reg (t : State) (k : Nat) : Token := KMap.get (fun _ => Token.bubble) t.field.hlOut k
    let ce := codesCe codes
    let good := codesUe codes = false ∧ CodeResult.miscorrected ∉ portCodes codes
    (∀ (plot : BitVec 9) (port : Fin 10) par, s.plotMoves plot.toNat = false → exec (.tokenArrival (.headland plot port) tok codes par refuse) s = .next s) ∧
    (∀ (row : BitVec 5) east par, s.plotMoves (16 * row.toNat) = false → exec (.tokenArrival (.stile row east) tok codes par refuse) s = .next s) ∧
    (∀ (plot : BitVec 9) (port : Fin 10), s.plotMoves plot.toNat = true →
      let p := plot.toNat
      let run (par : Bool) := exec (.tokenArrival (.headland plot port) tok codes par refuse) s
      let counted (t : State) : Prop := t.get (HL_ERR.ECC_CE p) = (if ce = 0 then s.get (HL_ERR.ECC_CE p) else 1) ∧
        t.get (HL_ECC_CNT.CE_COUNT p) = (if ce = 0 then s.get (HL_ECC_CNT.CE_COUNT p) else min (2 ^ 32 - 1) (s.get (HL_ECC_CNT.CE_COUNT p) + ce))
      let cnt (o : Nat) := min (2 ^ 48 - 1) (s.get (HL_TOK_CNT.COUNT p o) + 1)
      let but (l : List Fld) := l ++ [HL_ERR.ECC_CE p, HL_ECC_CNT.CE_COUNT p]
      let discarded (t : State) (kind : Nat) (err : Fld) : Prop := t.get err = 1 ∧ counted t ∧
        (s.get (HL_ERR.UNCLAIMED p) = 0 → s.get (HL_ERR.ECC_UE p) = 0 → s.get (HL_ERR.ROT_NOT_EMPTY p) = 0 →
          t.get (HL_FAULT_CAP.PORT p) = port.val ∧ t.get (HL_FAULT_CAP.SLOT p) = slot ∧ t.get (HL_FAULT_CAP.KIND p) = kind ∧
          t.get (HL_FAULT_CAP.CYCLE p) = s.field.cycle % 2 ^ 32) ∧ SameMemory s t ∧ t.lit = s.lit ∧ t.dark = s.dark
      (tok.valid = false →
        (good → ∃ t, run false = .next t ∧ counted t ∧ t = { s with regs := t.regs } ∧ SameFieldsBut (but []) s t) ∧
        (∀ par, codesUe codes = true ∨ par = true → ∃ t, run par = .next t ∧ discarded t 2 (HL_ERR.ECC_UE p) ∧
          t.field = s.field)) ∧
      (tok.valid = true → ∀ q i lat, hlPartner p port.val = some (q, i, lat) →
        (good → ∀ o, s.lit.hlOut p port.val slot = some o → 4 ≤ o →
          ∃ t, run false = .next t ∧ counted t ∧ reg t (10 * p + o) = tok ∧ (10 * q + i ≠ 10 * p + o → reg t (10 * q + i) = .bubble) ∧
            (∀ k, k ≠ 10 * p + o → k ≠ 10 * q + i → reg t k = reg s k) ∧ t.get (HL_TOK_CNT.COUNT p o) = cnt o ∧
            t = { s with regs := t.regs, field := { s.field with hlOut := t.field.hlOut } } ∧
            SameFieldsBut (but [HL_TOK_CNT.COUNT p o]) s t) ∧
        (good → ∀ o u, s.lit.hlOut p port.val slot = some o → o < 4 → unitIn s.lit p o ((slot + 2) % 16) = some u →
          let r := if o < 2 then furrowQ p o u else hopperQ p (o - 2) u
          tok.cls ≠ 3 → tok.seq = (s.queue r).seqRx →
          ∃ t, run false = .next t ∧ counted t ∧
            t.queue r = { s.queue r with toks := (s.queue r).toks ++ [tok.withSeq 0], seqRx := (tok.seq + 1) % 256 } ∧
            (∀ x, x ≠ r → t.queue x = s.queue x) ∧ reg t (10 * q + i) = .bubble ∧ (∀ k, k ≠ 10 * q + i → reg t k = reg s k) ∧
            t.get (HL_TOK_CNT.COUNT p o) = cnt o ∧
            t = { s with regs := t.regs, field := { s.field with hlOut := t.field.hlOut, queues := t.field.queues } } ∧
            SameFieldsBut (but [HL_TOK_CNT.COUNT p o]) s t) ∧
        (∀ par kind (err : Fld), (par = false ∧ good ∧ kind = 1 ∧ err = HL_ERR.UNCLAIMED p ∧ s.lit.hlOut p port.val slot = none) ∨
            ((codesUe codes = true ∨ par = true) ∧ kind = 2 ∧ err = HL_ERR.ECC_UE p) →
          ∃ t, run par = .next t ∧ discarded t kind err ∧ reg t (10 * q + i) = .bubble ∧ (∀ k, k ≠ 10 * q + i → reg t k = reg s k) ∧
            ∀ x, t.queue x = s.queue x)) ∧
      (tok.valid = true → hlPartner p port.val = none →
        (∀ par, s.driver p port.val = none ∨ s.field.halted = true → run par = .next s) ∧
        (∀ d, s.driver p port.val = some d →
          (∀ par, (∀ h, (s.queue d).toks.head? = some h → h.withSeq (s.queue d).seqTx ≠ tok) → run par = .next s) ∧
          (∀ r par, circuitEnd s.lit d = some r → s.credits r = 0 → run par = .next s) ∧
          (∀ r h l o, circuitEnd s.lit d = some r → (s.queue d).toks = h :: l → h.withSeq (s.queue d).seqTx = tok → 0 < s.credits r →
            s.field.halted = false → d / 32 < 2048 → d ≠ r → isCircuitQ d = false → s.moe.agentOut = [] → good →
            s.lit.hlOut p port.val slot = some o → 4 ≤ o →
            ∃ t, run false = .next t ∧ counted t ∧ reg t (10 * p + o) = tok ∧ (∀ k, k ≠ 10 * p + o → reg t k = reg s k) ∧
              t.queue d = { s.queue d with toks := l, out := (s.queue d).out - 1, seqTx := ((s.queue d).seqTx + 1) % 256 } ∧
              t.queue r = { s.queue r with out := (s.queue r).out + 1 } ∧ (∀ x, x ≠ d → x ≠ r → t.queue x = s.queue x) ∧
              t.get (HL_TOK_CNT.COUNT p o) = cnt o ∧
              t = { s with regs := t.regs, field := { s.field with hlOut := t.field.hlOut, queues := t.field.queues } } ∧
              SameFieldsBut (but [HL_TOK_CNT.COUNT p o]) s t)))) ∧
    (∀ (row : BitVec 5) (east : Bool), s.plotMoves (16 * row.toNat) = true →
      let k := 2 * row.toNat + bit east
      let plot := 16 * row.toNat + (if east then 15 else 0)
      let edge := 10 * plot + (if east then 6 else 7)
      let run (par : Bool) := exec (.tokenArrival (.stile row east) tok codes par refuse) s
      let left (t : State) : Prop := reg t edge = (if tok.valid then .bubble else reg s edge) ∧ (∀ j, j ≠ edge → reg t j = reg s j) ∧ SameMemory s t
      (good → tok.valid = false → run false = .next s) ∧
      (∀ par, codesUe codes = true ∨ par = true → ∃ t, run par = .next t ∧ left t ∧ ∀ x, t.queue x = s.queue x) ∧
      (good → tok.valid = true →
        (stileOut s.lit k slot = none → ∃ t, run false = .next t ∧ t.get (STILE_ERR.EDGE_UNCLAIMED plot) = 1 ∧ left t ∧
          ∀ x, t.queue x = s.queue x) ∧
        (∀ a, stileOut s.lit k slot = some a →
          (refuse = true → ∃ t, run false = .next t ∧ t.get (STILE_ERR.AGENT_REFUSED plot) = 1 ∧ left t ∧ ∀ x, t.queue x = s.queue x) ∧
          (refuse = false → tok.cls ≠ 3 → tok.seq = (s.queue (stileQ k (8 + a))).seqRx →
            let v := s.queue (stileQ k (8 + a))
            ∃ t, run false = .next t ∧ left t ∧ (t.queue (stileQ k (8 + a))).seqRx = (tok.seq + 1) % 256 ∧
              (t.queue (stileQ k (8 + a))).toks = (if a < 2 then v.toks ++ [tok.withSeq 0] else []) ∧
              (∀ x, x ≠ stileQ k (8 + a) → t.queue x = s.queue x) ∧
              t = { s with field := { s.field with hlOut := t.field.hlOut, queues := t.field.queues } })))) ∧
    (∀ (snd : Sender) (sb : BitVec 8), s.plotMoves (senderQ snd).2.1 = true →
      (sidebandOk sb = false → ∃ t, exec (.creditReturn snd sb) s = .next t ∧
        t.get (HL_ERR.ECC_UE (senderQ snd).2.1) = 1 ∧ t.field = s.field ∧ SameMemory s t) ∧
      (sidebandOk sb = true → s.returnSlot (senderQ snd).1 = false → exec (.creditReturn snd sb) s = .next s) ∧
      (∀ r, sidebandOk sb = true → s.returnSlot (senderQ snd).1 = true → circuitEnd s.lit (senderQ snd).1 = some r →
        let n := min (sb.toNat % 16) (s.queue r).wires
        ∃ t, exec (.creditReturn snd sb) s = .next t ∧
          t.queue r = { s.queue r with out := (s.queue r).out - n, wires := (s.queue r).wires - n } ∧
          (∀ x, x ≠ r → t.queue x = s.queue x) ∧ t = { s with field := { s.field with queues := t.field.queues } }))

/-- Steering elements. FORK copies the head of IN0, its header included, to every output, and fires only when every output has
a credit. JOIN moves the head of each input that takes part to the output of its number; it waits for a token or a credit that
is missing; marks that differ from those of IN0 count one steering fault. STEER sends the head of IN0 where its control value
says, or drops it at 0xF; a value that names no output is taken as 0xF and counts. MERGE takes from the input whose turn it is
and waits for it. SELECT takes from the input that its control value names; 0xF takes nothing. Every other queue stays, and so
does everything but the elements and the fault count. -/
def Obligations.Steering : Prop :=
  ∀ (s : State) (plot : BitVec 9) (unit : Bool) (el : BitVec 3), s.fieldRuns = true →
    let c := s.elemCfg plot unit el
    let e := s.elem c.key
    let h := s.queue c.ctl
    let v := payBits (h.toks.headD .bubble).payload (8 * h.used) 8
    -- one token moves from queue `i` to queue `o`
    let moved (t : State) (i o : QId) (tok : Token) : Prop := (t.queue i).toks = (s.queue i).toks.drop 1 ∧
      t.queue o = { s.queue o with toks := (s.queue o).toks ++ [tok], out := (s.queue o).out + 1 }
    -- the control value has been used
    let used (t : State) : Prop := (h.used + 1 < (h.toks.headD .bubble).vcount → t.queue c.ctl = { h with used := h.used + 1 }) ∧
      ((h.toks.headD .bubble).vcount ≤ h.used + 1 → (t.queue c.ctl).toks = h.toks.drop 1 ∧ (t.queue c.ctl).used = 0)
    let faulted (t : State) (n : Nat) : Prop := match s.passAt plot.toNat with
      | none => t.sched = s.sched
      | some p => t.sched = { s.sched with inflight := s.sched.inflight.map fun x =>
          if x.pseq = p.pseq then { x with cnt := { x.cnt with steerF := x.cnt.steerF + n } } else x }
    let only (t : State) (l : List QId) : Prop := (∀ x, x ∉ l → t.queue x = s.queue x) ∧
      t = { s with sched := t.sched, field := { s.field with queues := t.field.queues, elems := t.field.elems } }
    (c.op ≠ 1 → exec (.forkFire plot unit el) s = .next s) ∧ (c.op ≠ 2 → exec (.joinFire plot unit el) s = .next s) ∧
    (c.op ≠ 3 → exec (.steerFire plot unit el) s = .next s) ∧ (c.op ≠ 4 → exec (.mergeFire plot unit el) s = .next s) ∧
    (c.op ≠ 5 → exec (.selectFire plot unit el) s = .next s) ∧
    (c.op = 1 →
      (∀ tok, s.headTok (c.inQ 0) = some tok → (∀ q ∈ c.outs, 0 < s.credits q) → (c.inQ 0 :: c.outs).Nodup →
        ∃ t, exec (.forkFire plot unit el) s = .next t ∧ (∀ q ∈ c.outs, moved t (c.inQ 0) q tok) ∧
          (t.queue (c.inQ 0)).toks = (s.queue (c.inQ 0)).toks.drop 1 ∧ only t (c.inQ 0 :: c.outs) ∧ t.sched = s.sched ∧
          t.field.elems = s.field.elems) ∧
      (s.headTok (c.inQ 0) = none ∨ (∃ q ∈ c.outs, s.credits q = 0) → exec (.forkFire plot unit el) s = .next s)) ∧
    (c.op = 2 → ∀ tok, s.headTok (c.inQ 0) = some tok →
      let js := (List.range c.nio).filter (joins c.once tok.marks.rowS)
      (∀ ts, s.joinTokens c js = some ts → (∀ j ∈ js, 0 < s.credits (c.outQ j)) → (js.map c.inQ ++ js.map c.outQ).Nodup →
        ∃ t, exec (.joinFire plot unit el) s = .next t ∧ (∀ x ∈ ts, moved t (c.inQ x.1) (c.outQ x.1) x.2) ∧
          only t (js.map c.inQ ++ js.map c.outQ) ∧ faulted t (if marksAgree c.once ts then 0 else 1) ∧
          (∀ k, k ≠ c.key → t.elem k = s.elem k)) ∧
      ((∃ j ∈ js, s.headTok (c.inQ j) = none ∨ s.credits (c.outQ j) = 0) → exec (.joinFire plot unit el) s = .next s)) ∧
    (c.op = 3 → ∀ tok, s.headTok (c.inQ 0) = some tok → (h.toks.headD .bubble).vcount ≠ 0 → (c.inQ 0) ≠ c.ctl →
      (c.perRow = true → e.rowOpen = true → tok.marks.rowS = true) →
      let miss := if c.perRow && !tok.marks.rowS then 1 else 0
      (v < c.nio → v < 15 → 0 < s.credits (c.outQ v) → c.outQ v ≠ c.inQ 0 → c.outQ v ≠ c.ctl →
        ∃ t, exec (.steerFire plot unit el) s = .next t ∧ moved t (c.inQ 0) (c.outQ v) tok ∧ used t ∧
          only t [c.inQ 0, c.ctl, c.outQ v] ∧ faulted t miss ∧
          (c.perRow = true → (t.elem c.key).held = v ∧ (t.elem c.key).rowOpen = !tok.marks.rowE)) ∧
      (v < c.nio → v < 15 → s.credits (c.outQ v) = 0 → exec (.steerFire plot unit el) s = .next s) ∧
      (c.nio ≤ v ∨ 15 ≤ v → ∃ t, exec (.steerFire plot unit el) s = .next t ∧
        (t.queue (c.inQ 0)).toks = (s.queue (c.inQ 0)).toks.drop 1 ∧ used t ∧ only t [c.inQ 0, c.ctl] ∧
        faulted t ((if v = 15 then 0 else 1) + miss))) ∧
    (c.op = 4 →
      (s.headTok (c.inQ e.next) = none ∨ s.credits (c.outQ 0) = 0 → exec (.mergeFire plot unit el) s = .next s) ∧
      (∀ tok, s.headTok (c.inQ e.next) = some tok → 0 < s.credits (c.outQ 0) → c.outQ 0 ≠ c.inQ e.next →
        ∃ t, exec (.mergeFire plot unit el) s = .next t ∧ moved t (c.inQ e.next) (c.outQ 0) tok ∧
          only t [c.inQ e.next, c.outQ 0] ∧ t.sched = s.sched ∧
          (t.elem c.key).next = (if c.perRow && !tok.marks.rowE then e.next else (e.next + 1) % c.nio) ∧
          ∀ k, k ≠ c.key → t.elem k = s.elem k)) ∧
    (c.op = 5 → (h.toks.headD .bubble).vcount ≠ 0 → (c.perRow = true → e.rowOpen = false) →
      (∀ tok, v < c.nio → v < 15 → s.headTok (c.inQ v) = some tok → 0 < s.credits (c.outQ 0) → [c.inQ v, c.outQ 0, c.ctl].Nodup →
        ∃ t, exec (.selectFire plot unit el) s = .next t ∧ moved t (c.inQ v) (c.outQ 0) tok ∧ used t ∧
          only t [c.inQ v, c.outQ 0, c.ctl] ∧ t.sched = s.sched) ∧
      (v < c.nio → v < 15 → s.headTok (c.inQ v) = none → exec (.selectFire plot unit el) s = .next s) ∧
      (c.nio ≤ v ∨ 15 ≤ v → ∃ t, exec (.selectFire plot unit el) s = .next t ∧ used t ∧ only t [c.ctl] ∧
        faulted t (if v = 15 then 0 else 1) ∧ t.field.elems = s.field.elems))

/-! ### The Field: Furrow Units, Lanterns and address generators -/

/-- One firing of a Furrow Unit, and its Lantern. The pipeline takes the head of each bound role when the operands keep the rules
of chunks (assumption 62); its values keep the chain open, join MASK and DEN before the Lantern, wait for a Pass, or leave as result
tokens in the queue of its destination. FUNC takes one cycle's values; STATS, STATS_PART, STATS_MERGE, SOFTMAX and EXPSUM take one
whole row once the row before it has drained, give one token or the row's values, and, under STATUS_EN, the status token; what finds
no credit drains later. Without the tokens, the row or the credits nothing fires. A NaN gives a NaN in every function; the lanes of
a REDUCE group get one result; a fully masked SOFTMAX row is +0 and EMPTY whatever its denominator. -/
def Obligations.FurrowAndLantern : Prop :=
  (∀ f, f < 16 → lanternFunc f tallowNan = tallowNan) ∧
  (∀ w ins l l', l < 32 → l' < 32 → l / 2 ^ bitsOf w 18 3 = l' / 2 ^ bitsOf w 18 3 → (reduceLanes w ins)[l]? = (reduceLanes w ins)[l']?) ∧
  (∀ den (row : List RowElem), row.length ≤ 8192 → (∀ x ∈ row, x.2 = true) →
    (softmaxRow true den row).1 = (row.map fun _ => 0) ∧ (softmaxRow true den row).2.empty = true) ∧
  ∀ (s : State) (plot : BitVec 9) (unit : Bool), s.fieldRuns = true →
    let pl := plot.toNat
    let u := bit unit
    let k := 2 * pl + u
    let cfg := s.lit.furrowAt k
    let pipe := s.pipe k
    let w := cfg.lantern
    let toLantern := bitOf (cfg.stages.getD 5 0) 22
    let dots := (List.range 6).filter fun k => bitsOf (cfg.stages.getD k 0) 0 2 == 0
    let roles := (s.boundRoles pl u).map (·.2)
    let heads := (s.boundRoles pl u).mapM fun r => (s.headScaled r.2).map fun t => (r.1, t)
    let dst (p : PassSt) := s.lit.destQ pl u (passStage p.desc pl) (bitsOf cfg.port 25 4)
    let others (t : State) (l : List QId) : Prop := (∀ j, j ≠ k → t.pipe j = s.pipe j) ∧ (∀ x, x ∉ l → t.queue x = s.queue x) ∧
      t = { s with sched := t.sched, field := { s.field with queues := t.field.queues, pipes := t.field.pipes } }
    -- the tokens of `e` have gone to `q`; the queues of `l` may have changed as well
    let out (t : State) (p : PassSt) (q : QId) (e : Emission) (l : List QId) : Prop :=
      t.queue q = { s.queue q with toks := (s.queue q).toks ++ e.toks, out := (s.queue q).out + e.toks.length } ∧
      t.pipe k = e.pipe ∧ others t (q :: l) ∧ t.sched = (s.countPass p.pseq fun c => c.addEvents e.evs).sched
    (∀ feed, pipe.held = none → heads ∈ [none, some []] ∨ cfg.idlePipe = true ∨ feedOk cfg dots feed = false →
      exec (.furrowFire plot unit feed) s = .next s) ∧
    (∀ feed x, pipe.held = some x →
      (s.passAt pl = none → exec (.furrowFire plot unit feed) s = .next s) ∧
      ∀ p q, s.passAt pl = some p → dst p = some q →
        let e := s.emit p pl u { pipe with held := none } x.1 x.2
        (s.credits q < e.toks.length → exec (.furrowFire plot unit feed) s = .next s) ∧
        (e.toks.length ≤ s.credits q → heads ∈ [none, some []] → q ∉ roles →
          ∃ t, exec (.furrowFire plot unit feed) s = .next t ∧ out t p q e [])) ∧
    (∀ feed r0 t0 ts, pipe.held = none → heads = some ((r0, t0) :: ts) → cfg.idlePipe = false → feedOk cfg dots feed = true →
      (∀ x ∈ ts, x.2.marks = t0.marks) → roles.Nodup →
      let m := t0.marks
      let tok (r : Nat) : Option Token := (((r0, t0) :: ts).find? fun t => t.1 == r).map (·.2)
      let run := runStages cfg ⟨tok 0, tok 1, tok 2⟩ feed dots (m.chS || !pipe.chainOpen) m.chE 6 0 [] pipe.chain
      let pipe1 := if dots.isEmpty then pipe else { pipe with chain := if m.chE then .none else run.2, chainOpen := !m.chE }
      let om : Marks := ⟨dots.isEmpty && (m.chS || pipe1.inMarks.chS), dots.isEmpty && m.chE, m.rowS || pipe1.inMarks.rowS, m.rowE⟩
      let vals := run.1.filterMap id
      let result := dots.isEmpty || m.chE
      let free := toLantern = false ∨ bitsOf w 0 3 = 0 ∨ rowsWaiting pipe < 2
      let done (t : State) (l : List QId) (p : PipeSt) : Prop := t.pipe k = p ∧ (∀ x ∈ l, t.queue x = (s.retireHead x).queue x) ∧
        others t l ∧ t.sched = s.sched
      (toLantern = true → bitsOf w 0 3 ≠ 0 → 2 ≤ rowsWaiting pipe → exec (.furrowFire plot unit feed) s = .next s) ∧
      (free → result = false ∨ toLantern = false ∧ vals = [] ∧ om.rowE = false ∧ om.chE = false →
        ∃ t, exec (.furrowFire plot unit feed) s = .next t ∧ done t roles { pipe1 with inMarks := om }) ∧
      (toLantern = true → result = true → free →
        let side := s.lanternSide pl u w (!pipe.rowOpen || m.rowS)
        (side = none → exec (.furrowFire plot unit feed) s = .next s) ∧
        (∀ mt dt, side = some (mt, dt) → (∀ x ∈ mt, x.marks = m) →
          let l := roles ++ (if mt = none then [] else (s.roleQ pl u 3).toList) ++ (if dt = none then [] else (s.roleQ pl u 4).toList)
          let mask := (mt.map fun t => payBits t.payload 0 32).getD 0
          let pipe2 := { pipe1 with rowOpen := !m.rowE, dens := pipe.dens ++ dt.toList }
          l.Nodup → ∃ t, exec (.furrowFire plot unit feed) s = .next t ∧
            done t l (if vals = [] ∧ m.rowE = false then { pipe2 with inMarks := om }
              else { pipe2 with inMarks := .none, lin := pipe.lin ++ [⟨vals.map (·.tallow), mask, om⟩] }))) ∧
      (toLantern = false → result = true → vals ≠ [] ∨ om.rowE = true ∨ om.chE = true →
        (s.passAt pl = none → ∃ t, exec (.furrowFire plot unit feed) s = .next t ∧
          done t roles { pipe1 with inMarks := .none, held := some (vals, om) }) ∧
        (∀ p q, s.passAt pl = some p → dst p = some q → (q :: roles).Nodup →
          let e := s.emit p pl u { pipe1 with inMarks := .none } vals om
          (e.toks.length ≤ s.credits q → ∃ t, exec (.furrowFire plot unit feed) s = .next t ∧ out t p q e roles ∧
            ∀ x ∈ roles, t.queue x = (s.retireHead x).queue x) ∧
          (s.credits q < e.toks.length → exec (.furrowFire plot unit feed) s = .next s)))) ∧
    (∀ c op, (c, op) ∈ [(Instr.lanternFunc plot unit, 0), (.lanternStatsRow plot unit, 1), (.lanternSoftmaxRow plot unit, 2),
        (.lanternExpsumRow plot unit, 3), (.statsPart plot unit, 4), (.statsMerge plot unit, 5)] →
      (s.passAt pl = none ∨ toLantern = false ∨ bitsOf w 0 3 ≠ op → exec c s = .next s) ∧
      (s.passAt pl ≠ none → toLantern = true → bitsOf w 0 3 = op → op ≠ 0 →
        (pipe.drain = [] → rowSplit pipe.lin = none → exec c s = .next s) ∧
        (∀ d tok es, pipe.drain = (d, tok) :: es →
          (s.credits d = 0 → exec c s = .next s) ∧
          (0 < s.credits d → es = [] → rowSplit pipe.lin = none → ∃ t, exec c s = .next t ∧
            t.queue d = { s.queue d with toks := (s.queue d).toks ++ [tok], out := (s.queue d).out + 1 } ∧
            t.pipe k = { pipe with drain := [] } ∧ others t [d] ∧ t.sched = s.sched)))) ∧
    (∀ p q, s.passAt pl = some p → dst p = some q → toLantern = true →
      (bitsOf w 0 3 = 0 →
        (pipe.lin = [] → exec (.lanternFunc plot unit) s = .next s) ∧
        ∀ b bs, pipe.lin = b :: bs →
          let e := s.emit p pl u { pipe with lin := bs } (b.vals.map fun v => .ofT (lanternFunc (bitsOf w 3 4) v)) b.marks
          (e.toks.length ≤ s.credits q → ∃ t, exec (.lanternFunc plot unit) s = .next t ∧ out t p q e []) ∧
          (s.credits q < e.toks.length → exec (.lanternFunc plot unit) s = .next s)) ∧
      (∀ row rest, pipe.drain = [] → rowSplit pipe.lin = some (row, rest) →
        let en := bitOf w 7
        let den := if bitOf w 8 then pipe.dens.head? else none
        let sq := if bitOf w 9 then s.lit.destQ pl u (passStage p.desc pl) (bitsOf cfg.port 29 4) else none
        ∀ (c : Instr) (one : Bool) (r : List Tallow × RowStatus),
          (c = .lanternStatsRow plot unit ∧ bitsOf w 0 3 = 1 ∧ one = true ∧ r = statsOut s.lit.compat row) ∨
          (c = .statsPart plot unit ∧ bitsOf w 0 3 = 4 ∧ one = true ∧ r = statsPartRow (rowValuesOf row)) ∨
          (c = .statsMerge plot unit ∧ bitsOf w 0 3 = 5 ∧ one = true ∧ r = mergeOut row) ∨
          (c = .lanternSoftmaxRow plot unit ∧ bitsOf w 0 3 = 2 ∧ one = false ∧ r = softmaxOut s.lit.compat en row den) ∨
          (c = .lanternExpsumRow plot unit ∧ bitsOf w 0 3 = 3 ∧ one = true ∧ r = expsumOut en row) →
          (q :: sq.toList).Nodup →
          let vs := if one then (lanes32 r.1).take (elemsPerBeat (bitsOf (passOcw p.desc (passStage p.desc pl)) 0 4)) else r.1
          let pipe1 := { pipe with lin := rest, dens := if bitOf w 8 then pipe.dens.tail else pipe.dens }
          let e := s.emit p pl u pipe1 (vs.map .ofT) ⟨false, false, true, true⟩
          let n := min (s.credits q) e.toks.length
          (n = e.toks.length → (∀ x ∈ sq, 0 < s.credits x) → ∃ t, exec c s = .next t ∧ out t p q e sq.toList ∧
            ∀ x ∈ sq, t.queue x = { s.queue x with toks := (s.queue x).toks ++ [statusToken r.2], out := (s.queue x).out + 1 }) ∧
          (n < e.toks.length → ∃ t, exec c s = .next t ∧
            t.queue q = { s.queue q with toks := (s.queue q).toks ++ e.toks.take n, out := (s.queue q).out + n } ∧
            t.pipe k = { e.pipe with drain := (e.toks.drop n).map (fun x => (q, x)) ++ sq.toList.map fun x => (x, statusToken r.2) } ∧
            others t [q] ∧ t.sched = (s.countPass p.pseq fun c => c.addEvents e.evs).sched)))

/-- Address generators. One that does not walk does nothing. A far tile waits for its scoreboard entry and then fills its slot
from the far tier, or drains its stored bytes there. A read access puts its beats into the queue of its port and a write access
stores the beat that it takes, both move the walk on, and without tile, credit or beat nothing moves. A TREE walk stores the depths
of a row when it begins the row and sends the mask row of each node as the credits allow; a row that the Pass marks absent is passed
over (the model's choice, assumption 59). Stored bytes are those of the slot, the line or the depth row named; all others stay. -/
def Obligations.AddressGenerators : Prop :=
  ∀ (s : State) (plot : BitVec 9) (unit : Bool) (ag : BitVec 2),
    (s.agRun plot unit ag = none → (∀ remote code feed, exec (.farTileFetch plot unit ag ⟨remote, code, feed⟩) s = .next s) ∧
      (∀ marks code, exec (.agAccess plot unit ag marks code) s = .next s) ∧ ∀ code, exec (.treeMaskRow plot unit ⟨ag, code⟩) s = .next s) ∧
    ∀ r, s.agRun plot unit ag = some r →
      let here (off : Nat) : Prop := s.locate (s.gaddr 0 (r.at off)) = .seedbed (r.at off)
      let ags (t : State) : Prop := ∀ k, k ≠ r.key → t.ag k = s.ag k
      -- the walk after one access
      let next (st : AgSt) : AgSt := if st.si + 1 < r.d.accesses then { st with si := st.si + 1 } else { st with si := 0, t := st.t + 1 }
      let closed (st : AgSt) : AgSt := { st with ended := r.finished st }
      let own : Owner := .tile r.key
      let n := s.nextFar r r.d.tiles r.st.far
      let a := s.tileAddr r n
      -- the tile holds its scoreboard entry, and its far bytes are whole lines of the Topsoil that nothing refuses
      let moves (write : Bool) (o : Nat) : Prop := r.b.far = true ∧ r.d.kind ≠ 3 ∧ r.b.write = write ∧ s.ownerPending own = false ∧
        r.st.wait ≠ 0 ∧ s.boardHeld own = true ∧ s.rangeRefuses write a r.tileBytes = false ∧
        s.accessRefused write a r.tileBytes = false ∧ topRange o r.tileBytes = true ∧ r.scaleBytes = 0 ∧ 0 < r.tileBytes ∧
        (r.d.kind = 2 → r.st.lens.any (fun e => e.1 == (r.pageAt n).1) = true ∧ s.seedbed.bad = [] ∧
          here (r.pageRow (r.pageAt n).1 + 8 * ((r.pageAt n).2 + 1)))
      (r.b.far = false ∨ r.d.kind = 3 ∨ s.ownerPending own = true →
        ∀ remote code feed, exec (.farTileFetch plot unit ag ⟨remote, code, feed⟩) s = .next s) ∧
      (r.b.far = true → r.d.kind ≠ 3 → s.ownerPending own = false →
        (if r.b.write then r.st.t ≤ n else r.d.tiles ≤ n ∨ r.st.t + 1 < n) →
        ∀ remote code feed, exec (.farTileFetch plot unit ag ⟨remote, code, feed⟩) s = .next (s.setAg r.key (closed { r.st with far := n }))) ∧
      (r.b.far = true → r.d.kind = 0 ∨ r.d.kind = 1 → s.ownerPending own = false → r.b.write = false → n < r.d.tiles → n ≤ r.st.t + 1 →
        let s₁ := if r.st.wait = 0 then s.boardRequest own r.pass.order (some r.pass.pseq) false a r.tileBytes else s
        s₁.boardHeld own = false →
        ∀ remote code feed, exec (.farTileFetch plot unit ag ⟨remote, code, feed⟩) s = .next (s₁.setAg r.key { r.st with wait := 1 })) ∧
      (∀ o, s.locate a = .top o → moves false o → n < r.d.tiles → n ≤ r.st.t + 1 → s.topsoil.badIn 64 o r.tileBytes = [] → here (r.slotOff n) →
        ∃ t, exec (.farTileFetch plot unit ag ⟨[], .clean, .clean⟩) s = .next t ∧
          t.seedbed = s.seedbed.write 8 (r.at (r.slotOff n)) (s.topsoil.read 64 o r.tileBytes) ∧
          t.ag r.key = closed { r.st with far := n + 1, wait := 0 } ∧ ags t ∧ t.boardHeld own = false ∧
          t = { s with regs := t.regs, seedbed := t.seedbed, sched := t.sched, field := { s.field with ags := t.field.ags } }) ∧
      (∀ o, s.locate a = .top o → moves true o → r.d.kind ≠ 2 → n < r.st.t → s.writeWaits a r.tileBytes = false → s.topsoil.bad = [] → s.seedbed.bad = [] →
        o % 64 = 0 → a % 64 = 0 → here (r.slotOff n) →
        let l := if r.slot n = 0 then r.st.stored0 else r.st.stored1
        let ds := storedIn l (r.slotOff n) r.tileBytes
        ∃ t, exec (.farTileFetch plot unit ag ⟨[], .clean, .clean⟩) s = .next t ∧
          (∀ x, t.topsoil.byte 64 x = if ∃ d ∈ ds, x = o + d then s.seedbed.byte 8 (r.at (r.slotOff n + (x - o))) else s.topsoil.byte 64 x) ∧
          SameMemoryBut (fun tier x => tier = 1 ∧ ∃ d ∈ ds, x = o + d) s t ∧
          t.ag r.key = closed { r.st with far := n + 1, wait := 0, stored0 := if r.slot n = 0 then [] else r.st.stored0,
                                          stored1 := if r.slot n = 0 then r.st.stored1 else [] } ∧
          ags t ∧ t.boardHeld own = false ∧ ∀ q, t.queue q = s.queue q) ∧
      (r.d.kind = 3 ∨ r.d.tiles ≤ r.st.t ∨ s.tileReady r = false → ∀ marks code, exec (.agAccess plot unit ag marks code) s = .next s) ∧
      (r.d.kind = 0 → r.st.t < r.d.tiles → s.tileReady r = true →
        let o := s.accessOff r r.st.t r.st.si
        let dist := s.accessDist r r.st.t r.st.si
        let so := r.beatScaleOff r.st.t dist 0
        let valid := s.validOf r r.st.t r.st.si
        (∀ marks, r.b.write = false →
          valid = 0 ∨ here o ∧ s.seedbed.badIn 8 (r.at o) (64 * r.d.beats) = [] ∧
            (isMx r.d.fmt = true → here so ∧ s.seedbed.badIn 8 (r.at so) (r.d.beats * blocksPerBeat r.d.fmt) = []) →
          let x := s.readToks r o dist valid marks none
          (s.credits r.portQ < x.1.length → exec (.agAccess plot unit ag marks .clean) s = .next s) ∧
          (x.1.length ≤ s.credits r.portQ → ∃ t, exec (.agAccess plot unit ag marks .clean) s = .next t ∧
            t.queue r.portQ = { s.queue r.portQ with toks := (s.queue r.portQ).toks ++ x.1, out := (s.queue r.portQ).out + x.1.length } ∧
            (∀ q, q ≠ r.portQ → t.queue q = s.queue q) ∧ t.ag r.key = closed (next { r.st with group := x.2 }) ∧ ags t ∧
            t = { s with field := { s.field with queues := t.field.queues, ags := t.field.ags, rings := t.field.rings } })) ∧
        (∀ marks, r.b.write = true → s.takeBeats r.portQ r.d.beats = none → exec (.agAccess plot unit ag marks .clean) s = .next s) ∧
        (∀ marks tok s1, r.b.write = true → r.b.far = false → r.d.beats = 1 → s.takeBeats r.portQ 1 = some ([tok], s1) →
          isMx r.d.fmt = false → min tok.vcount (min (elemsPerBeat r.d.fmt) valid) * elemBits r.d.fmt = 512 → here o →
          ∃ t, exec (.agAccess plot unit ag marks .clean) s = .next t ∧
            t.seedbed = s.seedbed.write 8 (r.at o) (leBytes 64 (storedPayload r.d.fmt tok.payload).toNat) ∧
            t.queue r.portQ = (s.retireHead r.portQ).queue r.portQ ∧ (∀ q, q ≠ r.portQ → t.queue q = s.queue q) ∧
            SameMemoryBut (fun tier a => tier = 0 ∧ r.at o ≤ a ∧ a < r.at o + 64) s t ∧ ags t ∧
            (t.ag r.key).t = (next r.st).t ∧ (t.ag r.key).si = (next r.st).si ∧ (t.ag r.key).far = r.st.far ∧
            (t.ag r.key).ended = r.finished (next r.st) ∧
            t = { s with seedbed := t.seedbed,
                         field := { s.field with queues := t.field.queues, ags := t.field.ags, rings := t.field.rings } })) ∧
      (r.d.kind ≠ 3 → ∀ code, exec (.treeMaskRow plot unit ⟨ag, code⟩) s = .next s) ∧
      (r.d.kind = 3 → r.st.t < r.treeRows → passRowActive r.pass.desc r.st.t = false → ∀ code, exec (.treeMaskRow plot unit ⟨ag, code⟩) s =
        .next (s.setAg r.key { r.st with si := 0, sub := 0, t := r.st.t + 1, ended := decide (r.treeRows ≤ r.st.t + 1) })) ∧
      (r.d.kind = 3 → r.st.t < r.treeRows → passRowActive r.pass.desc r.st.t = true →
        let pOff := 64 * r.b.idxLine + r.st.t * 1024
        let lOff := 64 * r.b.sbScale + r.st.t * 8 * (r.d.limit1 + 1)
        let dOff := 64 * r.b.sbBase + r.st.t * 1024
        let parents := treeParents ((List.range 1024).map fun i => s.seedbed.byte 8 (r.at (pOff + i)))
        let n := treeCount parents
        let len := s.hopNat r lOff 8
        let depths := if len < n then [] else treeDepths parents n
        let ts := (nodeTokens (decide (len < n)) (ancestors parents depths n) len n r.st.si).drop r.st.sub
        let now := ts.take (s.credits r.portQ)
        let after : AgSt := if now.length < ts.length then { r.st with sub := r.st.sub + now.length }
          else if r.st.si + 1 < n then { r.st with si := r.st.si + 1, sub := 0 }
          else { r.st with si := 0, sub := 0, t := r.st.t + 1, ended := decide (r.treeRows ≤ r.st.t + 1) }
        let sent (t : State) : Prop :=
          t.queue r.portQ = { s.queue r.portQ with toks := (s.queue r.portQ).toks ++ now, out := (s.queue r.portQ).out + now.length } ∧
          (∀ q, q ≠ r.portQ → t.queue q = s.queue q) ∧ t.ag r.key = after ∧ ags t ∧
          t = { s with seedbed := t.seedbed, sched := t.sched, field := { s.field with queues := t.field.queues, ags := t.field.ags } }
        0 < n →
        (s.credits r.portQ = 0 → ts ≠ [] → ∀ code, exec (.treeMaskRow plot unit ⟨ag, code⟩) s = .next s) ∧
        (now ≠ [] ∨ ts = [] → r.st.si ≠ 0 ∨ r.st.sub ≠ 0 → ∀ code, ∃ t, exec (.treeMaskRow plot unit ⟨ag, code⟩) s = .next t ∧ sent t ∧
          t.seedbed = s.seedbed ∧ t.sched = s.sched) ∧
        (now ≠ [] ∨ ts = [] → r.st.si = 0 → r.st.sub = 0 → here dOff → here pOff → here lOff → s.seedbed.bad = [] →
          ∃ t, exec (.treeMaskRow plot unit ⟨ag, .clean⟩) s = .next t ∧ sent t ∧
            t.seedbed = s.seedbed.write 8 (r.at dOff) ((List.range 256).flatMap fun i => leBytes 4 (if i < n then depths.getD i 0 else 0)) ∧
            t.sched = (s.agCount r fun c => { c with treeF := c.treeF +
              if len < n then 1 else ((List.range n).filter fun i => depths.getD i 0 == 0).length }).sched))

/-! ### The Lamplighter, keys, BIST and repair -/

/-- An APPLY for a JOB that is not LAST_JOB, on a chip that is not scrubbed, is refused: APPLY_BAD is set and nothing else
changes, the slice and LAST_JOB among it. -/
def Obligations.ApplyNeedsScrub : Prop :=
  ∀ (s : State) (src : Source), Takes s src 0xF0020 2 →
    (sliceOf (s.sliceWord 0) (s.sliceWord 1) (s.sliceWord 2)).job ≠ s.get LAMP_JOB.LAST_JOB → s.get LAMP_JOB.SCRUBBED = 0 →
    ∃ t, exec (.apply src) s = .next t ∧ t.get ROUTE_STATUS.APPLY_BAD = 1 ∧ t.net.slice = s.net.slice ∧
      t.get LAMP_JOB.LAST_JOB = s.get LAMP_JOB.LAST_JOB ∧ t = { s with regs := t.regs } ∧ SameFieldsBut [ROUTE_STATUS.APPLY_BAD] s t

/-- The Lamplighter's commands. A command while one runs is refused as BUSY. ATTEST writes its report, PLAN_INSTALL takes a good
plan and refuses one of another rack, an older one and one that fails its checks, JOB_END and SCRUB begin the scrub that drops
keys and the slice, the scrub's end leaves every memory and plane zero, DEBUG_NONCE draws a nonce that one DEBUG_UNLOCK uses,
FABRIC_REKEY draws a sending key, HOST_SESSION and the host's signature open and close host sessions. Nonces, keys and
signatures are free values (assumption 2). -/
def Obligations.LampCommands : Prop :=
  ∀ (s : State) (src : Source),
    let ended (t : State) (op outcome reason : Nat) : Prop := t.get LAMP_STATUS.BUSY = 0 ∧ t.get LAMP_STATUS.OUTCOME = outcome ∧
      t.get LAMP_STATUS.REASON = reason ∧ t.get LAMP_STATUS.OWNER = lampOwner src ∧ t.get LAMP_CMD.OP = op ∧ t.lamp.running = 0
    let refused (c : Instr) (op reason : Nat) : Prop := ∃ t, exec c s = .next t ∧ ended t op 1 reason ∧
      t = { s with regs := t.regs, lamp := { s.lamp with running := 0 } } ∧ SameRegsBut [0x30000, 0x30018] s t
    let a0 := s.get (LAMP_ARG.ARG 0)
    let a1 := s.get (LAMP_ARG.ARG 1)
    (∀ c lvl, (c, lvl) ∈ [(Instr.attest src, 1), (.planInstall src, 2), (.jobEnd src, 2), (.scrub src, 2), (.debugNonce src, 2),
        (.debugUnlock src, 2), (.fabricRekey src, 2), (.hostSession src, 2)] → Takes s src 0x30000 lvl →
      s.get LAMP_STATUS.BUSY = 1 → ∃ t, exec c s = .next t ∧ t.get LAMP_STATUS.OUTCOME = 1 ∧ t.get LAMP_STATUS.REASON = 1 ∧
        t.get LAMP_STATUS.OWNER = lampOwner src ∧ t = { s with regs := t.regs } ∧
        SameFieldsBut [LAMP_STATUS.OUTCOME, LAMP_STATUS.REASON, LAMP_STATUS.OWNER] s t) ∧
    (Takes s src 0x30000 1 → s.get LAMP_STATUS.BUSY = 0 →
      (s.ownTop true a0 1152 = false ∨ s.ownTop false a1 32 = false → refused (.attest src) 1 7) ∧
      (∀ o, s.ownTop true a0 1152 = true → s.ownTop false a1 32 = true → s.locate a0 = .top o → s.get WARD_STATUS.STATE = 0 →
        s.lamp.aliasCert.length ≤ 256 → ∃ t bs, exec (.attest src) s = .next t ∧ ended t 1 0 0 ∧ t.topsoil = s.topsoil.write 64 o bs ∧
          bs.take 256 = s.report256 (s.peek a1 32) ∧ t.lit = s.lit ∧ t.dark = s.dark ∧ t.net.slice = s.net.slice)) ∧
    (Takes s src 0x30000 2 → s.get LAMP_STATUS.BUSY = 0 →
      (s.ownTop false a0 a1 = false → refused (.planInstall src) 2 7) ∧
      (s.ownTop false a0 a1 = true →
        let r := readPlan s.part (s.peek a0 a1) a1
        (r = none → ∃ t, exec (.planInstall src) s = .next t ∧ ended t 2 1 3 ∧ t.net = s.net) ∧
        (∀ p o, r = some p → s.net.stored = some o → o.rack ≠ p.rack →
          ∃ t, exec (.planInstall src) s = .next t ∧ ended t 2 1 5 ∧ t.net = s.net) ∧
        (∀ p o, r = some p → s.net.stored = some o → o.rack = p.rack → p.seq < o.seq ∨ (p.seq = o.seq ∧ p.digest ≠ o.digest) →
          ∃ t, exec (.planInstall src) s = .next t ∧ ended t 2 1 4 ∧ t.net = s.net) ∧
        (∀ p, r = some p → (∀ o ∈ s.net.stored, o.rack = p.rack ∧ (o.seq < p.seq ∨ o.seq = p.seq ∧ o.digest = p.digest)) →
          ∃ t, exec (.planInstall src) s = .next t ∧ ended t 2 0 0 ∧ t.net.plan = some p ∧ t.net.stored = some p ∧
            t.get LAMP_SEC.PLAN_OK = 1 ∧ t.lit = s.lit ∧ t.dark = s.dark ∧ t.net.slice = s.net.slice)) ∧
      (∀ c op, (c = .jobEnd src ∧ op = 3) ∨ (c = .scrub src ∧ op = 4) →
        ((op = 3 ∧ s.net.slice = none) ∨ (op = 4 ∧ s.net.slice ≠ none) ∨ s.bistRunning = true → refused c op 5) ∧
        ((op = 3 ↔ s.net.slice ≠ none) → s.bistRunning = false → s.lenderHolds = true → refused c op 6) ∧
        ((op = 3 ↔ s.net.slice ≠ none) → s.bistRunning = false → s.lenderHolds = false → ∃ t, exec c s = .next t ∧
          t.get LAMP_STATUS.BUSY = 1 ∧ t.lamp.running = op ∧ t.net.slice = none ∧ t.lamp.linkKeys = [] ∧
          t.get LAMP_JOB.KEYED = 0 ∧ t.drill = .reset ∧ t.harrow = .reset)) ∧
      (s.ownTop true a0 32 = false → refused (.debugNonce src) 5 7) ∧
      (∀ o, s.ownTop true a0 32 = true → s.locate a0 = .top o → s.get WARD_STATUS.STATE = 0 → ∃ t n,
        exec (.debugNonce src) s = .next t ∧ ended t 5 0 0 ∧ t.lamp.dbgNonce = some n ∧
        t.topsoil = s.topsoil.write 64 o (leBytes 32 n) ∧ t.seedbed = s.seedbed ∧ t.subsoil = s.subsoil ∧ t.net = s.net) ∧
      (s.net.slice ≠ none ∨ s.get LAMP_JOB.SCRUBBED = 0 ∨ s.bistRunning = true → refused (.debugUnlock src) 6 5) ∧
      (s.net.slice = none → s.get LAMP_JOB.SCRUBBED = 1 → s.bistRunning = false →
        (s.lenderHolds = true → refused (.debugUnlock src) 6 6) ∧
        (s.lenderHolds = false → s.ownTop false a0 384 = false → refused (.debugUnlock src) 6 7) ∧
        (s.lenderHolds = false → s.ownTop false a0 384 = true → s.tokenOk (s.peek a0 384) = false → ∃ t,
          exec (.debugUnlock src) s = .next t ∧ ended t 6 1 3 ∧ t.lamp.dbgNonce = none ∧ t.net = s.net) ∧
        (s.lenderHolds = false → s.ownTop false a0 384 = true → s.tokenOk (s.peek a0 384) = true → ∃ t,
          exec (.debugUnlock src) s = .next t ∧ t.get LAMP_STATUS.BUSY = 1 ∧ t.lamp.running = 6 ∧ t.lamp.dbgNonce = none ∧
          t.lamp.fabricKey = none ∧ t.lamp.aliasKey = none ∧ t.lamp.identity = false ∧
          t.lamp.grantRights = leNat (((s.peek a0 384).drop 4).take 4) % 16)) ∧
      (∃ t k, exec (.fabricRekey src) s = .next t ∧ ended t 7 0 0 ∧ t.lamp.fabricKey = some k ∧ t.lit = s.lit ∧ t.dark = s.dark ∧
        SameMemory s t) ∧
      (s.get CHIP_STRAPS.BRIDGE_EN = 0 ∨ 2 ≤ a0 % 4 → refused (.hostSession src) 8 5) ∧
      (s.get CHIP_STRAPS.BRIDGE_EN = 1 → a0 % 4 = 0 → ∃ t, exec (.hostSession src) s = .next t ∧ ended t 8 0 0 ∧
        t.get LAMP_HSESS.LEVEL = 0 ∧ t.get LAMP_HSESS.JOB = 0 ∧ t.net = s.net) ∧
      (s.get CHIP_STRAPS.BRIDGE_EN = 1 → a0 % 4 = 1 → ∃ t, exec (.hostSession src) s = .next t ∧ ended t 8 0 0 ∧
        t.get LAMP_HSESS.LEVEL = 1 ∧ t.get LAMP_HSESS.JOB = a0 / 65536 % 65536 ∧
        t = { s with regs := t.regs, lamp := { s.lamp with running := 0 } })) ∧
    (s.lamp.running ≠ 3 → s.lamp.running ≠ 4 → s.lamp.running ≠ 6 → exec .scrubComplete s = .next s) ∧
    (s.lamp.running = 3 ∨ s.lamp.running = 4 ∨ s.lamp.running = 6 → ∃ t, exec .scrubComplete s = .next t ∧
      t.seedbed = .zero ∧ t.topsoil = .zero ∧ t.subsoil = .zero ∧ t.lit = .cleared ∧ t.dark = .cleared ∧ t.sched = .reset ∧
      t.serve = .reset ∧ t.harrow = .reset ∧ t.ward = .reset ∧ (∀ off, scrubbedReg off = true → t.reg off = regReset off) ∧
      t.get LAMP_JOB.SCRUBBED = 1 ∧ t.get LAMP_STATUS.BUSY = 0 ∧ t.get LAMP_STATUS.OUTCOME = 0 ∧ t.lamp.running = 0 ∧
      (s.lamp.running = 6 → t.get LAMP_SEC.DBG_UNLOCKED = 1 ∧ t.get LAMP_SEC.DBG_RIGHTS = s.lamp.grantRights % 16 ∧
        t.lamp.dbgSince = true)) ∧
    (∀ val, Takes s src 0x30090 0 →
      let w := s.put (LAMP_HSIG.SIG 11) val.toNat
      let msg := sha384Nat (leBytes 8 (s.get LAMP_HNONCE.NONCE) ++ leBytes 8 s.part.serial.toNat)
      let good (p : Plan) := ecdsaVerify p.rackKeyX p.rackKeyY msg (beAt w.hostSig 0 48) (beAt w.hostSig 48 48)
      (s.net.plan = none ∨ s.get CHIP_STRAPS.BRIDGE_EN = 0 ∨ (∃ p, s.net.plan = some p ∧ good p = false) →
        ∃ t, exec (.hostSignature src val) s = .next t ∧ t.get (LAMP_HSIG.SIG 11) = val.toNat ∧ t = { s with regs := t.regs } ∧
          SameRegsBut [0x30090] s t) ∧
      (∀ p, s.net.plan = some p → s.get CHIP_STRAPS.BRIDGE_EN = 1 → good p = true →
        ∃ t, exec (.hostSignature src val) s = .next t ∧ t.get LAMP_HSESS.LEVEL = 2 ∧ t.get LAMP_HSESS.JOB = 0 ∧
          t = { s with regs := t.regs } ∧ SameRegsBut [0x30090, 0x30098] s t))

/-- Keys between Lamplighters. A KEY message counts only from a chip with a pairwise key, with a tag that verifies and a new
COUNT: it gives the sender's fabric key, or the link key of the applied descriptor. PAIR with good certificates derives the
pairwise key; bad ones set PEER_BAD. The drain's end zeroises the previous slot, and a key that never comes sets KEY_FAIL,
after which the chip stays without one. Certificate layouts and key derivation are the model's (assumption 20), and so is the end of
the drain at KEY_FAIL (assumption 63). -/
def Obligations.KeyMessages : Prop :=
  ∀ (s : State) (h : MsgHdr),
    let chip := h.src.toNat
    (∀ m, s.pair chip = none → exec (.key h m) s = .next s) ∧
    (∀ (m : KeyMsg) (p : PairKey), s.pair chip = some p →
      let head := keyHead m.job.toNat m.gen.toNat m.keyslot.toNat m.kind.toNat m.dir.toNat m.count.toNat
      let iv := keyIv m.dir.toNat m.count.toNat
      let ks := keySchedule p.key
      let text := natBytes 32 m.cipher.toNat
      let key := bytesNat (gcmText ks iv text)
      let tagOk := gcmTag ks iv (bytesToNats head) text = m.tag.toNat
      (¬ tagOk ∨ m.count.toNat < p.next ∨ m.dir.toNat ≠ keyDir p.serial s.part.serial.toNat → exec (.key h m) s = .next s) ∧
      (tagOk → p.next ≤ m.count.toNat → m.dir.toNat = keyDir p.serial s.part.serial.toNat →
        (m.kind = 2 → ∃ t, exec (.key h m) s = .next t ∧
          KMap.get (fun _ => 0) t.lamp.peerFabric (rackIndex chip) = key + 1 ∧
          t.pair chip = some { p with next := m.count.toNat + 1 } ∧ t.lamp.linkKeys = s.lamp.linkKeys ∧ t = { s with lamp := t.lamp }) ∧
        (m.kind = 1 → s.lamp.keyWait = false → s.get LAMP_JOB.KEYED = 0 → ∃ t, exec (.key h m) s = .next t ∧
          t.lamp.linkKeys = s.lamp.linkKeys ∧ t.pair chip = some { p with next := m.count.toNat + 1 } ∧ t = { s with lamp := t.lamp }) ∧
        (m.kind = 1 → s.net.slice.isSome = true → m.job.toNat = s.job → m.gen.toNat = s.gen →
          m.keyslot.toNat = s.get LAMP_JOB.KEYSLOT → s.lamp.keyWait = true ∨ s.get LAMP_JOB.KEYED = 1 → ∃ t, exec (.key h m) s = .next t ∧
            KMap.get (fun _ => 0) t.lamp.linkKeys m.keyslot.toNat = key + 1 ∧ t.get LAMP_JOB.KEYED = 1 ∧
            (s.lamp.joining = true → t.get LAMP_JOB.DRAINED = 1) ∧ t.lamp.keyWait = false ∧ t.lamp.joining = false ∧
            t = { s with regs := t.regs, lamp := t.lamp } ∧ SameFieldsBut [LAMP_JOB.KEYED, LAMP_JOB.DRAINED] s t))) ∧
    (∀ ac ic, s.lamp.aliasKey = none → exec (.pair h ac ic) s = .next s) ∧
    (∀ ac ic d, s.lamp.aliasKey = some d →
      (s.peerOk ac ic = false → ∃ t, exec (.pair h ac ic) s = .next t ∧ t.get LAMP_SEC.PEER_BAD = 1 ∧ t.lamp.pairs = s.lamp.pairs ∧
        t.net = s.net) ∧
      (∀ p, s.peerOk ac ic = true → s.pair chip = some p → (p.aliasX, p.aliasY) = certKey ac → exec (.pair h ac ic) s = .next s) ∧
      (s.peerOk ac ic = true → s.pair chip = none → ∃ t p, exec (.pair h ac ic) s = .next t ∧ t.pair chip = some p ∧
        p.serial = certSerial ic ∧ (p.aliasX, p.aliasY) = certKey ac ∧
        p.key = pairwise (ecdhX d (certKey ac).1 (certKey ac).2) ∧ p.next = 0 ∧ SameMemory s t)) ∧
    (s.lamp.draining = false ∨ s.get LAMP_JOB.KEYED = 0 → exec .genDrainEnd s = .next s) ∧
    (s.lamp.draining = true → s.get LAMP_JOB.KEYED = 1 → ∃ t, exec .genDrainEnd s = .next t ∧ t.get LAMP_JOB.DRAINED = 1 ∧
      t.lamp.draining = false ∧ t.lamp.prevSlot = none ∧
      (∀ k, s.lamp.prevSlot = some k → k ≠ s.get LAMP_JOB.KEYSLOT → KMap.get (fun _ => 0) t.lamp.linkKeys k = 0) ∧
      (∀ k, s.lamp.prevSlot ≠ some k → KMap.get (fun _ => 0) t.lamp.linkKeys k = KMap.get (fun _ => 0) s.lamp.linkKeys k) ∧
      t = { s with regs := t.regs, lamp := t.lamp } ∧ SameFieldsBut [LAMP_JOB.DRAINED] s t) ∧
    (s.lamp.keyWait = false ∨ s.get LAMP_JOB.KEYED = 1 → exec .keyTimeout s = .next s) ∧
    (s.lamp.keyWait = true → s.get LAMP_JOB.KEYED = 0 → ∃ t, exec .keyTimeout s = .next t ∧ t.get LAMP_JOB.KEY_FAIL = 1 ∧
      (∀ k, k = s.get LAMP_JOB.KEYSLOT ∨ s.lamp.prevSlot = some k → KMap.get (fun _ => 0) t.lamp.linkKeys k = 0) ∧
      (∀ k, k ≠ s.get LAMP_JOB.KEYSLOT → s.lamp.prevSlot ≠ some k →
        KMap.get (fun _ => 0) t.lamp.linkKeys k = KMap.get (fun _ => 0) s.lamp.linkKeys k) ∧
      t = { s with
        regs := t.regs
        lamp := { s.lamp with keyWait := false, draining := false, prevSlot := none, linkKeys := t.lamp.linkKeys } } ∧
      SameFieldsBut [LAMP_JOB.KEY_FAIL] s t)

/-- BIST and repair. RUN is refused by R528 and otherwise sets the restore flag, saves and tests: a memory run at once, a Field run
when its halt is complete and no power hold stands; ABORT marks the run; its end, which a power hold puts off for a Field run,
records each failure, restores what was saved, clears the flag and gives the outcome; a scan-in that is refused leaves the Field in
Field reset. APPLY takes the list that the start read, in Field reset alone; LIST_WRITE and FUSE take a list that holds its format and
digest, the one with a greater SEQ, the other outside a slice with room and programming voltage. Saved codewords of Subsoil and the
internal words of a unit are free values (assumption 2), and the state under test stays in the model until the restore (assumption
24). -/
def Obligations.BistAndRepair : Prop :=
  ∀ (s : State) (src : Source),
    let refused (c : Instr) : Prop := ∃ t, exec c s = .next t ∧ t.get BIST_ERR.REFUSED = 1 ∧ t = { s with regs := t.regs } ∧
      SameFieldsBut [BIST_ERR.REFUSED] s t
    let read := s.listReads
    let refusedRead (c : Instr) : Prop := ∃ t, exec c s = .next t ∧ t.get BIST_ERR.REFUSED = 1 ∧ t = { read with regs := t.regs } ∧
      SameFieldsBut [BIST_ERR.REFUSED] read t
    let save := 65536 * s.get BIST_SAVE.BASE
    let region := s.regionAddr (s.get BIST_CFG.TARGET == 2) (s.get BIST_REGION.BASE)
    (Takes s src 0x130000 2 →
      (s.bistBad = true → refused (.bistRun src)) ∧
      (s.bistBad = false → s.get BIST_CFG.TARGET ≠ 0 → ∃ t, exec (.bistRun src) s = .next t ∧ t.get BIST_STATUS.STATE = 2 ∧
        t.get BIST_STATUS.FAILS = 0 ∧ t.get BIST_STATUS.DROPPED = 0 ∧ t.get CHIP_RESTORE0.VALID = 1 ∧ t.get CHIP_RESTORE0.KIND = 1 ∧
        t.get CHIP_RESTORE0.REGION = s.get BIST_REGION.BASE ∧ t.get CHIP_RESTORE0.SAVE = s.get BIST_SAVE.BASE ∧
        t.get CHIP_RESTORE1.LEN = s.get BIST_REGION.LEN ∧ t.get CHIP_RESTORE1.STRIPS = 0 ∧
        t.harrow.ranges = s.harrow.ranges ++ [⟨.vacated, region, 65536 * s.get BIST_REGION.LEN⟩] ∧ t.field = s.field ∧
        (s.get BIST_CFG.TARGET = 1 →
          t.topsoil = s.topsoil.write 64 save (s.topsoil.codeLines (1024 * s.get BIST_REGION.BASE) (1024 * s.get BIST_REGION.LEN))) ∧
        SameMemoryBut (fun tier a => tier = 1 ∧ save ≤ a ∧ a < save + 65536 * s.saveNeed) s t ∧ t.lit = s.lit ∧ t.dark = s.dark) ∧
      (s.bistBad = false → s.get BIST_CFG.TARGET = 0 → ∃ t, exec (.bistRun src) s = .next t ∧
        (s.haltDone = true → s.testedOn = stripsOf (s.get BIST_CFG.STRIPS) → s.field.scanned = false → s.get CANDLE_GOV.HOLD = 0 → t.get BIST_STATUS.STATE = 2 ∧ t.field.scanned = true) ∧
        (s.haltDone = false ∨ s.get CANDLE_GOV.HOLD = 1 → t.get BIST_STATUS.STATE = 1 ∧ SameMemory s t) ∧
        t.get CHIP_RESTORE0.VALID = 1 ∧ t.get CHIP_RESTORE0.KIND = 0 ∧ t.get CHIP_RESTORE1.STRIPS = s.get BIST_CFG.STRIPS ∧
        t.field.halted = true ∧ t.harrow.ranges = s.harrow.ranges ∧
        SameMemoryBut (fun tier a => tier = 1 ∧ save ≤ a ∧ a < save + 65536 * s.saveNeed) s t ∧ t.lit = s.lit ∧ t.dark = s.dark) ∧
      (s.bistRunning = true → exec (.bistAbort src) s = .next { s with bist := { s.bist with aborted := true } }) ∧
      (s.bistRunning = false → exec (.bistAbort src) s = .next s) ∧
      (s.get CHIP_STATUS.FIELD_IN_RESET = 0 → refused (.bistApply src)) ∧
      (s.get CHIP_STATUS.FIELD_IN_RESET = 1 →
        (s.bist.boot = none → exec (.bistApply src) s = .next s) ∧
        (∀ l e, s.bist.boot = some l → l.entries = [e] → s.fused = [] →
          (entKind e.w0 = 1 → s.strip (locStrip e.w0) = .clear → locCol e.w0 < 16 → ∃ t, exec (.bistApply src) s = .next t ∧
            t.strip (locStrip e.w0) = ⟨true, false, locRow e.w0 % 4, locCol e.w0, false⟩ ∧
            (∀ k, k ≠ locStrip e.w0 → t.strip k = s.strip k) ∧ t.get BIST_REPINFO.LIST_COUNT = 1 ∧
            t.lit = s.lit.stripCleared (locStrip e.w0) ∧ t.dark = s.dark.stripCleared (locStrip e.w0) ∧ SameMemory s t) ∧
          (entKind e.w0 = 2 ∨ entKind e.w0 = 3 ∨ entKind e.w0 = 4 → s.bist.soft = [] → ∃ t, exec (.bistApply src) s = .next t ∧
            t.bist = { s.bist with soft := [e] } ∧ t.get BIST_REPINFO.LIST_COUNT = 1 ∧ t = { s with regs := t.regs, bist := t.bist } ∧
            SameFieldsBut [BIST_REPINFO.LIST_COUNT] s t))) ∧
      (s.listImage = none → refusedRead (.listWrite src) ∧ ∀ mv, refusedRead (.fuse src mv)) ∧
      (∀ l, s.listImage = some l →
        (∀ o, s.repairList = some o → l.seq ≤ o.seq → refusedRead (.listWrite src)) ∧
        ((∀ o ∈ s.repairList, o.seq < l.seq) → ∃ t, exec (.listWrite src) s = .next t ∧
          t.bist = { s.bist with list0 := some l, list1 := some l } ∧ t.get BIST_REPINFO.LIST_SEQ = l.seq % 2 ^ 32 ∧
          t = { read with regs := t.regs, bist := t.bist } ∧ SameFieldsBut [BIST_REPINFO.LIST_SEQ] read t) ∧
        (∀ mv, s.net.slice ≠ none ∨ 512 < s.bist.fuses.length + l.entries.length ∨ mv < 1710 → refusedRead (.fuse src mv)) ∧
        (∀ mv, s.net.slice = none → s.bist.fuses.length + l.entries.length ≤ 512 → 1710 ≤ mv → ∃ t, exec (.fuse src mv) s = .next t ∧
          t.bist = { s.bist with fuses := s.bist.fuses ++ l.entries } ∧
          t.get BIST_REPINFO.FUSE_FREE = 512 - (s.bist.fuses.length + l.entries.length) ∧
          t = { read with regs := t.regs, bist := t.bist } ∧ SameFieldsBut [BIST_REPINFO.FUSE_FREE] read t))) ∧
    (s.get BIST_STATUS.STATE ≠ 2 ∨ s.bistField = true ∧ s.get CANDLE_GOV.HOLD = 1 → ∀ fails cs, exec (.bistRunDone fails cs) s = .next s) ∧
    let scanned := s.each s.strips2 fun s k => s.scanIn k.1 k.2
    (s.get BIST_STATUS.STATE = 2 → s.bistField = false ∨ s.get CANDLE_GOV.HOLD = 0 →
      let back (m : Mem) : Mem := if s.get CHIP_RESTORE0.TIER = 1 then m
        else m.restored 64 (1024 * s.get CHIP_RESTORE0.REGION) (1024 * s.get CHIP_RESTORE1.LEN) m (65536 * s.get CHIP_RESTORE0.SAVE)
      let ends (t : State) (outcome : Nat) : Prop := t.get BIST_STATUS.STATE = 0 ∧ t.get BIST_STATUS.OUTCOME = outcome ∧
        t.get CHIP_RESTORE0.VALID = 0 ∧ t.field.halted = false ∧ t.bist.aborted = false
      (s.bistField = false → ∀ cs, ∃ t, exec (.bistRunDone [] cs) s = .next t ∧ ends t (bit s.bist.aborted) ∧
        (∀ k, cs = [k] → t.get (TOPSOIL_CE.CE k.toNat) = min (2 ^ 32 - 1) (s.get (TOPSOIL_CE.CE k.toNat) + 1)) ∧
        t.harrow = (s.dropRange .vacated (s.regionAddr (s.flag CHIP_RESTORE0.TIER) (s.get CHIP_RESTORE0.REGION))).harrow ∧
        t.topsoil = back s.topsoil ∧ t.seedbed = s.seedbed ∧ t.subsoil = s.subsoil ∧ t.lit = s.lit ∧ t.dark = s.dark) ∧
      (s.bistField = true → s.power.bistStrips = 0 → s.bist.resetWait = false → s.scansBad = false →
        ∃ t, exec (.bistRunDone [] []) s = .next t ∧ ends t (bit s.bist.aborted) ∧ t.topsoil = s.topsoil ∧ t.subsoil = s.subsoil ∧
          (∀ q, t.queue q = scanned.queue q) ∧ (∀ k, t.elem k = scanned.elem k) ∧ t.field.cycle = scanned.field.cycle ∧ t.field.scanned = false ∧
          (s.savedStrips = [] → t.seedbed = s.seedbed) ∧ t.lit = s.lit ∧ t.dark = s.dark) ∧
      (s.bistField = true → s.power.bistStrips = 0 → s.scansBad = true →
        ∃ t, exec (.bistRunDone [] []) s = .next t ∧ ends t 2 ∧ t.get BIST_ERR.RESTORE_FAIL = 1 ∧ t.get CHIP_STATUS.FIELD_IN_RESET = 1 ∧
          t.lit = s.lit ∧ t.dark = s.dark) ∧
      (∀ f, s.bistField = false → s.get BIST_CFG.AUTO_REP = 0 → s.get WARD_STATUS.STATE = 0 →
        let i := s.get BIST_RPTR.HEAD
        let n := 2 ^ s.get BIST_RES.LOG2N
        let o := 4096 * s.get BIST_RES.BASE + 32 * (i % n)
        (idxSub 32 i (s.get BIST_RPTR.TAIL) ≠ n → topRange o 32 = true → ∃ t, exec (.bistRunDone [f] []) s = .next t ∧
          ends t (bit s.bist.aborted) ∧ t.get BIST_STATUS.FAILS = min (2 ^ 32 - 1) (s.get BIST_STATUS.FAILS + 1) ∧
          t.get BIST_RPTR.HEAD = (i + 1) % 2 ^ 32 ∧
          t.topsoil = back (s.topsoil.write 64 o (leBytes 8 (bitsOf f.w0 0 47) ++ leBytes 8 f.addr.toNat ++ leBytes 8 (bitsOf f.w2 0 34) ++
            leBytes 8 (s.get STEP_QCLK.TICKS % 2 ^ 48))) ∧ t.lit = s.lit ∧ t.dark = s.dark ∧ t.seedbed = s.seedbed) ∧
        (idxSub 32 i (s.get BIST_RPTR.TAIL) = n → ∃ t, exec (.bistRunDone [f] []) s = .next t ∧ ends t (bit s.bist.aborted) ∧
          t.get BIST_STATUS.FAILS = min (2 ^ 32 - 1) (s.get BIST_STATUS.FAILS + 1) ∧
          t.get BIST_STATUS.DROPPED = min 65535 (s.get BIST_STATUS.DROPPED + 1) ∧ t.get BIST_RPTR.HEAD = i ∧
          t.topsoil = back s.topsoil ∧ t.seedbed = s.seedbed)))
end

