-- ==== Sys2Proof/Laws/Bits.lean ====
section
/-!
SUPPORT. Bit fields: what a field reads as after a field is replaced.
-/
namespace Sys2Proof.Machine

theorem testBit_bitsOf {n : Nat} (w : BitVec n) (lo len i : Nat) :
    (bitsOf w lo len).testBit i = (decide (i < len) && w.getLsbD (lo + i)) := by
  rw [bitsOf, Nat.testBit_mod_two_pow, Nat.testBit_div_two_pow, BitVec.getLsbD]
  rw [Nat.add_comm i lo]

theorem getLsbD_maskAt (n lo len i : Nat) :
    (maskAt n lo len).getLsbD i = (decide (i < n) && decide (lo ≤ i ∧ i < lo + len)) := by
  rw [maskAt, BitVec.getLsbD_ofNat, Nat.testBit_mul_two_pow, Nat.testBit_two_pow_sub_one]
  by_cases h : lo ≤ i
  · have : (i - lo < len) ↔ (i < lo + len) := by omega
    simp [h, this]
  · simp [h]

theorem getLsbD_withBits {n : Nat} (w : BitVec n) (lo len x i : Nat) :
    (withBits w lo len x).getLsbD i =
      (decide (i < n) && (if lo ≤ i ∧ i < lo + len then x.testBit (i - lo) else w.getLsbD i)) := by
  rw [withBits, BitVec.getLsbD_or, BitVec.getLsbD_and, BitVec.getLsbD_not, getLsbD_maskAt, BitVec.getLsbD_ofNat,
    Nat.testBit_mul_two_pow, Nat.testBit_mod_two_pow]
  by_cases hn : i < n
  · by_cases h : lo ≤ i ∧ i < lo + len
    · have h2 : i - lo < len := by omega
      simp [hn, h.1, h.2, h2]
    · by_cases hl : lo ≤ i
      · have h2 : ¬ i < lo + len := fun h' => h ⟨hl, h'⟩
        have h3 : ¬ i - lo < len := by omega
        simp [hn, hl, h2, h3]
      · simp [hn, hl]
  · have : w.getLsbD i = false := BitVec.getLsbD_of_ge w i (by omega)
    simp [hn, this]

/-- A replaced field holds the low bits of its new value. -/
theorem bitsOf_withBits_self {n : Nat} (w : BitVec n) {lo len : Nat} (x : Nat) (h : lo + len ≤ n) :
    bitsOf (withBits w lo len x) lo len = x % 2 ^ len := by
  apply Nat.eq_of_testBit_eq
  intro i
  rw [testBit_bitsOf, getLsbD_withBits, Nat.testBit_mod_two_pow]
  by_cases hi : i < len
  · have h1 : lo + i < n := by omega
    have h2 : lo ≤ lo + i ∧ lo + i < lo + len := by omega
    simp [hi, h1]
  · simp [hi]

/-- A field that does not overlap the replaced one keeps its value. -/
theorem bitsOf_withBits_ne {n : Nat} (w : BitVec n) {lo len lo' len' : Nat} (x : Nat)
    (h : lo' + len' ≤ lo ∨ lo + len ≤ lo') : bitsOf (withBits w lo len x) lo' len' = bitsOf w lo' len' := by
  apply Nat.eq_of_testBit_eq
  intro i
  rw [testBit_bitsOf, testBit_bitsOf, getLsbD_withBits]
  by_cases hi : i < len'
  · have h1 : ¬ (lo ≤ lo' + i ∧ lo' + i < lo + len) := by omega
    rw [if_neg h1]
    by_cases hn : lo' + i < n
    · simp [hn]
    · simp [hn, BitVec.getLsbD_of_ge w (lo' + i) (by omega)]
  · simp [hi]

end Sys2Proof.Machine
end

