-- ==== Sys2Proof/Laws/KMap.lean ====
section
/-!
SUPPORT. Sparse maps: what a key reads as after an update, and that every update keeps the one form.
-/
namespace Sys2Proof.Machine

variable {α : Type} (d : Nat → α)

theorem KMap.get_erase_self (m : KMap α) (k : Nat) : KMap.get d (KMap.erase m k) k = d k := by
  induction m with
  | nil => rfl
  | cons e m ih =>
    by_cases h : e.1 = k
    · simpa [KMap.erase, h] using ih
    · simpa [KMap.erase, KMap.get, h] using ih

theorem KMap.get_erase_ne (m : KMap α) {k j : Nat} (h : j ≠ k) : KMap.get d (KMap.erase m k) j = KMap.get d m j := by
  induction m with
  | nil => rfl
  | cons e m ih =>
    by_cases hk : e.1 = k
    · simp only [KMap.erase, hk, if_true, KMap.get, ih]
      rw [if_neg (fun hj => h hj.symm)]
    · simp [KMap.erase, hk, KMap.get, ih]

theorem KMap.mem_erase {m : KMap α} {k : Nat} {e : Nat × α} : e ∈ KMap.erase m k ↔ e ∈ m ∧ e.1 ≠ k := by
  induction m with
  | nil => simp [KMap.erase]
  | cons x m ih =>
    by_cases h : x.1 = k
    · rw [KMap.erase, if_pos h, ih]
      constructor
      · exact fun ⟨h1, h2⟩ => ⟨List.mem_cons_of_mem _ h1, h2⟩
      · rintro ⟨h1, h2⟩
        rcases List.mem_cons.mp h1 with rfl | h1
        · exact absurd h h2
        · exact ⟨h1, h2⟩
    · rw [KMap.erase, if_neg h, List.mem_cons, List.mem_cons, ih]
      constructor
      · rintro (rfl | ⟨h1, h2⟩)
        · exact ⟨.inl rfl, h⟩
        · exact ⟨.inr h1, h2⟩
      · rintro ⟨rfl | h1, h2⟩
        · exact .inl rfl
        · exact .inr ⟨h1, h2⟩

theorem KMap.mem_insert {m : KMap α} {k : Nat} {v : α} {e : Nat × α} :
    e ∈ KMap.insert m k v ↔ e = (k, v) ∨ e ∈ m := by
  induction m with
  | nil => simp [KMap.insert]
  | cons x m ih =>
    by_cases h : k < x.1
    · simp [KMap.insert, h]
    · rw [KMap.insert, if_neg h, List.mem_cons, ih, List.mem_cons]
      exact or_left_comm

theorem KMap.get_insert_self {m : KMap α} {k : Nat} {v : α} (h : ∀ e ∈ m, e.1 ≠ k) :
    KMap.get d (KMap.insert m k v) k = v := by
  induction m with
  | nil => simp [KMap.insert, KMap.get]
  | cons x m ih =>
    by_cases hk : k < x.1
    · simp [KMap.insert, hk, KMap.get]
    · rw [KMap.insert, if_neg hk, KMap.get, if_neg (h x List.mem_cons_self)]
      exact ih fun e he => h e (List.mem_cons_of_mem _ he)

theorem KMap.get_insert_ne {m : KMap α} {k j : Nat} {v : α} (h : j ≠ k) :
    KMap.get d (KMap.insert m k v) j = KMap.get d m j := by
  induction m with
  | nil => simp [KMap.insert, KMap.get, Ne.symm h]
  | cons x m ih =>
    by_cases hk : k < x.1
    · simp [KMap.insert, hk, KMap.get, Ne.symm h]
    · simp [KMap.insert, hk, KMap.get, ih]

theorem KMap.get_clear (m : KMap α) (lo n j : Nat) :
    KMap.get d (KMap.clear m lo n) j = if lo ≤ j ∧ j < lo + n then d j else KMap.get d m j := by
  induction m with
  | nil => simp [KMap.clear, KMap.get]
  | cons e m ih =>
    simp only [KMap.clear] at ih ⊢
    by_cases h : lo ≤ e.1 ∧ e.1 < lo + n
    · rw [List.filter_cons_of_neg (by simp [h]), ih, KMap.get]
      by_cases hj : e.1 = j
      · subst hj; simp [h]
      · rw [if_neg hj]
    · rw [List.filter_cons_of_pos (by simp; omega), KMap.get, KMap.get, ih]
      by_cases hj : e.1 = j
      · subst hj; simp [h]
      · simp [hj]

/-- Rising keys, as a statement about every entry. -/
theorem KMap.rising_cons {lo : Option Nat} {e : Nat × α} {m : KMap α} (h : KMap.rising lo (e :: m) = true) :
    (∀ l, lo = some l → l < e.1) ∧ KMap.rising (some e.1) m = true := by
  cases lo with
  | none => simp [KMap.rising] at h; simp [h]
  | some l => simp [KMap.rising] at h; simp [h]

theorem KMap.rising_mk {lo : Option Nat} {e : Nat × α} {m : KMap α} (h1 : ∀ l, lo = some l → l < e.1)
    (h2 : KMap.rising (some e.1) m = true) : KMap.rising lo (e :: m) = true := by
  cases lo with
  | none => simpa [KMap.rising] using h2
  | some l => simp [KMap.rising, h2, h1 l rfl]

theorem KMap.rising_weaken {lo : Option Nat} {k : Nat} {m : KMap α} (h : KMap.rising (some k) m = true)
    (hl : ∀ l, lo = some l → l ≤ k) : KMap.rising lo m = true := by
  cases m with
  | nil => cases lo <;> rfl
  | cons e m =>
    have h' := KMap.rising_cons h
    exact KMap.rising_mk (fun l hlo => Nat.lt_of_le_of_lt (hl l hlo) (h'.1 k rfl)) h'.2

theorem KMap.rising_filter {lo : Option Nat} {m : KMap α} (p : Nat × α → Bool) (h : KMap.rising lo m = true) :
    KMap.rising lo (m.filter p) = true := by
  induction m generalizing lo with
  | nil => exact h
  | cons e m ih =>
    have h' := KMap.rising_cons h
    by_cases hp : p e = true
    · rw [List.filter_cons_of_pos hp]
      exact KMap.rising_mk h'.1 (ih h'.2)
    · rw [List.filter_cons_of_neg hp]
      exact ih (KMap.rising_weaken h'.2 fun l hl => Nat.le_of_lt (h'.1 l hl))

theorem KMap.erase_eq_filter (m : KMap α) (k : Nat) : KMap.erase m k = m.filter fun e => decide (e.1 ≠ k) := by
  induction m with
  | nil => rfl
  | cons e m ih => by_cases h : e.1 = k <;> simp [KMap.erase, h, ih]

theorem KMap.rising_insert {lo : Option Nat} {m : KMap α} {k : Nat} {v : α} (h : KMap.rising lo m = true)
    (hk : ∀ e ∈ m, e.1 ≠ k) (hl : ∀ l, lo = some l → l < k) : KMap.rising lo (KMap.insert m k v) = true := by
  induction m generalizing lo with
  | nil => exact KMap.rising_mk hl (by rfl)
  | cons e m ih =>
    have h' := KMap.rising_cons h
    by_cases hlt : k < e.1
    · rw [KMap.insert, if_pos hlt]
      exact KMap.rising_mk hl (KMap.rising_mk (fun l hx => by cases hx; exact hlt) h'.2)
    · rw [KMap.insert, if_neg hlt]
      refine KMap.rising_mk h'.1 (ih h'.2 (fun x hx => hk x (List.mem_cons_of_mem _ hx)) fun l hx => ?_)
      cases hx
      exact Nat.lt_of_le_of_ne (Nat.le_of_not_lt hlt) (hk e List.mem_cons_self)

variable [DecidableEq α]

theorem KMap.get_set_self (m : KMap α) (k : Nat) (v : α) : KMap.get d (KMap.set d m k v) k = v := by
  unfold KMap.set
  split
  · next h => rw [KMap.get_erase_self, h]
  · exact KMap.get_insert_self d fun e he => (KMap.mem_erase.mp he).2

theorem KMap.get_set_ne (m : KMap α) {k j : Nat} (v : α) (h : j ≠ k) :
    KMap.get d (KMap.set d m k v) j = KMap.get d m j := by
  unfold KMap.set
  split
  · exact KMap.get_erase_ne d m h
  · rw [KMap.get_insert_ne d h, KMap.get_erase_ne d m h]

/-- An update keeps the one form. -/
theorem KMap.wf_set {m : KMap α} (h : KMap.wf d m = true) (k : Nat) (v : α) : KMap.wf d (KMap.set d m k v) = true := by
  simp only [KMap.wf, Bool.and_eq_true, List.all_eq_true, decide_eq_true_eq] at h ⊢
  have hr : KMap.rising none (KMap.erase m k) = true := by
    rw [KMap.erase_eq_filter]; exact KMap.rising_filter _ h.1
  unfold KMap.set
  split
  · exact ⟨hr, fun e he => h.2 e (KMap.mem_erase.mp he).1⟩
  · next hv =>
    refine ⟨KMap.rising_insert hr (fun e he => (KMap.mem_erase.mp he).2) (by simp), fun e he => ?_⟩
    rcases KMap.mem_insert.mp he with rfl | he
    · exact hv
    · exact h.2 e (KMap.mem_erase.mp he).1

theorem KMap.wf_filter {m : KMap α} (h : KMap.wf d m = true) (p : Nat × α → Bool) : KMap.wf d (m.filter p) = true := by
  simp only [KMap.wf, Bool.and_eq_true, List.all_eq_true, decide_eq_true_eq] at h ⊢
  exact ⟨KMap.rising_filter p h.1, fun e he => h.2 e (List.mem_filter.mp he).1⟩

theorem KMap.wf_clear {m : KMap α} (h : KMap.wf d m = true) (lo n : Nat) : KMap.wf d (KMap.clear m lo n) = true :=
  KMap.wf_filter d h _

end Sys2Proof.Machine
end

