-- ==== Sys2Proof/Laws/State.lean ====
section
/-!
SUPPORT. What each update of the state leaves as it was, and what a register or a field reads as after a write.
-/
namespace Sys2Proof.Machine

/-! ### Registers -/

@[simp] theorem reg_setReg_self (s : State) (o : Nat) (w : W64) : (s.setReg o w).reg o = w :=
  KMap.get_set_self _ _ _ _

theorem reg_setReg_ne (s : State) {o j : Nat} (w : W64) (h : j ≠ o) : (s.setReg o w).reg j = s.reg j :=
  KMap.get_set_ne _ _ _ h

theorem reg_put_ne (s : State) {f : Fld} {j : Nat} (v : Nat) (h : j ≠ f.reg) : (s.put f v).reg j = s.reg j :=
  reg_setReg_ne s _ h

/-- A written field holds the low bits of the value. -/
theorem get_put_self (s : State) {f : Fld} (v : Nat) (h : f.lo + f.len ≤ 64) : (s.put f v).get f = v % 2 ^ f.len := by
  rw [State.get, State.put, reg_setReg_self, bitsOf_withBits_self _ _ h]

/-- A field of another register, or one that does not overlap, keeps its value. -/
theorem get_put_ne (s : State) {f g : Fld} (v : Nat)
    (h : g.reg ≠ f.reg ∨ g.lo + g.len ≤ f.lo ∨ f.lo + f.len ≤ g.lo) : (s.put f v).get g = s.get g := by
  by_cases hr : g.reg = f.reg
  · rw [State.get, State.put, hr, reg_setReg_self, bitsOf_withBits_ne _ _ (h.resolve_left (fun hn => hn hr)), State.get, hr]
  · rw [State.get, State.get, reg_put_ne s v hr]

theorem reg_resetRegs (s : State) (lo n j : Nat) :
    (s.resetRegs lo n).reg j = if lo ≤ j ∧ j < lo + n then regReset j else s.reg j :=
  KMap.get_clear _ _ _ _ _

/-! ### What an update leaves as it was -/

@[simp] theorem State.setReg_results (s : State) (o : Nat) (w : W64) : (s.setReg o w).results = s.results := rfl
@[simp] theorem State.setReg_seedbed (s : State) (o : Nat) (w : W64) : (s.setReg o w).seedbed = s.seedbed := rfl
@[simp] theorem State.setReg_topsoil (s : State) (o : Nat) (w : W64) : (s.setReg o w).topsoil = s.topsoil := rfl
@[simp] theorem State.setReg_subsoil (s : State) (o : Nat) (w : W64) : (s.setReg o w).subsoil = s.subsoil := rfl
@[simp] theorem State.setReg_lit (s : State) (o : Nat) (w : W64) : (s.setReg o w).lit = s.lit := rfl
@[simp] theorem State.setReg_dark (s : State) (o : Nat) (w : W64) : (s.setReg o w).dark = s.dark := rfl
@[simp] theorem State.setReg_rot (s : State) (o : Nat) (w : W64) : (s.setReg o w).rot = s.rot := rfl
@[simp] theorem State.setReg_field (s : State) (o : Nat) (w : W64) : (s.setReg o w).field = s.field := rfl
@[simp] theorem State.setReg_sched (s : State) (o : Nat) (w : W64) : (s.setReg o w).sched = s.sched := rfl
@[simp] theorem State.setReg_moe (s : State) (o : Nat) (w : W64) : (s.setReg o w).moe = s.moe := rfl
@[simp] theorem State.setReg_serve (s : State) (o : Nat) (w : W64) : (s.setReg o w).serve = s.serve := rfl
@[simp] theorem State.setReg_harrow (s : State) (o : Nat) (w : W64) : (s.setReg o w).harrow = s.harrow := rfl
@[simp] theorem State.setReg_net (s : State) (o : Nat) (w : W64) : (s.setReg o w).net = s.net := rfl
@[simp] theorem State.setReg_ward (s : State) (o : Nat) (w : W64) : (s.setReg o w).ward = s.ward := rfl
@[simp] theorem State.setReg_lamp (s : State) (o : Nat) (w : W64) : (s.setReg o w).lamp = s.lamp := rfl
@[simp] theorem State.setReg_power (s : State) (o : Nat) (w : W64) : (s.setReg o w).power = s.power := rfl
@[simp] theorem State.setReg_bist (s : State) (o : Nat) (w : W64) : (s.setReg o w).bist = s.bist := rfl
@[simp] theorem State.setReg_fallow (s : State) (o : Nat) (w : W64) : (s.setReg o w).fallow = s.fallow := rfl
@[simp] theorem State.setReg_drill (s : State) (o : Nat) (w : W64) : (s.setReg o w).drill = s.drill := rfl
@[simp] theorem State.setReg_part (s : State) (o : Nat) (w : W64) : (s.setReg o w).part = s.part := rfl
@[simp] theorem State.setReg_tap (s : State) (o : Nat) (w : W64) : (s.setReg o w).tap = s.tap := rfl
@[simp] theorem State.setReg_freeCtr (s : State) (o : Nat) (w : W64) : (s.setReg o w).freeCtr = s.freeCtr := rfl
@[simp] theorem State.setReg_pending (s : State) (o : Nat) (w : W64) : (s.setReg o w).pending = s.pending := rfl

@[simp] theorem State.put_results (s : State) (f : Fld) (v : Nat) : (s.put f v).results = s.results := rfl
@[simp] theorem State.put_seedbed (s : State) (f : Fld) (v : Nat) : (s.put f v).seedbed = s.seedbed := rfl
@[simp] theorem State.put_topsoil (s : State) (f : Fld) (v : Nat) : (s.put f v).topsoil = s.topsoil := rfl
@[simp] theorem State.put_subsoil (s : State) (f : Fld) (v : Nat) : (s.put f v).subsoil = s.subsoil := rfl
@[simp] theorem State.put_lit (s : State) (f : Fld) (v : Nat) : (s.put f v).lit = s.lit := rfl
@[simp] theorem State.put_dark (s : State) (f : Fld) (v : Nat) : (s.put f v).dark = s.dark := rfl
@[simp] theorem State.put_rot (s : State) (f : Fld) (v : Nat) : (s.put f v).rot = s.rot := rfl
@[simp] theorem State.put_field (s : State) (f : Fld) (v : Nat) : (s.put f v).field = s.field := rfl
@[simp] theorem State.put_sched (s : State) (f : Fld) (v : Nat) : (s.put f v).sched = s.sched := rfl
@[simp] theorem State.put_moe (s : State) (f : Fld) (v : Nat) : (s.put f v).moe = s.moe := rfl
@[simp] theorem State.put_serve (s : State) (f : Fld) (v : Nat) : (s.put f v).serve = s.serve := rfl
@[simp] theorem State.put_harrow (s : State) (f : Fld) (v : Nat) : (s.put f v).harrow = s.harrow := rfl
@[simp] theorem State.put_net (s : State) (f : Fld) (v : Nat) : (s.put f v).net = s.net := rfl
@[simp] theorem State.put_ward (s : State) (f : Fld) (v : Nat) : (s.put f v).ward = s.ward := rfl
@[simp] theorem State.put_lamp (s : State) (f : Fld) (v : Nat) : (s.put f v).lamp = s.lamp := rfl
@[simp] theorem State.put_power (s : State) (f : Fld) (v : Nat) : (s.put f v).power = s.power := rfl
@[simp] theorem State.put_bist (s : State) (f : Fld) (v : Nat) : (s.put f v).bist = s.bist := rfl
@[simp] theorem State.put_fallow (s : State) (f : Fld) (v : Nat) : (s.put f v).fallow = s.fallow := rfl
@[simp] theorem State.put_drill (s : State) (f : Fld) (v : Nat) : (s.put f v).drill = s.drill := rfl
@[simp] theorem State.put_part (s : State) (f : Fld) (v : Nat) : (s.put f v).part = s.part := rfl
@[simp] theorem State.put_tap (s : State) (f : Fld) (v : Nat) : (s.put f v).tap = s.tap := rfl
@[simp] theorem State.put_freeCtr (s : State) (f : Fld) (v : Nat) : (s.put f v).freeCtr = s.freeCtr := rfl
@[simp] theorem State.put_pending (s : State) (f : Fld) (v : Nat) : (s.put f v).pending = s.pending := rfl

@[simp] theorem State.bump_results (s : State) (f : Fld) (n : Nat) : (s.bump f n).results = s.results := rfl
@[simp] theorem State.bump_seedbed (s : State) (f : Fld) (n : Nat) : (s.bump f n).seedbed = s.seedbed := rfl
@[simp] theorem State.bump_topsoil (s : State) (f : Fld) (n : Nat) : (s.bump f n).topsoil = s.topsoil := rfl
@[simp] theorem State.bump_subsoil (s : State) (f : Fld) (n : Nat) : (s.bump f n).subsoil = s.subsoil := rfl
@[simp] theorem State.bump_lit (s : State) (f : Fld) (n : Nat) : (s.bump f n).lit = s.lit := rfl
@[simp] theorem State.bump_dark (s : State) (f : Fld) (n : Nat) : (s.bump f n).dark = s.dark := rfl
@[simp] theorem State.bump_rot (s : State) (f : Fld) (n : Nat) : (s.bump f n).rot = s.rot := rfl
@[simp] theorem State.bump_field (s : State) (f : Fld) (n : Nat) : (s.bump f n).field = s.field := rfl
@[simp] theorem State.bump_sched (s : State) (f : Fld) (n : Nat) : (s.bump f n).sched = s.sched := rfl
@[simp] theorem State.bump_moe (s : State) (f : Fld) (n : Nat) : (s.bump f n).moe = s.moe := rfl
@[simp] theorem State.bump_serve (s : State) (f : Fld) (n : Nat) : (s.bump f n).serve = s.serve := rfl
@[simp] theorem State.bump_harrow (s : State) (f : Fld) (n : Nat) : (s.bump f n).harrow = s.harrow := rfl
@[simp] theorem State.bump_net (s : State) (f : Fld) (n : Nat) : (s.bump f n).net = s.net := rfl
@[simp] theorem State.bump_ward (s : State) (f : Fld) (n : Nat) : (s.bump f n).ward = s.ward := rfl
@[simp] theorem State.bump_lamp (s : State) (f : Fld) (n : Nat) : (s.bump f n).lamp = s.lamp := rfl
@[simp] theorem State.bump_power (s : State) (f : Fld) (n : Nat) : (s.bump f n).power = s.power := rfl
@[simp] theorem State.bump_bist (s : State) (f : Fld) (n : Nat) : (s.bump f n).bist = s.bist := rfl
@[simp] theorem State.bump_fallow (s : State) (f : Fld) (n : Nat) : (s.bump f n).fallow = s.fallow := rfl
@[simp] theorem State.bump_drill (s : State) (f : Fld) (n : Nat) : (s.bump f n).drill = s.drill := rfl
@[simp] theorem State.bump_part (s : State) (f : Fld) (n : Nat) : (s.bump f n).part = s.part := rfl
@[simp] theorem State.bump_tap (s : State) (f : Fld) (n : Nat) : (s.bump f n).tap = s.tap := rfl
@[simp] theorem State.bump_freeCtr (s : State) (f : Fld) (n : Nat) : (s.bump f n).freeCtr = s.freeCtr := rfl
@[simp] theorem State.bump_pending (s : State) (f : Fld) (n : Nat) : (s.bump f n).pending = s.pending := rfl

@[simp] theorem State.advance_results (s : State) (f : Fld) (n : Nat) : (s.advance f n).results = s.results := rfl
@[simp] theorem State.advance_seedbed (s : State) (f : Fld) (n : Nat) : (s.advance f n).seedbed = s.seedbed := rfl
@[simp] theorem State.advance_topsoil (s : State) (f : Fld) (n : Nat) : (s.advance f n).topsoil = s.topsoil := rfl
@[simp] theorem State.advance_subsoil (s : State) (f : Fld) (n : Nat) : (s.advance f n).subsoil = s.subsoil := rfl
@[simp] theorem State.advance_lit (s : State) (f : Fld) (n : Nat) : (s.advance f n).lit = s.lit := rfl
@[simp] theorem State.advance_dark (s : State) (f : Fld) (n : Nat) : (s.advance f n).dark = s.dark := rfl
@[simp] theorem State.advance_rot (s : State) (f : Fld) (n : Nat) : (s.advance f n).rot = s.rot := rfl
@[simp] theorem State.advance_field (s : State) (f : Fld) (n : Nat) : (s.advance f n).field = s.field := rfl
@[simp] theorem State.advance_sched (s : State) (f : Fld) (n : Nat) : (s.advance f n).sched = s.sched := rfl
@[simp] theorem State.advance_moe (s : State) (f : Fld) (n : Nat) : (s.advance f n).moe = s.moe := rfl
@[simp] theorem State.advance_serve (s : State) (f : Fld) (n : Nat) : (s.advance f n).serve = s.serve := rfl
@[simp] theorem State.advance_harrow (s : State) (f : Fld) (n : Nat) : (s.advance f n).harrow = s.harrow := rfl
@[simp] theorem State.advance_net (s : State) (f : Fld) (n : Nat) : (s.advance f n).net = s.net := rfl
@[simp] theorem State.advance_ward (s : State) (f : Fld) (n : Nat) : (s.advance f n).ward = s.ward := rfl
@[simp] theorem State.advance_lamp (s : State) (f : Fld) (n : Nat) : (s.advance f n).lamp = s.lamp := rfl
@[simp] theorem State.advance_power (s : State) (f : Fld) (n : Nat) : (s.advance f n).power = s.power := rfl
@[simp] theorem State.advance_bist (s : State) (f : Fld) (n : Nat) : (s.advance f n).bist = s.bist := rfl
@[simp] theorem State.advance_fallow (s : State) (f : Fld) (n : Nat) : (s.advance f n).fallow = s.fallow := rfl
@[simp] theorem State.advance_drill (s : State) (f : Fld) (n : Nat) : (s.advance f n).drill = s.drill := rfl
@[simp] theorem State.advance_part (s : State) (f : Fld) (n : Nat) : (s.advance f n).part = s.part := rfl
@[simp] theorem State.advance_tap (s : State) (f : Fld) (n : Nat) : (s.advance f n).tap = s.tap := rfl
@[simp] theorem State.advance_freeCtr (s : State) (f : Fld) (n : Nat) : (s.advance f n).freeCtr = s.freeCtr := rfl
@[simp] theorem State.advance_pending (s : State) (f : Fld) (n : Nat) : (s.advance f n).pending = s.pending := rfl

@[simp] theorem State.resetRegs_results (s : State) (lo n : Nat) : (s.resetRegs lo n).results = s.results := rfl
@[simp] theorem State.resetRegs_seedbed (s : State) (lo n : Nat) : (s.resetRegs lo n).seedbed = s.seedbed := rfl
@[simp] theorem State.resetRegs_topsoil (s : State) (lo n : Nat) : (s.resetRegs lo n).topsoil = s.topsoil := rfl
@[simp] theorem State.resetRegs_subsoil (s : State) (lo n : Nat) : (s.resetRegs lo n).subsoil = s.subsoil := rfl
@[simp] theorem State.resetRegs_lit (s : State) (lo n : Nat) : (s.resetRegs lo n).lit = s.lit := rfl
@[simp] theorem State.resetRegs_dark (s : State) (lo n : Nat) : (s.resetRegs lo n).dark = s.dark := rfl
@[simp] theorem State.resetRegs_rot (s : State) (lo n : Nat) : (s.resetRegs lo n).rot = s.rot := rfl
@[simp] theorem State.resetRegs_field (s : State) (lo n : Nat) : (s.resetRegs lo n).field = s.field := rfl
@[simp] theorem State.resetRegs_sched (s : State) (lo n : Nat) : (s.resetRegs lo n).sched = s.sched := rfl
@[simp] theorem State.resetRegs_moe (s : State) (lo n : Nat) : (s.resetRegs lo n).moe = s.moe := rfl
@[simp] theorem State.resetRegs_serve (s : State) (lo n : Nat) : (s.resetRegs lo n).serve = s.serve := rfl
@[simp] theorem State.resetRegs_harrow (s : State) (lo n : Nat) : (s.resetRegs lo n).harrow = s.harrow := rfl
@[simp] theorem State.resetRegs_net (s : State) (lo n : Nat) : (s.resetRegs lo n).net = s.net := rfl
@[simp] theorem State.resetRegs_ward (s : State) (lo n : Nat) : (s.resetRegs lo n).ward = s.ward := rfl
@[simp] theorem State.resetRegs_lamp (s : State) (lo n : Nat) : (s.resetRegs lo n).lamp = s.lamp := rfl
@[simp] theorem State.resetRegs_power (s : State) (lo n : Nat) : (s.resetRegs lo n).power = s.power := rfl
@[simp] theorem State.resetRegs_bist (s : State) (lo n : Nat) : (s.resetRegs lo n).bist = s.bist := rfl
@[simp] theorem State.resetRegs_fallow (s : State) (lo n : Nat) : (s.resetRegs lo n).fallow = s.fallow := rfl
@[simp] theorem State.resetRegs_drill (s : State) (lo n : Nat) : (s.resetRegs lo n).drill = s.drill := rfl
@[simp] theorem State.resetRegs_part (s : State) (lo n : Nat) : (s.resetRegs lo n).part = s.part := rfl
@[simp] theorem State.resetRegs_tap (s : State) (lo n : Nat) : (s.resetRegs lo n).tap = s.tap := rfl
@[simp] theorem State.resetRegs_freeCtr (s : State) (lo n : Nat) : (s.resetRegs lo n).freeCtr = s.freeCtr := rfl
@[simp] theorem State.resetRegs_pending (s : State) (lo n : Nat) : (s.resetRegs lo n).pending = s.pending := rfl

@[simp] theorem State.setResult_regs (s : State) (o : Nat) (src : Source) (w : W64) : (s.setResult o src w).regs = s.regs := rfl
@[simp] theorem State.setResult_topsoil (s : State) (o : Nat) (src : Source) (w : W64) : (s.setResult o src w).topsoil = s.topsoil := rfl
@[simp] theorem State.setResult_field (s : State) (o : Nat) (src : Source) (w : W64) : (s.setResult o src w).field = s.field := rfl
@[simp] theorem State.setResult_sched (s : State) (o : Nat) (src : Source) (w : W64) : (s.setResult o src w).sched = s.sched := rfl
@[simp] theorem State.setResult_harrow (s : State) (o : Nat) (src : Source) (w : W64) : (s.setResult o src w).harrow = s.harrow := rfl
@[simp] theorem State.setResult_net (s : State) (o : Nat) (src : Source) (w : W64) : (s.setResult o src w).net = s.net := rfl
@[simp] theorem State.setResult_ward (s : State) (o : Nat) (src : Source) (w : W64) : (s.setResult o src w).ward = s.ward := rfl
@[simp] theorem State.setResult_lamp (s : State) (o : Nat) (src : Source) (w : W64) : (s.setResult o src w).lamp = s.lamp := rfl
@[simp] theorem State.setResult_pending (s : State) (o : Nat) (src : Source) (w : W64) : (s.setResult o src w).pending = s.pending := rfl

@[simp] theorem State.post_regs (s : State) (p : Packet) : (s.post p).regs = s.regs := rfl
@[simp] theorem State.post_results (s : State) (p : Packet) : (s.post p).results = s.results := rfl
@[simp] theorem State.post_topsoil (s : State) (p : Packet) : (s.post p).topsoil = s.topsoil := rfl
@[simp] theorem State.post_field (s : State) (p : Packet) : (s.post p).field = s.field := rfl
@[simp] theorem State.post_sched (s : State) (p : Packet) : (s.post p).sched = s.sched := rfl
@[simp] theorem State.post_harrow (s : State) (p : Packet) : (s.post p).harrow = s.harrow := rfl
@[simp] theorem State.post_ward (s : State) (p : Packet) : (s.post p).ward = s.ward := rfl
@[simp] theorem State.post_lamp (s : State) (p : Packet) : (s.post p).lamp = s.lamp := rfl
@[simp] theorem State.post_pending (s : State) (p : Packet) : (s.post p).pending = s.pending := rfl

@[simp] theorem State.drawn_regs (s : State) : (s.drawn).regs = s.regs := rfl
@[simp] theorem State.drawn_results (s : State) : (s.drawn).results = s.results := rfl
@[simp] theorem State.drawn_topsoil (s : State) : (s.drawn).topsoil = s.topsoil := rfl
@[simp] theorem State.drawn_field (s : State) : (s.drawn).field = s.field := rfl
@[simp] theorem State.drawn_sched (s : State) : (s.drawn).sched = s.sched := rfl
@[simp] theorem State.drawn_harrow (s : State) : (s.drawn).harrow = s.harrow := rfl
@[simp] theorem State.drawn_net (s : State) : (s.drawn).net = s.net := rfl
@[simp] theorem State.drawn_ward (s : State) : (s.drawn).ward = s.ward := rfl
@[simp] theorem State.drawn_lamp (s : State) : (s.drawn).lamp = s.lamp := rfl
@[simp] theorem State.drawn_pending (s : State) : (s.drawn).pending = s.pending := rfl

@[simp] theorem get_setResult (s : State) (o : Nat) (src : Source) (w : W64) (f : Fld) : (s.setResult o src w).get f = s.get f := rfl
@[simp] theorem get_post (s : State) (p : Packet) (f : Fld) : (s.post p).get f = s.get f := rfl
@[simp] theorem get_drawn (s : State) (f : Fld) : s.drawn.get f = s.get f := rfl

/-- The result register of the source that an operation acts for. -/
@[simp] theorem result_setResult_self (s : State) (o : Nat) (src : Source) (w : W64) : (s.setResult o src w).result o src = w :=
  KMap.get_set_self _ _ _ _

end Sys2Proof.Machine
end

