-- ==== Sys2Proof/Laws/Frame.lean ====
section
/-!
SUPPORT. How frames over register fields compose.
-/
namespace Sys2Proof.Machine

theorem SameFieldsBut.refl (l : List Fld) (s : State) : SameFieldsBut l s s := fun _ _ => rfl

theorem SameFieldsBut.trans {l : List Fld} {s t u : State} (h : SameFieldsBut l s t) (k : SameFieldsBut l t u) :
    SameFieldsBut l s u := fun f hf => (k f hf).trans (h f hf)

/-- Writing a listed field keeps every other one. -/
theorem SameFieldsBut.put {l : List Fld} {s t : State} {f : Fld} (v : Nat) (h : SameFieldsBut l s t) (hf : f ∈ l) :
    SameFieldsBut l s (t.put f v) := by
  intro g hg
  rw [get_put_ne t v (hg f hf), h g hg]

/-- A state with the same registers reads alike. -/
theorem SameFieldsBut.of_regs {l : List Fld} {s t u : State} (h : SameFieldsBut l s t) (e : u.regs = t.regs) :
    SameFieldsBut l s u := by
  intro g hg
  have : u.get g = t.get g := by simp only [State.get, State.reg, e]
  rw [this, h g hg]

theorem SameMemoryBut.refl (p : Nat → Nat → Prop) (s : State) : SameMemoryBut p s s := fun _ => ⟨fun _ => rfl, fun _ => rfl, fun _ => rfl⟩

end Sys2Proof.Machine
end

