-- ==== Sys2Proof/Laws/Mem.lean ====
section
/-!
SUPPORT. Memory tiers: every operation keeps the one form, a write leaves every byte outside it alone, and a byte that
is written to a sound granule reads back.
-/
namespace Sys2Proof.Machine

/-! ### The one form -/

theorem Mem.wf_zero : Mem.zero.wf = true := by decide

theorem Mem.wf_iff (m : Mem) :
    m.wf = true ↔ KMap.wf (memDefault m.epoch) m.cells = true ∧ KMap.wf (fun _ => false) m.bad = true := by
  simp [Mem.wf]

theorem Mem.wf_poke {m : Mem} (h : m.wf = true) (a : Nat) (b : Byte) : (m.poke a b).wf = true := by
  rw [Mem.wf_iff] at h ⊢
  exact ⟨KMap.wf_set _ h.1 a b, h.2⟩

theorem Mem.wf_mark {m : Mem} (h : m.wf = true) (g : Nat) (b : Bool) : (m.mark g b).wf = true := by
  rw [Mem.wf_iff] at h ⊢
  exact ⟨h.1, KMap.wf_set _ h.2 g b⟩

theorem Mem.wf_pokes (gran : Nat) (bs : List Byte) :
    ∀ {m : Mem}, m.wf = true → ∀ a, (m.pokes gran a bs).wf = true := by
  induction bs with
  | nil => exact fun h _ => h
  | cons b bs ih =>
    intro m h a
    rw [Mem.pokes]
    refine ih ?_ _
    split
    · exact h
    · exact Mem.wf_poke h a b

/-- What `heal` does to each granule it looks at. -/
def healStep (gran a n : Nat) (m : Mem) (k : Nat) : Mem :=
  if covers gran a n (a / gran + k) && m.isBad (a / gran + k) then m.mark (a / gran + k) false else m

theorem Mem.heal_eq (m : Mem) (gran a n : Nat) :
    m.heal gran a n = (List.range (n / gran + 2)).foldl (healStep gran a n) m := rfl

theorem Mem.wf_healFold (gran a n : Nat) (l : List Nat) :
    ∀ {m : Mem}, m.wf = true → (l.foldl (healStep gran a n) m).wf = true := by
  induction l with
  | nil => exact fun h => h
  | cons k l ih =>
    intro m h
    refine ih ?_
    unfold healStep
    split
    · exact Mem.wf_mark h _ _
    · exact h

theorem Mem.wf_heal {m : Mem} (h : m.wf = true) (gran a n : Nat) : (m.heal gran a n).wf = true :=
  Mem.wf_healFold gran a n _ h

theorem Mem.wf_write {m : Mem} (h : m.wf = true) (gran a : Nat) (bs : List Byte) : (m.write gran a bs).wf = true :=
  Mem.wf_pokes gran bs (Mem.wf_heal h gran a bs.length) a

theorem Mem.epoch_healFold (gran a n : Nat) (l : List Nat) :
    ∀ m : Mem, (l.foldl (healStep gran a n) m).epoch = m.epoch := by
  induction l with
  | nil => exact fun _ => rfl
  | cons k l ih =>
    intro m
    rw [List.foldl_cons, ih]
    unfold healStep
    split <;> rfl

theorem Mem.epoch_heal (m : Mem) (gran a n : Nat) : (m.heal gran a n).epoch = m.epoch := Mem.epoch_healFold gran a n _ m

theorem Mem.wf_zeroed {m : Mem} (h : m.wf = true) (gran a n : Nat) : (m.zeroed gran a n).wf = true := by
  unfold Mem.zeroed
  split
  · next he =>
    have h1 := (Mem.wf_iff _).mp (Mem.wf_heal h gran a n)
    rw [Mem.wf_iff]
    refine ⟨?_, h1.2⟩
    have h2 : memDefault (m.heal gran a n).epoch = memDefault m.epoch := by rw [Mem.epoch_heal]
    have h3 : KMap.wf (memDefault m.epoch) m.cells = true := ((Mem.wf_iff _).mp h).1
    show KMap.wf (memDefault (m.heal gran a n).epoch) (KMap.clear m.cells a n) = true
    rw [h2]
    exact KMap.wf_clear _ h3 a n
  · exact Mem.wf_write h gran a _

/-! ### Reads after writes -/

theorem Mem.stored_poke_self (m : Mem) (a : Nat) (b : Byte) : (m.poke a b).stored a = b := KMap.get_set_self _ _ _ _
theorem Mem.stored_poke_ne (m : Mem) {a j : Nat} (b : Byte) (h : j ≠ a) : (m.poke a b).stored j = m.stored j :=
  KMap.get_set_ne _ _ _ h
theorem Mem.isBad_poke (m : Mem) (a : Nat) (b : Byte) (g : Nat) : (m.poke a b).isBad g = m.isBad g := rfl

theorem Mem.isBad_pokes (gran : Nat) (bs : List Byte) :
    ∀ (m : Mem) (a g : Nat), (m.pokes gran a bs).isBad g = m.isBad g := by
  induction bs with
  | nil => exact fun _ _ _ => rfl
  | cons b bs ih =>
    intro m a g
    rw [Mem.pokes, ih]
    split <;> rfl

theorem Mem.bad_pokes (gran : Nat) (bs : List Byte) : ∀ (m : Mem) (a : Nat), (m.pokes gran a bs).bad = m.bad := by
  induction bs with
  | nil => exact fun _ _ => rfl
  | cons b bs ih =>
    intro m a
    rw [Mem.pokes, ih]
    split <;> rfl

theorem Mem.stored_pokes_out (gran : Nat) (bs : List Byte) :
    ∀ (m : Mem) (a j : Nat), j < a ∨ a + bs.length ≤ j → (m.pokes gran a bs).stored j = m.stored j := by
  induction bs with
  | nil => exact fun _ _ _ _ => rfl
  | cons b bs ih =>
    intro m a j h
    rw [List.length_cons] at h
    rw [Mem.pokes, ih _ _ _ (by omega)]
    split
    · rfl
    · exact Mem.stored_poke_ne m b (by omega)

theorem Mem.stored_pokes_in (gran : Nat) (bs : List Byte) :
    ∀ (m : Mem) (a i : Nat), (∀ k, k < bs.length → m.isBad ((a + k) / gran) = false) → i < bs.length →
      (m.pokes gran a bs).stored (a + i) = bs.getD i 0 := by
  induction bs with
  | nil => intro _ _ i _ h; exact absurd h (by simp)
  | cons b bs ih =>
    intro m a i hb hi
    have h0 : m.isBad (a / gran) = false := hb 0 (by simp)
    rw [Mem.pokes, if_neg (by simp [h0])]
    cases i with
    | zero =>
      rw [Mem.stored_pokes_out gran bs _ _ _ (by omega)]
      exact Mem.stored_poke_self m a b
    | succ i =>
      have := ih (m.poke a b) (a + 1) i (fun k hk => by
        rw [Mem.isBad_poke]
        have h1 := hb (k + 1) (by simpa using hk)
        rwa [show a + (k + 1) = a + 1 + k by omega] at h1) (by simpa using hi)
      rw [show a + (i + 1) = a + 1 + i by omega, this]
      rfl

theorem Mem.healFold_out (gran a n j : Nat) (l : List Nat) (hj : j < a ∨ a + n ≤ j) (hg : 0 < gran) :
    ∀ m : Mem, (l.foldl (healStep gran a n) m).stored j = m.stored j ∧
      (l.foldl (healStep gran a n) m).isBad (j / gran) = m.isBad (j / gran) := by
  induction l with
  | nil => exact fun _ => ⟨rfl, rfl⟩
  | cons k l ih =>
    intro m
    rw [List.foldl_cons]
    have h := ih (healStep gran a n m k)
    rw [h.1, h.2]
    unfold healStep
    split
    · next hc =>
      refine ⟨rfl, KMap.get_set_ne (fun _ => false) m.bad false fun he => ?_⟩
      simp only [covers, Bool.and_eq_true, decide_eq_true_eq] at hc
      have h1 := hc.1
      rw [← he] at h1
      have h2 := Nat.div_mul_le_self j gran
      have h3 : j < (j / gran + 1) * gran := by
        rw [Nat.add_mul, Nat.one_mul]; exact Nat.lt_div_mul_add hg
      omega
    · exact ⟨rfl, rfl⟩

/-- A tier without a bad granule reads back what was stored. -/
theorem Mem.read_pokes (m : Mem) (hb : m.bad = []) (gran a off n : Nat) (bs : List Byte) (h : off + n ≤ bs.length) :
    (m.pokes gran a bs).read gran (a + off) n = (bs.drop off).take n := by
  have hbad : ∀ g, m.isBad g = false := fun g => by rw [Mem.isBad, hb]; rfl
  apply List.ext_getElem
  · rw [Mem.read, List.length_map, List.length_range, List.length_take, List.length_drop]; omega
  · intro i h1 h2
    rw [Mem.read, List.length_map, List.length_range] at h1
    simp only [Mem.read, List.getElem_map, List.getElem_range, List.getElem_take, List.getElem_drop, Mem.byte,
      Mem.isBad_pokes, hbad]
    rw [if_neg (by simp), Nat.add_assoc, Mem.stored_pokes_in gran bs m a (off + i) (fun k _ => hbad _) (by omega),
      List.getD, List.getElem?_eq_getElem (by omega), Option.getD_some]

/-- A write leaves every byte outside it alone. -/
theorem Mem.byte_write_out (m : Mem) {gran : Nat} (hg : 0 < gran) (a j : Nat) (bs : List Byte)
    (h : j < a ∨ a + bs.length ≤ j) : (m.write gran a bs).byte gran j = m.byte gran j := by
  have hh := Mem.healFold_out gran a bs.length j (List.range (bs.length / gran + 2)) h hg m
  rw [← Mem.heal_eq] at hh
  simp only [Mem.byte, Mem.write, Mem.isBad_pokes, Mem.stored_pokes_out gran bs _ a j h, hh.1, hh.2]

end Sys2Proof.Machine
end

