-- ==== Sys2Proof/Machine/Tap.lean ====
section
/-!
DEFINITION. The JTAG port (R524, R550): the controller of IEEE 1149.1, its instructions and its data registers. No command
of the opcode table clocks TCK (assumption 54).
-/
namespace Sys2Proof.Machine

/-- The next state of the controller at a rising edge of TCK, by TMS. -/
def TapCtl.next (c : TapCtl) (tms : Bool) : TapCtl :=
  match c with
  | .testLogicReset => if tms then .testLogicReset else .runTestIdle
  | .runTestIdle => if tms then .selectDr else .runTestIdle
  | .selectDr => if tms then .selectIr else .captureDr
  | .captureDr => if tms then .exit1Dr else .shiftDr
  | .shiftDr => if tms then .exit1Dr else .shiftDr
  | .exit1Dr => if tms then .updateDr else .pauseDr
  | .pauseDr => if tms then .exit2Dr else .pauseDr
  | .exit2Dr => if tms then .updateDr else .shiftDr
  | .updateDr => if tms then .selectDr else .runTestIdle
  | .selectIr => if tms then .testLogicReset else .captureIr
  | .captureIr => if tms then .exit1Ir else .shiftIr
  | .shiftIr => if tms then .exit1Ir else .shiftIr
  | .exit1Ir => if tms then .updateIr else .pauseIr
  | .pauseIr => if tms then .exit2Ir else .pauseIr
  | .exit2Ir => if tms then .updateIr else .shiftIr
  | .updateIr => if tms then .selectDr else .runTestIdle

/-- IDCODE: STEPPING[3:0], the part 0x9600, the manufacturer 0x3D5, and 1 (R550). -/
def idcodeOf (stepping : BitVec 8) : BitVec 32 :=
  BitVec.ofNat 32 (stepping.toNat % 16 * 2 ^ 28 + 0x9600 * 2 ^ 12 + 0x3D5 * 2 + 1)

def bitsList (n w : Nat) : List Bool := (List.range n).map fun i => w.testBit i

/-- The number that a list of bits spells, the least significant first. -/
def listNat : List Bool → Nat
  | [] => 0
  | b :: bs => bit b + 2 * listNat bs

/-- Whether a debug token has opened right `r` (R524, R525). -/
def State.debugOpen (s : State) (r : Nat) : Bool := decide (r < 4 ∧ s.get LAMP_SEC.DBG_RIGHTS / 2 ^ r % 2 = 1)

/-- The instruction that a code selects: BYPASS for all ones, for a code that names nothing and for a closed instruction
(R524, assumption 54). -/
def State.tapDecode (s : State) (code : List Bool) : TapInstr :=
  let n := listNat code
  if code.all id then .bypass
  else if n = Config.tapCode 0 then .idcode
  else if n = Config.tapCode 1 then .sample
  else if n = Config.tapCode 2 then .extest
  else match (List.range 4).find? fun r => n == Config.tapCode (3 + r) with
    | some r => if s.debugOpen r then .debug r else .bypass
    | none => .bypass

/-- What the selected data register captures. The order of the lands in the boundary-scan chain, and the chains behind the
debug rights, the spec does not give: their bits are free (assumption 54). -/
def State.tapCapture (s : State) : List Bool :=
  match s.tap.instr with
  | .bypass => [false]
  | .debug r => if s.debugOpen r then bitsList Config.boundaryCells s.freeNat else [false]
  | .idcode => bitsList 32 (idcodeOf s.part.stepping).toNat
  | _ => bitsList Config.boundaryCells s.freeNat

/-- A shift stage moves by one toward TDO. -/
def shiftIn (tdi : Bool) (l : List Bool) : List Bool := l.drop 1 ++ [tdi]

/-- One rising edge of TCK: the action of the state that the controller is in, then its next state. -/
def State.tapClock (s : State) (tms tdi : Bool) : State :=
  let t := s.tap
  let s := match t.ctl with
    | .testLogicReset => { s with tap := { t with instr := .idcode } }
    | .captureDr => State.drawn { s with tap := { t with drShift := s.tapCapture } }
    | .shiftDr => { s with tap := { t with drShift := shiftIn tdi t.drShift } }
    | .captureIr => { s with tap := { t with irShift := bitsList Config.tapIrBits 1 } }
    | .shiftIr => { s with tap := { t with irShift := shiftIn tdi t.irShift } }
    | .updateDr => if t.instr = TapInstr.sample ∨ t.instr = TapInstr.extest then { s with tap := { t with latches := t.drShift } } else s
    | .updateIr => { s with tap := { t with instr := s.tapDecode t.irShift } }
    | _ => s
  { s with tap := { s.tap with ctl := t.ctl.next tms } }

/-- TRST_N low resets the port (R550). -/
def State.tapReset (s : State) : State := { s with tap := { s.tap with ctl := .testLogicReset, instr := .idcode } }

/-- TDO, which is driven while a register shifts. -/
def State.tdo (s : State) : Option Bool :=
  match s.tap.ctl with
  | .shiftDr => s.tap.drShift.head?
  | .shiftIr => s.tap.irShift.head?
  | _ => none

/-- The levels with which EXTEST drives the lands of the chain, in its order; `none` while the part drives them itself. -/
def State.extestDrives (s : State) : Option (List Bool) := if s.tap.instr = TapInstr.extest then some s.tap.latches else none

end Sys2Proof.Machine
end

