-- ==== Sys2Proof/Tests/Slice0.lean ====
section
/-!
SUPPORT. The model's own tests: the checks of well-formedness refuse an ill-formed command, a step runs the front command,
and every statement of Obligations.lean has operands and a state that meet the hypotheses of each of its clauses.
-/
namespace Sys2Proof.Slice0
open Sys2Proof.Machine

set_option Elab.async false

/-! ### States -/

/-- Every domain powered, the step machine STOPPED. -/
def on : State := State.reset.put CANDLE_DSTAT.ON (2 ^ 24 - 1)
/-- A step runs. -/
def run : State := (on.put CHIP_STATUS.FIELD_IN_RESET 0).put STEP_STATUS.STATE 1
/-- Firmware of M-mode, of a job, and of the Lamplighter. -/
def m : Source := .core 3 true
def u : Source := .core 3 false
def lampSrc : Source := .lamp
/-- A message from this chip, which leads itself. -/
def hdr : MsgHdr := ⟨0, 0⟩
/-- Chip 1 of a slice of two with JOB 7, and a message from the leader. -/
def member : State :=
  { (run.put ROUTE_SELF.XYZ 1).put ROUTE_SELF.INDEX 1 with net := { NetSt.reset with slice := some ⟨0, 0, 0, 1, 0, 0, 7, 1, 0, false⟩ } }
def leader : State := { run with net := { NetSt.reset with slice := some ⟨0, 0, 0, 1, 0, 0, 7, 1, 0, false⟩ } }
def hdr7 : MsgHdr := ⟨7, 0⟩
/-- A message from chip 1 of the slice. -/
def hdr1 : MsgHdr := ⟨7, 0x100⟩
/-- The next state of a command. -/
def next (c : Instr) (s : State) : State := match exec c s with
  | .next t => t
  | _ => s
/-- The four codes of a port report nothing. -/
def clean4 : PortCodes := ⟨.clean, .clean, .clean, .clean⟩
def setWords (s : State) (off : Nat) (l : List Nat) : State := { s with topsoil := s.topsoil.write 64 off (l.flatMap (leBytes 8)) }

/-! ### Witnesses of the statements' hypotheses -/

/-- A Pass descriptor with one stage of one plot, and a step with it at the head of queue 0. -/
def desc0 : List Nat := (2 ^ 10 :: List.replicate 15 0) ++ [0] ++ List.replicate 47 0
def issuing : State :=
  { setWords ((run.put STEP_CTRL.QMASK 1).put (STEP_QTAIL.TAIL 0) 1) 0 desc0 with
      lit := { Image.cleared with passes := [desc0.map (BitVec.ofNat 64)] } }
def refusing : State := { issuing with lit := .cleared }
def pass5 : PassSt := ⟨5, 0, 0, desc0.map (BitVec.ofNat 64), 0, 0, false, 0, 0, false, .zero⟩
def run0 : List W64 × Nat × Nat × Bool := (desc0.map (BitVec.ofNat 64), 0, 0, false)
def flying : State := { run with sched := { SchedSt.reset with inflight := [pass5] } }

def op9 : MemOp := ⟨9, .serve false, 3, some 5, true, 0x100, 0x1FF, 0⟩

def query2 (core : Option Nat) : Query := ⟨2, 1, false, 7, 100, core, true, none⟩
def asking : State := { run.put STEP_QCFG.CORES 0xF0 with sched := { SchedSt.reset with queries := [query2 none] } }
def asked : State := { run with sched := { SchedSt.reset with queries := [query2 (some 4)], coreHolds := [(4, 3)] } }

def bound : State := { run.put STEP_STATUS.STATE 2 with sched := { SchedSt.reset with flushedSent := true } }

def abandoning : State := run.put STEP_STATUS.STATE 3

/-- READY for step 1 at the leader itself, and at the end of an exchange. -/
def readyAt1 : State :=
  { (on.put STEP_STATUS.STATE 2).put ROTATE_STATUS.ROT_STATE rotReady with rot := { RotSt.reset with armed := some 1 } }
def armed1 : State := { run.put ROTATE_STATUS.ROT_STATE rotArmed with rot := { RotSt.reset with armed := some 1 } }
def image1 : Image := { Image.cleared with mask := 1, imageId := 9 }

def layer0 : LayerCfg := { LayerCfg.ofWords [] with e := 4, ne := 2, wslot := 4096, wslotBytes := 64, expBytes := 64, res := 8192,
                                                    nslot := 4, xfmt := 1, rowElems := 64 }
def sower0 : SowerSt := ⟨3, 3, 1, layer0, [2, 5], [], true, [], none, false, none, [(0, 1), (1, 2)], [0, 1], false⟩
def fetchOp : MemOp := ⟨1, .fetch false 0, 3, none, true, 0, 0, 0⟩
def token (rowE : Bool) : Token := ⟨mkHdr 0 ⟨false, false, true, rowE⟩ 4 2, 0, 0⟩
def sowing : State :=
  State.setQueue { leader with moe := { MoeSt.reset with sowerA := some sower0, busyA := true }, sched := { SchedSt.reset with entries := [fetchOp] } }
    (stileQ 0 8) { Queue.empty with toks := [token true], out := 1 }
def sowing0 : State := { sowing with moe := { sowing.moe with sowerA := some { sower0 with expected := [] } } }
def segment (kind src : Nat) : Segment :=
  ⟨BitVec.ofNat 64 (kind + src * 2 ^ 25 + 1 * 2 ^ 9 + 2 * 2 ^ 37), 0, 0, [0, 0], if kind = 2 then [0, 0] else [], []⟩

def glean0 : GleanSt := ⟨3, 1, layer0, 0, [1], [(0, 0), (0, 1)], [], false, [], false⟩
def gleaning : State := { setWords sowing 0 [0x100000001] with moe := { sowing.moe with gleanA := some glean0 } }

/-- A home table with entry 2: 128 KiB at 1 MiB of Topsoil, with the flags of `w0`. -/
def homes (w0 : Nat) : State :=
  setWords (((run.put TIER_HOME.BASE 1).put TIER_HOME.LOG2N 4 |>.put (TIER_QT.LIMIT 0) 100).put TIER_QJOB_T.LIMIT 100) (4096 + 64)
    [w0, run.gaddr 1 0x100000, 0x20000, 0]
/-- A borrower grant of chip 1's Topsoil, active, or lender of this chip's. -/
def grant (s : State) (role state : Nat) : State :=
  (s.setReg 0x90200 (BitVec.ofNat 64 (1 + 2 * role + 8 * state + 32 * 1))).put (TIER_GNT_A.LEN 0) 16
def toGrant : Nat := 0x100 * 2 ^ 44 + 2 ^ 42
def stream0 (op len : Nat) : StreamSt :=
  ⟨true, 0, [BitVec.ofNat 64 (op + 2 * 2 ^ 23), BitVec.ofNat 64 (run.gaddr 1 0), BitVec.ofNat 64 (run.gaddr 1 0x400000), BitVec.ofNat 64 len, 0, 0, 0, 0],
    0, 0, 0, false, false, false⟩
def streamOp0 : MemOp := ⟨1, .stream true 0, 0, none, true, 0, 0, 0⟩
def streaming (s : State) (t : StreamSt) : State :=
  { s with harrow := { HarrowSt.reset with streams := [t] }, sched := { SchedSt.reset with entries := [streamOp0] } }

def queued : State :=
  setWords ((run.put (HARROW_QBASE.BASE 1) 16 |>.put (HARROW_QBASE.LOG2N 1) 4).put (HARROW_QPTR.TAIL 1) 1) 65536
    ((stream0 1 0x2000).desc.map (·.toNat))
def copying : State := streaming run (stream0 1 0x2000)
def zeroing : State := streaming run (stream0 3 0x2000)
def refusedCopy : StreamSt := { stream0 1 0x2000 with desc := (stream0 1 0x2000).desc.set 1 (BitVec.ofNat 64 (run.gaddr 1 (2 ^ 40))) }

def moving : State := streaming (homes 1) (stream0 2 0x20000)
def moved : StreamSt := { stream0 2 0x20000 with started := true, done := 0x20000 }
def vacated : State := { run with harrow := { HarrowSt.reset with ranges := [⟨.vacated, run.gaddr 1 0x100000, 0x20000⟩] } }

def inst (n : Nat) : State := on.put FALLOW_STATUS.INST n
def object7 (c0 c1 : Option FalCopy) : FalObj := ⟨7, 0, 64, shaLe (List.replicate 64 0), c0, c1⟩
def copyA (sb : Nat) : FalCopy := ⟨List.replicate 64 0, [sb]⟩
/-- Fallow with object 7 in the active slot, and its queue of one descriptor in Topsoil. -/
def fallow (d : List Nat) (new : Bool) : State :=
  { setWords ((((on.put FALLOW_STATUS.READY 1).put FALLOW_QBASE.BASE 16).put FALLOW_QBASE.LOG2N 4).put FALLOW_QPTR.TAIL 1) 65536 d with
    fallow := { FallowSt.reset with
      slot0 := ⟨[], [], [object7 (some (copyA 16)) (some (copyA 2064))]⟩, slot1 := if new then ⟨[], [], [object7 none none]⟩ else .empty } }
def readDesc : List Nat := [1 + 7 * 2 ^ 32, on.gaddr 1 0x1000, 64, 0]
def writeDesc : List Nat := [2 + 7 * 2 ^ 32, on.gaddr 1 0x1000, 64, 0]
def reading : State := { on with fallow := { FallowSt.reset with reads := [⟨3, on.gaddr 1 0x1000, 64, 0, List.replicate 64 1⟩] } }

/-- SERVE at work, with quota and pool for slot 3's request of 100 positions. -/
def serving : State :=
  { setWords ((((run.put SERVE_CTRL.EN 1).put SERVE_PTAB.MAXPAGES 4).put SERVE_PTAB.BASE 16).put TIER_QJOB_T.LIMIT 100 |>.put
      (TIER_QT.LIMIT 0) 100) (64 * 3 + 32) [7, 500, 100, 0] with
    serve := { ServeSt.reset with poolFree := [1, 2, 3] }
    lit := { Image.cleared with steptimes := [⟨0, 1024, 1048576, [1, 1, 1, 1, 1, 1], 1⟩] } }
def withSlot (v : SlotSt) : State := serving.knowSlot 3 v
def slotIn (st : Nat) : SlotSt := { SlotSt.free with st := st, prio := 2, limit := 500, stepPos := 100, reqTag := 7 }
def planned (st : Nat) : State :=
  { withSlot (slotIn st) with serve := { (withSlot (slotIn st)).serve with planNew := [⟨3, false, 0, 100, false, false⟩] } }
def fullPlan : List PlanEntry := (List.range 512).map fun r => ⟨3, false, r, 0, false, false⟩

/-- A plan with a slot in every row has no free one. -/
theorem freeRow_full (f : Nat → PlanEntry) (h : ∀ r, (f r).mb = false ∧ (f r).row = r) :
    freeRow ((List.range 512).map f) false = none := by
  refine List.find?_eq_none.2 fun r hr => ?_
  have h : ((List.range 512).map f).any (fun e => e.mb == false && e.row == r) = true :=
    List.any_eq_true.2 ⟨f r, List.mem_map.2 ⟨r, hr, rfl⟩, by simp [h r]⟩
  rw [h]; decide

def pageMove : PageMove := ⟨0, true, run.gaddr 1 0x100000, run.gaddr 2 0x100000⟩
def paging : State := withSlot { slotIn slotActive with move := some pageMove }
def dirty : State := { run.put SERVE_POOLCFG.PAGE_UNITS 1 with serve := { ServeSt.reset with poolDirty := [5] } }
def serveOp : MemOp := ⟨1, .serve false, 0, none, true, 0, 0, 0⟩
/-- A Pass of one row of micro-batch A that ends in results. -/
def passRow : PassSt := { pass5 with desc := (pass5.desc.set 32 1), template := 0 }
def checking : State :=
  { serving with
    sched := { SchedSt.reset with inflight := [passRow], entries := [serveOp] }
    serve := { serving.serve with slots := [(3, slotIn slotActive)], planNow := [⟨3, false, 0, 100, false, false⟩] } }

/-- A job of 64 bytes of this chip's Topsoil for two members that keep chunk 0. -/
def drillHeader (n : Nat) : List Nat := [n + 5 * 2 ^ 32, on.gaddr 1 0, 64, 0, 0, 0, 0, 0]
def drillEntry0 : List Nat := [2 ^ 6, on.gaddr 1 0x1000, 0, 0, 0, 0, 0, 0]
def jobAt (n : Nat) : State := setWords (on.put DRILL_JOB.BASE 16) 65536 (drillHeader n ++ drillEntry0 ++ drillEntry0)
def headOf (later : List (Nat × W64)) (credit : Nat) (catchUp : Option (Nat × Nat × Nat)) : DrillHead :=
  ⟨5, false, on.gaddr 1 0, 64, List.replicate 2 (drillEntry0.map (BitVec.ofNat 64)), [.pending, .pending], later, credit, 0, catchUp⟩
def heading (h : DrillHead) : State :=
  { (on.put DRILL_STATUS.ROLE 1).put DRILL_STATUS.STATE 1 with drill := ⟨some h, none⟩ }
def memWord : W64 := BitVec.ofNat 64 (2 ^ 6 + 2 ^ 29)
def memberOf (later : List (Nat × W64)) (want kept : Nat) (held : List Nat) (credit : Nat) : DrillMember :=
  ⟨5, 1, 0, 0, memWord :: (drillEntry0.drop 1).map (BitVec.ofNat 64), 0x180000, later, later, want, held, if held = [] then 0 else held.headD 0,
    credit, kept, [], false, false⟩
def drilling (d : DrillMember) : State := { on with drill := ⟨none, some d⟩ }

/-- Link 0 in a state of LINK_STATE with the torus role at port 0. -/
def linkIn (st : Nat) : State := (on.put (LINK_STATE.STATE 0) st).put (LINK_STATE.ROLE 0) 1
def frame0 (good nack : Bool) (fseq : BitVec 16) : Frame := { fseq := fseq, ack := 0, nack, pseq := 0, credits := 0, good, corrected := false, packets := [] }
def hello0 (verdict : BitVec 8) : HelloMsg := ⟨8, 0, 1, 1, 0, 0x10, 1, 0, verdict, 0, 1, 0⟩
def plan0 : Plan := ⟨0, 1, 0, 0, 0, 0, [], [], [], [], []⟩
/-- Link 0 has heard this hello, or rests on it. -/
def heard (st : Nat) (last basis : Option HelloMsg) : State :=
  { linkIn st with net := { NetSt.reset with plan := some plan0, links := [(0, { LinkSt.reset with lastHello := last, basis })] } }

/-- A slice descriptor of this chip alone with JOB 7, on a scrubbed chip. -/
def applying : State :=
  ((on.put LAMP_JOB.SCRUBBED 1).setReg 0xF0000 (BitVec.ofNat 64 (7 * 2 ^ 16 + 2 ^ 32 + 2 ^ 12))).setReg 0xF0018 1

def packet (vc op dst addr : Nat) : Packet :=
  ⟨BitVec.ofNat 20 dst, false, 0, BitVec.ofNat 3 vc, BitVec.ofNat 4 op, false, 1, 0, BitVec.ofNat 64 addr, 0, 9, 0, 0, [0], 0⟩
/-- Links 0 to 3 of the torus port toward chip 1 carry traffic. -/
def routed : State :=
  { (List.range 4).foldl (fun s l => ((s.put (LINK_STATE.STATE l) 3).put (LINK_STATE.ROLE l) 1).put (LINK_STATE.PORT l) 0) on with
    net := { NetSt.reset with inTable := [(0, 3), (1, 3), (2, 3), (3, 3)] } }

def waiting0 (mc : Bool) : State :=
  { on with net := { NetSt.reset with tx := [⟨2, 3, false, packet 3 1 0x100 0, mc, 0⟩] } }

/-- A READ on VC 7 from this chip itself whose tag verifies under its fabric key. -/
def sealedRead : Packet := { packet 7 2 0 0 with payload := [], gcmTag := 0xA388DDA4AA8CDEEF2A11C11903EB57AC }

def arrived (p : Packet) : State := { on with net := { NetSt.reset with delivered := [p] } }
def ownWrite (vc off : Nat) : Packet := packet vc 1 0 (on.gaddr 1 off)
def ownRead (vc off : Nat) : Packet := packet vc 2 0 (on.gaddr 1 off)

def answered (p : Packet) (r : Request) : State := { on with net := { NetSt.reset with delivered := [p], requests := [r] } }
def delta0 : Request := ⟨9, 5, .wardDelta, on.gaddr 1 0⟩

/-- Domain 4 off in ON mode on a part with everything else powered; one in AUTO; and domains pending. -/
def withPower (f : PowerSt → PowerSt) (s : State) : State := { s with power := f s.power }
def offBut (d : Nat) : State := on.put CANDLE_DSTAT.ON (2 ^ 24 - 1 - 2 ^ d)
/-- CANDLE_DOM as it stands, with another mode of domain `d`. -/
def domVal (s : State) (d mode : Nat) : W64 := withBits (s.reg 0x10010) (2 * d) 2 mode

/-- CAP 1,200 W, RAMP 100, FLOOR 600, FOLLOW 100. -/
def cap (w : Nat) : W64 := BitVec.ofNat 64 (w + 100 * 2 ^ 12 + 600 * 2 ^ 24 + 100 * 2 ^ 36)

/-- The governor at a tick with 800 W before the draw of the tick, in a hold or not, with a cap. -/
def governing (hold ov left : Nat) : State :=
  withPower (fun p => { p with ticked := true, peak := 160000, lvl := 80000, tgt := 80000, resetLow := false, overCap := ov, holdLeft := left })
    (((run.setReg 0x10000 (cap 1200)).put CANDLE_GOV.HOLD hold).put CANDLE_EVT.CAP_WRITES 1)

/-- A closed minute waits for its signature. -/
def minuteWaits (s : State) : State := withPower (fun p => { p with queue := [p.minute] }) (s.put LAMP_SEC.LFW_OK 1)

/-- RESET_N low with the part on, and a part asleep with RESET_N high. -/
def held : State := withPower (fun p => { p with resetLow := true, asleep := false, therm := false, cause := 3, warm := true }) on
def asleep : State :=
  withPower (fun p => { p with resetLow := false, asleep := true, therm := false })
    (((on.put CANDLE_WAKE.TIMER_MS 5).put CANDLE_WAKE.HOST_WAKE_EN 1).put CHIP_STRAPS.BRIDGE_EN 1)
def up : State := withPower (fun p => { p with resetLow := false, snuffed := false, asleep := false }) on

/-- A start in one of its stages. -/
def booting (n : Nat) : State := withPower (fun p => { p with boot := n, falStart := false }) (up.put FALLOW_STATUS.READY 1)

/-- Member `self` of a Ward group of three with one protected unit, in a Ward state. -/
def ward (self st : Nat) : State :=
  (((((((on.put WARD_GROUP.G 3).put WARD_GROUP.SELF self).put WARD_GROUP.MEMBER_1 1).put WARD_GROUP.MEMBER_2 2).setReg 0x110040
    (BitVec.ofNat 64 (1 + 2 ^ 26 + 2 ^ 52))).setReg 0x110020 (BitVec.ofNat 64 (16 + 2 ^ 26))).setReg 0x110028
    (BitVec.ofNat 64 (32 + 2 ^ 26))).put WARD_STATUS.STATE st
def withWard (f : WardSt → WardSt) (s : State) : State := { s with ward := f s.ward }

def cfg (i : Nat) (p : Nat) : WardCfg := ⟨i, p, 3, [0, 1, 2, 0, 0]⟩
/-- The group's slice of three: this chip is its first. -/
def grouped (self st : Nat) : State :=
  { ward self st with net := { NetSt.reset with slice := some ⟨0, 0, 0, 2, 0, 0, 7, 1, 0, false⟩ } }
def enabling : State := withWard (fun w => { w with cfgFrom := [cfg 1 1] }) ((grouped 0 0).put WARD_STATUS.BUSY 1)
def staged0 : Staged := ⟨1, 0, 0, 5⟩

/-- A part in service outside any slice, with its latch closed. -/
def served (s : State) : State := withPower (fun p => { p with resetLow := false, snuffed := false }) (s.put CHIP_STATUS.STAGE 4)
def latched (s : State) : State := withWard (fun w => { w with latch := true }) s


/-! ### The Field: plot 17, its Headland, elements, pipeline and generators -/

/-- A slot table of `n` bytes from its enabled entries. -/
def table (n : Nat) (l : List (Nat × Nat)) : List Byte :=
  (List.range n).map fun i => ((l.find? fun e => e.1 == i).map fun e => BitVec.ofNat 8 (0x80 + e.2)).getD 0
/-- Slot 0 sends input 7 to output 6 and input 4 to output 0; slot 1 sends unit 0 to unit 1. -/
def slotted : State :=
  { run with lit := { Image.cleared with
      furrow := [(34, { FurrowCfg.idle with slotIn := table 16 [(2, 3)], slotOut := table 16 [(0, 0)] }),
        (35, { FurrowCfg.idle with slotIn := table 16 [(3, 5)] })],
      headland := [(17, table 160 [(96, 7), (0, 4), (17, 0)])], stile := [(2, ⟨[], table 16 [(0, 5)]⟩)] } }
/-- Three tokens have gone over the circuit of unit 0 and been taken. -/
def returning : State := slotted.setQueue (furrowQ 17 1 5) { Queue.empty with out := 3, wires := 3 }

/-- Element `i` of unit 0 has operation `i + 1`: two inputs from IQ0 and IQ2, outputs to OQ0 and OQ1, control from IQ1. -/
def elemWord (i : Nat) : W64 :=
  let op := i + 1
  let two (b : Bool) (x : Nat) : Nat := if b then x else 0
  BitVec.ofNat 64 (op + 8 * (if 3 ≤ op then 1 else 0) + 32 + two (op = 3 ∨ op = 5) (2 ^ 12) + two (op ≠ 1 ∧ op ≠ 3) (2 * 2 ^ 20) +
    2 ^ 32 + two (op < 4) (2 * 2 ^ 36))
def element : State :=
  { run with lit := { Image.cleared with furrow := [(34, { FurrowCfg.idle with elems := (List.range 5).map elemWord })] } }
def ctl (v : Nat) : Token := ⟨mkHdr 1 .none 1 0xA, BitVec.ofNat 512 v, 0⟩
def fed (q : Nat) (t : Token) (s : State) : State := s.setQueue q { s.queue q with toks := (s.queue q).toks ++ [t], out := (s.queue q).out + 1 }
/-- Tokens on both inputs and a control value. -/
def fedAll (v : Nat) : State := fed (furrowQ 17 0 2) (token true) (fed (furrowQ 17 0 1) (ctl v) (fed (furrowQ 17 0 0) (token true) element))
/-- OQ0 without credits. -/
def full (s : State) : State := s.setQueue (furrowQ 17 0 8) { Queue.empty with out := 16 }

/-- A Pass whose stage 0 covers plot 17, with a far base at Topsoil 0x100000 and request row 0 active. -/
def passAll : PassSt :=
  let w (i v : Nat) (l : List W64) : List W64 := l.set i (BitVec.ofNat 64 v)
  { pass5 with desc := w 40 (1 + 32 + 2 ^ 10 + 2 ^ 14 + 2 ^ 18) (w 32 1 (w 16 2 (w 8 (run.gaddr 1 0x100000) (List.replicate 64 0)))) }
/-- Unit 0 of plot 17: A from IQ0, mask from IQ1, denominator from IQ2, results to OQ0 and status to OQ1; its stages are
SHUF, the last one with its Lantern when `lan`. -/
def unit0 (lan : Bool) (w : Nat) : FurrowCfg :=
  { FurrowCfg.idle with
      stages := List.replicate 5 3 ++ [BitVec.ofNat 64 (3 + (if lan then 2 ^ 22 else 0))], lantern := BitVec.ofNat 64 w
      port := BitVec.ofNat 64 (0x1F * 2 ^ 5 + 0x1F * 2 ^ 10 + 2 ^ 15 + 2 * 2 ^ 20 + 2 ^ 25 + 2 * 2 ^ 29) }
def piped (lan : Bool) (w : Nat) : State :=
  fed (furrowQ 17 0 0) (token true) { run with
    sched := { SchedSt.reset with inflight := [passAll] }
    lit := { Image.cleared with furrow := [(34, unit0 lan w)] } }
def lanes (r : LaneRef) : List LaneFeed := List.replicate 32 ⟨[r], [], .none⟩
def feed1 : FurrowFeed := lanes (.roleA 0) :: List.replicate 5 (lanes .prev)
def beat1 (rowE : Bool) : LBeat := ⟨[0x3FFF_8000_0000_0000_0000], 0, ⟨false, false, true, rowE⟩⟩
/-- Beats wait before the Lantern, with a mask token and a denominator. -/
def waiting (n : Nat) (w : Nat) : State :=
  fed (furrowQ 17 0 2) (token true) (fed (furrowQ 17 0 1) (token true)
    ((piped true w).setPipe 34 { PipeSt.clear with lin := List.replicate n (beat1 true) }))

/-- A descriptor of BF16 beats: 32 elements in level 0, one far tile line per step of level 1 under `side`. -/
def descWords (fmt kind side lines : Nat) (ext1 mask1 : Nat) : List W64 :=
  let order := ((List.range 6).map fun k => k * 8 ^ k).foldl (· + ·) 0
  [BitVec.ofNat 64 ((if kind = 3 then 1 else 32) + 64 * 2 ^ 24), BitVec.ofNat 64 ext1, 1, 1, 1, 1,
    BitVec.ofNat 64 (fmt + 64 * kind + 2 ^ 8 * order + 2 ^ 26 * order + 2 ^ 44 * side + 2 ^ 52 * mask1),
    BitVec.ofNat 64 (2 ^ 24 * (if kind = 3 then 2 else 0) + 2 ^ 48 * lines)]
/-- The generator AG0 of Hopper 34 with one binding, at walk state `st`. -/
def generator (d : List W64) (bind : Nat) (st : AgSt) : State :=
  ({ run with
      sched := { SchedSt.reset with inflight := [passAll] }
      lit := { Image.cleared with hopper := [(34, ⟨d, [BitVec.ofNat 64 bind, 0, 0, 0], [], []⟩)] } } : State).setAg 136 st
def walk (t far wait : Nat) : AgSt := { AgSt.idle with running := true, pseq := 5, t := t, far := far, wait := wait }
def near : State := generator (descWords 2 0 0 0 1 0) 1 (walk 0 0 0)
def farGen (far wait : Nat) : State := generator (descWords 2 0 2 1 2 0) (1 + 2 ^ 13) (walk 0 far wait)
def heldGen (s : State) : State := { s with sched := { s.sched with entries := [⟨1, .tile 136, 0, some 5, false, 0, 0, 0⟩] } }
def writer : State := generator (descWords 2 0 0 0 1 0) (3 + 2 ^ 10 * 5) (walk 0 0 0)
def tokFull : Token := ⟨mkHdr 0 ⟨false, false, true, true⟩ 32 2, 0, 0⟩
/-- One request row with a root and one child, of length 5. -/
def tree (si : Nat) : State :=
  let s := generator (descWords 0xB 3 0 0 2 3) (1 + 2 * 2 ^ 8 + 32 * 2 ^ 31 + 64 * 2 ^ 45) { walk 0 0 0 with si := si }
  let o := 34 * 2 ^ 20
  { s with seedbed := (s.seedbed.write 8 (o + 4096) (leBytes 4 (2 ^ 32 - 1) ++ leBytes 4 0 ++ leBytes 4 (2 ^ 32 - 2))).write 8 (o + 2048) (leBytes 8 5) }


/-! ### The Lamplighter, keys, BIST and repair -/

/-- The slice words name JOB 7 while LAST_JOB is 0. -/
def applying7 : State := run.setReg 0xF0000 (BitVec.ofNat 64 (2 ^ 6 + 7 * 2 ^ 16 + 2 ^ 32))

/-- LAMP_ARG0 and LAMP_ARG1: an own Topsoil address (byte 0 of Topsoil) and a value. -/
def args (a0 a1 : Nat) (s : State) : State := (s.put (LAMP_ARG.ARG 0) a0).put (LAMP_ARG.ARG 1) a1
def ownA : Nat := on.gaddr 1 0
def withLamp (f : LampSt → LampSt) (s : State) : State := { s with lamp := f s.lamp }
def plan5 : Plan := ⟨1, 5, 9, 0, 0, 0, [], [], [], [], []⟩
def scrubbed : State := on.put LAMP_JOB.SCRUBBED 1
def bridge : State := on.put CHIP_STRAPS.BRIDGE_EN 1

/-- A peer whose serial number no own number exceeds, with a key of zeros, and KEY messages from it with true tags. -/
def peer : PairKey := ⟨2 ^ 64 - 1, 0, 0, 0, 0, 0⟩
def paired (s : State) : State := { s with lamp := { s.lamp with pairs := [(rackIndex 0x100, peer)] } }
def fabricKey0 : KeyMsg := ⟨0, 0, 0, 2, 2, 0, 0, 129242910388479403112894475553417829681⟩
def linkKey0 : KeyMsg := ⟨7, 1, 0, 1, 2, 0, 0, 51113702940123170319152394375756852782⟩

/-- A BIST of four Topsoil units at unit 4096, saved at unit 16. -/
def bist (target : Nat) : State :=
  (((((((run.put STEP_STATUS.STATE 0).put BIST_CFG.TARGET target).put BIST_REGION.BASE 4096).put BIST_REGION.LEN 4).put BIST_SAVE.BASE 16).put
    BIST_SAVE.LEN 2708).put BIST_CFG.STRIPS 1)
/-- A list of no entries at SEQ 3, in Topsoil at 0x1000; its digest is that of SHA-384 over nothing. -/
def listAt (seq : Nat) : State :=
  setWords (on.put BIST_LIST.ADDR 0x1000) 0x1000 [0x50455242 + 2 ^ 32, seq, 0x3896AC51A760B038, 0x6AE3B1B17E32D94C, 0x4307BE1411B7FD21,
    0xDAE1F663BFC70C4C, 0xFB656FE7BFDE4E27, 0x5BB99848F1D21AD5]
def repEntry (w0 : Nat) : RepEntry := ⟨BitVec.ofNat 64 w0, 0⟩
def listing (e : RepEntry) : State := { on with bist := { on.bist with list0 := some ⟨1, [e]⟩, boot := some ⟨1, [e]⟩ } }
def tested (kind : Nat) : State := (run.put BIST_STATUS.STATE 2).put CHIP_RESTORE0.KIND kind
def ringFull : State := ((tested 1).put BIST_RPTR.HEAD 1).put BIST_RES.LOG2N 0


/-! ### Signed data

A part whose fused keys are known: the private key is 1, so that the public key is the base point, and the signatures were
made outside with per-message number 1. -/

def keyX : Nat := (g384.getD (0, 0)).1
def keyY : Nat := (g384.getD (0, 0)).2
def part3 : PartSt :=
  { PartSt.fused with serial := 3, integratorKeyId := 1, integratorKeyX := keyX, integratorKeyY := keyY, debugKeyId := 1
                      debugKeyX := keyX, debugKeyY := keyY, sundiorKeyX := keyX, sundiorKeyY := keyY }
def known : State := { on with part := part3 }

/-- Topsoil holds `bs` from byte 0 on. -/
def putTop (s : State) (bs : List Byte) : State := { s with topsoil := Mem.zero.pokes 64 0 bs }

theorem peek_putTop (s : State) (bs : List Byte) {a off n : Nat} (ha : s.locate a = .top off) (hr : topRange off n = true)
    (hl : off + n ≤ bs.length) : (putTop s bs).peek a n = (bs.drop off).take n := by
  have h1 : (putTop s bs).locate a = .top off := ha
  have h2 := Mem.read_pokes Mem.zero rfl 64 0 off n bs hl
  rw [Nat.zero_add] at h2
  rw [State.peek, h1]
  simp only [State.topPeek, hr, if_true]
  exact h2

theorem peek_putTop_whole (s : State) (bs : List Byte) {n : Nat} (ha : s.locate ownA = .top 0) (hr : topRange 0 n = true)
    (hl : bs.length = n) : (putTop s bs).peek ownA n = bs := by
  rw [peek_putTop s bs ha hr (by omega), List.drop_zero, List.take_of_length_le (by omega)]

/-- A plan of sequence number 5 with no record but the certificate of its rack key, a debug token for serial number 3 and
nonce 9, an image of number 9 with seven empty sections, an identity and an alias certificate of serial number 4, and the
words of a signature of nonce 0 and serial number 3. -/
@[irreducible] def planBytes : List Byte :=
  beBytes 9 0x52504c4e0100010105 ++ List.replicate 16 0 ++
  beBytes 32 0x300000000000001000000000000000001000000000000800200000000000001 ++ List.replicate 151 0 ++
  beBytes 56 0xcc2892aa334053786143547269acdb25e9e2a2e2ce4eb07b24d9fe5f7f9d5ee5d30118cbdecc8569743d91baf1db69960101000001000000 ++
  beBytes 10 0x80010000000000000001 ++ List.replicate 14 0 ++
  beBytes 48 0x98db5b45e5e1eaf59220b5c8d23da00c84ad3f6842490b2852836c7cdc689936efbcdf1a6707c22ef1407c034ee3a288 ++
  List.replicate 48 0 ++ beBytes 1 0x1 ++ List.replicate 15 0 ++
  beBytes 56 0x104aa87ca22be8b05378eb1c71ef320ad746e1d3b628ba79b9859f741e082542a385502f25dbf55296c3a545e3872760ab73617de4a9626 ++
  beBytes 56 0x2c6f5d9e98bf9292dc29f8f41dbd289a147ce9da3113b5f0b8c00a60b1ce1d7e819d7a431d7c90ea0e5faa87ca22be8b05378eb1c71ef320 ++
  beBytes 56 0xad746e1d3b628ba79b9859f741e082542a385502f25dbf55296c3a545e3872760ab72699cf6cd81109a6aa244e08d0d59fc38893ad76bcb4 ++
  beBytes 26 0xbe634b0d34a98b657326591198b3a5192ab54c70461366ceea55 ++ List.replicate 46 0 ++ beBytes 5 0x100000001 ++
  List.replicate 27 0 ++
  beBytes 56 0xaa87ca22be8b05378eb1c71ef320ad746e1d3b628ba79b9859f741e082542a385502f25dbf55296c3a545e3872760ab73720bc2c716d62ae ++
  beBytes 40 0x895d09bb32cca4779a8a6c343a4385f722505b4cae9c1fcfa2c2e4a1cc1fdc890db14b9b2a3f8ddb
@[irreducible] def imageBytes : List Byte :=
  beBytes 56 0x59524e590100010109000000000000000700000000000000c005000000000000070084039001000000030000000000004005000000000000 ++
  beBytes 1 0x1 ++ List.replicate 151 0 ++
  beBytes 56 0x44eaffa7d302fc4db6a8469884af8a8a6d9f5e7f57e18e88d21d277245624b1b40c1ab8bb6bb79881f19b06c6a2db22259524e5901000101 ++
  beBytes 49 0x9000000000000000700000000000000c00500000000000007008403900100000003000000000000400500000000000001 ++
  List.replicate 151 0 ++
  beBytes 56 0x44eaffa7d302fc4db6a8469884af8a8a6d9f5e7f57e18e88d21d277245624b1b40c1ab8bb6bb79881f19b06c6a2db22259524e5901000101 ++
  beBytes 49 0x9000000000000000700000000000000c00500000000000007008403900100000003000000000000400500000000000001 ++
  List.replicate 151 0 ++
  beBytes 56 0x44eaffa7d302fc4db6a8469884af8a8a6d9f5e7f57e18e88d21d277245624b1b40c1ab8bb6bb79881f19b06c6a2db2220100000000000000 ++
  beBytes 2 0x4005 ++ List.replicate 22 0 ++
  beBytes 56 0x38b060a751ac96384cd9327eb1b1e36a21fdb71114be07434c0cc7bf63f6e1da274edebfe76f65fbd51ad2f14898b95b0200000000000000 ++
  beBytes 2 0x4005 ++ List.replicate 22 0 ++
  beBytes 56 0x38b060a751ac96384cd9327eb1b1e36a21fdb71114be07434c0cc7bf63f6e1da274edebfe76f65fbd51ad2f14898b95b0300000000000000 ++
  beBytes 2 0x4005 ++ List.replicate 22 0 ++
  beBytes 56 0x38b060a751ac96384cd9327eb1b1e36a21fdb71114be07434c0cc7bf63f6e1da274edebfe76f65fbd51ad2f14898b95b0400000000000000 ++
  beBytes 2 0x4005 ++ List.replicate 22 0 ++
  beBytes 56 0x38b060a751ac96384cd9327eb1b1e36a21fdb71114be07434c0cc7bf63f6e1da274edebfe76f65fbd51ad2f14898b95b0500000000000000 ++
  beBytes 2 0x4005 ++ List.replicate 22 0 ++
  beBytes 56 0x38b060a751ac96384cd9327eb1b1e36a21fdb71114be07434c0cc7bf63f6e1da274edebfe76f65fbd51ad2f14898b95b0600000000000000 ++
  beBytes 2 0x4005 ++ List.replicate 22 0 ++
  beBytes 56 0x38b060a751ac96384cd9327eb1b1e36a21fdb71114be07434c0cc7bf63f6e1da274edebfe76f65fbd51ad2f14898b95b0700000000000000 ++
  beBytes 2 0x4005 ++ List.replicate 22 0 ++
  beBytes 48 0x38b060a751ac96384cd9327eb1b1e36a21fdb71114be07434c0cc7bf63f6e1da274edebfe76f65fbd51ad2f14898b95b ++
  List.replicate 16 0 ++ beBytes 5 0x100000001 ++ List.replicate 27 0 ++
  beBytes 56 0xaa87ca22be8b05378eb1c71ef320ad746e1d3b628ba79b9859f741e082542a385502f25dbf55296c3a545e3872760ab72dbf5cf3e57926e2 ++
  beBytes 40 0x972de1b5d9e991fc3183d89952c5beaa0a54fc92f3bbfb5e1ab6eda30eb0445b42835aa9e5605137
@[irreducible] def tokenBytes : List Byte :=
  beBytes 17 0x4442475405000000030000000000000009 ++ List.replicate 31 0 ++ beBytes 1 0x1 ++ List.replicate 207 0 ++
  beBytes 5 0x100000001 ++ List.replicate 27 0 ++
  beBytes 56 0xaa87ca22be8b05378eb1c71ef320ad746e1d3b628ba79b9859f741e082542a385502f25dbf55296c3a545e3872760ab7c9ede3df167edd55 ++
  beBytes 40 0x2b5ec0d9d9aef4ed29a3dc7f13e2b2dd35d0b0533ea37cd41ed7b4d290703987bcb2c2928081dc91
def identBytes : List Byte :=
  beBytes 56 0x4000000000000000100000000000000aa87ca22be8b05378eb1c71ef320ad746e1d3b628ba79b9859f741e082542a385502f25dbf55296c ++
  beBytes 56 0x3a545e3872760ab73617de4a96262c6f5d9e98bf9292dc29f8f41dbd289a147ce9da3113b5f0b8c00a60b1ce1d7e819d7a431d7c90ea0e5f ++
  List.replicate 304 0 ++
  beBytes 56 0xaa87ca22be8b05378eb1c71ef320ad746e1d3b628ba79b9859f741e082542a385502f25dbf55296c3a545e3872760ab7d200b9e82cc78abe ++
  beBytes 40 0xcf21d6f88bdd85a4e1ace997c76abfa377bec2773e32ae579742968683897e3ba02563421b7dd520
def aliasBytes : List Byte :=
  beBytes 56 0x4000000000000000100000000000000aa87ca22be8b05378eb1c71ef320ad746e1d3b628ba79b9859f741e082542a385502f25dbf55296c ++
  beBytes 56 0x3a545e3872760ab73617de4a96262c6f5d9e98bf9292dc29f8f41dbd289a147ce9da3113b5f0b8c00a60b1ce1d7e819d7a431d7c90ea0e5f ++
  List.replicate 48 0 ++
  beBytes 56 0xaa87ca22be8b05378eb1c71ef320ad746e1d3b628ba79b9859f741e082542a385502f25dbf55296c3a545e3872760ab76ec91c2a78095300 ++
  beBytes 40 0x5f57e13070f4899fcb3b3781cf2f94ab71ac33c1845d4c2fee40795b71c03d3d8ff7e2aabeed2a58
def hostWords : List Nat := [
  0x37058bbe22ca87aa, 0x74ad20f31ec7b18e, 0x989ba78b623b1d6e, 0x382a5482e041f759,
  0x6c2955bf5df20255, 0xb70a7672385e543a, 0xa203d851e19f990d, 0x4e48a63030308628,
  0xa632d722067076f, 0x289fca0ef32df6a6, 0x744828e072895783, 0xf1f14c0ebaabdf03]

def planOk : Plan := ⟨1, 5, 25372336932967550098215962412525998589692721487340553700925334226594580664757129354200794100097621033332990299668781, keyX, keyY, 1, [], [], [], [], []⟩
def pubPlan : Plan := { planOk with pubkeys := [⟨1, keyX, keyY⟩], links := [⟨4, 0, 0, 1, 3, 0, 0, 0, 0⟩] }

theorem readPlan_ok : readPlan part3 planBytes 768 = some planOk := by decide +kernel
/-- A chip that waits for a token with nonce 9. -/
def unlocking : State := { scrubbed with part := part3, lamp := { LampSt.reset with dbgNonce := some 9 } }
theorem tokenOk_true : (putTop unlocking tokenBytes).tokenOk tokenBytes = true := by decide +kernel
/-- A bridge with a plan and the first eleven words of the host's signature. -/
def hostWrites : State :=
  { (List.range 11).foldl (fun s k => s.put (LAMP_HSIG.SIG k) (hostWords.getD k 0)) bridge with
    part := part3, net := { NetSt.reset with plan := some planOk } }
/-- A chip with an alias key and a plan that names serial number 4, with no pairwise key and with one for that certificate. -/
def meets (l : KMap PairKey) : State :=
  { known with lamp := { LampSt.reset with aliasKey := some 1, pairs := l }, net := { NetSt.reset with plan := some pubPlan } }
/-- The image at byte 0 of Topsoil passes steps 1 to 9 as the state that a LOAD leaves reads it. -/
def loadable : State := ((meets []).put ROTATE_LOAD_ADDR.ADDR ownA).put ROTATE_LOAD_LEN.LEN 1472
def loadableBusy : State := loadable.darkClear.put ROTATE_STATUS.LOAD_STATE loadBusy

theorem headerCopy_putTop (s : State) (bs : List Byte) (k : Nat) (ha : s.locate (ownA + 256 * k) = .top (256 * k)) (hk : k < 3)
    (he : (bs.drop (256 * k)).take 256 = bs.take 256) (hl : 768 ≤ bs.length) :
    (putTop s bs).headerCopy ownA k = some (bs.take 256) := by
  have h1 : (putTop s bs).locate (ownA + 256 * k) = .top (256 * k) := ha
  have h2 : (putTop s bs).topsoil.badIn 64 (256 * k) 256 = [] := by
    show (Mem.zero.pokes 64 0 bs).badIn 64 (256 * k) 256 = []
    rw [Mem.badIn, Mem.bad_pokes]; rfl
  have h3 : topRange (256 * k) 256 = true := by
    have : ∀ k < 3, topRange (256 * k) 256 = true := by decide +kernel
    exact this k hk
  rw [State.headerCopy, State.linesBad, h1]
  simp only [h2, List.isEmpty_nil, Bool.not_true]
  rw [if_neg (by simp), peek_putTop _ _ ha h3 (by omega), he]

theorem loadOutcome_putTop (s : State) (bs h : List Byte) (n : Nat) (h0 : (putTop s bs).headerCopy ownA 0 = some h)
    (h1 : (putTop s bs).headerCopy ownA 1 = some h) (h2 : (putTop s bs).headerCopy ownA 2 = some h)
    (hp : (putTop s bs).peek ownA n = bs) :
    (putTop s bs).loadOutcome ownA n = loadChecks bs n (majority (some h) (some h) (some h))
      (fun key r v h => s.publisherOk (leNat key) r v h) s.stripBadMask s.stripOffMask s.compatNow := by
  rw [State.loadOutcome, h0, h1, h2, hp]; rfl

def okImage (e : Except LoadErr Image) : Bool :=
  match e with
  | .ok m => m.imageId == 9
  | .error _ => false
theorem loadChecks_ok :
    okImage (loadChecks imageBytes 1472 (majority (some (imageBytes.take 256)) (some (imageBytes.take 256)) (some (imageBytes.take 256)))
      (fun key r v h => loadableBusy.publisherOk (leNat key) r v h) loadableBusy.stripBadMask loadableBusy.stripOffMask
      loadableBusy.compatNow) = true := by decide +kernel

/-! ### The checks of well-formedness refuse what breaks them -/

def tok1 : Token := ⟨0, 1, 0⟩
def seg0 (counts kept : List (BitVec 16)) : Segment := ⟨0, 0, 0, counts, kept, []⟩
def emptyFrame (l : List (Packet × Bool)) : Frame := { frame0 true false 0 with packets := l }

/-- One ill-formed command for each check. -/
theorem test_illFormed_refused :
    ([.registerWrite .host 0 0 0, .registerWrite .host 65 0 0, .tokenArrival (.headland 0 4) tok1 clean4 false false,
      .furrowFire 0 false [], .furrowFire 0 false (List.replicate 6 []), .qans .host 0 0 257,
      .dispatchSegment (seg0 (List.replicate 8192 0) []), .combineSegment (seg0 [1] []), .patrolRead .topsoil (2 ^ 36) .clean false,
      .drillEntry ⟨0, 0⟩ [] (List.replicate 8 0) 0 [] false, .drillEntry ⟨0, 0⟩ (List.replicate 8 0) [] 0 [] false,
      .drillEntry ⟨0, 0⟩ (List.replicate 8 0) (List.replicate 8 0) 0 (List.replicate 64 (0, 0)) false,
      .dataFrame 0 (emptyFrame (List.replicate 10 (packet 3 1 0 0, false))), .idleFrame 0 (emptyFrame [(packet 3 1 0 0, false)]),
      .packetInject ⟨packet 3 0 0 0, false⟩, .packetInject ⟨{ packet 3 1 0 0 with payload := List.replicate 33 0 }, true⟩,
      .packetReceive 0 false (packet 3 7 0 0), .write (packet 3 2 0 0), .read (packet 3 1 0 0),
      .read { packet 3 2 0 0 with payload := [0] }, .readData (packet 3 2 0 0), .writeAck (packet 3 6 0 0), .refused (packet 3 5 0 0),
      .wardCfg ⟨0, 0⟩ 0 2 0 [0, 1], .wardCfg ⟨0, 0⟩ 0 6 0 [0, 1, 2, 3, 4, 5], .chainUnit ⟨0, 0⟩ 0 0 false [],
      .pair ⟨0, 0⟩ [] []] : List Instr).all (fun c => !c.wf) = true := by decide +kernel

/-- Well-formed commands of the same shapes. -/
theorem test_wellFormed :
    ([.registerWrite .host 8 0 0, .tokenArrival (.headland 0 4) (token true) clean4 false false, .qans .host 0 0 256,
      .furrowFire 17 false feed1, .dataFrame 0 (emptyFrame [(packet 3 1 0 0, false)]), .idleFrame 0 (emptyFrame []),
      .write (packet 3 1 0 0), .read { packet 3 2 0 0 with payload := [] }, .wardCfg ⟨0, 0⟩ 0 3 0 [0, 1, 2]] : List Instr).all
      (fun c => c.wf) = true := by decide +kernel

/-! ### The words and the queue -/

/-- No word spells a command (assumption 4), and a step takes the front command. -/
theorem test_noWord : decodeTableWord 64 0x1234 = none ∧ on.withFetchWord 64 0x1234 = on := ⟨rfl, rfl⟩
theorem test_step_order : ∀ t, step { on with pending := [.passIssue, .stepComplete] } = .next t → t.pending = [.stepComplete] := by
  intro t h; cases h; decide +kernel

/-! ### Worked examples of the spec and published vectors -/

/-- The example of R69: FP8 E4M3 pairs (0x7E, 0x7E), (0x7E, 0xFE), (0x01, 0x01) sum to 2^-18. -/
theorem test_dot_e4m3 :
    let v (x : Nat) : Option LaneVal := some ⟨0x3, x, none⟩
    dotStep 0 ⟨[v 0x7E, v 0x7E, v 0x01], [v 0x7E, v 0xFE, v 0x01], none⟩ = 0x3FED_0000_0000_0000_0000 := by decide +kernel
/-- The example of R69 with MXFP4 blocks of scales 0x80 and 0x7C. -/
theorem test_dot_mxfp4 :
    let v (s x : Nat) : Option LaneVal := some ⟨0x8, x, some s⟩
    dotStep 0 ⟨[v 0x80 0x3, v 0x80 0xF], [v 0x7C 0x7, v 0x7C 0x1], none⟩ = 0x3FFF_8000_0000_0000_0000 := by decide +kernel
/-- The slice example of R394: chip (0,2,1) of the slice with origin (3,0,0) and extents 2×4×2 has index 13. -/
theorem test_slice_index : Slice.index ⟨3, 0, 0, 1, 3, 1, 0, 0, 0, false⟩ (0 + 4 * 2 + 16 * 1) = 13 := by decide +kernel
/-- SHA-384 of "abc" (FIPS 180-4), and the tag of an empty message under a zero AES-256 key and IV (the GCM specification). -/
theorem test_sha384_abc :
    sha384Nat [0x61, 0x62, 0x63] =
      0xcb00753f45a35e8bb5a03d699ac65007272c32ab0eded1631a8b605a43ff5bed8086072ba1e7cc2358baeca134c825a7 := by decide +kernel
/-- The P-384 signature of "sample" with SHA-384 (RFC 6979, A.2.6) under its public key. -/
theorem test_ecdsa_sample :
    ecdsaVerify 0xEC3A4E415B4E19A4568618029F427FA5DA9A8BC4AE92E02E06AAE5286B300C64DEF8F0EA9055866064A254515480BC13
      0x8015D9B72D7D57244EA8EF9AC0C621896708A59367F9DFB9F54CA84B3F1C9DB1288B231C3AE0D4FE7344FD2533264720
      (sha384Nat [0x73, 0x61, 0x6D, 0x70, 0x6C, 0x65])
      0x94EDBB92A5ECB8AAD4736E56C691916B3F88140666CE9FA73D64C4EA95AD133C81A648152E44ACF96E36DD1E80FABE46
      0x99EF4AEB15F178CEA1FE40DB2603138F130E740A19624526203B6351D0A3A94FA329C145786E679E7B82C71A38628AC8 = true := by decide +kernel
theorem test_gcm_empty : gcmTag (keySchedule 0) 0 [] [] = 0x530f8afbc74536b9a963b4f1c4cb738b := by decide +kernel

/-! ### More states -/

set_option maxRecDepth 100000

/-- The leader has multicast ABANDON, and a member that has abandoned waits for the rest. -/
def abandonSent : State := { leader with sched := { SchedSt.reset with abandonMcast := true } }
def abandonedStep : State := { abandoning with sched := { SchedSt.reset with abandonedSent := true } }
/-- A fetch of the step in progress has not ended. -/
def fetchPending : State := { abandoning with sched := { SchedSt.reset with entries := [fetchOp] } }
/-- The run of AG0 of Hopper 34. -/
def agOf (s : State) : AgRun := (s.agRun 17 false 0).getD ⟨0, 0, 0, pass5, .ofWords [], .ofWords [], .idle⟩
/-- A full token waits for the writer, and the state once it is taken. -/
def fedWriter : State := { fed (hopperQ 17 0 8) tokFull writer with part := ⟨3, 0, 0, [], 0, 0, 0, 0, 0, 0, 0, 0⟩ }
def takenWriter : State := ((fedWriter.takeBeats (hopperQ 17 0 8) 1).map (·.2)).getD fedWriter
def heldFar : State := heldGen (farGen 0 1)
def agNear : AgRun := agOf near
def agFar2 : AgRun := agOf (farGen 2 0)
def agWait : AgRun := agOf (farGen 0 1)
def agWrite : AgRun := agOf writer
def agTree0 : AgRun := agOf (tree 0)
def agTree1 : AgRun := agOf (tree 1)
/-- A far write walk whose tile in slot 0 holds stored bytes, with and without its scoreboard entry. -/
def drainGen (far wait : Nat) : State :=
  generator (descWords 2 0 2 1 2 0) (3 + 2 ^ 10 * 5 + 2 ^ 13) { walk 1 far wait with stored0 := [0, 1, 5, 63] }
def drains : State := let s := heldGen (drainGen 0 1)
  { s with seedbed := s.seedbed.write 8 (34 * 2 ^ 20) [1, 2, 3, 4, 5, 6, 7, 8] }
def drained : State := drainGen 1 0
def farEnds : State := farGen 2 0
def nearFull : State := near.setQueue (furrowQ 17 0 16) { Queue.empty with out := 32 }
def treeBegins : State := tree 0
def treeGoesOn : State := tree 1
def treeFull : State := (tree 0).setQueue (hopperQ 17 0 4) { Queue.empty with out := 16 }
/-- The Pass marks the tree's row absent. -/
def treeAbsent : State := let s := tree 0
  { s with sched := { s.sched with inflight := [{ passAll with desc := passAll.desc.set 32 0 }] } }
def strayRefused : State := arrived (packet 1 6 0 0)
/-- A Field run of strip 0 that ends with an empty save area: its scan-in is refused. -/
def fieldTested : State := (tested 0).put CHIP_RESTORE1.STRIPS 1
/-- A Field run that a power hold delays. -/
def heldBist : State := (bist 0).put CANDLE_GOV.HOLD 1
def fallowStarts : State :=
  { withPower (fun p => { p with falStart := true }) up with bist := { BistSt.reset with list0 := none, list1 := none } }
/-- A catch-up of member 0 while member 1 is done. -/
def catchingHead : DrillHead :=
  { headOf [(1, 64)] 0 (some (0, 0, 0)) with results := [.pending, { DrillRes.pending with state := resDone }] }
def catching : State := heading catchingHead
def head2 : DrillHead := headOf [(1, 64)] 0 none
theorem catching_rest : ∀ (j : Nat) (q : DrillRes), j ≠ 0 → catchingHead.results[j]? = some q → q.state ≠ resPending
  | 0, _, h, _ => absurd rfl h
  | 1, q, _, h => by simp [catchingHead] at h; subst h; decide
  | n + 2, q, _, h => by simp [catchingHead] at h
def accepting : State := (homes 1).put DRILL_CTRL.ACCEPT 1
/-- A signed manifest of one object, at byte 0 of Topsoil. -/
@[irreducible] def manBytes : List Byte :=
  beBytes 17 0x464c4d4e01000140000000000000000001 ++
  List.replicate 15 0 ++
  beBytes 1 0x01 ++
  List.replicate 15 0 ++
  beBytes 48 0x88a055826c01736f6b15a25cf75905efd8a30d44d83535dab477220b520dad23c7c2c93eac2123f24f824d446efff6ea ++
  List.replicate 32 0 ++
  beBytes 9 0x010000000100000040 ++
  List.replicate 15 0 ++
  beBytes 56 0xc516aa8d3b457c636c6826937099c0d23a13f2c3701a388b3c8fe4bc2073281b0c4462610369884c4ababa8e97b6debe0000000000000000 ++
  beBytes 5 0x0100000001 ++
  List.replicate 27 0 ++
  beBytes 56 0xaa87ca22be8b05378eb1c71ef320ad746e1d3b628ba79b9859f741e082542a385502f25dbf55296c3a545e3872760ab7e539b0c70d042491 ++
  beBytes 40 0x33190b6ba0e1dd874a3f465d310e72800368b2531be51652895e80753092e6b9ebeb42f57fbc3860
def manifested : State :=
  putTop ((((meets []).put FALLOW_STATUS.INST instOpen).put FALLOW_MADDR.ADDR ownA).put FALLOW_MLEN.LEN 336) manBytes
def writing : State :=
  { (fallow writeDesc true).put FALLOW_STATUS.INST instLoading with fallow := { (fallow writeDesc true).fallow with atL2 := [(0, 1)] } }
def repairing : State := { fallow [] false with fallow := { (fallow [] false).fallow with repairs := [(7, false)] } }
def inHold : State := (on.put CHIP_STATUS.FIELD_IN_RESET 0).put CANDLE_GOV.HOLD 1
def quietRow : State := (piped false 0).setQueue (furrowQ 17 0 0) { Queue.empty with toks := [token false], out := 1 }
def fullPipe : State := full (piped false 0)
def nothingWaits : State := waiting 0 0
def fullLantern : State := full (waiting 1 0)
/-- A result waits for a Pass with its output conversion; without one, with one, and without credits. -/
def holding (s : State) : State := s.setPipe 34 { s.pipe 34 with held := some ([.ofT 0x3FFF_8000_0000_0000_0000], ⟨false, false, true, true⟩) }
def heldNoPass : State := { holding (piped false 0) with sched := SchedSt.reset }
def heldPass : State := (holding (piped false 0)).setQueue (furrowQ 17 0 0) .empty
def heldFull : State := full heldPass
/-- A unit outside the rectangles of every Pass. -/
def noPass : State := { piped false 0 with sched := SchedSt.reset }
/-- A row that drains, with and without credit. -/
def draining : State := (waiting 0 0x81).setPipe 34 { PipeSt.clear with drain := [(furrowQ 17 0 8, token true)] }
def drainingFull : State := full draining
def drainingTwo : State := (waiting 2 0x81).setPipe 34 { PipeSt.clear with drain := [(furrowQ 17 0 8, token true), (furrowQ 17 0 9, token true)], lin := [beat1 true, beat1 true] }
def statsWaits : State := waiting 1 0x1
def statsFull : State := full statsWaits
/-- Stage results before the Lantern: with and without the MASK and DEN tokens they join. -/
def joining : State := waiting 0 0x182
def noMask : State := (waiting 0 0x182).setQueue (furrowQ 17 0 1) .empty
/-- A binding of the Gleaner's Pass walks still. -/
def stillWalks : State := gleaning.setAg 136 { AgSt.idle with running := true, pseq := 3 }
/-- Under XMODE 1 the row comes by the Stile. -/
def gleanTok : State :=
  State.setQueue { gleaning with moe := { gleaning.moe with gleanA := some { glean0 with cfg := { layer0 with xmode := true } }, sowerA := none } }
    (stileQ 0 9) { Queue.empty with toks := [token true], out := 1 }
/-- Object 2 stands in a grant and moves out of it. -/
def reclaimingMove : State :=
  { (grant (setWords (homes 1) (4096 + 72) [toGrant, 64]) 0 1).put SUBSOIL_CFG.NCH 1 |>.put SUBSOIL_CFG.CH_GB 32 with
    harrow := { HarrowSt.reset with reclaims := [⟨2, run.gaddr 2 0x100000, 0, true⟩], ranges := [⟨.moving, toGrant, 64⟩] } }
theorem refusedCopy_plain : ∀ x y z, (streaming run refusedCopy).locate (chunkSrc refusedCopy).1 ≠ Loc.commons x y z := by
  have h : (streaming run refusedCopy).locate (chunkSrc refusedCopy).1 = .refused := by decide +kernel
  intro x y z; rw [h]; exact Loc.noConfusion
theorem copying_plain : ∀ x y z, copying.locate (chunkSrc (stream0 1 0x2000)).1 ≠ Loc.commons x y z := by
  have h : copying.locate (chunkSrc (stream0 1 0x2000)).1 = .top 0 := by decide +kernel
  intro x y z; rw [h]; exact Loc.noConfusion
/-- A copy to Seedbed. -/
def toSeed : StreamSt := { stream0 1 0x2000 with desc := (stream0 1 0x2000).desc.set 2 (BitVec.ofNat 64 (run.gaddr 0 0)) }
def seeding : State := streaming run toSeed
/-- Unit 0 of plot 17 drives its OQ0 in slot 15, and its Headland sends input 0 to output 6 in slot 0. -/
def drives : State :=
  { slotted with lit := { slotted.lit with
      furrow := [(34, { FurrowCfg.idle with slotOut := table 16 [(15, 0)] }), (36, { FurrowCfg.idle with slotIn := table 16 [(4, 1)] })],
      headland := [(17, table 160 [(96, 0)]), (18, table 160 [(2, 7)])] } }
def drivesOut : State := fed (furrowQ 17 0 8) (token true) drives
def drivesFull : State := drivesOut.setQueue (furrowQ 18 0 1) { Queue.empty with out := 64 }
/-- A return slot of unit 0. -/
def returningNow : State := { returning with field := { returning.field with cycle := 2 } }
def wrongTag : KeyMsg := { fabricKey0 with tag := 0 }
def joins : State := withLamp (fun l => { l with joining := true, keyWait := true }) (paired { leader with part := part3 })
def lateKey : State := withLamp (fun l => { l with joining := true }) (paired { leader with part := part3 })
def noToken : State := args ownA 0 scrubbed
def badHostArg : State := args 1 0 bridge
def lastWord : W64 := BitVec.ofNat 64 (hostWords.getD 11 0)
def plan2 : Plan := { planOk with rack := 2 }
def plan6 : Plan := { planOk with seq := 6 }
/-- The plan at byte 0 of Topsoil, on a chip that stores another plan or none. -/
def planFor (o : Option Plan) : State := putTop { args ownA 768 known with net := { NetSt.reset with stored := o } } planBytes
def otherRack : State := planFor (some plan2)
def older : State := planFor (some plan6)
def firstPlan : State := planFor none
def tokenHere : State := putTop (args ownA 384 unlocking) tokenBytes
theorem plan_read (o : Option Plan)
    (hl : ({ args ownA 768 known with net := { NetSt.reset with stored := o } } : State).locate ownA = .top 0) :
    readPlan (planFor o).part ((planFor o).peek ((planFor o).get (LAMP_ARG.ARG 0)) ((planFor o).get (LAMP_ARG.ARG 1)))
      ((planFor o).get (LAMP_ARG.ARG 1)) = some planOk := by
  have h0 : (planFor o).get (LAMP_ARG.ARG 0) = ownA := by
    show (args ownA 768 known).get (LAMP_ARG.ARG 0) = ownA; decide +kernel
  have h1 : (planFor o).get (LAMP_ARG.ARG 1) = 768 := by
    show (args ownA 768 known).get (LAMP_ARG.ARG 1) = 768; decide +kernel
  have h2 : (planFor o).peek ownA 768 = planBytes := peek_putTop_whole _ _ hl (by decide +kernel) (by decide +kernel)
  rw [h0, h1, h2]; exact readPlan_ok
theorem token_reads : tokenHere.tokenOk (tokenHere.peek (tokenHere.get (LAMP_ARG.ARG 0)) 384) = true := by
  have h0 : tokenHere.get (LAMP_ARG.ARG 0) = ownA := by
    show (args ownA 384 unlocking).get (LAMP_ARG.ARG 0) = ownA; decide +kernel
  rw [h0, tokenHere, peek_putTop_whole _ _ (by decide +kernel) (by decide +kernel) (by decide +kernel)]
  exact tokenOk_true
/-- A hello that agrees with the plan's record of the link. -/
def helloAgrees : State :=
  { heard linkHello (some (hello0 3)) none with
    part := part3
    net := { (heard linkHello (some (hello0 3)) none).net with plan := some { plan0 with links := [⟨3, 0, 0, 1, 8, 0, 0, 0, 0⟩] } } }
def replaying : State := { linkIn linkUp with net := { NetSt.reset with links := [(0, { LinkSt.reset with replay := [frame0 true false 1] })] } }
def nackFrame : Frame := frame0 true true 0
def boardWaits : State := { run with sched := { SchedSt.reset with waiting := [op9] } }
def dom4To3 : W64 := domVal on 4 3
def dom4Off : W64 := domVal on 4 domOff
def closing (d : Nat) : State := withPower (fun p => { p with closing := [d] }) on
def closing22 : State := closing 22
def closing23 : State := closing 23
theorem on_pends (d : Nat) (h : on.domPend d = true) : 4 ≤ d ∧ d ≤ 11 ∨ d = 23 := by
  have h0 : on.get CANDLE_DSTAT.PEND = 0 := by decide +kernel
  rw [State.domPend, h0, Nat.zero_div] at h
  cases h
/-- Chip 0 was READY with image 8. -/
def otherImage : State := { leader with rot := { RotSt.reset with readies := [⟨0, 1, 8, 0, false⟩] } }
def decided1 : State := { readyAt1 with rot := { readyAt1.rot with decided := true } }
/-- Every row of micro-batch A is taken, and the request of slot 3 is for micro-batch A. -/
def crowded : State := setWords { serving with serve := { serving.serve with planNew := fullPlan } } (64 * 3 + 32) [7 + 2 ^ 38, 500, 100, 0]
def ended : State := planned slotEnded
def endedMoving : State := withSlot { slotIn slotEnded with freeIn := some 1 }
/-- A boundary between the commit of its step and the begin of the next. -/
def working : State := { serving.put STEP_STATUS.STATE 2 with sched := { serving.sched with committed := true } }
/-- Slot 3 active: frozen in a plan, and cancelled in none. -/
def pausable (cancelled : Bool) (now : List PlanEntry) : State :=
  { withSlot { slotIn slotActive with cancelled := cancelled } with
    serve := { (withSlot { slotIn slotActive with cancelled := cancelled }).serve with planNow := now } }
def frozen : State := pausable false [⟨3, false, 0, 100, false, false⟩]
def dropped : State := pausable true []
/-- A slice of this chip and the one before it. -/
def applying1 : State := (applying.setReg 0xF0000 (BitVec.ofNat 64 (2 ^ 6 + 2 ^ 12 + 7 * 2 ^ 16 + 2 ^ 32))).put ROUTE_SELF.XYZ 1
def shortRow : State := { sowing with moe := { sowing.moe with sowerA := some { sower0 with cfg := { layer0 with e := 5 } } } }
/-- Expert 0 has its cold copy beyond the end of Topsoil, and in Fallow as object 7. -/
def refusedFetch : State := setWords sowing 8192 [0, run.gaddr 1 (2 ^ 41)]
def falSource : State := setWords sowing 8192 [2 ^ 32, 7]
def falFetch : State :=
  { falSource.put FALLOW_STATUS.READY 1 with fallow := { FallowSt.reset with slot0 := ⟨[], [], [object7 (some (copyA 16)) (some (copyA 2064))]⟩ } }
theorem shortRow_plain : ∀ x y z, shortRow.locate 0 ≠ Loc.commons x y z := by
  have h : shortRow.locate 0 = .seedbed 0 := by decide +kernel
  intro x y z; rw [h]; exact Loc.noConfusion
/-- A control token of two values. -/
def ctl2 (v : Nat) : Token := ⟨mkHdr 1 .none 2 0xA, BitVec.ofNat 512 v, 0⟩
def fedTwo (v : Nat) : State := fed (furrowQ 17 0 2) (token true) (fed (furrowQ 17 0 1) (ctl2 v) (fed (furrowQ 17 0 0) (token true) element))
def fedTwo0 : State := fedTwo 0
def fedTwo15 : State := fedTwo 15
def fed15 : State := fedAll 15
def flushing : State := { run with sched := { SchedSt.reset with flushing := true }, ward := { WardSt.reset with unacked := [⟨0, 1, 0, 0, 0⟩] } }
def ringFits : State := { run with sched := { SchedSt.reset with ringWait := true }, serve := { ServeSt.reset with sheaf := [⟨0, 0, 0, 0, 0, []⟩] } }
/-- A boundary whose record waits for ring space: it fits, and it does not. -/
def ringBoundary : State :=
  { run.put STEP_STATUS.STATE 2 with sched := { SchedSt.reset with committed := true, flushedSent := true, ringWait := true }
                                     serve := { ServeSt.reset with sheaf := [⟨0, 0, 0, 0, 0, []⟩] } }
/-- A ring of one unit with a record in it. -/
def ringTaken : State := (ringBoundary.put SERVE_RPTR.HEAD 1).put SERVE_RING.LOG2N 0
def subReady : State := withPower (fun p => { p with resetLow := false }) (on.put SUBSOIL_STATUS.READY 1)
def members : List (BitVec 8) := [0, 1, 2, 0, 0]
def unitBytes : List Byte := List.replicate 65536 0
def initing : State := (grouped 0 1).put WARD_STATUS.BUSY 1

/-! ### Witnesses: operands and a state that meet the hypotheses of every clause, statement by statement -/

theorem witness_StepRunsFrontCommand :
    (∃ (c : Instr) (rest : List Instr) (s : State), s.pending = c :: rest) ∧
    (∃ (s : State), s.pending = [] ∧ s.domOn 22 = false) ∧
    (∃ (s : State), s.pending = [] ∧ s.domOn 22 = true) :=
  ⟨⟨(Instr.load ⟨m, false⟩), [Instr.passIssue], { on with pending := [(Instr.load ⟨m, false⟩), Instr.passIssue] },
      by decide +kernel⟩,
    ⟨State.reset, by decide +kernel⟩,
    ⟨on, by decide +kernel⟩⟩

theorem witness_EveryStepKeepsInvariant :
    (∃ (s t : State), Machine.Inv s ∧ step s = .next t) :=
  ⟨State.reset, _, by unfold Machine.Inv; decide +kernel, rfl⟩

theorem witness_EveryCommandAnswers :
    (∃ (c : Instr) (s : State) (src : Source) (off lvl : Nat) (val : W64), controlWrite c = some (src, off, lvl, val) ∧
      carriesMore c = false ∧ Takes (asWritten c s) src off lvl) ∧
    (∃ (s : State) (src : Source) (off : Nat) (val : W64), listed off = true ∧ off % 8 = 0 ∧ (off < 1376256 ∨ 2097152 ≤ off) ∧
      off < 4194304 ∧ Takes s src off (s.levelFor off val)) :=
  ⟨⟨Instr.plotCntClr (Source.lamp) 5, dirty, lampSrc, 2117656, 1, 1, by decide +kernel⟩,
    ⟨dirty, Source.lamp, 0, 0, by decide +kernel⟩⟩

theorem witness_ControlWritesRefused :
    (∃ (c : Instr) (s : State) (src : Source) (off lvl : Nat) (val : W64),
      let s : State := asWritten c s
      controlWrite c = some (src, off, lvl, val) ∧ s.level src < lvl) ∧
    (∃ (c : Instr) (s : State) (src : Source) (off lvl : Nat) (val : W64),
      let s : State := asWritten c s
      controlWrite c = some (src, off, lvl, val) ∧ lvl ≤ s.level src ∧ s.waitsFor off = true) ∧
    (∃ (c : Instr) (s : State) (src : Source) (off lvl : Nat) (val : W64),
      let s : State := asWritten c s
      controlWrite c = some (src, off, lvl, val) ∧ lvl ≤ s.level src ∧ s.waitsFor off = false ∧ s.gatedAt off = true) :=
  ⟨⟨Instr.plotCntClr (Source.host) 5, on, Source.host, 2117656, 1, 1, by decide +kernel⟩,
    ⟨Instr.qans (Source.lamp) 1 2 3, State.reset, lampSrc, 262320, 1, 6422529, by decide +kernel⟩,
    ⟨Instr.plotCntClr (Source.lamp) 5, (State.put on CANDLE_DSTAT.ON 4194305), lampSrc, 2117656, 1, 1, by decide +kernel⟩⟩

theorem witness_ErrorRecord :
    (∃ (s : State), s.domOn 22 = false) ∧
    (∃ (s : State), s.domOn 22 = true ∧ idxSub 32 (s.get ERRLOG_PTR.HEAD) (s.get ERRLOG_PTR.TAIL) ≠ 256) ∧
    (∃ (s : State), s.domOn 22 = true ∧ idxSub 32 (s.get ERRLOG_PTR.HEAD) (s.get ERRLOG_PTR.TAIL) = 256) :=
  ⟨⟨State.reset, by decide +kernel⟩,
    ⟨on, by decide +kernel⟩,
    ⟨(State.put on ERRLOG_PTR.HEAD 256), by decide +kernel⟩⟩

theorem witness_RegisterWriteStores :
    (([0x40020, 0x40028, 0x40030, 0x40038, 0x40060, 0x40068, 0x40070, 0x40078, 0x400A0, 0x400C0, 0x400D8, 0x400E0, 0x400E8,
      0x400F0, 0x400F8, 0x50010, 0x50018, 0x50028, 0x50048, 0x50050, 0x60018, 0x60020, 0x80010, 0x80018, 0x80030, 0x80038,
      0xE0008, 0xE0020, 0x100010, 0x100018, 0x100020, 0x110030, 0x1100A0, 0x120008, 0x120010].all fun off => (findReg
      off).isSome && decide (Takes on m off 1)) = true) :=
  by decide +kernel

theorem witness_RegisterWriteElsewhere :
    (∃ (size off : Nat), off < 4194304 ∧ (size ≠ 8 ∨ off % 8 ≠ 0)) ∧
    (∃ (off : Nat), off < 4194304 ∧ off % 8 = 0 ∧ (off < 1376256 ∨ 2097152 ≤ off) ∧ listed off = false) ∧
    (∃ (s : State) (src : Source) (off dst : Nat), off < 4194304 ∧ off % 8 = 0 ∧ dst < 64 ∧ s.chipAt dst ≠ s.self ∧
      s.level src < 2) ∧
    (∃ (s : State) (src : Source) (off dst : Nat), off < 4194304 ∧ off % 8 = 0 ∧ dst < 64 ∧ s.chipAt dst ≠ s.self ∧
      2 ≤ s.level src) :=
  ⟨⟨1376256, 0, by decide +kernel⟩,
    ⟨1351424, by decide +kernel⟩,
    ⟨on, Source.host, 0, 1, by decide +kernel⟩,
    ⟨on, Source.lamp, 0, 1, by decide +kernel⟩⟩

theorem witness_StepControl :
    (∃ (s : State) (src : Source) (val : W64), Takes s src 0x40000 1 ∧ val &&& 7 = 0) ∧
    (∃ (s : State) (src : Source) (val : W64), Takes s src 0x40000 1 ∧ val &&& 13 = 0) ∧
    (∃ (s : State) (src : Source) (val : W64), Takes s src 0x40000 1 ∧ val &&& 11 = 0 ∧ (s.stepState = stepRunning ∨
      s.stepState = stepBoundary) ∧ s.sched.descHalt = false ∧ (s.sched.flushedSent = false ∨ s.sched.committed = true)) ∧
    (∃ (s : State) (src : Source) (val : W64), Takes s src 0x40000 1 ∧ val &&& 11 = 0 ∧ (s.stepState = stepRunning ∨
      s.stepState = stepBoundary) ∧ s.sched.descHalt = false ∧ s.sched.flushedSent = true ∧ s.sched.committed = false) ∧
    (∃ (s : State) (src : Source) (val : W64), Takes s src 0x40000 1 ∧ val &&& 11 = 0 ∧ s.stepState = stepHalted) ∧
    (∃ (s : State) (src : Source) (val : W64), Takes s src 0x40000 1 ∧ val &&& 14 = 0 ∧ s.stepState = stepStopped ∧
      s.get LAMP_JOB.DRAINED = 1 ∧ s.sched.chargeNext = none ∧ s.sched.heldAbandon = none) ∧
    (∃ (s : State) (src : Source) (val : W64), Takes s src 0x40000 1 ∧ val &&& 14 = 0 ∧ s.stepState ≠ stepStopped ∧
      s.get LAMP_JOB.DRAINED = 0) :=
  ⟨⟨run, Source.lamp, 0, by decide +kernel⟩,
    ⟨run, Source.lamp, 0, by decide +kernel⟩,
    ⟨run, Source.lamp, 0, by decide +kernel⟩,
    ⟨{ run with sched := { SchedSt.reset with flushedSent := true } }, Source.lamp, 0, by decide +kernel⟩,
    ⟨(State.put run STEP_STATUS.STATE 4), Source.lamp, 0, by decide +kernel⟩,
    ⟨on, Source.lamp, 0, by decide +kernel⟩,
    ⟨(State.put run LAMP_JOB.DRAINED 0), Source.lamp, 0, by decide +kernel⟩⟩

theorem witness_PassIssue :
    (∃ (s : State) (q : Nat),
      let i : Nat := s.get (STEP_QHEAD.ISSUE q)
      let d : List W64 := s.descAt q i
      q < 4 ∧ s.issueOpen = true ∧ s.queueOpen q = true ∧ (∀ (p : Nat), p < q → s.queueOpen p = false) ∧
        descRefused s.lit.passes d = true ∧ s.sched.flushedSent = false) ∧
    (∃ (s : State) (q : Nat) (r : List W64 × Nat × Nat × Bool),
      let i : Nat := s.get (STEP_QHEAD.ISSUE q)
      let d : List W64 := s.descAt q i
      q < 4 ∧ s.issueOpen = true ∧ s.queueOpen q = true ∧ (∀ (p : Nat), p < q → s.queueOpen p = false) ∧
        descRefused s.lit.passes d = false ∧ s.runOf d = some r ∧ s.mayIssue r.fst = true ∧ s.engineRefuses r.fst = false) ∧
    (∃ (s : State) (q : Nat) (r : List W64 × Nat × Nat × Bool),
      let i : Nat := s.get (STEP_QHEAD.ISSUE q)
      let d : List W64 := s.descAt q i
      q < 4 ∧ s.issueOpen = true ∧ s.queueOpen q = true ∧ (∀ (p : Nat), p < q → s.queueOpen p = false) ∧
        descRefused s.lit.passes d = false ∧ s.runOf d = some r ∧ s.mayIssue r.fst = false ∧ ∀ (p : Nat), p < 4 → q < p →
        s.queueOpen p = false) :=
  ⟨⟨refusing, 0, by decide +kernel⟩,
    ⟨issuing, 0, run0, by decide +kernel⟩,
    ⟨{ issuing with sched := (State.sched flying) }, 0, run0, by decide +kernel⟩⟩

theorem witness_PassCompletion :
    (∃ (s : State) (n : BitVec 16) (p : PassSt), s.get CANDLE_GOV.HOLD = 0 ∧
      List.find? (fun (p : PassSt) => p.pseq == n.toNat) s.sched.inflight = some p ∧ s.passDone p.pseq = true) ∧
    (∃ (s : State) (n : BitVec 16), (s.sched.inflight.any fun (p : PassSt) => p.pseq == n.toNat) = true ∧
      s.stepState = stepRunning ∧ s.sched.descHalt = false ∧ s.sched.flushedSent = false) ∧
    (∃ (s : State) (n : Nat) (o : MemOp), s.get CANDLE_GOV.HOLD = 0 ∧
      List.find? (fun (o : MemOp) => o.ticket == n) s.sched.waiting = some o ∧ s.boardBlocks o = false) :=
  ⟨⟨flying, 5, pass5, by decide +kernel⟩,
    ⟨flying, 5, by decide +kernel⟩,
    ⟨boardWaits, 9, op9, by decide +kernel⟩⟩

theorem witness_Queries :
    (∃ (s : State) (q : Query) (c : Nat), List.find? (fun (q : Query) => q.core.isNone) s.outstanding = some q ∧
      s.idleCore = some c) ∧
    (∃ (s : State) (i : BitVec 4) (m : Bool), Takes s (Source.core i m) 0x400B0 1) ∧
    (∃ (s : State) (i : BitVec 4) (m : Bool), Takes s (Source.core i m) 0x400B0 1 ∧ s.coreQuery i.toNat = none) ∧
    (∃ (s : State) (i : BitVec 4) (m : Bool) (n : BitVec 16) (b : BitVec 4) (q : Query), Takes s (Source.core i m) 0x400B0 1 ∧
      List.find? (fun (q : Query) => q.qid == n.toNat && q.core == some i.toNat) s.sched.queries = some q ∧
      s.coreQuery i.toNat = some n.toNat ∧ q.outstanding = true ∧ b.toNat ≤ q.nbM1 ∧
      ∀ (mb : Bool) (w : SowerSt), s.sower mb = some w → w.qid ≠ some n.toNat) ∧
    (∃ (s : State) (n : BitVec 16) (q : Query), List.find? (fun (q : Query) => q.qid == n.toNat) s.outstanding = some q ∧
      ∀ (mb : Bool) (w : SowerSt), s.sower mb = some w → w.qid ≠ some n.toNat) ∧
    (∃ (s : State) (i : BitVec 4), (s.coreQuery i.toNat).isSome = true ∧ s.get WARD_CORE.STUCK / 2 ^ i.toNat % 2 = 0) :=
  ⟨⟨asking, (query2 (none)), 4, by decide +kernel⟩,
    ⟨asking, 0, false, by decide +kernel⟩,
    ⟨asking, 0, false, by decide +kernel⟩,
    ⟨asked, 4, false, 2, 0, (query2 (some 4)), by decide +kernel⟩,
    ⟨asking, 2, (query2 (none)), by decide +kernel⟩,
    ⟨asked, 4, by decide +kernel⟩⟩

theorem witness_StepBoundary :
    (∃ (s : State), s.stepComplete = true ∧ s.get CANDLE_GOV.HOLD = 0) ∧
    (∃ (s : State), s.sched.flushing = true ∧ s.ward.unacked = []) ∧
    (∃ (s : State), s.sched.flushing = true ∧ s.ward.unacked ≠ []) ∧
    (∃ (s : State) (h : MsgHdr) (step : W64), s.msgOk h Sender3.fromLeader = true ∧ s.stepState = stepBoundary ∧
      s.sched.flushedSent = true ∧ s.sched.committed = false ∧ s.sched.resetRejoin = false ∧
      BitVec.toNat step = s.get STEP_NUM.STEP) ∧
    (∃ (s : State) (h : MsgHdr) (step : W64), s.msgOk h Sender3.fromLeader = true ∧ s.stepState = stepBoundary ∧
      s.sched.flushedSent = true ∧ s.sched.committed = false ∧ s.sched.resetRejoin = false ∧
      BitVec.toNat step ≠ s.get STEP_NUM.STEP) ∧
    (∃ (s : State) (f : SheafSt), s.serve.sheaf = [f] ∧ s.sheafFits f = true ∧ s.boundaryWork = false) ∧
    (∃ (s : State) (f : SheafSt), s.serve.sheaf = [f] ∧ s.sheafFits f = true ∧ s.boundaryWork = true ∧
      s.sched.ringWait = true ∧ s.serve.held = [] ∧ s.haltsHere = false ∧ s.sched.chargeNext = none ∧
      s.sched.heldAbandon = none) ∧
    (∃ (s : State) (f : SheafSt) (rest : List SheafSt), s.serve.sheaf = f :: rest ∧ s.sheafFits f = false) ∧
    (∃ (s : State), s.sched.flushedSent = true ∧ s.sched.committed = false ∧ s.get WARD_STATUS.STATE = 0) ∧
    (∃ (s : State), s.sched.flushedSent = true ∧ s.sched.committed = false ∧ s.get WARD_STATUS.STATE = 2) :=
  ⟨⟨run, by decide +kernel⟩,
    ⟨{ run with sched := { SchedSt.reset with flushing := true } }, by decide +kernel⟩,
    ⟨flushing, by decide +kernel⟩,
    ⟨bound, hdr, 0, by decide +kernel⟩,
    ⟨bound, hdr, 1, by decide +kernel⟩,
    ⟨ringFits, ⟨0, 0, 0, 0, 0, []⟩, by decide +kernel⟩,
    ⟨ringBoundary, ⟨0, 0, 0, 0, 0, []⟩, by decide +kernel⟩,
    ⟨ringTaken, ⟨0, 0, 0, 0, 0, []⟩, [], by decide +kernel⟩,
    ⟨bound, by decide +kernel⟩,
    ⟨(State.put bound WARD_STATUS.STATE 2), by decide +kernel⟩⟩

theorem witness_LeaderDecides :
    (∃ (s : State) (h : MsgHdr) (step : W64) (k : Nat),
      let l : List (Nat × Nat) := List.filter (fun (e : Nat × Nat) => e.fst != k) s.sched.flushedFrom ++ [(k, BitVec.toNat
        step)]
      let whole : Bool := (List.range s.sliceSize).all fun (i : Nat) => l.any fun (e : Nat × Nat) => e.fst == i
      s.msgOk h Sender3.toLeader = true ∧ s.indexOf h.src.toNat = some k ∧ s.sched.abandonMcast = false ∧
        s.sched.commitSent = false ∧ whole = false) ∧
    (∃ (s : State) (h : MsgHdr) (step : W64) (k : Nat),
      let l : List (Nat × Nat) := List.filter (fun (e : Nat × Nat) => e.fst != k) s.sched.flushedFrom ++ [(k, BitVec.toNat
        step)]
      let n : Nat := s.get STEP_NUM.STEP
      let whole : Bool := (List.range s.sliceSize).all fun (i : Nat) => l.any fun (e : Nat × Nat) => e.fst == i
      s.msgOk h Sender3.toLeader = true ∧ s.indexOf h.src.toNat = some k ∧ s.sched.abandonMcast = false ∧
        s.sched.commitSent = false ∧ whole = true ∧ (l.all fun (e : Nat × Nat) => e.snd == n) = true) ∧
    (∃ (s : State) (h : MsgHdr) (step : W64) (k : Nat),
      let l : List (Nat × Nat) := List.filter (fun (e : Nat × Nat) => e.fst != k) s.sched.flushedFrom ++ [(k, BitVec.toNat
        step)]
      let n : Nat := s.get STEP_NUM.STEP
      let whole : Bool := (List.range s.sliceSize).all fun (i : Nat) => l.any fun (e : Nat × Nat) => e.fst == i
      s.msgOk h Sender3.toLeader = true ∧ s.indexOf h.src.toNat = some k ∧ s.sched.abandonMcast = false ∧
        s.sched.commitSent = false ∧ whole = true ∧ (l.all fun (e : Nat × Nat) => e.snd == n) = false) ∧
    (∃ (s : State) (h : MsgHdr), s.msgOk h Sender3.toLeader = false) ∧
    (∃ (s : State), s.leads = true ∧ s.sched.bndWait = true) :=
  ⟨⟨leader, hdr1, 0, 1, by decide +kernel⟩,
    ⟨dirty, hdr, 0, 0, by decide +kernel⟩,
    ⟨dirty, hdr, 1, 0, by decide +kernel⟩,
    ⟨leader, hdr, by decide +kernel⟩,
    ⟨{ leader with sched := { SchedSt.reset with bndWait := true } }, by decide +kernel⟩⟩

theorem witness_Abandonment :
    (∃ (s : State) (h : MsgHdr) (step : W64), s.msgOk h Sender3.inSlice = true ∧ s.leads = true ∧
      s.sched.abandonMcast = false ∧ s.sched.commitSent = false ∧ s.stepState = stepRunning ∧
      BitVec.toNat step = s.get STEP_NUM.STEP) ∧
    (∃ (s : State) (h : MsgHdr) (step : W64), s.msgOk h Sender3.inSlice = true ∧ s.leads = false ∧ h.src.toNat = s.leaderAt ∧
      s.stepState = stepRunning ∧ BitVec.toNat step = s.get STEP_NUM.STEP) ∧
    (∃ (s : State) (h : MsgHdr), s.msgOk h Sender3.inSlice = true ∧ s.leads = false ∧ h.src.toNat ≠ s.leaderAt) ∧
    (∃ (s : State), s.stepPending = true) ∧
    (∃ (s : State), s.stepState = stepAbandoning ∧ s.sched.abandonedSent = false ∧ s.sched.resetRejoin = false ∧
      s.stepPending = false ∧ s.get CHIP_STATUS.FIELD_IN_RESET = 0 ∧ s.rot.now = false) ∧
    (∃ (s : State) (h : MsgHdr) (step : W64) (k : Nat), s.msgOk h Sender3.toLeader = true ∧ s.indexOf h.src.toNat = some k ∧
      BitVec.toNat step = s.get STEP_NUM.STEP ∧ s.sched.abandonMcast = true) ∧
    (∃ (s : State) (h : MsgHdr) (step : W64), s.msgOk h Sender3.fromLeader = true ∧ s.stepState = stepAbandoning ∧
      s.sched.abandonedSent = true ∧ BitVec.toNat step = s.get STEP_NUM.STEP ∧ s.sched.chargeNext = none ∧
      s.sched.heldAbandon = none) :=
  ⟨⟨leader, hdr1, 0, by decide +kernel⟩,
    ⟨member, hdr7, 0, by decide +kernel⟩,
    ⟨member, hdr1, by decide +kernel⟩,
    ⟨fetchPending, by decide +kernel⟩,
    ⟨abandoning, by decide +kernel⟩,
    ⟨abandonSent, hdr1, 0, 1, by decide +kernel⟩,
    ⟨abandonedStep, hdr, 0, by decide +kernel⟩⟩

theorem witness_LoadDarkPlane :
    (∃ (s₀ : State) (src : Source) (compat : Bool),
      let s : State := s₀.compatPin compat
      Takes s src 0x50000 1 ∧ (s.loadState = loadBusy ∨ s.rotState ≠ rotNone)) ∧
    (∃ (s₀ : State) (src : Source) (compat : Bool),
      let s : State := s₀.compatPin compat
      let u : State := s.darkClear.put ROTATE_STATUS.LOAD_STATE loadBusy
      let a : Nat := s.get ROTATE_LOAD_ADDR.ADDR
      let n : Nat := s.get ROTATE_LOAD_LEN.LEN
      Takes s src 0x50000 1 ∧ s.loadState ≠ loadBusy ∧ s.rotState = rotNone ∧ u.loadAddrBad a n = true) ∧
    (∃ (s₀ : State) (src : Source) (compat : Bool),
      let s : State := s₀.compatPin compat
      let u : State := s.darkClear.put ROTATE_STATUS.LOAD_STATE loadBusy
      let a : Nat := s.get ROTATE_LOAD_ADDR.ADDR
      let n : Nat := s.get ROTATE_LOAD_LEN.LEN
      Takes s src 0x50000 1 ∧ s.loadState ≠ loadBusy ∧ s.rotState = rotNone ∧ u.loadAddrBad a n = false) ∧
    (∃ (s₀ : State) (src : Source) (compat : Bool),
      let s : State := s₀.compatPin compat
      Takes s src 0x50000 1 ∧ s.loadState = loadBusy) ∧
    (∃ (s₀ : State) (compat : Bool) (m : Image),
      let s : State := s₀.compatPin compat
      s.rot.loading = some m ∧ ((stripsOf m.mask).all fun (k : Nat) => s.domOn (4 + k)) = true) :=
  ⟨⟨loadableBusy, Source.lamp, false, by decide +kernel⟩,
    ⟨on, Source.lamp, false, by decide +kernel⟩,
    ⟨loadable, Source.lamp, false, by decide +kernel⟩,
    ⟨loadableBusy, Source.lamp, false, by decide +kernel⟩,
    ⟨{ on with rot := { RotSt.reset with loading := (some image1) } }, false, image1, by decide +kernel⟩⟩

theorem witness_RotationAgreement :
    (∃ (s : State) (src : Source), Takes s src 0x50000 1 ∧ (s.rotState = rotReady ∨ s.rotState = rotSwap)) ∧
    (∃ (s : State) (src : Source), Takes s src 0x50000 1 ∧ (s.rotState = rotNone ∨ s.rotState = rotArmed) ∧
      s.rotatesNow (s.get ROTATE_AT_STEP.STEP) = false ∧ s.stepDone (s.get ROTATE_AT_STEP.STEP) = true) ∧
    (∃ (s : State) (src : Source), Takes s src 0x50000 1 ∧ (s.rotState = rotNone ∨ s.rotState = rotArmed) ∧
      s.rotatesNow (s.get ROTATE_AT_STEP.STEP) = false ∧ s.stepDone (s.get ROTATE_AT_STEP.STEP) = false) ∧
    (∃ (s : State) (src : Source), Takes s src 0x50000 1 ∧ s.rotState = rotArmed) ∧
    (∃ (s : State) (src : Source), Takes s src 0x50000 1 ∧ s.rotState ≠ rotArmed) ∧
    (∃ (s : State) (h : MsgHdr) (step img dig : W64) (nl : Bool) (k : Nat),
      let r : ReadyMsg :=
        { idx := k, step := BitVec.toNat step, imageId := BitVec.toNat img, digest8 := BitVec.toNat dig, notLoaded := nl }
      let rs : List ReadyMsg := List.filter (fun (x : ReadyMsg) => x.idx != k) s.rot.readies ++ [r]
      let whole : Bool := (List.range s.sliceSize).all fun (i : Nat) => rs.any fun (x : ReadyMsg) => x.idx == i
      s.msgOk h Sender3.toLeader = true ∧ s.indexOf h.src.toNat = some k ∧ whole = false) ∧
    (∃ (s : State) (h : MsgHdr) (step img dig : W64) (nl : Bool) (k : Nat),
      let r : ReadyMsg :=
        { idx := k, step := BitVec.toNat step, imageId := BitVec.toNat img, digest8 := BitVec.toNat dig, notLoaded := nl }
      let rs : List ReadyMsg := List.filter (fun (x : ReadyMsg) => x.idx != k) s.rot.readies ++ [r]
      let whole : Bool := (List.range s.sliceSize).all fun (i : Nat) => rs.any fun (x : ReadyMsg) => x.idx == i
      s.msgOk h Sender3.toLeader = true ∧ s.indexOf h.src.toNat = some k ∧ whole = true ∧ ∀ (x : ReadyMsg), x ∈ rs →
        x.step = BitVec.toNat step ∧ x.imageId = BitVec.toNat img ∧ x.digest8 = BitVec.toNat dig ∧ x.notLoaded = false) ∧
    (∃ (s : State) (h : MsgHdr) (step img dig : W64) (nl : Bool) (k : Nat),
      let r : ReadyMsg :=
        { idx := k, step := BitVec.toNat step, imageId := BitVec.toNat img, digest8 := BitVec.toNat dig, notLoaded := nl }
      let rs : List ReadyMsg := List.filter (fun (x : ReadyMsg) => x.idx != k) s.rot.readies ++ [r]
      let whole : Bool := (List.range s.sliceSize).all fun (i : Nat) => rs.any fun (x : ReadyMsg) => x.idx == i
      s.msgOk h Sender3.toLeader = true ∧ s.indexOf h.src.toNat = some k ∧ whole = true ∧ nl = true) ∧
    (∃ (s : State) (h : MsgHdr) (step img dig : W64) (nl : Bool) (k : Nat),
      let r : ReadyMsg :=
        { idx := k, step := BitVec.toNat step, imageId := BitVec.toNat img, digest8 := BitVec.toNat dig, notLoaded := nl }
      let rs : List ReadyMsg := List.filter (fun (x : ReadyMsg) => x.idx != k) s.rot.readies ++ [r]
      let whole : Bool := (List.range s.sliceSize).all fun (i : Nat) => rs.any fun (x : ReadyMsg) => x.idx == i
      s.msgOk h Sender3.toLeader = true ∧ s.indexOf h.src.toNat = some k ∧ whole = true ∧ (∀ (x : ReadyMsg), x ∈ rs →
        x.notLoaded = false) ∧ ∃ (x : ReadyMsg), x ∈ rs ∧ x.imageId ≠ BitVec.toNat img) ∧
    (∃ (s : State) (n : Nat), s.rot.armed = some n ∧ s.leads = true ∧ s.rotState = rotReady ∧ s.rot.decided = false) ∧
    (∃ (s : State), s.rot.decided = true) :=
  ⟨⟨decided1, Source.lamp, by decide +kernel⟩,
    ⟨(State.put (State.put run ROTATE_AT_STEP.STEP 1) STEP_NUM.STEP 2), Source.lamp, by decide +kernel⟩,
    ⟨otherImage, Source.lamp, by decide +kernel⟩,
    ⟨armed1, Source.lamp, by decide +kernel⟩,
    ⟨otherImage, Source.lamp, by decide +kernel⟩,
    ⟨otherImage, hdr7, 0, 0, 0, false, 0, by decide +kernel⟩,
    ⟨decided1, hdr, 0, 0, 0, false, 0, by decide +kernel⟩,
    ⟨otherImage, hdr1, 0, 0, 0, true, 1, by decide +kernel⟩,
    ⟨otherImage, hdr1, 0, 0, 0, false, 1, by decide +kernel⟩,
    ⟨readyAt1, 1, by decide +kernel⟩,
    ⟨decided1, by decide +kernel⟩⟩

theorem witness_Rotation :
    (∃ (s : State) (h : MsgHdr) (n : W64), s.msgOk h Sender3.fromLeader = true ∧ s.rotState = rotReady ∧
      s.rot.armed = some (BitVec.toNat n) ∧ s.get CANDLE_GOV.HOLD = 0) ∧
    (∃ (s : State) (h : MsgHdr) (n : W64), s.msgOk h Sender3.fromLeader = true ∧ s.rotState = rotReady ∧
      s.rot.armed = some (BitVec.toNat n) ∧ s.get CANDLE_GOV.HOLD = 1) ∧
    (∃ (s : State) (h : MsgHdr) (n : W64), s.msgOk h Sender3.fromLeader = true ∧ (s.rotState ≠ rotReady ∨
      s.rot.armed ≠ some (BitVec.toNat n))) ∧
    (∃ (s : State), s.rotState = rotSwap ∧ s.power.goHeld = none ∧ s.stepState ≠ stepBoundary) ∧
    (∃ (s : State) (h : MsgHdr) (n : W64) (c : BitVec 8), s.msgOk h Sender3.fromLeader = true ∧
      s.rot.lost.contains (BitVec.toNat n) = false ∧ s.rotState = rotArmed ∧ c = 1) ∧
    (∃ (s : State) (h : MsgHdr) (n : W64) (c : BitVec 8), s.msgOk h Sender3.fromLeader = true ∧
      s.rot.lost.contains (BitVec.toNat n) = false ∧ s.rotState = rotArmed ∧ c = 2) ∧
    (∃ (s : State) (h : MsgHdr) (n : W64) (c : BitVec 8), s.msgOk h Sender3.fromLeader = true ∧
      s.rot.lost.contains (BitVec.toNat n) = false ∧ s.rotState = rotArmed ∧ c = 3) ∧
    (∃ (s : State) (n : W64), s.rot.armed = some (BitVec.toNat n) ∧ s.rotState = rotReady ∧ s.get WARD_STATUS.STATE = 0 ∧
      s.stepState ≠ stepBoundary) :=
  ⟨⟨readyAt1, hdr, 1, by decide +kernel⟩,
    ⟨(State.put readyAt1 CANDLE_GOV.HOLD 1), hdr, 1, by decide +kernel⟩,
    ⟨readyAt1, hdr, 0, by decide +kernel⟩,
    ⟨(State.put run ROTATE_STATUS.ROT_STATE rotSwap), by decide +kernel⟩,
    ⟨armed1, hdr, 0, 1, by decide +kernel⟩,
    ⟨armed1, hdr, 0, 2, by decide +kernel⟩,
    ⟨armed1, hdr, 0, 3, by decide +kernel⟩,
    ⟨(State.put readyAt1 STEP_STATUS.STATE 1), 1, by decide +kernel⟩⟩

theorem witness_SowerAndFetches :
    (∃ (s : State) (mb : Bool) (w : SowerSt) (row : List Token), s.clocked (s.sower mb) = some w ∧
      rowPrefix (s.queue (stileQ w.cfg.stile 8)).toks = some row ∧ w.expected = []) ∧
    (∃ (s : State) (mb : Bool) (w : SowerSt) (row : List Token) (r : Nat) (rest : List Nat),
      let scores : List Machine.Num := List.flatMap (fun (t : Token) => List.map (fun (i : Nat) => decodeElem w.cfg.sfmt
        (beatElem w.cfg.sfmt t.payload i)) (List.range t.vcount)) (List.filter (fun (t : Token) => t.cls == 0) row)
      s.clocked (s.sower mb) = some w ∧ rowPrefix (s.queue (stileQ w.cfg.stile 8)).toks = some row ∧ w.expected = r :: rest ∧
        rest ≠ [] ∧ scores.length ≠ w.cfg.e) ∧
    (∃ (s : State) (mb : Bool) (w : SowerSt) (g : Segment), s.clocked (s.sower mb) = some w ∧ g.mb = mb ∧
      bitsOf g.w0 0 4 = 1 ∧ BitVec.toNat g.step ≠ s.get STEP_NUM.STEP) ∧
    (∃ (s : State) (mb : Bool) (w : SowerSt) (g : Segment), s.clocked (s.sower mb) = some w ∧ g.mb = mb ∧
      bitsOf g.w0 0 4 = 1 ∧ BitVec.toNat g.step = s.get STEP_NUM.STEP ∧ g.attempt = s.get STEP_STATUS.REPLAYS ∧
      g.layer = w.layer ∧ bitsOf g.w0 31 6 = s.get ROUTE_SELF.INDEX ∧ g.counts.length = w.cfg.ne ∧
      bitsOf g.w0 37 13 = w.cfg.ne ∧ g.total = g.sum ∧ (w.received.any fun (h : Segment) => h.src == g.src) = false ∧
      s.sowerBusy mb = true ∧ (segInsert g w.received).length ≠ s.sliceSize) ∧
    (∃ (s : State) (g : Segment), bitsOf g.w0 0 4 = 1 ∧ BitVec.toNat g.step = s.get STEP_NUM.STEP ∧
      g.attempt < s.get STEP_STATUS.REPLAYS) ∧
    (∃ (s : State) (mb : Bool) (j : BitVec 12) (code : CodeResult) (w : SowerSt) (slot : Nat) (e : ResEntry),
      let refused : Bool := s.accessRefused false e.source w.cfg.expBytes || s.rangeRefuses true (s.gaddr 1 (w.cfg.wslot +
        slot * w.cfg.wslotBytes)) w.cfg.expBytes
      let r : State × List Byte × Bool := s.readChecked e.source w.cfg.expBytes code true
      s.fetchOf mb j.toNat = some (w, slot, e) ∧ w.fetching.erase j.toNat ≠ [] ∧
        s.writeWaits (s.gaddr 1 (w.cfg.wslot + slot * w.cfg.wslotBytes)) w.cfg.expBytes = false ∧
        s.ownerPending (Owner.fetch mb j.toNat) = false ∧ e.src = 0 ∧ refused = false ∧
        (∀ (d : Nat) (t : Bool) (o : Nat), s.locate e.source ≠ Loc.commons d t o) ∧ s.get WARD_STATUS.STATE = 0 ∧
        topRange (w.cfg.wslot + slot * w.cfg.wslotBytes) r.snd.fst.length = true ∧
        topRange (w.cfg.res + 16 * j.toNat) 8 = true) ∧
    (∃ (s : State) (mb : Bool) (j : BitVec 12) (w : SowerSt) (slot : Nat) (e : ResEntry),
      let refused : Bool := s.accessRefused false e.source w.cfg.expBytes || s.rangeRefuses true (s.gaddr 1 (w.cfg.wslot +
        slot * w.cfg.wslotBytes)) w.cfg.expBytes
      s.fetchOf mb j.toNat = some (w, slot, e) ∧ w.fetching.erase j.toNat ≠ [] ∧
        s.writeWaits (s.gaddr 1 (w.cfg.wslot + slot * w.cfg.wslotBytes)) w.cfg.expBytes = false ∧
        s.ownerPending (Owner.fetch mb j.toNat) = false ∧ e.src = 0 ∧ refused = true) ∧
    (∃ (s : State) (mb : Bool) (j : BitVec 12) (bad0 bad1 : List Nat) (corrected : Nat) (w : SowerSt) (slot : Nat) (e :
      ResEntry),
      let r : State × ReadOut := (s.bump FALLOW_CE.CE corrected).falRead (e.source % 2 ^ 32) w.cfg.expBytes bad0 bad1
      s.fetchOf mb j.toNat = some (w, slot, e) ∧ w.fetching.erase j.toNat ≠ [] ∧
        s.writeWaits (s.gaddr 1 (w.cfg.wslot + slot * w.cfg.wslotBytes)) w.cfg.expBytes = false ∧
        s.ownerPending (Owner.fetch mb j.toNat) = false ∧ e.src ≠ 0 ∧ s.get FALLOW_STATUS.READY = 1 ∧ r.snd.fst = 0 ∧
        s.get WARD_STATUS.STATE = 0 ∧ topRange (w.cfg.wslot + slot * w.cfg.wslotBytes) r.snd.snd.length = true ∧
        topRange (w.cfg.res + 16 * j.toNat) 8 = true) ∧
    (∃ (s : State) (mb : Bool) (j : BitVec 12) (bad0 bad1 : List Nat) (corrected : Nat) (w : SowerSt) (slot : Nat) (e :
      ResEntry),
      let r : State × ReadOut := (s.bump FALLOW_CE.CE corrected).falRead (e.source % 2 ^ 32) w.cfg.expBytes bad0 bad1
      s.fetchOf mb j.toNat = some (w, slot, e) ∧ w.fetching.erase j.toNat ≠ [] ∧
        s.writeWaits (s.gaddr 1 (w.cfg.wslot + slot * w.cfg.wslotBytes)) w.cfg.expBytes = false ∧
        s.ownerPending (Owner.fetch mb j.toNat) = false ∧ e.src ≠ 0 ∧ s.get FALLOW_STATUS.READY = 1 ∧ r.snd.fst ≠ 0 ∧
        s.get WARD_STATUS.STATE = 0 ∧ topRange (w.cfg.wslot + slot * w.cfg.wslotBytes) w.cfg.expBytes = true) ∧
    (∃ (s : State) (mb : Bool) (j : BitVec 12) (w : SowerSt) (slot : Nat) (e : ResEntry), s.fetchOf mb j.toNat = some (w,
      slot, e) ∧ w.fetching.erase j.toNat ≠ [] ∧ s.writeWaits (s.gaddr 1 (w.cfg.wslot + slot * w.cfg.wslotBytes)) w.cfg.expBytes
      = false ∧ s.ownerPending (Owner.fetch mb j.toNat) = false ∧ e.src ≠ 0 ∧ s.get FALLOW_STATUS.READY = 0) :=
  ⟨⟨sowing0, false, { sower0 with expected := [] }, (Queue.toks (State.queue sowing (stileQ (LayerCfg.stile (SowerSt.cfg
      sower0)) 8))), by decide +kernel⟩,
    ⟨shortRow, false, ⟨3, 3, 1, ⟨5, 1, 0, 0, 0, 1, false, 0, 2, 0, false, false, 64, 0, 0, 4, 0, 0, 0, 8192, 4096, 64, 64, 0,
      0, 0, 0, 0, 0, 0, 0, [0, 0, 0, 0, 0, 0, 0, 0, 0, 0, 0, 0, 0, 0, 0, 0]⟩, [2, 5], [], true, [], none, false, none, [(0, 1),
      (1, 2)], [0, 1], false⟩, (Queue.toks (State.queue sowing (stileQ (LayerCfg.stile (SowerSt.cfg sower0)) 8))), 2, [5],
      by decide +kernel⟩,
    ⟨(State.put sowing STEP_NUM.STEP 1), false, sower0, (segment 1 1), by decide +kernel⟩,
    ⟨shortRow, false, ⟨3, 3, 1, ⟨5, 1, 0, 0, 0, 1, false, 0, 2, 0, false, false, 64, 0, 0, 4, 0, 0, 0, 8192, 4096, 64, 64, 0,
      0, 0, 0, 0, 0, 0, 0, [0, 0, 0, 0, 0, 0, 0, 0, 0, 0, 0, 0, 0, 0, 0, 0]⟩, [2, 5], [], true, [], none, false, none, [(0, 1),
      (1, 2)], [0, 1], false⟩, (segment 1 1), by decide +kernel⟩,
    ⟨(State.put sowing STEP_STATUS.REPLAYS 1), (segment 1 1), by decide +kernel⟩,
    ⟨shortRow, false, 0, CodeResult.clean, ⟨3, 3, 1, ⟨5, 1, 0, 0, 0, 1, false, 0, 2, 0, false, false, 64, 0, 0, 4, 0, 0, 0,
      8192, 4096, 64, 64, 0, 0, 0, 0, 0, 0, 0, 0, [0, 0, 0, 0, 0, 0, 0, 0, 0, 0, 0, 0, 0, 0, 0, 0]⟩, [2, 5], [], true, [], none,
      false, none, [(0, 1), (1, 2)], [0, 1], false⟩, 1, ⟨0, false, 0, 0, 0, 0⟩, by decide +kernel, by decide +kernel,
      by decide +kernel, by decide +kernel, by decide +kernel, by decide +kernel, shortRow_plain, by decide +kernel,
      by decide +kernel, by decide +kernel⟩,
    ⟨refusedFetch, false, 0, sower0, 1, ⟨0, false, 0, 0, 6597069766656, 0⟩, by decide +kernel⟩,
    ⟨falFetch, false, 0, [], [], 8, sower0, 1, ⟨0, false, 0, 1, 7, 4294967296⟩, by decide +kernel⟩,
    ⟨falFetch, false, 0, (SowerSt.fetching sower0), (SowerSt.fetching sower0), 8, sower0, 1, ⟨0, false, 0, 1, 7, 4294967296⟩,
      by decide +kernel⟩,
    ⟨falSource, false, 0, sower0, 1, ⟨0, false, 0, 1, 7, 4294967296⟩, by decide +kernel⟩⟩

theorem witness_GleanerInputs :
    (∃ (s : State) (mb : Bool) (g : GleanSt) (j i : Nat) (rest : List (Nat × Nat)), s.clocked (s.glean mb) = some g ∧
      g.cfg.xmode = false ∧ s.walksEnded g.pseq = true ∧ g.expected = (j, i) :: rest ∧ rest ≠ []) ∧
    (∃ (s : State) (mb : Bool) (g : GleanSt), s.clocked (s.glean mb) = some g ∧ s.walksEnded g.pseq = false ∧
      g.cfg.xmode = false) ∧
    (∃ (s : State) (mb : Bool) (g : GleanSt) (j i : Nat) (rest : List (Nat × Nat)) (row : List Token), s.clocked (s.glean mb)
      = some g ∧ g.cfg.xmode = true ∧ g.expected = (j, i) :: rest ∧ rest ≠ [] ∧
      rowPrefix (s.queue (stileQ g.cfg.stile 9)).toks = some row ∧ s.sower mb = none ∧ g.cfg.cap.getD g.bucket 0 ≤ i + 1) ∧
    (∃ (s : State) (mb : Bool) (g : GleanSt) (x : Segment) (w : SowerSt), s.clocked (s.glean mb) = some g ∧ x.mb = mb ∧
      bitsOf x.w0 0 4 = 2 ∧ s.sower mb = some w ∧ g.done = false ∧ BitVec.toNat x.step ≠ s.get STEP_NUM.STEP) ∧
    (∃ (s : State) (mb : Bool) (g : GleanSt) (x : Segment) (w : SowerSt), s.clocked (s.glean mb) = some g ∧ x.mb = mb ∧
      bitsOf x.w0 0 4 = 2 ∧ s.sower mb = some w ∧ g.done = false ∧ BitVec.toNat x.step = s.get STEP_NUM.STEP ∧
      x.attempt = s.get STEP_STATUS.REPLAYS ∧ x.layer = g.layer ∧ bitsOf x.w0 31 6 = s.get ROUTE_SELF.INDEX ∧
      x.counts = (s.dispatchFor mb w (s.routeMap w.cfg) x.src).counts ∧ x.total = x.sum ∧ x.keptTotal = x.keptSum ∧
      x.kept.length = x.counts.length ∧ (∀ (j : Nat), j < x.counts.length → x.keptOf j ≤ x.count j) ∧
      (g.received.any fun (h : Segment) => h.src == x.src) = false ∧ (segInsert x g.received).length ≠ s.sliceSize) ∧
    (∃ (s : State) (mb : Bool) (g : GleanSt) (x : Segment), s.clocked (s.glean mb) = some g ∧ bitsOf x.w0 0 4 = 2 ∧
      BitVec.toNat x.step = s.get STEP_NUM.STEP ∧ x.attempt < s.get STEP_STATUS.REPLAYS) :=
  ⟨⟨gleaning, false, glean0, 0, 0, [(0, 1)], by decide +kernel⟩,
    ⟨stillWalks, false, glean0, by decide +kernel⟩,
    ⟨gleanTok, false, ⟨3, 1, ⟨4, 1, 0, 0, 0, 1, false, 0, 2, 0, true, false, 64, 0, 0, 4, 0, 0, 0, 8192, 4096, 64, 64, 0, 0,
      0, 0, 0, 0, 0, 0, [0, 0, 0, 0, 0, 0, 0, 0, 0, 0, 0, 0, 0, 0, 0, 0]⟩, 0, [1], [(0, 0), (0, 1)], [], false, [], false⟩, 0,
      0, [(0, 1)], [⟨66145, 0, 0⟩], by decide +kernel⟩,
    ⟨(State.put gleaning STEP_NUM.STEP 1), false, glean0, (segment 2 1), sower0, by decide +kernel⟩,
    ⟨stillWalks, false, glean0, (segment 2 1), sower0, by decide +kernel⟩,
    ⟨(State.put gleaning STEP_STATUS.REPLAYS 1), false, glean0, (segment 2 1), by decide +kernel⟩⟩

theorem witness_HomeCommands :
    (∃ (s : State) (src : Source) (index : BitVec 20),
      let i : Nat := index.toNat
      Takes s src 0x90008 1 ∧ s.homeCount ≤ i) ∧
    (∃ (s : State) (src : Source) (index : BitVec 20),
      let i : Nat := index.toNat
      let r : State := s.partReads (s.homeOff i) 32 false
      let a : Nat := s.homeAddr i
      Takes s src 0x90008 1 ∧ i < s.homeCount ∧ r.inReclaim a = true) ∧
    (∃ (s : State) (src : Source) (index : BitVec 20),
      let i : Nat := index.toNat
      let r : State := s.partReads (s.homeOff i) 32 false
      let a : Nat := s.homeAddr i
      let n : Nat := s.homeLen i
      Takes s src 0x90008 1 ∧ i < s.homeCount ∧ r.inReclaim a = false ∧ r.homeRefused a n = true) ∧
    (∃ (s : State) (src : Source) (index : BitVec 20),
      let i : Nat := index.toNat
      let r : State := s.partReads (s.homeOff i) 32 false
      let a : Nat := s.homeAddr i
      let n : Nat := s.homeLen i
      let c : Nat := s.homeClass i
      let top : Bool := s.chargedTop a
      Takes s src 0x90008 1 ∧ i < s.homeCount ∧ r.inReclaim a = false ∧ r.homeRefused a n = false ∧
        r.chargeFits top c (units n) = false) ∧
    (∃ (s : State) (src : Source) (index : BitVec 20),
      let i : Nat := index.toNat
      let r : State := s.partReads (s.homeOff i) 32 false
      let a : Nat := s.homeAddr i
      let n : Nat := s.homeLen i
      let c : Nat := s.homeClass i
      let top : Bool := s.chargedTop a
      Takes s src 0x90008 1 ∧ i < s.homeCount ∧ r.inReclaim a = false ∧ r.homeRefused a n = false ∧
        r.chargeFits top c (units n) = true ∧ topRange (r.homeOff i) 8 = true ∧ r.get WARD_STATUS.STATE = 0) ∧
    (∃ (s : State) (src : Source) (index : BitVec 20),
      let i : Nat := index.toNat
      Takes s src 0x90008 1 ∧ i < s.homeCount ∧ s.homeMoving i = true) ∧
    (∃ (s : State) (src : Source) (index : BitVec 20),
      let i : Nat := index.toNat
      Takes s src 0x90008 1 ∧ i < s.homeCount ∧ s.homeMoving i = false ∧ s.homeV i = false) ∧
    (∃ (s : State) (src : Source) (index : BitVec 20),
      let i : Nat := index.toNat
      let r : State := s.partReads (s.homeOff i) 32 false
      Takes s src 0x90008 1 ∧ i < s.homeCount ∧ s.homeMoving i = false ∧ s.homeV i = true ∧ topRange (r.homeOff i) 8 = true ∧
        r.get WARD_STATUS.STATE = 0) :=
  ⟨⟨(homes 0), Source.lamp, 17, by decide +kernel⟩,
    ⟨(grant (setWords (homes 0) (4096 + 72) [toGrant]) 0 2), Source.lamp, 2, by decide +kernel⟩,
    ⟨(homes 0), Source.lamp, 0, by decide +kernel⟩,
    ⟨(State.put (homes 0) TIER_QJOB_T.LIMIT 1), Source.lamp, 2, by decide +kernel⟩,
    ⟨(homes 0), Source.lamp, 2, by decide +kernel⟩,
    ⟨(homes 3), Source.lamp, 2, by decide +kernel⟩,
    ⟨(homes 0), Source.lamp, 0, by decide +kernel⟩,
    ⟨(homes 1), Source.lamp, 2, by decide +kernel⟩⟩

theorem witness_HarrowStreams :
    (∃ (s : State) (q : Bool),
      let i : Nat := s.get (HARROW_QPTR.ISSUE (bit q))
      s.get CANDLE_GOV.HOLD = 0 ∧ i = s.get (HARROW_QPTR.TAIL (bit q))) ∧
    (∃ (s : State) (q : Bool),
      let i : Nat := s.get (HARROW_QPTR.ISSUE (bit q))
      let d : List W64 := s.streamDesc (bit q) i
      s.get CANDLE_GOV.HOLD = 0 ∧ i ≠ s.get (HARROW_QPTR.TAIL (bit q)) ∧ s.harrow.streams.length < 64 ∧ q = true ∧
        bitsOf (d.getD 7 0) 0 2 ≠ 2 ∧ s.streamBad q d = false ∧ bitOf (d.getD 0 0) 7 = false ∧
        topRange (s.streamOff (bit q) i) 64 = true ∧ s.topsoil.badIn 64 (s.streamOff (bit q) i) 64 = []) ∧
    (∃ (s : State) (q : Bool) (pos : BitVec 16) (t0 : StreamSt) (o : Nat),
      let c : Nat × Nat := chunkDst t0
      s.get CANDLE_GOV.HOLD = 0 ∧ s.stream q pos.toNat = some t0 ∧ s.get WARD_STATUS.STATE = 0 ∧ s.locate c.fst = Loc.top o ∧
        s.accessRefused true c.fst c.snd = false ∧ s.chunkReady t0 3 = true) ∧
    (∃ (s : State) (q : Bool) (pos : BitVec 16) (t0 : StreamSt) (o : Nat),
      let c : Nat × Nat := chunkDst t0
      let a : Nat := (chunkSrc t0).fst
      s.get CANDLE_GOV.HOLD = 0 ∧ s.stream q pos.toNat = some t0 ∧ s.get WARD_STATUS.STATE = 0 ∧ s.locate c.fst = Loc.top o ∧
        s.accessRefused true c.fst c.snd = false ∧ s.chunkReady t0 1 = true ∧ streamDec t0.desc = false ∧
        streamEnc t0.desc = false ∧ s.lostSource a c.snd = false ∧
        (∀ (x : Nat) (y : Bool) (z : Nat), s.locate a ≠ Loc.commons x y z) ∧ s.accessRefused false a c.snd = true) ∧
    (∃ (s : State) (q : Bool) (pos : BitVec 16) (t0 : StreamSt) (o : Nat),
      let c : Nat × Nat := chunkDst t0
      let a : Nat := (chunkSrc t0).fst
      s.get CANDLE_GOV.HOLD = 0 ∧ s.stream q pos.toNat = some t0 ∧ s.get WARD_STATUS.STATE = 0 ∧ s.locate c.fst = Loc.top o ∧
        s.accessRefused true c.fst c.snd = false ∧ s.chunkReady t0 1 = true ∧ streamDec t0.desc = false ∧
        streamEnc t0.desc = false ∧ s.lostSource a c.snd = false ∧
        (∀ (x : Nat) (y : Bool) (z : Nat), s.locate a ≠ Loc.commons x y z) ∧ s.accessRefused false a c.snd = false ∧
        (s.readErrors a c.snd !q).snd = false) ∧
    (∃ (s : State) (q : Bool) (pos : BitVec 16) (t0 : StreamSt) (o : Nat) (feed : CodeResult), s.get CANDLE_GOV.HOLD = 0 ∧
      s.stream q pos.toNat = some t0 ∧ s.chunkReady t0 1 = true ∧ s.locate (chunkDst t0).fst = Loc.seedbed o ∧
      s.accessRefused true (chunkDst t0).fst (chunkDst t0).snd = false ∧
      s.lostSource (chunkSrc t0).fst (chunkSrc t0).snd = false ∧
      s.accessRefused false (chunkSrc t0).fst (chunkSrc t0).snd = false ∧ feedBad feed = true) :=
  ⟨⟨seeding, false, by decide +kernel⟩,
    ⟨queued, true, by decide +kernel⟩,
    ⟨zeroing, true, 0, (stream0 3 8192), 4194304, by decide +kernel⟩,
    ⟨(streaming run refusedCopy), true, 0, refusedCopy, 4194304, by decide +kernel, by decide +kernel, by decide +kernel,
      by decide +kernel, by decide +kernel, by decide +kernel, by decide +kernel, by decide +kernel, by decide +kernel,
      refusedCopy_plain, by decide +kernel⟩,
    ⟨copying, true, 0, (stream0 1 8192), 4194304, by decide +kernel, by decide +kernel, by decide +kernel, by decide +kernel,
      by decide +kernel, by decide +kernel, by decide +kernel, by decide +kernel, by decide +kernel, copying_plain,
      by decide +kernel, by decide +kernel⟩,
    ⟨seeding, true, 0, toSeed, 0, CodeResult.two, by decide +kernel⟩⟩

theorem witness_HarrowMove :
    (∃ (s : State) (pos : BitVec 16) (t0 : StreamSt),
      let i : Nat := streamHome t0.desc
      let d : Nat := streamDst t0.desc
      let top : Bool := s.chargedTop d
      s.get CANDLE_GOV.HOLD = 0 ∧ s.stream true pos.toNat = some t0 ∧ streamOp t0.desc = 2 ∧ t0.cause = 0 ∧
        t0.cancelled = false ∧ t0.started = false ∧ i < s.homeCount ∧ s.homeV i = true ∧ s.homeMoving i = false ∧
        s.homeLen i = streamLen t0.desc ∧ s.homeLost i = false ∧ s.inReclaim d = false ∧ s.homeRefused d (s.homeLen i) = false ∧
        s.harrow.ranges.length < 64 ∧ topRange (s.homeOff i) 32 = true ∧ s.topsoil.badIn 64 (s.homeOff i) 32 = [] ∧
        s.chargeFits top (s.homeClass i) (units (s.homeLen i)) = true) ∧
    (∃ (s : State) (index : BitVec 20) (t0 : StreamSt),
      let i : Nat := index.toNat
      s.moveOf i = some t0 ∧ s.reclaiming = []) ∧
    (∃ (s : State) (index : BitVec 20) (m : ReclaimMove) (late : Bool) (d : Nat) (x : Bool) (o : Nat) (o' : Nat),
      let i : Nat := index.toNat
      s.moveOf i = none ∧ s.locate (s.homeAddr i) = Loc.commons d x o ∧ s.locate m.dst = Loc.sub o' ∧
        List.find? (fun (m : ReclaimMove) => m.index == i && m.started) s.harrow.reclaims = some m ∧
        s.get WARD_STATUS.STATE = 0 ∧ topRange (s.homeOff i) 32 = true ∧ late = true) ∧
    (∃ (s : State) (addr : W64) (r : Range) (o : Nat), List.find? (fun (r : Range) => decide (r.kind = RangeKind.vacated) &&
      r.addr == BitVec.toNat addr) s.harrow.ranges = some r ∧ s.locate r.addr = Loc.top o ∧ topRange o r.len = true ∧
      s.get WARD_STATUS.STATE = 0 ∧ s.harrow.reclaims = [] ∧ s.reclaiming = []) :=
  ⟨⟨moving, 0, (stream0 2 131072), by decide +kernel⟩,
    ⟨(streaming (homes 3) moved), 2, moved, by decide +kernel⟩,
    ⟨reclaimingMove, 2, ⟨2, run.gaddr 2 0x100000, 0, true⟩, true, 0x100, false, 0, 0x100000, by decide +kernel⟩,
    ⟨vacated, (BitVec.ofNat 64 (run.gaddr 1 1048576)), ⟨RangeKind.vacated, (State.gaddr run 1 1048576), 131072⟩, 1048576,
      by decide +kernel⟩⟩

theorem witness_StreamEnds :
    (∃ (s : State) (pos : BitVec 16) (q : Bool) (t0 : StreamSt), s.stream q pos.toNat = some t0 ∧ s.streamEnded t0 = true ∧
      bitOf (t0.desc.getD 0 0) 15 = false) ∧
    (∃ (s : State) (pos : BitVec 16) (q : Bool) (t0 : StreamSt), s.stream q pos.toNat = some t0 ∧ s.streamEnded t0 = false) ∧
    (∃ (s : State) (pos : BitVec 16) (src : Source), Takes s src 0x80000 1 ∧ s.stream true pos.toNat = none ∧
      posIn (s.get (HARROW_QPTR.ISSUE 1)) (s.get (HARROW_QPTR.TAIL 1)) pos.toNat = true) ∧
    (∃ (s : State) (pos : BitVec 16) (src : Source), Takes s src 0x80000 1 ∧ s.stream true pos.toNat = none ∧
      posIn (s.get (HARROW_QPTR.ISSUE 1)) (s.get (HARROW_QPTR.TAIL 1)) pos.toNat = false) ∧
    (∃ (s : State) (pos : BitVec 16) (src : Source) (t0 : StreamSt), Takes s src 0x80000 1 ∧
      s.stream true pos.toNat = some t0 ∧ t0.cause = 0 ∧ t0.flipped = false ∧ t0.cancelled = false ∧ streamOp t0.desc ≠ 2) :=
  ⟨⟨(streaming run { (stream0 3 8192) with done := 8192 }), 0, true, { (stream0 3 8192) with done := 8192 },
      by decide +kernel⟩,
    ⟨zeroing, 0, true, (stream0 3 8192), by decide +kernel⟩,
    ⟨queued, 0, Source.lamp, by decide +kernel⟩,
    ⟨run, 0, Source.lamp, by decide +kernel⟩,
    ⟨zeroing, 0, Source.lamp, (stream0 3 8192), by decide +kernel⟩⟩

theorem witness_CommonsGrants :
    (∃ (s : State) (src : Source) (val : BitVec 64), Takes s src 0x90018 2 ∧ bitOf val 0 = true) ∧
    (∃ (s : State) (h : MsgHdr) (base len : W64) (lt : Bool) (k i : Nat), s.grantOf false h base len lt = some k ∧
      s.get (TIER_GNT_A.STATE k) = 1 ∧ s.topsoil.badIn 64 (s.homeOff 0) (32 * s.homeCount) = [] ∧
      i ∈ s.homes fun (i : Nat) => s.inGrant k (s.homeAddr i) && !s.homeLost i) ∧
    (∃ (s : State) (h : MsgHdr) (base len : W64) (lt : Bool) (k : Nat), s.grantOf true h base len lt = some k ∧
      s.get (TIER_GNT_A.STATE k) ≠ 3 ∧ s.get (TIER_GNT_A.LTIER k) = 0 ∧ s.get WARD_STATUS.STATE = 0 ∧
      topRange (65536 * s.get (TIER_GNT_B.BASE k)) (s.grantLen k) = true) ∧
    (∃ (s : State), s.get TIER_RECLAIM.BUSY = 0) ∧
    (∃ (s : State), s.get TIER_RECLAIM.BUSY = 1) :=
  ⟨⟨on, Source.lamp, 1, by decide +kernel⟩,
    ⟨(grant (setWords (homes 1) (4096 + 72) [toGrant]) 0 1), ⟨0, 256⟩, 0, 16, false, 0, 2, by decide +kernel⟩,
    ⟨(grant on 1 1), ⟨0, 256⟩, 0, 16, false, 0, by decide +kernel⟩,
    ⟨on, by decide +kernel⟩,
    ⟨(State.put on TIER_RECLAIM.BUSY 1), by decide +kernel⟩⟩

theorem witness_Upkeep :
    (∃ (s : State) (src : Source) (val : BitVec 64), Takes s src 0xB0000 1 ∧ s.get SUBSOIL_STATUS.READY = 0 ∧
      bitsOf val 0 2 ≠ 3 ∧ bitsOf val 16 2 ≠ 3 ∧ 1 ≤ bitsOf val 8 6 ∧ bitsOf val 8 6 ≤ 32) ∧
    (∃ (s : State) (src : Source) (val : BitVec 64), Takes s src 0xB0000 1 ∧ (s.get SUBSOIL_STATUS.READY = 1 ∨
      bitsOf val 0 2 = 3 ∨ bitsOf val 16 2 = 3 ∨ bitsOf val 8 6 = 0 ∨ 32 < bitsOf val 8 6)) ∧
    (∃ (s : State) (l o : Nat), l * 64 < 2 ^ 42 ∧ s.locate (s.lineAddr Tier.topsoil l) = Loc.top o ∧
      s.get WARD_STATUS.STATE ≠ 2) ∧
    (∃ (s : State) (src : Source), Takes s src 0x60000 1) ∧
    (∃ (s : State) (src : Source), Takes s src 0x70000 1) ∧
    (∃ (s : State) (src : Source), Takes s src 0xA0008 1) ∧
    (∃ (s : State) (src : Source), Takes s src 0xB0010 1) ∧
    (∃ (s : State) (src : Source), Takes s src 0x80000 1) ∧
    (∃ (s : State) (src : Source) (p : BitVec 9), Takes s src (2097176 + 4096 * p.toNat) 1) :=
  ⟨⟨on, Source.lamp, 8194, by decide +kernel⟩,
    ⟨on, Source.lamp, 0, by decide +kernel⟩,
    ⟨on, 720896, 46137344, by decide +kernel⟩,
    ⟨on, Source.lamp, by decide +kernel⟩,
    ⟨on, Source.lamp, by decide +kernel⟩,
    ⟨on, Source.lamp, by decide +kernel⟩,
    ⟨on, Source.lamp, by decide +kernel⟩,
    ⟨on, Source.lamp, by decide +kernel⟩,
    ⟨on, Source.lamp, 0, by decide +kernel⟩⟩

theorem witness_FallowInstall :
    (∃ (s : State) (src : Source), Takes s src 0xC0008 2 ∧ s.power.falStart = false ∧ s.instState = instIdle) ∧
    (∃ (s : State) (src : Source), Takes s src 0xC0008 2 ∧ (s.power.falStart = true ∨ s.instState ≠ instIdle)) ∧
    (∃ (s : State) (src : Source), Takes s src 0xC0008 2 ∧ (s.power.falStart = true ∨ s.instState ≠ instOpen)) ∧
    (∃ (s : State) (src : Source), Takes s src 0xC0008 2 ∧ (s.power.falStart = true ∨ s.instState ≠ instLoading)) ∧
    (∃ (s : State) (src : Source) (o : Nat),
      let bs : List Byte := s.peek (s.get FALLOW_MADDR.ADDR) (s.get FALLOW_MLEN.LEN)
      Takes s src 0xC0008 2 ∧ s.power.falStart = false ∧ s.instState = instOpen ∧
        s.locate (s.get FALLOW_MADDR.ADDR) = Loc.top o ∧ topRange o (s.get FALLOW_MLEN.LEN) = true ∧
        manFormatOk bs (s.get FALLOW_MLEN.LEN) (s.get ROUTE_SELF.XYZ) = true ∧ s.manVerified bs = true) ∧
    (∃ (s : State) (src : Source) (o : Nat),
      let bs : List Byte := s.peek (s.get FALLOW_MADDR.ADDR) (s.get FALLOW_MLEN.LEN)
      Takes s src 0xC0008 2 ∧ s.power.falStart = false ∧ s.instState = instOpen ∧
        s.locate (s.get FALLOW_MADDR.ADDR) = Loc.top o ∧ topRange o (s.get FALLOW_MLEN.LEN) = true ∧
        (manFormatOk bs (s.get FALLOW_MLEN.LEN) (s.get ROUTE_SELF.XYZ) = false ∨ s.manVerified bs = false)) ∧
    (∃ (s : State) (src : Source), Takes s src 0xC0008 2 ∧ s.power.falStart = false ∧ s.instState = instLoading ∧
      (s.falSlot !s.activeSlot).objs.all FalObj.written = true) ∧
    (∃ (s : State) (src : Source), Takes s src 0xC0008 2 ∧ s.power.falStart = false ∧ (s.instState = instOpen ∨
      s.instState = instLoading)) ∧
    (∃ (s : State), s.instState = instCommitting) ∧
    (∃ (s : State), s.instState ≠ instCommitting) :=
  ⟨⟨on, Source.lamp, by decide +kernel⟩,
    ⟨manifested, Source.lamp, by decide +kernel⟩,
    ⟨on, Source.lamp, by decide +kernel⟩,
    ⟨manifested, Source.lamp, by decide +kernel⟩,
    ⟨manifested, Source.lamp, 0, by decide +kernel⟩,
    ⟨(State.put (inst instOpen) FALLOW_MADDR.ADDR (State.gaddr on 1 0)), Source.lamp, 0, by decide +kernel⟩,
    ⟨(inst instLoading), Source.lamp, by decide +kernel⟩,
    ⟨manifested, Source.lamp, by decide +kernel⟩,
    ⟨(inst instCommitting), by decide +kernel⟩,
    ⟨manifested, by decide +kernel⟩⟩

theorem witness_FallowQueue :
    (∃ (s : State) (i : Nat), s.falNext = some i ∧ s.falDescBad (s.falDesc i) = true) ∧
    (∃ (s : State) (i : Nat), s.falNext = some i ∧ s.falDescBad (s.falDesc i) = false ∧ falOp (s.falDesc i) = 1 ∧
      s.writeWaits (falAddr (s.falDesc i)) (falLen (s.falDesc i)) = false) ∧
    (∃ (s : State) (pos : BitVec 16) (r : ReadSt), List.find? (fun (r : ReadSt) => r.pos == pos.toNat) s.fallow.reads = some r
      ∧ s.writeWaits r.addr r.len = false) ∧
    (∃ (s : State) (i : Nat), s.falNext = some i ∧ s.falDescBad (s.falDesc i) = false ∧ falOp (s.falDesc i) = 2 ∧
      KMap.get (fun (x : Nat) => 0) s.fallow.atL2 i = 0) ∧
    (∃ (s : State) (i : Nat) (o : FalObj) (bs : List Byte) (p : List Nat × List Nat), s.falNext = some i ∧
      s.falDescBad (s.falDesc i) = false ∧ falOp (s.falDesc i) = 2 ∧ KMap.get (fun (x : Nat) => 0) s.fallow.atL2 i ≠ 0 ∧
      s.instState = instLoading ∧ (s.falSlot !s.activeSlot).find (falNum (s.falDesc i)) = some o ∧ o.written = false ∧
      o.len = falLen (s.falDesc i) ∧ bs = s.peek (falAddr (s.falDesc i)) o.len ∧ shaLe bs = o.digest ∧
      pickPairs s.fallow.targets s.fallow.blocks (if s.fallow.targets ≤ 1 then (s.fallow.blocks - 16) / 2 else s.fallow.total) 0
      (s.fallow.need o.len) s.fallow.used = some p) ∧
    (∃ (s : State) (found : List ScrubFind) (o : FalObj) (c d : FalCopy) (src : Source), s.power.falStart = false ∧
      (s.falSlot s.activeSlot).objs = [o] ∧ (s.falSlot s.activeSlot).man0 = (s.falSlot s.activeSlot).man1 ∧ o.c0 = some c ∧
      o.c1 = some d ∧ c.data = d.data ∧ shaLe c.data = o.digest ∧ foundBits found o.num false ≤ 72 ∧
      s.get FALLOW_SCRUB.REFRESH_BITS ≤ foundBits found o.num false ∧ foundBits found o.num true = 0 ∧
      1 ≤ s.get FALLOW_SCRUB.REFRESH_BITS ∧ Takes s src 0xC0008 2) ∧
    (∃ (s : State), s.fallow.repairs = []) ∧
    (∃ (s : State) (num : Nat) (rs : List (Nat × Bool)) (o : FalObj) (good : FalCopy) (sbs : List Nat), s.fallow.repairs =
      (num, false) :: rs ∧ s.instState ≠ instCommitting ∧ (s.falSlot s.activeSlot).find num = some o ∧ o.c1 = some good ∧
      shaLe good.data = o.digest ∧ pickMatch s.fallow.targets s.fallow.blocks false good.sbs s.fallow.used = some sbs) :=
  ⟨⟨repairing, 0, by decide +kernel⟩,
    ⟨(fallow readDesc false), 0, by decide +kernel⟩,
    ⟨reading, 3, ⟨3, 4398046515200, 64, 0, [1, 1, 1, 1, 1, 1, 1, 1, 1, 1, 1, 1, 1, 1, 1, 1, 1, 1, 1, 1, 1, 1, 1, 1, 1, 1, 1,
      1, 1, 1, 1, 1, 1, 1, 1, 1, 1, 1, 1, 1, 1, 1, 1, 1, 1, 1, 1, 1, 1, 1, 1, 1, 1, 1, 1, 1, 1, 1, 1, 1, 1, 1, 1, 1]⟩,
      by decide +kernel⟩,
    ⟨(fallow writeDesc true), 0, by decide +kernel⟩,
    ⟨writing, 0, (object7 (none) (none)), (State.peek (fallow writeDesc true) (State.gaddr on 1 4096) 64), ([17], [4113]),
      by decide +kernel⟩,
    ⟨writing, [⟨7, false, 72⟩], (object7 (some (copyA 16)) (some (copyA 2064))), (copyA 16), (copyA 2064), Source.lamp,
      by decide +kernel⟩,
    ⟨writing, by decide +kernel⟩,
    ⟨repairing, 7, (FallowSt.repairs (State.fallow (fallow [] false))), (object7 (some (copyA 16)) (some (copyA 2064))),
      (copyA 2064), [6160], by decide +kernel⟩⟩

theorem witness_ServeAdmit :
    (∃ (s : State) (src : Source) (slot : BitVec 10),
      let i : Nat := slot.toNat
      Takes s src 0x100050 1 ∧ s.get SERVE_CTRL.EN = 1 ∧ s.boundaryWork = false ∧ (s.slot i).st ≠ slotFree) ∧
    (∃ (s : State) (src : Source) (slot : BitVec 10),
      let i : Nat := slot.toNat
      let u : State := s.readRequest i
      Takes s src 0x100050 1 ∧ s.get SERVE_CTRL.EN = 1 ∧ s.boundaryWork = false ∧ (s.slot i).st = slotFree ∧
        u.requestBad i = true) ∧
    (∃ (s : State) (src : Source) (slot : BitVec 10) (r : Nat),
      let i : Nat := slot.toNat
      let u : State := s.readRequest i
      let v : SlotSt := have __src : SlotSt := u.requestOf i
      { st := __src.st, prio := __src.prio, cls := __src.cls, mb := __src.mb, row := __src.row, cancelled := __src.cancelled, ending := __src.ending, resumePend := __src.resumePend, reqTag := __src.reqTag, len := __src.len, limit := __src.limit, stepPos := __src.stepPos, admSeq := __src.admSeq, mbForce := __src.mbForce, cmdSeq := s.serve.nextCmd, leaving := __src.leaving, want := __src.want, move := __src.move, freeIn := __src.freeIn, releasing := __src.releasing };
        let k : State := have __src : State := u.knowSlot i v;
        { regs := __src.regs, results := __src.results, seedbed := __src.seedbed, topsoil := __src.topsoil, subsoil := __src.subsoil, lit := __src.lit, dark := __src.dark, rot := __src.rot, field := __src.field, sched := __src.sched, moe := __src.moe, serve := have __src : ServeSt := (u.knowSlot i v).serve; { slots := __src.slots, planNow := __src.planNow, planNext := __src.planNext, planNew := __src.planNew, nextAdm := __src.nextAdm, nextCmd := s.serve.nextCmd + 1, poolFree := __src.poolFree, poolDirty := __src.poolDirty, subUsed := __src.subUsed, results := __src.results, sheaf := __src.sheaf, held := __src.held }, harrow := __src.harrow, net := __src.net, ward := __src.ward, lamp := __src.lamp, power := __src.power, bist := __src.bist, fallow := __src.fallow, drill := __src.drill, tap := __src.tap, part := __src.part, freeCtr := __src.freeCtr, pending := __src.pending };
        let mb : Bool := chooseMb s.serve.planNew v.mbForce; Takes s src 0x100050 1 ∧ s.get SERVE_CTRL.EN = 1 ∧
        s.boundaryWork = false ∧ (s.slot i).st = slotFree ∧ u.requestBad i = false ∧ k.admitReason i = none ∧
        freeRow s.serve.planNew mb = some r) ∧
    (∃ (s : State) (src : Source) (slot : BitVec 10),
      let i : Nat := slot.toNat
      let u : State := s.readRequest i
      let v : SlotSt := have __src : SlotSt := u.requestOf i
      { st := __src.st, prio := __src.prio, cls := __src.cls, mb := __src.mb, row := __src.row, cancelled := __src.cancelled, ending := __src.ending, resumePend := __src.resumePend, reqTag := __src.reqTag, len := __src.len, limit := __src.limit, stepPos := __src.stepPos, admSeq := __src.admSeq, mbForce := __src.mbForce, cmdSeq := s.serve.nextCmd, leaving := __src.leaving, want := __src.want, move := __src.move, freeIn := __src.freeIn, releasing := __src.releasing };
        let k : State := have __src : State := u.knowSlot i v;
        { regs := __src.regs, results := __src.results, seedbed := __src.seedbed, topsoil := __src.topsoil, subsoil := __src.subsoil, lit := __src.lit, dark := __src.dark, rot := __src.rot, field := __src.field, sched := __src.sched, moe := __src.moe, serve := have __src : ServeSt := (u.knowSlot i v).serve; { slots := __src.slots, planNow := __src.planNow, planNext := __src.planNext, planNew := __src.planNew, nextAdm := __src.nextAdm, nextCmd := s.serve.nextCmd + 1, poolFree := __src.poolFree, poolDirty := __src.poolDirty, subUsed := __src.subUsed, results := __src.results, sheaf := __src.sheaf, held := __src.held }, harrow := __src.harrow, net := __src.net, ward := __src.ward, lamp := __src.lamp, power := __src.power, bist := __src.bist, fallow := __src.fallow, drill := __src.drill, tap := __src.tap, part := __src.part, freeCtr := __src.freeCtr, pending := __src.pending };
        let mb : Bool := chooseMb s.serve.planNew v.mbForce; Takes s src 0x100050 1 ∧ s.get SERVE_CTRL.EN = 1 ∧
        s.boundaryWork = false ∧ (s.slot i).st = slotFree ∧ u.requestBad i = false ∧ k.admitReason i = none ∧
        freeRow s.serve.planNew mb = none) :=
  ⟨⟨(withSlot (slotIn slotActive)), Source.lamp, 3, by decide +kernel⟩,
    ⟨crowded, Source.lamp, 0, by decide +kernel⟩,
    ⟨serving, Source.lamp, 3, 0, by decide +kernel⟩,
    ⟨crowded, Source.lamp, 3, by decide +kernel⟩⟩

theorem witness_ServeSlotCommands :
    (∃ (s : State) (src : Source) (slot : BitVec 10) (arg : BitVec 14) (c : Instr), Takes s src 0x100050 1 ∧
      s.get SERVE_CTRL.EN = 0 ∧ c ∈ [Instr.admitSlot src slot true, Instr.admitSlot src slot false, Instr.cancel src slot,
      Instr.pause src slot, Instr.resume src slot, Instr.setpos src slot arg, Instr.release src slot]) ∧
    (∃ (s : State) (src : Source) (slot : BitVec 10) (arg : BitVec 14) (e : Instr × ServeCmd),
      let i : Nat := slot.toNat
      Takes s src 0x100050 1 ∧ s.get SERVE_CTRL.EN = 1 ∧ s.boundaryWork = true ∧
        e ∈ [(Instr.admitSlot src slot true, { src := src, op := 1, slot := i, mayPause := true, arg := 0 }), (Instr.admitSlot
        src slot false, { src := src, op := 1, slot := i, mayPause := false, arg := 0 }), (Instr.cancel src slot,
        { src := src, op := 2, slot := i, mayPause := false, arg := 0 }), (Instr.pause src slot,
        { src := src, op := 3, slot := i, mayPause := false, arg := 0 }), (Instr.resume src slot,
        { src := src, op := 4, slot := i, mayPause := false, arg := 0 }), (Instr.setpos src slot arg,
        { src := src, op := 5, slot := i, mayPause := false, arg := arg.toNat }), (Instr.release src slot,
        { src := src, op := 6, slot := i, mayPause := false, arg := 0 })]) ∧
    (∃ (s : State) (src : Source) (slot : BitVec 10),
      let i : Nat := slot.toNat
      let v : SlotSt := s.slot i
      Takes s src 0x100050 1 ∧ s.get SERVE_CTRL.EN = 1 ∧ s.boundaryWork = false ∧ v.st = slotQueued) ∧
    (∃ (s : State) (src : Source) (slot : BitVec 10),
      let i : Nat := slot.toNat
      let v : SlotSt := s.slot i
      Takes s src 0x100050 1 ∧ s.get SERVE_CTRL.EN = 1 ∧ s.boundaryWork = false ∧ (v.st = slotActive ∨ v.st = slotResuming)) ∧
    (∃ (s : State) (src : Source) (slot : BitVec 10),
      let i : Nat := slot.toNat
      let v : SlotSt := s.slot i
      Takes s src 0x100050 1 ∧ s.get SERVE_CTRL.EN = 1 ∧ s.boundaryWork = false ∧ (v.st = slotFree ∨ v.st = slotEnded)) ∧
    (∃ (s : State) (src : Source) (slot : BitVec 10),
      let i : Nat := slot.toNat
      let v : SlotSt := s.slot i
      Takes s src 0x100050 1 ∧ s.get SERVE_CTRL.EN = 1 ∧ s.boundaryWork = false ∧ v.st = slotActive ∧ 2 ≤ v.prio ∧
        s.pauseFits i = true ∧ v.releasing = false ∧ s.planned i = true) ∧
    (∃ (s : State) (src : Source) (slot : BitVec 10),
      let i : Nat := slot.toNat
      let v : SlotSt := s.slot i
      Takes s src 0x100050 1 ∧ s.get SERVE_CTRL.EN = 1 ∧ s.boundaryWork = false ∧ v.st = slotActive ∧ 2 ≤ v.prio ∧
        s.pauseFits i = true ∧ v.releasing = false ∧ s.planned i = false ∧ v.cancelled = false) ∧
    (∃ (s : State) (src : Source) (slot : BitVec 10),
      let i : Nat := slot.toNat
      let v : SlotSt := s.slot i
      Takes s src 0x100050 1 ∧ s.get SERVE_CTRL.EN = 1 ∧ s.boundaryWork = false ∧ v.st = slotActive ∧ 2 ≤ v.prio ∧
        s.pauseFits i = true ∧ v.releasing = false ∧ s.planned i = false ∧ v.cancelled = true) ∧
    (∃ (s : State) (src : Source) (slot : BitVec 10),
      let i : Nat := slot.toNat
      let v : SlotSt := s.slot i
      Takes s src 0x100050 1 ∧ s.get SERVE_CTRL.EN = 1 ∧ s.boundaryWork = false ∧ v.st = slotActive ∧ 2 ≤ v.prio ∧
        s.pauseFits i = false) ∧
    (∃ (s : State) (src : Source) (slot : BitVec 10),
      let i : Nat := slot.toNat
      let v : SlotSt := s.slot i
      Takes s src 0x100050 1 ∧ s.get SERVE_CTRL.EN = 1 ∧ s.boundaryWork = false ∧ (v.st ≠ slotActive ∨ v.prio < 2)) ∧
    (∃ (s : State) (src : Source) (slot : BitVec 10),
      let i : Nat := slot.toNat
      let v : SlotSt := s.slot i
      Takes s src 0x100050 1 ∧ s.get SERVE_CTRL.EN = 1 ∧ s.boundaryWork = false ∧ (v.st = slotPausing ∨ v.st = slotPaused) ∧
        s.resumeFits i = true) ∧
    (∃ (s : State) (src : Source) (slot : BitVec 10),
      let i : Nat := slot.toNat
      let v : SlotSt := s.slot i
      Takes s src 0x100050 1 ∧ s.get SERVE_CTRL.EN = 1 ∧ s.boundaryWork = false ∧ (v.st = slotPausing ∨ v.st = slotPaused) ∧
        s.resumeFits i = false) ∧
    (∃ (s : State) (src : Source) (slot : BitVec 10),
      let i : Nat := slot.toNat
      let v : SlotSt := s.slot i
      Takes s src 0x100050 1 ∧ s.get SERVE_CTRL.EN = 1 ∧ s.boundaryWork = false ∧ v.st ≠ slotPausing ∧ v.st ≠ slotPaused) ∧
    (∃ (s : State) (src : Source) (slot : BitVec 10) (arg : BitVec 14),
      let i : Nat := slot.toNat
      let v : SlotSt := s.slot i
      Takes s src 0x100050 1 ∧ s.get SERVE_CTRL.EN = 1 ∧ s.boundaryWork = false ∧ v.st = slotActive ∧ 1 ≤ arg.toNat ∧
        arg.toNat ≤ v.stepPos ∧ arg.toNat ≤ 8192 ∧ arg.toNat ≤ v.limit) ∧
    (∃ (s : State) (src : Source) (slot : BitVec 10) (arg : BitVec 14),
      let i : Nat := slot.toNat
      let v : SlotSt := s.slot i
      Takes s src 0x100050 1 ∧ s.get SERVE_CTRL.EN = 1 ∧ s.boundaryWork = false ∧ v.st = slotActive ∧ (arg.toNat = 0 ∨
        8192 < arg.toNat ∨ v.limit < arg.toNat)) ∧
    (∃ (s : State) (src : Source) (slot : BitVec 10),
      let i : Nat := slot.toNat
      let v : SlotSt := s.slot i
      Takes s src 0x100050 1 ∧ s.get SERVE_CTRL.EN = 1 ∧ s.boundaryWork = false ∧ v.st ≠ slotActive) ∧
    (∃ (s : State) (src : Source) (slot : BitVec 10) (arg : BitVec 14),
      let i : Nat := slot.toNat
      let v : SlotSt := s.slot i
      let p : List PlanEntry := List.map (fun (e : PlanEntry) => if e.slot = i then
        { slot := e.slot, mb := e.mb, row := e.row, stepPos := arg.toNat, stalled := e.stalled, dead := e.dead } else e)
        s.serve.planNew
      let k : State := s.knowSlot i
        { st := v.st, prio := v.prio, cls := v.cls, mb := v.mb, row := v.row, cancelled := v.cancelled, ending := v.ending, resumePend := v.resumePend, reqTag := v.reqTag, len := v.len, limit := v.limit, stepPos := arg.toNat, admSeq := v.admSeq, mbForce := v.mbForce, cmdSeq := v.cmdSeq, leaving := v.leaving, want := v.want, move := v.move, freeIn := v.freeIn, releasing := v.releasing }
      Takes s src 0x100050 1 ∧ s.get SERVE_CTRL.EN = 1 ∧ s.boundaryWork = false ∧ v.st = slotActive ∧ v.stepPos < arg.toNat ∧
        arg.toNat ≤ 8192 ∧ arg.toNat ≤ v.limit ∧ k.quotaOk p i = false) ∧
    (∃ (s : State) (src : Source) (slot : BitVec 10) (arg : BitVec 14),
      let i : Nat := slot.toNat
      let v : SlotSt := s.slot i
      let p : List PlanEntry := List.map (fun (e : PlanEntry) => if e.slot = i then
        { slot := e.slot, mb := e.mb, row := e.row, stepPos := arg.toNat, stalled := e.stalled, dead := e.dead } else e)
        s.serve.planNew
      let k : State := s.knowSlot i
        { st := v.st, prio := v.prio, cls := v.cls, mb := v.mb, row := v.row, cancelled := v.cancelled, ending := v.ending, resumePend := v.resumePend, reqTag := v.reqTag, len := v.len, limit := v.limit, stepPos := arg.toNat, admSeq := v.admSeq, mbForce := v.mbForce, cmdSeq := v.cmdSeq, leaving := v.leaving, want := v.want, move := v.move, freeIn := v.freeIn, releasing := v.releasing }
      Takes s src 0x100050 1 ∧ s.get SERVE_CTRL.EN = 1 ∧ s.boundaryWork = false ∧ v.st = slotActive ∧ v.stepPos < arg.toNat ∧
        arg.toNat ≤ 8192 ∧ arg.toNat ≤ v.limit ∧ k.quotaOk p i = true ∧ k.timeOk p = false) ∧
    (∃ (s : State) (src : Source) (slot : BitVec 10) (arg : BitVec 14),
      let i : Nat := slot.toNat
      let v : SlotSt := s.slot i
      let p : List PlanEntry := List.map (fun (e : PlanEntry) => if e.slot = i then
        { slot := e.slot, mb := e.mb, row := e.row, stepPos := arg.toNat, stalled := e.stalled, dead := e.dead } else e)
        s.serve.planNew
      let k : State := s.knowSlot i
        { st := v.st, prio := v.prio, cls := v.cls, mb := v.mb, row := v.row, cancelled := v.cancelled, ending := v.ending, resumePend := v.resumePend, reqTag := v.reqTag, len := v.len, limit := v.limit, stepPos := arg.toNat, admSeq := v.admSeq, mbForce := v.mbForce, cmdSeq := v.cmdSeq, leaving := v.leaving, want := v.want, move := v.move, freeIn := v.freeIn, releasing := v.releasing }
      Takes s src 0x100050 1 ∧ s.get SERVE_CTRL.EN = 1 ∧ s.boundaryWork = false ∧ v.st = slotActive ∧ v.stepPos < arg.toNat ∧
        arg.toNat ≤ 8192 ∧ arg.toNat ≤ v.limit ∧ k.quotaOk p i = true ∧ k.timeOk p = true) ∧
    (∃ (s : State) (src : Source) (slot : BitVec 10),
      let i : Nat := slot.toNat
      let v : SlotSt := s.slot i
      Takes s src 0x100050 1 ∧ s.get SERVE_CTRL.EN = 1 ∧ s.boundaryWork = false ∧ v.st = slotEnded ∧ v.freeIn = none) ∧
    (∃ (s : State) (src : Source) (slot : BitVec 10),
      let i : Nat := slot.toNat
      let v : SlotSt := s.slot i
      Takes s src 0x100050 1 ∧ s.get SERVE_CTRL.EN = 1 ∧ s.boundaryWork = false ∧ v.st = slotEnded ∧ v.freeIn ≠ none) ∧
    (∃ (s : State) (src : Source) (slot : BitVec 10),
      let i : Nat := slot.toNat
      let v : SlotSt := s.slot i
      Takes s src 0x100050 1 ∧ s.get SERVE_CTRL.EN = 1 ∧ s.boundaryWork = false ∧ v.st ≠ slotEnded) :=
  ⟨⟨run, Source.lamp, 0, 0, Instr.admitSlot (Source.lamp) 0 true, by decide +kernel⟩,
    ⟨working, Source.lamp, 0, 0, (Instr.admitSlot (Source.lamp) 0 true, ⟨Source.lamp, 1, 0, true, 0⟩), by decide +kernel⟩,
    ⟨(planned slotQueued), Source.lamp, 3, by decide +kernel⟩,
    ⟨frozen, Source.lamp, 3, by decide +kernel⟩,
    ⟨ended, Source.lamp, 0, by decide +kernel⟩,
    ⟨frozen, Source.lamp, 3, by decide +kernel⟩,
    ⟨(planned slotActive), Source.lamp, 3, by decide +kernel⟩,
    ⟨dropped, Source.lamp, 3, by decide +kernel⟩,
    ⟨(setWords (planned slotActive) (65536 + 96) [(2 ^ 63 + 2 ^ 42)]), Source.lamp, 3, by decide +kernel⟩,
    ⟨ended, Source.lamp, 0, by decide +kernel⟩,
    ⟨(planned slotPaused), Source.lamp, 3, by decide +kernel⟩,
    ⟨(State.put (setWords (planned slotPaused) (65536 + 96) [(2 ^ 63 + 2 ^ 43)]) (TIER_QT.LIMIT 0) 0), Source.lamp, 3,
      by decide +kernel⟩,
    ⟨ended, Source.lamp, 0, by decide +kernel⟩,
    ⟨frozen, Source.lamp, 3, 1, by decide +kernel⟩,
    ⟨frozen, Source.lamp, 3, 0, by decide +kernel⟩,
    ⟨ended, Source.lamp, 0, by decide +kernel⟩,
    ⟨(State.knowSlot (State.put (planned slotActive) (TIER_QT.LIMIT 0) 0) 3 { (slotIn slotActive) with stepPos := 200 }),
      Source.lamp, 3, 255, by decide +kernel⟩,
    ⟨(State.knowSlot (State.put { (planned slotActive) with lit := Image.cleared } SERVE_TGT.TGT_2 1) 3
      { (slotIn slotActive) with stepPos := 200 }), Source.lamp, 3, 255, by decide +kernel⟩,
    ⟨frozen, Source.lamp, 3, 255, by decide +kernel⟩,
    ⟨ended, Source.lamp, 3, by decide +kernel⟩,
    ⟨endedMoving, Source.lamp, 3, by decide +kernel⟩,
    ⟨ended, Source.lamp, 0, by decide +kernel⟩⟩

theorem witness_ServePagesAndResults :
    (∃ (s : State) (slot : BitVec 10) (m : PageMove) (page : BitVec 12), (s.slot slot.toNat).move = some m ∧
      s.writeWaits m.dst s.pageSize = false ∧ page.toNat = m.page ∧ s.serve.slots = [(slot.toNat, s.slot slot.toNat)] ∧
      (s.slot slot.toNat).st = slotActive ∧ (s.slot slot.toNat).want = 0 ∧ s.harrow.reclaims = [] ∧ s.reclaiming = [] ∧
      m.toSub = true) ∧
    (∃ (s : State) (slot : BitVec 10), (s.slot slot.toNat).move = none) ∧
    (∃ (s : State) (page : BitVec 16), s.serve.poolDirty.contains page.toNat = false) ∧
    (∃ (s : State) (page : BitVec 16), s.serve.poolDirty.contains page.toNat = true ∧ s.get WARD_STATUS.STATE = 0 ∧
      s.serve.slots = [] ∧ s.harrow.reclaims = [] ∧ s.reclaiming = [] ∧ topRange (s.poolOff page.toNat) s.pageSize = true) ∧
    (∃ (s : State) (mb : Bool) (p : PassSt) (r : Nat) (e : PlanEntry),
      let u : State := s.partReads (s.areaOff (131072 + 256 * (512 * bit e.mb + e.row))) 256 true
      s.resultPass mb = some p ∧ s.boardHeld (Owner.serve mb) = true ∧
        List.filter (passRowActive p.desc) (List.range 512) = [r] ∧
        List.find? (fun (e : PlanEntry) => e.mb == mb && e.row == r) s.serve.planNow = some e ∧ e.dead = false ∧
        e.stalled = false ∧ s.walksEnded p.pseq = true ∧ (u.rowRead e).snd = none ∧ (u.rowRead e).fst.bad = true) ∧
    (∃ (s : State) (mb : Bool) (p : PassSt), s.resultPass mb = some p ∧ s.walksEnded p.pseq = false) ∧
    (∃ (s : State) (src : Source) (val : BitVec 64), Takes s src 0x100000 1 ∧ bitOf val 1 = false ∧ bitOf val 0 = true ∧
      s.get SERVE_CTRL.EN = 0) ∧
    (∃ (s : State) (src : Source) (val : BitVec 64), Takes s src 0x100000 1 ∧ bitOf val 1 = false ∧ bitOf val 0 = true ∧
      s.get SERVE_CTRL.EN = 1) ∧
    (∃ (s : State) (src : Source) (val : BitVec 64), Takes s src 0x100000 1 ∧ bitOf val 1 = false ∧ bitOf val 0 = false ∧
      s.stepState = stepStopped) ∧
    (∃ (s : State) (src : Source) (val : BitVec 64), Takes s src 0x100000 1 ∧ bitOf val 1 = false ∧ bitOf val 0 = false ∧
      s.stepState ≠ stepStopped) ∧
    (∃ (s : State) (src : Source) (val : BitVec 64), Takes s src 0x100000 1 ∧ bitOf val 1 = true ∧ bitOf val 0 = true ∧
      s.get SERVE_CTRL.EN = 1) :=
  ⟨⟨paging, 3, pageMove, 0, by decide +kernel⟩,
    ⟨paging, 0, by decide +kernel⟩,
    ⟨paging, 0, by decide +kernel⟩,
    ⟨dirty, 5, by decide +kernel⟩,
    ⟨checking, false, passRow, 0, ⟨3, false, 0, 100, false, false⟩, by decide +kernel⟩,
    ⟨takenWriter, false, passAll, by decide +kernel⟩,
    ⟨dirty, Source.lamp, 1, by decide +kernel⟩,
    ⟨paging, Source.lamp, 1, by decide +kernel⟩,
    ⟨on, Source.lamp, 0, by decide +kernel⟩,
    ⟨paging, Source.lamp, 0, by decide +kernel⟩,
    ⟨paging, Source.lamp, 3, by decide +kernel⟩⟩

theorem witness_DrillHeadRole :
    (∃ (s : State) (src : Source) (val : W64),
      let hdr : List W64 := s.topWords s.jobOff 8
      let ms : List (List W64) := List.map (fun (i : Nat) => s.topWords (s.jobOff + 64 + 64 * i) 8) (List.range (min 64
        (bitsOf (hdr.getD 0 0) 0 7)))
      s.get WARD_STATUS.STATE = 0 ∧ Takes s src 0xD0000 1 ∧ bitOf val 1 = false ∧ s.headRuns = false ∧
        drillBad hdr ms = true) ∧
    (∃ (s : State) (src : Source) (val : W64) (o : Nat),
      let hdr : List W64 := s.topWords s.jobOff 8
      let ms : List (List W64) := List.map (fun (i : Nat) => s.topWords (s.jobOff + 64 + 64 * i) 8) (List.range (min 64
        (bitsOf (hdr.getD 0 0) 0 7)))
      let len : Nat := bitsOf (hdr.getD 2 0) 0 41
      s.get WARD_STATUS.STATE = 0 ∧ Takes s src 0xD0000 1 ∧ bitOf val 1 = false ∧ s.headRuns = false ∧
        drillBad hdr ms = false ∧ bitOf (hdr.getD 0 0) 7 = false ∧ s.locate (BitVec.toNat (hdr.getD 1 0)) = Loc.top o ∧
        topRange o len = true) ∧
    (∃ (s : State) (src : Source) (val : W64) (h : DrillHead), s.get WARD_STATUS.STATE = 0 ∧ Takes s src 0xD0000 1 ∧
      bitOf val 0 = false ∧ s.headRuns = true ∧ s.drill.head = some h ∧ h.results.length = h.members.length) ∧
    (∃ (s : State) (src : Source) (val : W64), s.get WARD_STATUS.STATE = 0 ∧ Takes s src 0xD0000 1 ∧ bitOf val 0 = false ∧
      bitOf val 1 = false) ∧
    (∃ (s : State) (h : DrillHead) (i : Nat) (r : DrillRes), s.get WARD_STATUS.STATE = 0 ∧ s.headRuns = true ∧
      s.drill.head = some h ∧ h.results[i]? = some r ∧ r.state = resPending ∧ i < 64 ∧ h.jobId < 2 ^ 32 ∧ ∃ (j : Nat), j ≠ i ∧
      ∃ (q : DrillRes), h.results[j]? = some q ∧ q.bypassed = false ∧ q.state = resPending) ∧
    (∃ (s : State) (h : DrillHead) (i : Nat) (r : DrillRes) (n k : Nat), s.get WARD_STATUS.STATE = 0 ∧ s.headRuns = true ∧
      s.drill.head = some h ∧ h.results[i]? = some r ∧ r.state = resPending ∧ i < 64 ∧ h.jobId < 2 ^ 32 ∧
      (∀ (j : Nat) (q : DrillRes), j ≠ i → h.results[j]? = some q → q.state ≠ resPending) ∧ h.catchUp = some (i, n, k)) ∧
    (∃ (s : State), s.get WARD_STATUS.STATE = 0 ∧ s.drill.head = none) ∧
    (∃ (s : State) (hd : MsgHdr) (h : DrillHead) (n : Nat) (bs : List Byte), s.get WARD_STATUS.STATE = 0 ∧
      s.drill.member = none ∧ s.headRuns = true ∧ s.drill.head = some h ∧ h.catchUp = none ∧ h.credit = 0 ∧
      s.isNext h.later hd.src.toNat = true ∧ nextNeeded h.later (chunkCount h.len) h.nextChunk = some n ∧
      s.headChunk h n = some bs ∧ h.jobId < 2 ^ 32) :=
  ⟨⟨on, Source.lamp, 0, by decide +kernel⟩,
    ⟨(jobAt 2), Source.lamp, 0, 0, by decide +kernel⟩,
    ⟨catching, Source.lamp, 0, catchingHead, by decide +kernel⟩,
    ⟨on, Source.lamp, 0, by decide +kernel⟩,
    ⟨heading head2, head2, 0, .pending, by decide +kernel, by decide +kernel, by decide +kernel, by decide +kernel,
      by decide +kernel, by decide +kernel, by decide +kernel, 1, by decide +kernel, .pending, by decide +kernel⟩,
    ⟨catching, catchingHead, 0, .pending, 0, 0, by decide +kernel, by decide +kernel, by decide +kernel, by decide +kernel,
      by decide +kernel, by decide +kernel, by decide +kernel, catching_rest, by decide +kernel⟩,
    ⟨on, by decide +kernel⟩,
    ⟨(heading (headOf [(1, 64)] 0 (none))), hdr, (headOf [(1, 64)] 0 (none)), 0, [0, 0, 0, 0, 0, 0, 0, 0, 0, 0, 0, 0, 0, 0, 0,
      0, 0, 0, 0, 0, 0, 0, 0, 0, 0, 0, 0, 0, 0, 0, 0, 0, 0, 0, 0, 0, 0, 0, 0, 0, 0, 0, 0, 0, 0, 0, 0, 0, 0, 0, 0, 0, 0, 0, 0, 0,
      0, 0, 0, 0, 0, 0, 0, 0], by decide +kernel⟩⟩

theorem witness_DrillMemberRole :
    (∃ (s : State) (header entry : List W64) (out : Bool), s.get DRILL_CTRL.ACCEPT = 0 ∨ s.drillBusy = true ∨ out = true ∨
      s.drillDstBad entry (bitsOf (header.getD 2 0) 0 41) = true) ∧
    (∃ (s : State) (header entry : List W64), s.get DRILL_CTRL.ACCEPT ≠ 0 ∧ s.drillBusy = false ∧
      s.drillDstBad entry (bitsOf (header.getD 2 0) 0 41) = false ∧ memKeep (entry.getD 0 0) = true) ∧
    (∃ (s : State) (m : DrillMember) (n : BitVec 20), s.drill.member = some m ∧ m.jobId < 2 ^ 32 ∧ n.toNat < m.want) ∧
    (∃ (s : State) (m : DrillMember) (n : BitVec 20),
      let w : W64 := m.entry.getD 0 0
      s.drill.member = some m ∧ m.jobId < 2 ^ 32 ∧ m.want ≤ n.toNat ∧ memKeeps w n.toNat = true ∧ memKind w = 0 ∧
        m.reported = false ∧ m.later = [] ∧ s.get WARD_STATUS.STATE = 0 ∧ n.toNat ≠ memLast w) ∧
    (∃ (s : State) (m : DrillMember) (n : BitVec 20),
      let w : W64 := m.entry.getD 0 0
      s.drill.member = some m ∧ m.jobId < 2 ^ 32 ∧ m.want ≤ n.toNat ∧ memKeeps w n.toNat = true ∧ memKind w = 0 ∧
        m.reported = false ∧ m.later = [] ∧ s.get WARD_STATUS.STATE = 0 ∧ n.toNat = memLast w) ∧
    (∃ (s : State) (m : DrillMember), s.drill.member = some m ∧ m.jobId < 2 ^ 32 ∧ s.bypassDue = false) ∧
    (∃ (s : State) (m : DrillMember) (j k : Nat × W64) (rest : List (Nat × W64)), s.drill.member = some m ∧ m.jobId < 2 ^ 32 ∧
      s.bypassDue = true ∧ m.later = j :: k :: rest) ∧
    (∃ (s : State) (m : DrillMember) (j : BitVec 8),
      let w : W64 := m.entry.getD 0 0
      s.drill.member = some m ∧ m.jobId < 2 ^ 32 ∧ j.toNat = m.idx ∧ memKeep w = true ∧ 0 < m.kept ∧
        memFirst w + m.kept ≤ 2 ^ 20) ∧
    (∃ (s : State) (m : DrillMember) (j : BitVec 8), s.drill.member = some m ∧ m.jobId < 2 ^ 32 ∧ j.toNat ≠ m.idx) ∧
    (∃ (s : State) (hd : MsgHdr) (m : DrillMember) (n : BitVec 20) (c : Nat),
      let w : W64 := m.entry.getD 0 0
      s.drill.member = some m ∧ m.jobId < 2 ^ 32 ∧ s.isNext m.later hd.src.toNat = true ∧ memKeep w = true ∧
        nextNeeded m.later (chunkCount m.len) n.toNat = some c ∧ c < m.fwd ∧ m.held.contains c = false) ∧
    (∃ (s : State) (hd : MsgHdr) (m : DrillMember) (n : BitVec 20) (c : Nat),
      let w : W64 := m.entry.getD 0 0
      s.drill.member = some m ∧ m.jobId < 2 ^ 32 ∧ s.isNext m.later hd.src.toNat = true ∧ memKeep w = true ∧
        nextNeeded m.later (chunkCount m.len) n.toNat = some c ∧ (m.fwd ≤ c ∨ m.held.contains c = true)) ∧
    (∃ (s : State) (m : DrillMember), s.drill.member = some m ∧ m.jobId < 2 ^ 32 ∧ m.reported = false) ∧
    (∃ (s : State), s.drill.member = none) :=
  ⟨⟨on, [], [], true, by decide +kernel⟩,
    ⟨accepting, [], (List.map (BitVec.ofNat 64) [2 ^ 6, on.gaddr 1 1048576]), by decide +kernel⟩,
    ⟨(drilling (memberOf [(2, memWord), (3, memWord)] 1 1 [0] 0)), (memberOf [(2, memWord), (3, memWord)] 1 1 [0] 0), 0,
      by decide +kernel⟩,
    ⟨(drilling (memberOf [] 0 0 [] 0)), (memberOf [] 0 0 [] 0), 0, by decide +kernel⟩,
    ⟨(drilling (memberOf [] 0 0 [] 0)), (memberOf [] 0 0 [] 0), 1, by decide +kernel⟩,
    ⟨(drilling (memberOf [] 0 0 [] 0)), (memberOf [] 0 0 [] 0), by decide +kernel⟩,
    ⟨(drilling (memberOf [(2, memWord), (3, memWord)] 1 1 [0] 0)), (memberOf [(2, memWord), (3, memWord)] 1 1 [0] 0), (2,
      memWord), (3, memWord), [], by decide +kernel⟩,
    ⟨(drilling (memberOf [(2, memWord), (3, memWord)] 1 1 [0] 0)), (memberOf [(2, memWord), (3, memWord)] 1 1 [0] 0), 1,
      by decide +kernel⟩,
    ⟨(drilling (memberOf [] 0 0 [] 0)), (memberOf [] 0 0 [] 0), 0, by decide +kernel⟩,
    ⟨(drilling (memberOf [(2, memWord)] 2 2 [1] 0)), hdr, (memberOf [(2, memWord)] 2 2 [1] 0), 0, 0, by decide +kernel⟩,
    ⟨(drilling (memberOf [(2, memWord), (3, memWord)] 1 1 [0] 0)), hdr, (memberOf [(2, memWord), (3, memWord)] 1 1 [0] 0), 0,
      0, by decide +kernel⟩,
    ⟨(drilling (memberOf [] 0 0 [] 0)), (memberOf [] 0 0 [] 0), by decide +kernel⟩,
    ⟨on, by decide +kernel⟩⟩

theorem witness_LinkFrames :
    (∃ (s : State) (k : Fin 24),
      let l : Nat := ↑k
      s.linkLive l = false) ∧
    (∃ (s : State) (k : Fin 24) (f : Frame) (c : Instr),
      let l : Nat := ↑k
      s.linkLive l = true ∧ f.good = false ∧ c ∈ [Instr.dataFrame k f, Instr.idleFrame k f]) ∧
    (∃ (s : State) (k : Fin 24) (f : Frame),
      let l : Nat := ↑k
      let v : LinkSt := s.link l
      let port : Nat := s.get (LINK_STATE.PORT l)
      s.linkLive l = true ∧ f.good = true ∧ f.nack = false ∧ s.linkState l = linkUp ∧ f.fseq.toNat = v.rxSeq ∧
        KMap.get (fun (x : Nat) => []) s.net.portBuf port = [] ∧
        f.pseq.toNat = KMap.get (fun (x : Nat) => 0) s.net.pseqRx port) ∧
    (∃ (s : State) (k : Fin 24) (f : Frame),
      let l : Nat := ↑k
      let v : LinkSt := s.link l
      s.linkLive l = true ∧ f.good = true ∧ f.nack = false ∧ s.linkState l = linkUp ∧ f.fseq.toNat ≠ v.rxSeq) ∧
    (∃ (s : State) (k : Fin 24) (f : Frame),
      let l : Nat := ↑k
      let v : LinkSt := s.link l
      let rest : List Frame := ackFrames f.ack.toNat v.replay
      let np : Nat := if rest.length = v.replay.length then v.noProgress else 0
      s.linkLive l = true ∧ f.good = true ∧ f.nack = true ∧ rest ≠ [] ∧ np + 1 < s.get LINK_CFG.DOWN_REPLAYS) :=
  ⟨⟨replaying, (1), by decide +kernel⟩,
    ⟨replaying, (0), (frame0 false false 0), Instr.dataFrame 0 ⟨0, 0, false, 0, 0, false, false, []⟩, by decide +kernel⟩,
    ⟨replaying, (0), (frame0 true false 0), by decide +kernel⟩,
    ⟨replaying, (0), (frame0 true false 1), by decide +kernel⟩,
    ⟨replaying, (0), nackFrame, by decide +kernel⟩⟩

theorem witness_LinkLossAndControl :
    (∃ (s : State) (k : Fin 24) (serial : W64) (reason : BitVec 8) (c : Instr),
      let l : Nat := ↑k
      s.linkLive l = false ∧ c ∈ [Instr.laneAlignLoss k, Instr.frameTimeout k, Instr.depart k serial reason]) ∧
    (∃ (s : State) (k : Fin 24) (c : Instr),
      let l : Nat := ↑k
      s.linkLive l = true ∧ (s.link l).replay = [] ∧ s.get WARD_STATUS.STATE = 0 ∧ s.drill = DrillSt.reset ∧
        KMap.get (fun (x : Nat) => []) s.net.portBuf (s.get (LINK_STATE.PORT l)) = [] ∧ s.get (LINK_STATE.ROLE l) ≠ 3 ∧
        c ∈ [Instr.laneAlignLoss k, Instr.frameTimeout k]) ∧
    (∃ (s : State) (k : Fin 24),
      let l : Nat := ↑k
      s.linkLive l = true ∧ (s.link l).replay = [] ∧ s.get WARD_STATUS.STATE = 0 ∧ s.drill = DrillSt.reset ∧
        KMap.get (fun (x : Nat) => []) s.net.portBuf (s.get (LINK_STATE.PORT l)) = [] ∧ s.get (LINK_STATE.ROLE l) ≠ 3 ∧
        (∀ (i : Nat), i < 8 → s.get (TIER_GNT_A.EN i) = 0) ∧ s.get (LINK_STATE.ROLE l) = 1) ∧
    (∃ (s : State) (src : Source) (k : Fin 24),
      let l : Nat := ↑k
      Takes s src 0xE0000 2 ∧ s.get (LINK_STATE.ROLE l) = 0) ∧
    (∃ (s : State) (src : Source) (k : Fin 24),
      let l : Nat := ↑k
      Takes s src 0xE0000 2 ∧ s.linkState l = linkOff) ∧
    (∃ (s : State) (src : Source) (k : Fin 24),
      let l : Nat := ↑k
      Takes s src 0xE0000 2 ∧ s.linkState l ≠ linkOff ∧ s.linkState l ≠ linkIsDown) ∧
    (∃ (s : State) (src : Source) (k : Fin 24),
      let l : Nat := ↑k
      Takes s src 0xE0000 2 ∧ s.get (LINK_STATE.ROLE l) ≠ 0 ∧ (s.linkState l = linkOff ∨ s.linkState l = linkIsDown)) ∧
    (∃ (s : State) (src : Source) (k : Fin 24),
      let l : Nat := ↑k
      Takes s src 0xE0000 2 ∧ (s.link l).replay = [] ∧ s.get WARD_STATUS.STATE = 0 ∧ s.drill = DrillSt.reset ∧
        s.get (LINK_STATE.ROLE l) ≠ 3 ∧ KMap.get (fun (x : Nat) => []) s.net.portBuf (s.get (LINK_STATE.PORT l)) = [] ∧
        s.get (LINK_STATE.ROLE l) ≠ 0) ∧
    (∃ (s : State) (src : Source) (k : Fin 24),
      let l : Nat := ↑k
      Takes s src 0xE0000 2 ∧ (s.link l).replay = [] ∧ s.get WARD_STATUS.STATE = 0 ∧ s.drill = DrillSt.reset ∧
        s.get (LINK_STATE.ROLE l) ≠ 3 ∧ KMap.get (fun (x : Nat) => []) s.net.portBuf (s.get (LINK_STATE.PORT l)) = [] ∧
        s.linkState l ≠ linkOff) :=
  ⟨⟨on, (0), 0, 0, Instr.laneAlignLoss 0, by decide +kernel⟩,
    ⟨(linkIn linkUp), (0), Instr.laneAlignLoss 0, by decide +kernel⟩,
    ⟨(linkIn linkUp), (0), by decide +kernel⟩,
    ⟨on, Source.lamp, (0), by decide +kernel⟩,
    ⟨on, Source.lamp, (0), by decide +kernel⟩,
    ⟨(linkIn linkUp), Source.lamp, (0), by decide +kernel⟩,
    ⟨(linkIn linkOff), Source.lamp, (0), by decide +kernel⟩,
    ⟨(linkIn linkUp), Source.lamp, (0), by decide +kernel⟩,
    ⟨(linkIn linkUp), Source.lamp, (0), by decide +kernel⟩⟩

theorem witness_LinkDecides :
    (∃ (s : State) (k : Fin 24) (ok : Bool),
      let l : Nat := ↑k
      s.linkState l = linkTraining ∧ ok = false) ∧
    (∃ (s : State) (k : Fin 24),
      let l : Nat := ↑k
      s.linkState l ≠ linkTraining) ∧
    (∃ (s : State) (k : Fin 24),
      let l : Nat := ↑k
      s.linkLive l = true) ∧
    (∃ (s : State) (k : Fin 24),
      let l : Nat := ↑k
      s.linkLive l = false) ∧
    (∃ (s : State) (k : Fin 24) (m : HelloMsg),
      let l : Nat := ↑k
      let v : LinkSt := s.link l
      s.linkState l = linkHello ∧ v.lastHello ≠ some m) ∧
    (∃ (s : State) (k : Fin 24) (m : HelloMsg),
      let l : Nat := ↑k
      let v : LinkSt := s.link l
      s.linkState l = linkHello ∧ v.lastHello = some m ∧ verdictRank m.verdict.toNat ≠ 0 ∧ s.net.plan.isSome = true ∧
        s.net.slice = none ∧ worseVerdict (s.verdict l m) m.verdict.toNat ≤ linkMgmt) ∧
    (∃ (s : State) (k : Fin 24) (m : HelloMsg),
      let l : Nat := ↑k
      let v : LinkSt := s.link l
      linkUp ≤ s.linkState l ∧ s.linkState l ≤ 7 ∧ Option.map (fun (b : HelloMsg) =>
        { serial := b.serial, rack := b.rack, tray := b.tray, xyz := b.xyz, link := b.link, port := b.port, revMajor := b.revMajor, revMinor := b.revMinor, verdict := m.verdict, fwdig := b.fwdig, planSeq := b.planSeq, planDig := b.planDig })
        v.basis ≠ some m ∧ s.drill = DrillSt.reset) :=
  ⟨⟨(linkIn linkTraining), (0), false, by decide +kernel⟩,
    ⟨helloAgrees, (0), by decide +kernel⟩,
    ⟨helloAgrees, (0), by decide +kernel⟩,
    ⟨helloAgrees, (1), by decide +kernel⟩,
    ⟨helloAgrees, (0), { (hello0 3) with tray := 2 }, by decide +kernel⟩,
    ⟨helloAgrees, (0), (hello0 3), by decide +kernel⟩,
    ⟨(linkIn linkUp), (0), (hello0 3), by decide +kernel⟩⟩

theorem witness_SliceAndRoutes :
    (∃ (s : State) (src : Source), Takes s src 0xF0020 2 ∧ s.applyBad = true) ∧
    (∃ (s : State) (src : Source),
      let c : Slice := sliceOf (s.sliceWord 0) (s.sliceWord 1) (s.sliceWord 2)
      Takes s src 0xF0020 2 ∧ s.applyBad = false ∧ c.has (s.get ROUTE_SELF.XYZ) = true ∧ s.substRegs = [] ∧
        s.net.slice = none ∧ c.index (s.get ROUTE_SELF.XYZ) ≠ 0) ∧
    (∃ (s : State) (src : Source), Takes s src 0xF0020 2 ∧ s.idleState = false) ∧
    (∃ (s : State) (src : Source), Takes s src 0xF0020 2 ∧ s.idleState = true) ∧
    (∃ (s : State) (src : Source) (g : BitVec 6), Takes s src (983552 + 8 * g.toNat) 1 ∧ (s.idleState = false ∨ g = 0)) ∧
    (∃ (s : State) (src : Source) (g : BitVec 6) (val : W64), Takes s src (983552 + 8 * g.toNat) 1 ∧ s.idleState = true ∧
      g ≠ 0 ∧ bitOf val 18 = true ∧ s.portsInSlice (bitsOf val 0 16) = false) ∧
    (∃ (s : State) (src : Source) (g : BitVec 6) (val : W64), Takes s src (983552 + 8 * g.toNat) 1 ∧ s.idleState = true ∧
      g ≠ 0 ∧ (bitOf val 18 = false ∨ s.portsInSlice (bitsOf val 0 16) = true)) ∧
    (∃ (s : State) (src : Source), Takes s src 0xF0038 2 ∧ s.drill = DrillSt.reset ∧ s.get WARD_STATUS.STATE = 0 ∧
      (∀ (i : Nat), i < 8 → s.get (TIER_GNT_A.EN i) = 0) ∧ s.net.slice = none) :=
  ⟨⟨on, Source.lamp, by decide +kernel⟩,
    ⟨applying1, Source.lamp, by decide +kernel⟩,
    ⟨run, Source.lamp, by decide +kernel⟩,
    ⟨applying1, Source.lamp, by decide +kernel⟩,
    ⟨applying1, Source.lamp, 0, by decide +kernel⟩,
    ⟨applying1, Source.lamp, 1, (State.sliceWord applying 0), by decide +kernel⟩,
    ⟨applying1, Source.lamp, 1, 0, by decide +kernel⟩,
    ⟨applying1, Source.lamp, by decide +kernel⟩⟩

theorem witness_PacketInjection :
    (∃ (s : State) (p : Packet) (a : Bool), s.injectHeld p a = true) ∧
    (∃ (s : State) (p : Packet), s.fabricBound p = true ∧ ¬rackIndex p.dst.toNat ∈ s.lamp.acked) ∧
    (∃ (s : State) (p : Packet) (a b : Bool), s.injectHeld p a = false ∧ s.injectRefused p = some b ∧ b = true) ∧
    (∃ (s : State) (p : Packet) (a : Bool),
      let vc : Nat := p.vc.toNat
      let e : RouteEntry := s.packetRoute p (rackIndex p.dst.toNat)
      s.injectHeld p a = false ∧ s.injectRefused p = none ∧ p.mcast = false ∧ p.dst.toNat ≠ s.self ∧ e.unreach = false ∧
        e.outside = false ∧ vcEncrypted vc = false) ∧
    (∃ (s : State) (p : Packet) (a : Bool),
      let e : RouteEntry := s.packetRoute p (rackIndex p.dst.toNat)
      s.injectHeld p a = false ∧ s.injectRefused p = none ∧ p.mcast = false ∧ p.dst.toNat ≠ s.self ∧ (e.unreach = true ∨
        e.outside = true)) :=
  ⟨⟨leader, (packet 0 1 256 0), false, by decide +kernel⟩,
    ⟨leader, (packet 6 1 256 0), by decide +kernel⟩,
    ⟨{ leader with lamp := { LampSt.reset with linkKeys := [(0, 1)] } }, (packet 1 1 512 0), false, true, by decide +kernel⟩,
    ⟨routed, (packet 3 1 256 0), false, by decide +kernel⟩,
    ⟨leader, (packet 3 1 256 0), false, by decide +kernel⟩⟩

theorem witness_PacketArrival :
    (∃ (s : State) (port : Fin 16) (p : Packet),
      let vc : Nat := p.vc.toNat
      s.isHostPort ↑port = false ∧ p.mcast = false ∧ s.net.tx = [] ∧ p.dst.toNat = s.self ∧ (p.op = 1 ∨ p.op = 2 ∨ p.op = 3) ∧
        p.vc ≠ 4 ∧ vcSliceBound vc = true ∧ p.job.toNat ≠ s.job) ∧
    (∃ (s : State) (port : Fin 16) (p : Packet),
      let vc : Nat := p.vc.toNat
      s.isHostPort ↑port = false ∧ p.mcast = false ∧ s.net.tx = [] ∧ p.dst.toNat = s.self ∧ (p.op = 1 ∨ p.op = 2 ∨ p.op = 3) ∧
        p.vc ≠ 4 ∧ vcSliceBound vc = false ∧ vcEncrypted vc = false) ∧
    (∃ (s : State) (port : Fin 16) (p : Packet) (k : Nat) (q : Packet),
      let vc : Nat := p.vc.toNat
      s.isHostPort ↑port = false ∧ p.mcast = false ∧ s.net.tx = [] ∧ p.dst.toNat = s.self ∧ (p.op = 1 ∨ p.op = 2 ∨ p.op = 3) ∧
        p.vc ≠ 4 ∧ vcSliceBound vc = false ∧ vcEncrypted vc = true ∧ s.recvKey p = some k ∧ decryptPacket k p = some q) ∧
    (∃ (s : State) (port : Fin 16) (p : Packet),
      let vc : Nat := p.vc.toNat
      s.isHostPort ↑port = false ∧ p.mcast = false ∧ s.net.tx = [] ∧ p.dst.toNat = s.self ∧ (p.op = 1 ∨ p.op = 2 ∨ p.op = 3) ∧
        p.vc ≠ 4 ∧ vcSliceBound vc = false ∧ vcEncrypted vc = true ∧
        ((s.recvKey p).bind fun (k : Nat) => decryptPacket k p) = none) ∧
    (∃ (s : State) (port : Fin 16) (p : Packet),
      let e : RouteEntry := s.packetRoute p (rackIndex p.dst.toNat)
      s.isHostPort ↑port = false ∧ p.mcast = false ∧ s.net.tx = [] ∧ p.dst.toNat ≠ s.self ∧ e.unreach = false ∧
        e.outside = false) ∧
    (∃ (s : State) (port : Fin 16) (vc : BitVec 3), s.headOf (↑port) vc.toNat = none) ∧
    (∃ (s : State) (port : Fin 16) (vc : BitVec 3) (t : TxPacket), s.headOf (↑port) vc.toNat = some t ∧ t.mcast = true) ∧
    (∃ (s : State) (port : Fin 16) (vc : BitVec 3) (t : TxPacket), s.headOf (↑port) vc.toNat = some t ∧ t.mcast = false) :=
  ⟨⟨routed, (0), { (packet 1 1 0 0) with job := 8 }, by decide +kernel⟩,
    ⟨routed, (0), (packet 3 1 0 0), by decide +kernel⟩,
    ⟨{ routed with lamp := { LampSt.reset with fabricKey := (some 5) } }, (0), sealedRead, 5, ⟨0, false, 0, 7, 2, false, 1, 0,
      0, 0, 9, 0, 0, [], 0⟩, by decide +kernel⟩,
    ⟨routed, (0), (packet 7 1 0 0), by decide +kernel⟩,
    ⟨routed, (0), (packet 3 1 256 0), by decide +kernel⟩,
    ⟨routed, (0), 0, by decide +kernel⟩,
    ⟨(waiting0 true), (2), 3, ⟨2, 3, false, ⟨256, false, 0, 3, 1, false, 1, 0, 0, 0, 9, 0, 0, [0], 0⟩, true, 0⟩,
      by decide +kernel⟩,
    ⟨(waiting0 false), (2), 3, ⟨2, 3, false, ⟨256, false, 0, 3, 1, false, 1, 0, 0, 0, 9, 0, 0, [0], 0⟩, false, 0⟩,
      by decide +kernel⟩⟩

theorem witness_MemoryRequests :
    (∃ (s : State) (p : Packet), ¬p ∈ s.net.delivered) ∧
    (∃ (s : State) (p : Packet),
      let a : Nat := BitVec.toNat p.addr
      let bs : List Byte := packetBytes p
      p ∈ s.net.delivered ∧ a / 2 ^ 44 % 2 ^ 20 = s.self ∧ (a / 2 ^ 42 % 4 = 1 ∨ a / 2 ^ 42 % 4 = 2) ∧ p.op = 1 ∧
        isSegment p = false ∧ s.isDelta p = false ∧ s.servesMemory p bs.length = false) ∧
    (∃ (s : State) (p : Packet),
      let a : Nat := BitVec.toNat p.addr
      let bs : List Byte := packetBytes p
      p ∈ s.net.delivered ∧ a / 2 ^ 44 % 2 ^ 20 = s.self ∧ (a / 2 ^ 42 % 4 = 1 ∨ a / 2 ^ 42 % 4 = 2) ∧ p.op = 1 ∧
        isSegment p = false ∧ s.isDelta p = false ∧ s.servesMemory p bs.length = true ∧
        s.accessRefused true a bs.length = true) ∧
    (∃ (s : State) (p : Packet),
      let a : Nat := BitVec.toNat p.addr
      let bs : List Byte := packetBytes p
      p ∈ s.net.delivered ∧ a / 2 ^ 44 % 2 ^ 20 = s.self ∧ (a / 2 ^ 42 % 4 = 1 ∨ a / 2 ^ 42 % 4 = 2) ∧ p.op = 1 ∧
        isSegment p = false ∧ s.isDelta p = false ∧ s.servesMemory p bs.length = true ∧
        s.accessRefused true a bs.length = false ∧ s.get WARD_STATUS.STATE = 0) ∧
    (∃ (s : State) (p : Packet),
      let a : Nat := BitVec.toNat p.addr
      p ∈ s.net.delivered ∧ a / 2 ^ 44 % 2 ^ 20 = s.self ∧ (a / 2 ^ 42 % 4 = 1 ∨ a / 2 ^ 42 % 4 = 2) ∧ p.op = 2 ∧
        s.servesMemory p 64 = false) ∧
    (∃ (s : State) (p : Packet),
      let a : Nat := BitVec.toNat p.addr
      p ∈ s.net.delivered ∧ a / 2 ^ 44 % 2 ^ 20 = s.self ∧ (a / 2 ^ 42 % 4 = 1 ∨ a / 2 ^ 42 % 4 = 2) ∧ p.op = 2 ∧
        s.servesMemory p 64 = true ∧ s.accessRefused false a 64 = true) ∧
    (∃ (s : State) (p : Packet),
      let a : Nat := BitVec.toNat p.addr
      p ∈ s.net.delivered ∧ a / 2 ^ 44 % 2 ^ 20 = s.self ∧ (a / 2 ^ 42 % 4 = 1 ∨ a / 2 ^ 42 % 4 = 2) ∧ p.op = 2 ∧
        s.servesMemory p 64 = true ∧ s.accessRefused false a 64 = false) :=
  ⟨⟨on, (packet 2 1 0 0), by decide +kernel⟩,
    ⟨(arrived (ownWrite 7 0)), (ownWrite 7 0), by decide +kernel⟩,
    ⟨(arrived (ownWrite 2 (2 ^ 40))), (ownWrite 2 (2 ^ 40)), by decide +kernel⟩,
    ⟨(arrived (ownWrite 2 0)), (ownWrite 2 0), by decide +kernel⟩,
    ⟨(arrived (ownRead 7 0)), (ownRead 7 0), by decide +kernel⟩,
    ⟨(arrived (ownRead 2 (2 ^ 40))), (ownRead 2 (2 ^ 40)), by decide +kernel⟩,
    ⟨(arrived (ownRead 2 0)), (ownRead 2 0), by decide +kernel⟩⟩

theorem witness_AnswersComplete :
    (∃ (s : State) (p : Packet), p ∈ s.net.delivered ∧ s.awaiting p.vc.toNat p.tag.toNat = none ∧ p.op = 3) ∧
    (∃ (s : State) (p : Packet), p ∈ s.net.delivered ∧ s.awaiting p.vc.toNat p.tag.toNat = none ∧ p.op = 5) ∧
    (∃ (s : State) (p : Packet), p ∈ s.net.delivered ∧ s.awaiting p.vc.toNat p.tag.toNat = none ∧ p.op = 6) ∧
    (∃ (s : State) (p : Packet) (r : Request) (c : Instr), p ∈ s.net.delivered ∧ s.awaiting p.vc.toNat p.tag.toNat = some r ∧
      (r.kind = ReqKind.control ∨ r.kind = ReqKind.chain ∨ (∃ (o : Option Owner), r.kind = ReqKind.commonsRead o) ∨
      ∃ (o : Option Owner), r.kind = ReqKind.commonsWrite o) ∧
      c ∈ if p.op = 3 then [Instr.readData p] else if p.op = 5 then [Instr.writeAck p] else []) ∧
    (∃ (s : State) (p : Packet) (r : Request), p ∈ s.net.delivered ∧ s.awaiting p.vc.toNat p.tag.toNat = some r ∧ p.op = 5 ∧
      r.kind = ReqKind.wardDelta ∧ s.ward.sealing = false) ∧
    (∃ (s : State) (p : Packet) (r : Request) (o : Option Owner), p ∈ s.net.delivered ∧
      s.awaiting p.vc.toNat p.tag.toNat = some r ∧ p.op = 6 ∧ (r.kind = ReqKind.commonsRead o ∨
      r.kind = ReqKind.commonsWrite o)) ∧
    (∃ (s : State) (tag : BitVec 16), List.find? (fun (r : Request) => r.tag == tag.toNat && (decide (6 ≤ r.vc) || decide
      (r.kind = ReqKind.wardDelta))) s.net.requests = none) ∧
    (∃ (s : State) (r : Request) (tag : BitVec 16) (d : Delta), s.net.requests = [r] ∧ r.tag = tag.toNat ∧ r.vc = 5 ∧
      r.kind = ReqKind.wardDelta ∧ s.ward.unacked = [d] ∧ d.tag = r.tag) ∧
    (∃ (s : State) (r : Request) (tag : BitVec 16) (o : Option Owner), s.net.requests = [r] ∧ r.tag = tag.toNat ∧ r.vc = 7 ∧
      r.kind = ReqKind.commonsRead o) :=
  ⟨⟨(arrived (packet 3 3 0 0)), (packet 3 3 0 0), by decide +kernel⟩,
    ⟨(arrived (packet 3 5 0 0)), (packet 3 5 0 0), by decide +kernel⟩,
    ⟨strayRefused, ⟨0, false, 0, 1, 6, false, 1, 0, 0, 0, 9, 0, 0, [0], 0⟩, by decide +kernel⟩,
    ⟨(answered (packet 3 5 0 0) ⟨9, 3, ReqKind.control, 0⟩), (packet 3 5 0 0), ⟨9, 3, ReqKind.control, 0⟩, Instr.writeAck ⟨0,
      false, 0, 3, 5, false, 1, 0, 0, 0, 9, 0, 0, [0], 0⟩, by decide +kernel, by decide +kernel, Or.inl rfl, by decide +kernel⟩,
    ⟨(answered (packet 5 5 0 0) delta0), (packet 5 5 0 0), delta0, by decide +kernel⟩,
    ⟨(answered (packet 7 6 0 0) ⟨9, 7, (ReqKind.commonsRead (none)), 0⟩), (packet 7 6 0 0), ⟨9, 7, (ReqKind.commonsRead
      (none)), 0⟩, (none), by decide +kernel⟩,
    ⟨strayRefused, 0, by decide +kernel⟩,
    ⟨{ (answered (packet 5 5 0 0) delta0) with ward := { WardSt.reset with unacked := [⟨0, 0, 0, 0, 9⟩] } }, delta0, 9, ⟨0, 0,
      0, 0, 9⟩, by decide +kernel⟩,
    ⟨(answered (packet 7 6 0 0) ⟨9, 7, (ReqKind.commonsRead (none)), 0⟩), ⟨9, 7, (ReqKind.commonsRead (none)), 0⟩, 9, (none),
      by decide +kernel⟩⟩

theorem witness_PowerDomains :
    (∃ (s : State) (src : Source) (val : BitVec 64) (d : Nat),
      let m : Nat := bitsOf val (2 * d) 2
      Takes s src 0x10010 2 ∧ 1 < d ∧ d < 24 ∧ (d < 18 ∨ 21 < d) ∧ (∀ (e : Nat), e < 24 → 0 < e → e ≠ d →
        bitsOf val (2 * e) 2 = s.domMode e) ∧ m ≠ s.domMode d ∧ s.modeBad d m = true) ∧
    (∃ (s : State) (src : Source) (val : BitVec 64) (d : Nat),
      let m : Nat := bitsOf val (2 * d) 2
      Takes s src 0x10010 2 ∧ 1 < d ∧ d < 24 ∧ (d < 18 ∨ 21 < d) ∧ (∀ (e : Nat), e < 24 → 0 < e → e ≠ d →
        bitsOf val (2 * e) 2 = s.domMode e) ∧ m = 1 ∧ s.domMode d ≠ 1 ∧ s.domOn d = false ∧ s.power.closing.contains d = false ∧
        d ≤ 21 ∧ s.domOn 22 = false ∧ s.power.closing.contains 22 = false) ∧
    (∃ (s : State) (src : Source) (val : BitVec 64) (d k : Nat),
      let m : Nat := bitsOf val (2 * d) 2
      Takes s src 0x10010 2 ∧ 1 < d ∧ d < 24 ∧ (d < 18 ∨ 21 < d) ∧ (∀ (e : Nat), e < 24 → 0 < e → e ≠ d →
        bitsOf val (2 * e) 2 = s.domMode e) ∧ m = domOff ∧ s.domMode d ≠ domOff ∧ s.domOn d = true ∧ d = 4 + k ∧ k < 8 ∧
        s.keptStrips / 2 ^ k % 2 = 0 ∧ s.seedbed.epoch = 0) ∧
    (∃ (s : State) (d : Nat), s.nextSwitch = some d ∧ d < 24) ∧
    (∃ (s : State), s.get CANDLE_PINS.PWR_GRANT = 0 ∧ ∀ (d : Nat), s.domPend d = true → 4 ≤ d ∧ d ≤ 11 ∨ d = 23) ∧
    (∃ (s : State) (d : Fin 24), s.power.closing.contains ↑d = false) ∧
    (∃ (s : State) (d : Fin 24), s.power.closing.contains ↑d = true ∧ s.power.waits = [] ∧ ↑d ∈ [2, 3, 22, 23] ∧ ↑d = 22) ∧
    (∃ (s : State) (d : Fin 24) (b : Bool), s.power.closing.contains ↑d = true ∧ s.power.waits = [] ∧ ↑d ∈ [2, 3, 22, 23] ∧
      ↑d = 23 ∧ b = true) ∧
    (∃ (s : State) (k : BitVec 3),
      let d : Nat := 4 + k.toNat
      s.domMode d = domAuto ∧ s.domOn d = true ∧ s.planeStrips / 2 ^ k.toNat % 2 = 0 ∧ s.bistField = false) ∧
    (∃ (s : State) (k : BitVec 3),
      let d : Nat := 4 + k.toNat
      s.domMode d ≠ domAuto ∨ s.domOn d = false ∨ s.planeStrips / 2 ^ k.toNat % 2 = 1) ∧
    (∃ (s : State), s.domMode 17 = domAuto ∧ s.domOn 17 = true ∧ s.fallowNeeded = false) ∧
    (∃ (s : State), s.fallowNeeded = true ∨ s.domOn 17 = false) :=
  ⟨⟨closing22, Source.lamp, dom4To3, 4, by decide +kernel⟩,
    ⟨State.reset, Source.lamp, (domVal on 4 1), 4, by decide +kernel⟩,
    ⟨closing22, Source.lamp, dom4Off, 4, 0, by decide +kernel⟩,
    ⟨(State.put on CANDLE_DSTAT.PEND (2 ^ 17)), 17, by decide +kernel⟩,
    ⟨on, by decide +kernel, on_pends⟩,
    ⟨closing22, (0), by decide +kernel⟩,
    ⟨closing22, (22), by decide +kernel⟩,
    ⟨closing23, (23), true, by decide +kernel⟩,
    ⟨closing22, 0, by decide +kernel⟩,
    ⟨(offBut 4), 0, by decide +kernel⟩,
    ⟨closing22, by decide +kernel⟩,
    ⟨(State.put on FALLOW_STATUS.SCRUB_BUSY 1), by decide +kernel⟩⟩

theorem witness_ClocksAndCap :
    (∃ (s : State) (src : Source), Takes s src 0x20000 2 ∧ (s.idleState = true ∨ s.get CANDLE_GOV.HOLD ≠ 0)) ∧
    (∃ (s : State) (src : Source), Takes s src 0x20000 2 ∧ s.idleState = false ∧ s.get CANDLE_GOV.HOLD = 0) ∧
    (∃ (s : State) (src : Source) (val : W64) (c : Bool), Takes s src (if c = true then 131088 else 131080) 2 ∧
      bitsOf val 0 12 ∈ [400, 1000, 2000, 3000]) ∧
    (∃ (s : State) (src : Source) (val : W64), Takes s src 0x10000 2 ∧ capBad val = true) ∧
    (∃ (s : State) (src : Source) (val : W64), Takes s src 0x10000 2 ∧ capBad val = false ∧ s.get CANDLE_GOV.HOLD = 0 ∧
      s.get CLOCK_FIELD.PENDING = 0 ∧ bitsOf val 0 12 + bitsOf val 36 10 < s.get CANDLE_GOV.DRAW_W) ∧
    (∃ (s : State) (src : Source) (val : W64), Takes s src 0x10000 2 ∧ capBad val = false ∧ s.get CANDLE_GOV.HOLD = 0 ∧
      s.get CLOCK_FIELD.PENDING = 0 ∧ s.get CANDLE_GOV.DRAW_W ≤ bitsOf val 0 12 + bitsOf val 36 10) ∧
    (∃ (ns : Nat), 80 ≤ ns) ∧
    (∃ (ns : Nat), ns < 80) ∧
    (∃ (s : State), s.domOn 0 = true ∧ s.power.asleep = false) ∧
    (∃ (s : State) (src : Source), Takes s src 0x10078 2) :=
  ⟨⟨on, Source.lamp, by decide +kernel⟩,
    ⟨run, Source.lamp, by decide +kernel⟩,
    ⟨on, Source.lamp, 3000, false, by decide +kernel⟩,
    ⟨on, Source.lamp, 0, by decide +kernel⟩,
    ⟨(State.put run CANDLE_GOV.DRAW_W 701), Source.lamp, (cap 600), by decide +kernel⟩,
    ⟨on, Source.lamp, (cap 600), by decide +kernel⟩,
    ⟨131072, by decide +kernel⟩,
    ⟨0, by decide +kernel⟩,
    ⟨on, by decide +kernel⟩,
    ⟨on, Source.lamp, by decide +kernel⟩⟩

theorem witness_Governor :
    (∃ (s : State), s.power.glow ≤ s.glowMax) ∧
    (∃ (s : State) (p : BitVec 12),
      let w : Nat := p.toNat
      s.power.tgt = 100 * w ∧ s.power.glow ≤ s.glowMax) ∧
    (∃ (s : State) (p : BitVec 12),
      let w : Nat := p.toNat
      s.power.ticked = true ∧ 60000 ≤ s.power.peak ∧ 20 * 64 * (100 * ↑w) ≤ 21 * (64 * 60000 + (↑s.power.peak - 60000) * (64 -
        ↑(s.get CANDLE_GOV.SKIP))) ∧ s.get CANDLE_GOV.HOLD = 0 ∧ s.power.resetLow = false ∧ w ≤ s.get CANDLE_CAP.CAP_W) ∧
    (∃ (s : State) (p : BitVec 12),
      let w : Nat := p.toNat
      s.power.ticked = true ∧ 60000 ≤ s.power.peak ∧ 20 * 64 * (100 * ↑w) ≤ 21 * (64 * 60000 + (↑s.power.peak - 60000) * (64 -
        ↑(s.get CANDLE_GOV.SKIP))) ∧ s.get CANDLE_GOV.HOLD = 1 ∧ w ≤ s.get CANDLE_CAP.CAP_W ∧ s.power.goHeld = none ∧
        s.power.resetHeld = false ∧ s.ward.sealing = false ∧ s.get CANDLE_PINS.CAP_FAST = 0 ∧
        100 * s.get CANDLE_CAP.FLOOR_W ≤ 100 * w ∧ s.power.holdLeft ≤ 1) ∧
    (∃ (s : State) (p : BitVec 12),
      let w : Nat := p.toNat
      s.power.ticked = true ∧ 60000 ≤ s.power.peak ∧ 20 * 64 * (100 * ↑w) ≤ 21 * (64 * 60000 + (↑s.power.peak - 60000) * (64 -
        ↑(s.get CANDLE_GOV.SKIP))) ∧ s.get CANDLE_GOV.HOLD = 1 ∧ w ≤ s.get CANDLE_CAP.CAP_W ∧ s.power.goHeld = none ∧
        s.power.resetHeld = false ∧ s.ward.sealing = false ∧ s.get CANDLE_PINS.CAP_FAST = 0 ∧
        100 * s.get CANDLE_CAP.FLOOR_W ≤ 100 * w ∧ 1 < s.power.holdLeft) ∧
    (∃ (s : State) (p : BitVec 12),
      let w : Nat := p.toNat
      s.power.ticked = true ∧ 60000 ≤ s.power.peak ∧ 20 * 64 * (100 * ↑w) ≤ 21 * (64 * 60000 + (↑s.power.peak - 60000) * (64 -
        ↑(s.get CANDLE_GOV.SKIP))) ∧ s.get CANDLE_GOV.HOLD = 0 ∧ s.get CANDLE_CAP.CAP_W < w ∧ s.power.overCap = 15 ∧
        s.power.capWritten = false ∧ 0 < s.get CANDLE_EVT.CAP_WRITES ∧ s.get CLOCK_FIELD.PENDING = 0) :=
  ⟨⟨(governing 0 0 0), by decide +kernel⟩,
    ⟨(governing 0 0 0), 800, by decide +kernel⟩,
    ⟨(governing 0 0 0), 0, by decide +kernel⟩,
    ⟨(governing 1 0 1), 800, by decide +kernel⟩,
    ⟨(governing 1 0 2), 800, by decide +kernel⟩,
    ⟨(governing 0 15 0), 1201, by decide +kernel⟩⟩

theorem witness_Metering :
    (∃ (fault : Bool), fault = true) ∧
    (∃ (s : State), s.power.queue = [] ∧ s.power.signed = []) ∧
    (∃ (s : State) (m : MinuteRec) (q : List MinuteRec), s.power.queue = m :: q ∧ s.power.signed = [] ∧
      s.get LAMP_SEC.LFW_OK = 1 ∧ s.domOn 1 = true ∧ s.get WARD_STATUS.STATE = 0 ∧ s.get LAMP_SEC.DBG_UNLOCKED = 0 ∧
      s.ledgerRoom = false) ∧
    (∃ (s : State) (m : MinuteRec) (q : List MinuteRec), s.power.queue = m :: q ∧ s.power.signed = [] ∧
      s.get LAMP_SEC.LFW_OK = 1 ∧ s.domOn 1 = true ∧ s.get WARD_STATUS.STATE = 0 ∧ s.get LAMP_SEC.DBG_UNLOCKED = 0 ∧
      s.ledgerRoom = true) ∧
    (∃ (s : State) (m : MinuteRec) (q : List MinuteRec), s.power.queue = m :: q ∧ s.power.signed = [] ∧
      s.get LAMP_SEC.LFW_OK = 1 ∧ s.domOn 1 = true ∧ s.get WARD_STATUS.STATE = 0 ∧ s.get LAMP_SEC.DBG_UNLOCKED = 1) :=
  ⟨⟨true, by decide +kernel⟩,
    ⟨on, by decide +kernel⟩,
    ⟨(minuteWaits on), (PowerSt.minute (State.power on)), (PowerSt.queue (State.power on)), by decide +kernel⟩,
    ⟨(minuteWaits (State.put on TOPSOIL_STATUS.READY_0 1)), (PowerSt.minute (State.power on)), (PowerSt.queue (State.power
      on)), by decide +kernel⟩,
    ⟨(minuteWaits (State.put on LAMP_SEC.DBG_UNLOCKED 1)), (PowerSt.minute (State.power on)), (PowerSt.queue (State.power
      on)), by decide +kernel⟩⟩

theorem witness_TurningOff :
    (∃ (s : State) (ns : Nat), s.domOn 0 = true ∧ 100 ≤ ns) ∧
    (∃ (s : State) (ns : Nat), s.domOn 0 = true ∧ 20 ≤ ns ∧ ns < 100) ∧
    (∃ (ns : Nat), ns < 20) ∧
    (∃ (s : State), s.domOn 0 = false) ∧
    (∃ (s : State), s.get CLOCK_STATUS.CANDLE_INT = 1 ∧ s.power.snuffed = false) ∧
    (∃ (s : State), s.get CLOCK_STATUS.CANDLE_INT = 0 ∨ s.power.snuffed = true) ∧
    (∃ (s : State) (ns : Nat), ns < 1000 ∨ s.power.resetLow = true ∨ s.domOn 0 = false) ∧
    (∃ (s : State) (ns : Nat), 1040 ≤ ns ∧ s.power.resetLow = false ∧ s.domOn 0 = true ∧ 1 < s.get CANDLE_DSTAT.ON ∧
      s.get SUBSOIL_STATUS.READY = 1) :=
  ⟨⟨subReady, 1000, by decide +kernel⟩,
    ⟨subReady, 20, by decide +kernel⟩,
    ⟨0, by decide +kernel⟩,
    ⟨(State.put on CANDLE_DSTAT.ON 0), by decide +kernel⟩,
    ⟨(State.put on CLOCK_STATUS.CANDLE_INT 1), by decide +kernel⟩,
    ⟨subReady, by decide +kernel⟩,
    ⟨subReady, 0, by decide +kernel⟩,
    ⟨subReady, 65536, by decide +kernel⟩⟩

theorem witness_Starts :
    (∃ (s : State), s.power.resetLow = false ∨ s.domOn 0 = false) ∧
    (∃ (s : State) (ns : Nat), s.power.resetLow = true ∧ s.domOn 0 = true ∧ (ns < 100000 ∨ s.power.therm = true ∨
      s.get CLOCK_STATUS.CANDLE_INT = 1)) ∧
    (∃ (s : State) (ns : Nat), s.power.resetLow = true ∧ s.domOn 0 = true ∧ 100000 ≤ ns ∧ s.power.therm = false ∧
      s.get CLOCK_STATUS.CANDLE_INT = 0 ∧ s.power.asleep = false ∧ s.power.cause < 8 ∧ s.power.warm = true) ∧
    (∃ (s : State) (ns : Nat), s.power.resetLow = true ∧ s.domOn 0 = true ∧ 100000 ≤ ns ∧ s.power.therm = false ∧
      s.get CLOCK_STATUS.CANDLE_INT = 0 ∧ s.power.asleep = false ∧ s.power.cause < 8 ∧ s.power.warm = false) ∧
    (∃ (s : State) (ns : Nat), s.power.resetLow = true ∧ s.domOn 0 = true ∧ 100000 ≤ ns ∧ s.power.therm = false ∧
      s.get CLOCK_STATUS.CANDLE_INT = 0 ∧ s.power.asleep = true) ∧
    (∃ (s : State), s.domOn 0 = true ∧ s.power.snuffed = true ∧ s.power.cause = 2 ∧ s.power.resetLow = false ∧
      s.power.therm = false) ∧
    (∃ (s : State), s.power.asleep = true ∧ s.power.resetLow = false ∧ s.get CANDLE_WAKE.TIMER_MS ≠ 0) ∧
    (∃ (s : State), s.power.asleep = true ∧ s.power.resetLow = false ∧ s.get CANDLE_WAKE.HOST_WAKE_EN = 1 ∧
      s.get CHIP_STRAPS.BRIDGE_EN = 1) ∧
    (∃ (s : State), s.power.asleep = true ∧ s.power.resetLow = false ∧ s.domOn 0 = true ∧ s.get CANDLE_PINS.PWR_GRANT = 0) ∧
    (∃ (s : State), s.power.asleep = false) ∧
    (∃ (s : State) (src : Source) (val : BitVec 64), Takes s src 0x10080 3 ∧ bitOf val 0 = true ∧ (s.idleState = false ∨
      s.net.slice.isSome = true ∨ s.bistRunning = true)) ∧
    (∃ (s : State) (src : Source) (val : BitVec 64), Takes s src 0x10080 3 ∧ bitOf val 0 = true ∧ s.idleState = true ∧
      s.net.slice = none ∧ s.bistRunning = false ∧ s.drill = DrillSt.reset ∧ s.get WARD_STATUS.STATE = 0) :=
  ⟨⟨up, by decide +kernel⟩,
    ⟨held, 0, by decide +kernel⟩,
    ⟨held, 100000, by decide +kernel⟩,
    ⟨on, 100000, by decide +kernel⟩,
    ⟨(withPower (fun p => { p with asleep := true }) held), 100000, by decide +kernel⟩,
    ⟨(withPower (fun p => { p with snuffed := true, cause := 2 }) up), by decide +kernel⟩,
    ⟨asleep, by decide +kernel⟩,
    ⟨asleep, by decide +kernel⟩,
    ⟨asleep, by decide +kernel⟩,
    ⟨up, by decide +kernel⟩,
    ⟨run, Source.lamp, 1, by decide +kernel⟩,
    ⟨up, Source.lamp, 1, by decide +kernel⟩⟩

theorem witness_BootStages :
    (∃ (s : State) (k : BitVec 2), s.domOn (12 + k.toNat) = true ∧ s.isUp = true ∧
      s.get { reg := 0xA0000, lo := 2 * k.toNat, len := 1 } = 0 ∧ s.power.signed = [] ∧ s.power.fresh / 2 ^ k.toNat % 2 = 0) ∧
    (∃ (s : State) (k : BitVec 2), s.domOn (12 + k.toNat) = true ∧ s.isUp = true ∧
      s.get { reg := 0xA0000, lo := 2 * k.toNat, len := 1 } = 0 ∧ s.power.signed = [] ∧ s.power.fresh / 2 ^ k.toNat % 2 = 1 ∧
      s.topsoil.epoch = 0) ∧
    (∃ (s : State), s.domOn 17 = true ∧ s.isUp = true ∧ s.get FALLOW_STATUS.READY = 0) ∧
    (∃ (s : State), s.domOn 17 = true ∧ s.isUp = true ∧ s.get FALLOW_STATUS.READY = 0 ∧ s.power.falStart = false) ∧
    (∃ (s : State) (r : PtrRec), s.domOn 17 = true ∧ s.isUp = true ∧ s.get FALLOW_STATUS.READY = 0 ∧ s.power.falStart = true ∧
      majority s.fallow.ptr0 s.fallow.ptr1 s.fallow.ptr2 = some r) ∧
    (∃ (s : State), s.domOn 1 = true ∧ (s.power.boot = 1 ∨ s.power.boot = 2)) ∧
    (∃ (s : State) (svn : BitVec 16), s.domOn 1 = true ∧ s.power.boot = 1 ∧ s.get FALLOW_STATUS.READY = 1 ∧
      s.lamp.lfwFuse ≤ svn.toNat) ∧
    (∃ (s : State) (svn : BitVec 16), s.domOn 1 = true ∧ s.power.boot = 1 ∧ svn.toNat < s.lamp.lfwFuse ∧
      s.get FALLOW_STATUS.READY = 1) ∧
    (∃ (s : State) (svn : BitVec 16), s.domOn 1 = true ∧ s.power.boot = 2 ∧ s.get FALLOW_STATUS.READY = 1 ∧
      s.lamp.mfwFuse ≤ svn.toNat ∧ s.get CHIP_RESTORE0.VALID = 0 ∧ s.net.stored = none) ∧
    (∃ (s : State) (src : Source) (val : BitVec 64), Takes s src 0x20 1 ∧ 2 ≤ s.level src ∧ bitOf val 0 = false ∧
      bitOf val 1 = s.flag CHIP_CTRL.FIELD_HOLD ∧ s.get CHIP_STATUS.FIELD_IN_RESET = s.get CHIP_CTRL.FIELD_HOLD ∧
      s.get SUBSOIL_STATUS.READY = 0 ∧ s.get SUBSOIL_CFG.CH_GB = 0) ∧
    (∃ (s : State) (src : Source) (val : BitVec 64), Takes s src 0x20 1 ∧ 2 ≤ s.level src ∧ bitOf val 0 = false ∧
      bitOf val 1 = s.flag CHIP_CTRL.FIELD_HOLD ∧ s.get CHIP_STATUS.FIELD_IN_RESET = s.get CHIP_CTRL.FIELD_HOLD ∧
      s.get SUBSOIL_STATUS.READY = 0 ∧ s.get SUBSOIL_CFG.CH_GB ≠ 0 ∧ (s.power.subCfg = none ∨
      s.power.subCfg = some (s.reg 0xB0000))) ∧
    (∃ (s : State) (ch : BitVec 16),
      let want : Nat := if s.flag SUBSOIL_CFG.NCH = true then 255 else 65535
      s.power.subTrain = true ∧ s.domOn 16 = true ∧ s.power.restoreSub = false ∧ ch.toNat &&& want ≠ 0) ∧
    (∃ (s : State) (ch : BitVec 16),
      let want : Nat := if s.flag SUBSOIL_CFG.NCH = true then 255 else 65535
      s.power.subTrain = true ∧ s.domOn 16 = true ∧ s.power.restoreSub = false ∧ ch.toNat &&& want = 0) ∧
    (∃ (s : State) (ch : BitVec 16),
      let want : Nat := if s.flag SUBSOIL_CFG.NCH = true then 255 else 65535
      s.power.subTrain = true ∧ s.domOn 16 = true ∧ s.power.restoreSub = false ∧ ch.toNat &&& want ≠ want) ∧
    (∃ (s : State), s.power.subTrain = false ∨ s.domOn 16 = false) :=
  ⟨⟨fallowStarts, 0, by decide +kernel⟩,
    ⟨(withPower (fun p => { p with fresh := 31 }) up), 0, by decide +kernel⟩,
    ⟨fallowStarts, by decide +kernel⟩,
    ⟨up, by decide +kernel⟩,
    ⟨fallowStarts, ⟨0, false⟩, by decide +kernel⟩,
    ⟨(booting 1), by decide +kernel⟩,
    ⟨(booting 1), 0, by decide +kernel⟩,
    ⟨{ (booting 1) with lamp := { LampSt.reset with lfwFuse := 5 } }, 0, by decide +kernel⟩,
    ⟨(booting 2), 0, by decide +kernel⟩,
    ⟨fallowStarts, Source.lamp, 2, by decide +kernel⟩,
    ⟨(State.put up SUBSOIL_CFG.CH_GB 8), Source.lamp, 2, by decide +kernel⟩,
    ⟨(withPower (fun p => { p with subTrain := true }) up), 1, by decide +kernel⟩,
    ⟨(withPower (fun p => { p with subTrain := true }) up), 0, by decide +kernel⟩,
    ⟨(withPower (fun p => { p with subTrain := true }) up), 0, by decide +kernel⟩,
    ⟨fallowStarts, by decide +kernel⟩⟩

theorem witness_FieldResets :
    (∃ (s : State) (src : Source) (val : W64), Takes s src 0x20 1 ∧ bitOf val 1 = s.flag CHIP_CTRL.FIELD_HOLD ∧
      bitOf val 2 = false ∧ s.level src < 2 ∧ s.get CHIP_STATUS.FIELD_IN_RESET = 1) ∧
    (∃ (s : State) (src : Source) (val : W64), Takes s src 0x20 1 ∧ bitOf val 1 = s.flag CHIP_CTRL.FIELD_HOLD ∧
      bitOf val 2 = false ∧ s.level src < 2 ∧ s.get CHIP_STATUS.FIELD_IN_RESET = 0 ∧ s.get CANDLE_GOV.HOLD = 1) ∧
    (∃ (s : State) (src : Source) (val : W64), Takes s src 0x20 1 ∧ bitOf val 1 = s.flag CHIP_CTRL.FIELD_HOLD ∧
      bitOf val 2 = false ∧ s.level src < 2 ∧ s.get CHIP_STATUS.FIELD_IN_RESET = 0 ∧ s.get CANDLE_GOV.HOLD = 0 ∧
      s.bistField = false ∧ s.stepState = stepStopped ∧ s.sched.descHalt = false ∧ s.rotState = rotNone ∧
      s.loadState ≠ loadBusy) ∧
    (∃ (s : State) (src : Source) (val : W64), Takes s src 0x20 1 ∧ bitOf val 0 = false ∧ bitOf val 2 = false ∧
      2 ≤ s.level src) ∧
    (∃ (s : State) (src : Source) (val : W64), Takes s src 0x20 1 ∧ bitOf val 0 = false ∧ bitOf val 2 = false ∧
      s.level src < 2 ∧ bitOf val 1 ≠ s.flag CHIP_CTRL.FIELD_HOLD) :=
  ⟨⟨on, Source.core 0 false, 2, by decide +kernel⟩,
    ⟨inHold, Source.core 0 false, 2, by decide +kernel⟩,
    ⟨(State.put on CHIP_STATUS.FIELD_IN_RESET 0), Source.core 0 false, 2, by decide +kernel⟩,
    ⟨on, Source.lamp, 0, by decide +kernel⟩,
    ⟨on, Source.core 0 false, 0, by decide +kernel⟩⟩

theorem witness_WardControl :
    (∃ (s : State) (src : Source), Takes s src 0x110000 1 ∧ s.enableOk = false) ∧
    (∃ (s : State) (src : Source), Takes s src 0x110000 1 ∧ s.enableOk = true ∧ s.ward.cfgFrom = []) ∧
    (∃ (s : State) (src : Source), Takes s src 0x110000 1 ∧ (s.get WARD_STATUS.STATE ≠ 1 ∨ s.get WARD_STATUS.BUSY = 1)) ∧
    (∃ (s : State) (src : Source), Takes s src 0x110000 1 ∧ s.get WARD_STATUS.STATE = 1 ∧ s.get WARD_STATUS.BUSY = 0 ∧
      s.stripes = []) ∧
    (∃ (s : State) (src : Source) (b q o : Nat), Takes s src 0x110000 1 ∧ s.get WARD_STATUS.STATE = 1 ∧
      s.get WARD_STATUS.BUSY = 0 ∧ List.filter (fun (u : Nat × Nat) => (s.dataMembers u.fst u.snd).head? == some s.wardSelf)
      s.stripes = [(b, q)] ∧ s.ownUnit b q = some o ∧ s.topsoil.badIn 64 o 65536 = []) ∧
    (∃ (s : State) (src : Source), Takes s src 0x110000 1 ∧ s.get WARD_STATUS.STATE = 2 ∧ s.get WARD_STATUS.LOST = 0) ∧
    (∃ (s : State) (src : Source), Takes s src 0x110000 1 ∧ s.get WARD_STATUS.STATE ≠ 3) ∧
    (∃ (s : State) (src : Source), Takes s src 0x110000 1 ∧ s.get WARD_STATUS.STATE = 3 ∧
      s.get WARD_STEP.K ≠ s.get STEP_NUM.STEP ∧ s.get WARD_STATUS.LOST = 0) ∧
    (∃ (s : State) (src : Source),
      let o : Nat := 65536 * s.get (WARD_RANGE.BASE 0)
      Takes s src 0x110000 1 ∧ s.get WARD_STATUS.STATE = 3 ∧ s.get (WARD_RANGE.EN 0) = 1 ∧
        bitsOf (s.topWord o) 0 32 = 1381258071 ∧ s.get SERVE_CTRL.EN = 0 ∧ bitOf (s.topWord o) 32 = false) ∧
    (∃ (s : State) (src : Source), Takes s src 0x110000 1 ∧ s.get WARD_STATUS.STATE ≠ 0) ∧
    (∃ (s : State) (src : Source), Takes s src 0x110000 1 ∧ s.get WARD_STATUS.STATE = 0 ∧ s.stripes = []) ∧
    (∃ (s : State) (src : Source) (b q : Nat) (us : List (Nat × Nat)) (m : Nat) (l : List Nat), Takes s src 0x110000 1 ∧
      s.get WARD_STATUS.STATE = 0 ∧ List.filter (fun (u : Nat × Nat) => u.snd == s.wardSelf || s.hasUnit s.wardSelf u.fst u.snd)
      s.stripes = (b, q) :: us ∧ (s.chainOf true s.wardSelf b q).fst = m :: l) :=
  ⟨⟨on, Source.lamp, by decide +kernel⟩,
    ⟨(ward 0 0), Source.lamp, by decide +kernel⟩,
    ⟨on, Source.lamp, by decide +kernel⟩,
    ⟨(State.put on WARD_STATUS.STATE 1), Source.lamp, by decide +kernel⟩,
    ⟨(ward 0 1), Source.lamp, 0, 1, 65536, by decide +kernel⟩,
    ⟨(ward 0 2), Source.lamp, by decide +kernel⟩,
    ⟨on, Source.lamp, by decide +kernel⟩,
    ⟨(State.put (ward 0 3) WARD_STEP.K 5), Source.lamp, by decide +kernel⟩,
    ⟨(setWords (ward 0 3) 65536 [1381258071]), Source.lamp, by decide +kernel⟩,
    ⟨(State.put (ward 0 1) WARD_STATUS.BUSY 1), Source.lamp, by decide +kernel⟩,
    ⟨on, Source.lamp, by decide +kernel⟩,
    ⟨(ward 0 0), Source.lamp, 0, 0, (List.filter (fun u => ((ward 0 1).dataMembers u.fst u.snd).head? == some (ward 0
      1).wardSelf) (ward 0 1).stripes), 1, [2], by decide +kernel⟩⟩

theorem witness_WardMessages :
    (∃ (s : State) (h : MsgHdr) (p : W64) (g i : BitVec 8) (ms : List (BitVec 8)) (u : W64) (q : BitVec 8) (b : Bool) (bs :
      List Byte) (so : BitVec 3) (ep : W64) (ln : BitVec 32) (d : Payload) (st : W64) (m : BitVec 8) (c : Instr), s.msgOk h
      Sender3.inSlice = false ∧ c ∈ [Instr.wardCfg h p g i ms, Instr.chainUnit h u q b bs, Instr.wardDelta h so ep ln d,
      Instr.seal h st m]) ∧
    (∃ (s : State) (h : MsgHdr) (p : W64) (g i : BitVec 8) (ms : List (BitVec 8)),
      let c : WardCfg :=
        { member := i.toNat, p := BitVec.toNat p, g := g.toNat, members := List.map (fun (x : BitVec 8) => x.toNat) ms }
      let l : List WardCfg := List.filter (fun (x : WardCfg) => x.member != c.member) s.ward.cfgFrom ++ [c]
      let whole : Bool := s.others.all fun (k : Nat) => l.any fun (x : WardCfg) => x.member == k
      s.msgOk h Sender3.inSlice = true ∧ (s.get WARD_STATUS.STATE ≠ 0 ∨ s.get WARD_STATUS.BUSY = 0 ∨ whole = false)) ∧
    (∃ (s : State) (h : MsgHdr) (p : W64) (g i : BitVec 8) (ms : List (BitVec 8)),
      let c : WardCfg :=
        { member := i.toNat, p := BitVec.toNat p, g := g.toNat, members := List.map (fun (x : BitVec 8) => x.toNat) ms }
      let l : List WardCfg := List.filter (fun (x : WardCfg) => x.member != c.member) s.ward.cfgFrom ++ [c]
      let whole : Bool := s.others.all fun (k : Nat) => l.any fun (x : WardCfg) => x.member == k
      s.msgOk h Sender3.inSlice = true ∧ s.get WARD_STATUS.STATE = 0 ∧ s.get WARD_STATUS.BUSY = 1 ∧ whole = true ∧
        (l.all fun (x : WardCfg) => x.p == s.wardUnits && x.g == s.wardG && x.members == s.memberList) = true) ∧
    (∃ (s : State) (h : MsgHdr) (p : W64) (g i : BitVec 8) (ms : List (BitVec 8)),
      let c : WardCfg :=
        { member := i.toNat, p := BitVec.toNat p, g := g.toNat, members := List.map (fun (x : BitVec 8) => x.toNat) ms }
      let l : List WardCfg := List.filter (fun (x : WardCfg) => x.member != c.member) s.ward.cfgFrom ++ [c]
      let whole : Bool := s.others.all fun (k : Nat) => l.any fun (x : WardCfg) => x.member == k
      s.msgOk h Sender3.inSlice = true ∧ s.get WARD_STATUS.STATE = 0 ∧ s.get WARD_STATUS.BUSY = 1 ∧ whole = true ∧
        (l.all fun (x : WardCfg) => x.p == s.wardUnits && x.g == s.wardG && x.members == s.memberList) = false) ∧
    (∃ (s : State) (h : MsgHdr) (u : W64) (q : BitVec 8) (bs : List Byte) (o : Nat), s.msgOk h Sender3.inSlice = true ∧
      s.get WARD_STATUS.STATE = 1 ∧ s.ownUnit (BitVec.toNat u) q.toNat = some o ∧ bs.length = 65536 ∧ q.toNat = s.wardSelf ∧
      s.get WARD_STATUS.BUSY = 1 ∧ (s.awaited.all fun (v : Nat × Nat) => (s.ward.units ++ [(BitVec.toNat u, q.toNat)]).contains
      v) = true) ∧
    (∃ (s : State) (h : MsgHdr) (u : W64) (q : BitVec 8) (bs : List Byte) (o : Nat), s.msgOk h Sender3.inSlice = true ∧
      s.get WARD_STATUS.STATE = 1 ∧ s.ownUnit (BitVec.toNat u) q.toNat = some o ∧ bs.length = 65536 ∧ q.toNat ≠ s.wardSelf ∧
      (s.dataMembers (BitVec.toNat u) q.toNat).contains s.wardSelf = true ∧ s.topsoil.badIn 64 o 65536 = []) ∧
    (∃ (s : State) (h : MsgHdr), s.msgOk h Sender3.inSlice = true ∧ s.get WARD_STATUS.STATE = 0) ∧
    (∃ (s : State) (h : MsgHdr), s.msgOk h Sender3.inSlice = true ∧ s.get WARD_STATUS.STATE = 0) ∧
    (∃ (s : State) (h : MsgHdr), s.msgOk h Sender3.inSlice = true ∧ s.get WARD_STATUS.STATE = 2 ∧ s.net.delivered = [] ∧
      s.ward.staged = [] ∧ 1 ≤ s.stageCap) ∧
    (∃ (s : State) (h : MsgHdr) (so : BitVec 3) (ep : W64) (ln : BitVec 32) (e : Payload), s.msgOk h Sender3.inSlice = true ∧
      s.get WARD_STATUS.STATE = 2 ∧ s.net.delivered = [] ∧ s.ward.staged =
      [{ source := so.toNat, epoch := BitVec.toNat ep, line := ln.toNat, delta := e }]) ∧
    (∃ (s : State) (h : MsgHdr), s.msgOk h Sender3.inSlice = true ∧ s.get WARD_STATUS.STATE = 2 ∧ s.net.delivered = [] ∧
      s.ward.staged = [] ∧ s.stageCap = 0) ∧
    (∃ (s : State) (h : MsgHdr) (m : BitVec 8) (d : Staged), s.msgOk h Sender3.inSlice = true ∧ s.ward.staged = [d] ∧
      d.source = m.toNat ∧ topRange (s.parityOff d.line) 64 = true ∧ s.topsoil.isBad (s.parityOff d.line / 64) = false) :=
  ⟨⟨enabling, hdr, 0, 0, 0, [], 0, 0, false, [], 0, 0, 0, 0, 0, 0, Instr.wardCfg ⟨0, 0⟩ 0 0 0 [], by decide +kernel⟩,
    ⟨enabling, hdr1, 0, 0, 0, [], by decide +kernel⟩,
    ⟨enabling, hdr1, 1, 3, 2, members, by decide +kernel⟩,
    ⟨enabling, hdr1, 0, 0, 2, [], by decide +kernel⟩,
    ⟨initing, hdr1, 0, 0, unitBytes, 1048576, by decide +kernel⟩,
    ⟨initing, hdr1, 0, 1, unitBytes, 65536, by decide +kernel⟩,
    ⟨enabling, hdr1, by decide +kernel⟩,
    ⟨enabling, hdr1, by decide +kernel⟩,
    ⟨(grouped 0 2), hdr1, by decide +kernel⟩,
    ⟨(withWard (fun w => { w with staged := [staged0] }) (grouped 0 2)), hdr1, 1, 0, 0, 5, by decide +kernel⟩,
    ⟨(State.put (grouped 0 2) WARD_STAGE.LEN 0), hdr1, by decide +kernel⟩,
    ⟨(withWard (fun w => { w with staged := [staged0] }) (grouped 0 2)), hdr1, 1, staged0, by decide +kernel⟩⟩

theorem witness_LatchDrain :
    (∃ (ns : Nat), ns < 200) ∧
    (∃ (s : State) (ns : Nat), 200 ≤ ns ∧ s.drainAllowed = false) ∧
    (∃ (s : State) (ns : Nat), 200 ≤ ns ∧ s.drainAllowed = true ∧ s.net.slice.isSome = true ∧ s.get WARD_STATUS.STATE ≠ 0) ∧
    (∃ (s : State) (ns : Nat), 200 ≤ ns ∧ s.drainAllowed = true ∧ s.net.slice = none ∧ ∀ (l : Nat), l < 24 →
      s.linkState l ≠ linkUp) ∧
    (∃ (s : State) (h : MsgHdr), s.msgOk h Sender3.toLeader = true) ∧
    (∃ (s : State) (h : MsgHdr), s.msgOk h Sender3.toLeader = false) ∧
    (∃ (s : State) (h : MsgHdr) (step : W64), s.msgOk h Sender3.fromLeader = true ∧ s.idleState = false ∧
      s.get STEP_NUM.STEP ≤ BitVec.toNat step) ∧
    (∃ (s : State) (h : MsgHdr), s.msgOk h Sender3.fromLeader = true ∧ s.idleState = true ∧ s.ward.latch = true ∧
      s.ward.sealing = false ∧ s.ward.sealed = false ∧ s.ward.unacked = [] ∧ s.get CANDLE_GOV.HOLD = 0 ∧
      s.get (WARD_RANGE.EN 0) = 0 ∧ ∀ (l : Nat), l < 24 → s.linkState l ≠ linkUp) ∧
    (∃ (s : State) (h : MsgHdr), s.msgOk h Sender3.fromLeader = true ∧ s.get WARD_STATUS.STATE = 0) ∧
    (∃ (s : State) (h : MsgHdr), s.msgOk h Sender3.fromLeader = true ∧ s.get WARD_STATUS.STATE = 2) ∧
    (∃ (s : State), s.ward.latch = true ∧ s.ward.sealed = false ∧ s.net.slice.isSome = true ∧ ∀ (l : Nat), l < 24 →
      s.linkState l ≠ linkUp) ∧
    (∃ (s : State), s.ward.latch = false ∨ s.ward.sealed = true ∨ s.net.slice = none) :=
  ⟨⟨0, by decide +kernel⟩,
    ⟨on, 1000, by decide +kernel⟩,
    ⟨(State.put (served leader) WARD_STATUS.STATE 2), 1000, by decide +kernel⟩,
    ⟨(served on), 1000, by decide +kernel⟩,
    ⟨on, hdr, by decide +kernel⟩,
    ⟨on, hdr1, by decide +kernel⟩,
    ⟨leader, hdr7, 0, by decide +kernel⟩,
    ⟨(latched on), hdr, by decide +kernel⟩,
    ⟨on, hdr, by decide +kernel⟩,
    ⟨(State.put (served leader) WARD_STATUS.STATE 2), hdr7, by decide +kernel⟩,
    ⟨(latched leader), by decide +kernel⟩,
    ⟨on, by decide +kernel⟩⟩

theorem witness_HeadlandTokens :
    (∃ (s : State) (plot : BitVec 9), s.plotMoves plot.toNat = false) ∧
    (∃ (s : State) (row : BitVec 5), s.plotMoves (16 * row.toNat) = false) ∧
    (∃ (s : State) (tok : Token) (codes : PortCodes) (plot : BitVec 9), s.plotMoves plot.toNat = true ∧ tok.valid = false ∧
      codesUe codes = false ∧ ¬CodeResult.miscorrected ∈ portCodes codes) ∧
    (∃ (s : State) (tok : Token) (codes : PortCodes) (plot : BitVec 9) (par : Bool),
      let p : Nat := plot.toNat
      s.plotMoves plot.toNat = true ∧ tok.valid = false ∧ (codesUe codes = true ∨ par = true) ∧
        s.get (HL_ERR.UNCLAIMED p) = 0 ∧ s.get (HL_ERR.ECC_UE p) = 0 ∧ s.get (HL_ERR.ROT_NOT_EMPTY p) = 0) ∧
    (∃ (s : State) (tok : Token) (codes : PortCodes) (plot : BitVec 9) (port : Fin 10) (q i lat o : Nat),
      let slot : Nat := s.slotNow
      let p : Nat := plot.toNat
      s.plotMoves plot.toNat = true ∧ tok.valid = true ∧ hlPartner p ↑port = some (q, i, lat) ∧ (codesUe codes = false ∧
        ¬CodeResult.miscorrected ∈ portCodes codes) ∧ s.lit.hlOut p (↑port) slot = some o ∧ 4 ≤ o ∧ 10 * q + i ≠ 10 * p + o) ∧
    (∃ (s : State) (tok : Token) (codes : PortCodes) (plot : BitVec 9) (port : Fin 10) (q i lat o u : Nat),
      let slot : Nat := s.slotNow
      let p : Nat := plot.toNat
      let r : QId := if o < 2 then furrowQ p o u else hopperQ p (o - 2) u
      s.plotMoves plot.toNat = true ∧ tok.valid = true ∧ hlPartner p ↑port = some (q, i, lat) ∧ (codesUe codes = false ∧
        ¬CodeResult.miscorrected ∈ portCodes codes) ∧ s.lit.hlOut p (↑port) slot = some o ∧ o < 4 ∧
        unitIn s.lit p o ((slot + 2) % 16) = some u ∧ tok.cls ≠ 3 ∧ tok.seq = (s.queue r).seqRx) ∧
    (∃ (s : State) (tok : Token) (codes : PortCodes) (plot : BitVec 9) (port : Fin 10) (q i lat : Nat) (par : Bool) (kind :
      Nat) (err : Fld),
      let slot : Nat := s.slotNow
      let p : Nat := plot.toNat
      s.plotMoves plot.toNat = true ∧ tok.valid = true ∧ hlPartner p ↑port = some (q, i, lat) ∧ (par = false ∧
        (codesUe codes = false ∧ ¬CodeResult.miscorrected ∈ portCodes codes) ∧ kind = 1 ∧ err = HL_ERR.UNCLAIMED p ∧
        s.lit.hlOut p (↑port) slot = none ∨ (codesUe codes = true ∨ par = true) ∧ kind = 2 ∧ err = HL_ERR.ECC_UE p) ∧
        s.get (HL_ERR.UNCLAIMED p) = 0 ∧ s.get (HL_ERR.ECC_UE p) = 0 ∧ s.get (HL_ERR.ROT_NOT_EMPTY p) = 0) ∧
    (∃ (s : State) (tok : Token) (plot : BitVec 9) (port : Fin 10),
      let p : Nat := plot.toNat
      s.plotMoves plot.toNat = true ∧ tok.valid = true ∧ hlPartner p ↑port = none ∧ (s.driver p ↑port = none ∨
        s.field.halted = true)) ∧
    (∃ (s : State) (tok : Token) (plot : BitVec 9) (port : Fin 10) (d : QId),
      let p : Nat := plot.toNat
      s.plotMoves plot.toNat = true ∧ tok.valid = true ∧ hlPartner p ↑port = none ∧ s.driver p ↑port = some d ∧
        ∀ (h : Token), (s.queue d).toks.head? = some h → h.withSeq (s.queue d).seqTx ≠ tok) ∧
    (∃ (s : State) (tok : Token) (plot : BitVec 9) (port : Fin 10) (d r : QId),
      let p : Nat := plot.toNat
      s.plotMoves plot.toNat = true ∧ tok.valid = true ∧ hlPartner p ↑port = none ∧ s.driver p ↑port = some d ∧
        circuitEnd s.lit d = some r ∧ s.credits r = 0) ∧
    (∃ (s : State) (tok : Token) (codes : PortCodes) (plot : BitVec 9) (port : Fin 10) (d r : QId) (h : Token) (l : List
      Token) (o : Nat),
      let slot : Nat := s.slotNow
      let p : Nat := plot.toNat
      s.plotMoves plot.toNat = true ∧ tok.valid = true ∧ hlPartner p ↑port = none ∧ s.driver p ↑port = some d ∧
        circuitEnd s.lit d = some r ∧ (s.queue d).toks = h :: l ∧ h.withSeq (s.queue d).seqTx = tok ∧ 0 < s.credits r ∧
        s.field.halted = false ∧ d / 32 < 2048 ∧ d ≠ r ∧ isCircuitQ d = false ∧ s.moe.agentOut = [] ∧ (codesUe codes = false ∧
        ¬CodeResult.miscorrected ∈ portCodes codes) ∧ s.lit.hlOut p (↑port) slot = some o ∧ 4 ≤ o) ∧
    (∃ (s : State) (tok : Token) (codes : PortCodes) (row : BitVec 5), s.plotMoves (16 * row.toNat) = true ∧
      (codesUe codes = false ∧ ¬CodeResult.miscorrected ∈ portCodes codes) ∧ tok.valid = false) ∧
    (∃ (s : State) (codes : PortCodes) (row : BitVec 5) (par : Bool), s.plotMoves (16 * row.toNat) = true ∧
      (codesUe codes = true ∨ par = true)) ∧
    (∃ (s : State) (tok : Token) (codes : PortCodes) (row : BitVec 5) (east : Bool),
      let slot : Nat := s.slotNow
      let k : Nat := 2 * row.toNat + bit east
      s.plotMoves (16 * row.toNat) = true ∧ (codesUe codes = false ∧ ¬CodeResult.miscorrected ∈ portCodes codes) ∧
        tok.valid = true ∧ stileOut s.lit k slot = none) ∧
    (∃ (s : State) (tok : Token) (codes : PortCodes) (refuse : Bool) (row : BitVec 5) (east : Bool) (a : Nat),
      let slot : Nat := s.slotNow
      let k : Nat := 2 * row.toNat + bit east
      s.plotMoves (16 * row.toNat) = true ∧ (codesUe codes = false ∧ ¬CodeResult.miscorrected ∈ portCodes codes) ∧
        tok.valid = true ∧ stileOut s.lit k slot = some a ∧ refuse = true) ∧
    (∃ (s : State) (tok : Token) (codes : PortCodes) (refuse : Bool) (row : BitVec 5) (east : Bool) (a : Nat),
      let slot : Nat := s.slotNow
      let k : Nat := 2 * row.toNat + bit east
      s.plotMoves (16 * row.toNat) = true ∧ (codesUe codes = false ∧ ¬CodeResult.miscorrected ∈ portCodes codes) ∧
        tok.valid = true ∧ stileOut s.lit k slot = some a ∧ refuse = false ∧ tok.cls ≠ 3 ∧
        tok.seq = (s.queue (stileQ k (8 + a))).seqRx) ∧
    (∃ (s : State) (snd : Sender) (sb : BitVec 8), s.plotMoves (senderQ snd).snd.fst = true ∧ sidebandOk sb = false) ∧
    (∃ (s : State) (snd : Sender) (sb : BitVec 8), s.plotMoves (senderQ snd).snd.fst = true ∧ sidebandOk sb = true ∧
      s.returnSlot (senderQ snd).fst = false) ∧
    (∃ (s : State) (snd : Sender) (sb : BitVec 8) (r : QId), s.plotMoves (senderQ snd).snd.fst = true ∧ sidebandOk sb = true ∧
      s.returnSlot (senderQ snd).fst = true ∧ circuitEnd s.lit (senderQ snd).fst = some r) :=
  ⟨⟨on, 0, by decide +kernel⟩,
    ⟨on, 0, by decide +kernel⟩,
    ⟨slotted, Token.bubble, ⟨CodeResult.clean, CodeResult.clean, CodeResult.clean, CodeResult.clean⟩, 0, by decide +kernel⟩,
    ⟨slotted, Token.bubble, ⟨CodeResult.clean, CodeResult.clean, CodeResult.clean, CodeResult.clean⟩, 0, true,
      by decide +kernel⟩,
    ⟨slotted, (token true), ⟨CodeResult.clean, CodeResult.clean, CodeResult.clean, CodeResult.clean⟩, 17, (7), 16, 6, 2, 6,
      by decide +kernel⟩,
    ⟨slotted, (token true), ⟨CodeResult.clean, CodeResult.clean, CodeResult.clean, CodeResult.clean⟩, 17, (4), 1, 5, 2, 0, 3,
      by decide +kernel⟩,
    ⟨slotted, (token true), ⟨CodeResult.clean, CodeResult.clean, CodeResult.clean, CodeResult.clean⟩, 0, (5), 16, 4, 2, false,
      1, ⟨2097184, 0, 1⟩, by decide +kernel⟩,
    ⟨slotted, (token true), 0, (7), by decide +kernel⟩,
    ⟨drivesOut, (token false), 17, (0), 2184, by decide +kernel⟩,
    ⟨drivesFull, (token true), 17, (0), 2184, 2305, by decide +kernel⟩,
    ⟨drivesOut, (token true), ⟨CodeResult.clean, CodeResult.clean, CodeResult.clean, CodeResult.clean⟩, 17, (0), 2184, 2305,
      (token true), [], 6, by decide +kernel⟩,
    ⟨slotted, Token.bubble, ⟨CodeResult.clean, CodeResult.clean, CodeResult.clean, CodeResult.clean⟩, 0, by decide +kernel⟩,
    ⟨slotted, ⟨CodeResult.clean, CodeResult.clean, CodeResult.clean, CodeResult.clean⟩, 0, true, by decide +kernel⟩,
    ⟨slotted, (token true), ⟨CodeResult.clean, CodeResult.clean, CodeResult.clean, CodeResult.clean⟩, 0, false,
      by decide +kernel⟩,
    ⟨slotted, (token true), ⟨CodeResult.clean, CodeResult.clean, CodeResult.clean, CodeResult.clean⟩, true, 1, false, 5,
      by decide +kernel⟩,
    ⟨slotted, (token true), ⟨CodeResult.clean, CodeResult.clean, CodeResult.clean, CodeResult.clean⟩, false, 1, false, 5,
      by decide +kernel⟩,
    ⟨slotted, (Sender.furrow 17 false 0), 1, by decide +kernel⟩,
    ⟨slotted, (Sender.furrow 17 false 0), 0, by decide +kernel⟩,
    ⟨returningNow, (Sender.furrow 17 false 0), 0, 2213, by decide +kernel⟩⟩

theorem witness_Steering :
    (∃ (s : State) (plot : BitVec 9) (unit : Bool) (el : BitVec 3),
      let c : ElemCfg := s.elemCfg plot unit el
      s.fieldRuns = true ∧ c.op ≠ 1) ∧
    (∃ (s : State) (plot : BitVec 9) (unit : Bool) (el : BitVec 3),
      let c : ElemCfg := s.elemCfg plot unit el
      s.fieldRuns = true ∧ c.op ≠ 2) ∧
    (∃ (s : State) (plot : BitVec 9) (unit : Bool) (el : BitVec 3),
      let c : ElemCfg := s.elemCfg plot unit el
      s.fieldRuns = true ∧ c.op ≠ 3) ∧
    (∃ (s : State) (plot : BitVec 9) (unit : Bool) (el : BitVec 3),
      let c : ElemCfg := s.elemCfg plot unit el
      s.fieldRuns = true ∧ c.op ≠ 4) ∧
    (∃ (s : State) (plot : BitVec 9) (unit : Bool) (el : BitVec 3),
      let c : ElemCfg := s.elemCfg plot unit el
      s.fieldRuns = true ∧ c.op ≠ 5) ∧
    (∃ (s : State) (plot : BitVec 9) (unit : Bool) (el : BitVec 3) (tok : Token),
      let c : ElemCfg := s.elemCfg plot unit el
      s.fieldRuns = true ∧ c.op = 1 ∧ s.headTok (c.inQ 0) = some tok ∧ (∀ (q : QId), q ∈ c.outs → 0 < s.credits q) ∧
        (c.inQ 0 :: c.outs).Nodup) ∧
    (∃ (s : State) (plot : BitVec 9) (unit : Bool) (el : BitVec 3),
      let c : ElemCfg := s.elemCfg plot unit el
      s.fieldRuns = true ∧ c.op = 1 ∧ (s.headTok (c.inQ 0) = none ∨ ∃ (q : QId), q ∈ c.outs ∧ s.credits q = 0)) ∧
    (∃ (s : State) (plot : BitVec 9) (unit : Bool) (el : BitVec 3) (tok : Token) (ts : List (Nat × Token)),
      let c : ElemCfg := s.elemCfg plot unit el
      let js : List Nat := List.filter (Machine.joins c.once tok.marks.rowS) (List.range c.nio)
      s.fieldRuns = true ∧ c.op = 2 ∧ s.headTok (c.inQ 0) = some tok ∧ s.joinTokens c js = some ts ∧ (∀ (j : Nat), j ∈ js →
        0 < s.credits (c.outQ j)) ∧ (List.map c.inQ js ++ List.map c.outQ js).Nodup) ∧
    (∃ (s : State) (plot : BitVec 9) (unit : Bool) (el : BitVec 3) (tok : Token),
      let c : ElemCfg := s.elemCfg plot unit el
      let js : List Nat := List.filter (Machine.joins c.once tok.marks.rowS) (List.range c.nio)
      s.fieldRuns = true ∧ c.op = 2 ∧ s.headTok (c.inQ 0) = some tok ∧ ∃ (j : Nat), j ∈ js ∧ (s.headTok (c.inQ j) = none ∨
        s.credits (c.outQ j) = 0)) ∧
    (∃ (s : State) (plot : BitVec 9) (unit : Bool) (el : BitVec 3) (tok : Token),
      let c : ElemCfg := s.elemCfg plot unit el
      let e : ElemSt := s.elem c.key
      let h : Queue := s.queue c.ctl
      let v : Nat := payBits (h.toks.headD Token.bubble).payload (8 * h.used) 8
      s.fieldRuns = true ∧ c.op = 3 ∧ s.headTok (c.inQ 0) = some tok ∧ (h.toks.headD Token.bubble).vcount ≠ 0 ∧
        c.inQ 0 ≠ c.ctl ∧ (c.perRow = true → e.rowOpen = true → tok.marks.rowS = true) ∧ v < c.nio ∧ v < 15 ∧
        0 < s.credits (c.outQ v) ∧ c.outQ v ≠ c.inQ 0 ∧ c.outQ v ≠ c.ctl ∧ h.used + 1 < (h.toks.headD Token.bubble).vcount) ∧
    (∃ (s : State) (plot : BitVec 9) (unit : Bool) (el : BitVec 3) (tok : Token),
      let c : ElemCfg := s.elemCfg plot unit el
      let e : ElemSt := s.elem c.key
      let h : Queue := s.queue c.ctl
      let v : Nat := payBits (h.toks.headD Token.bubble).payload (8 * h.used) 8
      s.fieldRuns = true ∧ c.op = 3 ∧ s.headTok (c.inQ 0) = some tok ∧ (h.toks.headD Token.bubble).vcount ≠ 0 ∧
        c.inQ 0 ≠ c.ctl ∧ (c.perRow = true → e.rowOpen = true → tok.marks.rowS = true) ∧ v < c.nio ∧ v < 15 ∧
        0 < s.credits (c.outQ v) ∧ c.outQ v ≠ c.inQ 0 ∧ c.outQ v ≠ c.ctl ∧ (h.toks.headD Token.bubble).vcount ≤ h.used + 1) ∧
    (∃ (s : State) (plot : BitVec 9) (unit : Bool) (el : BitVec 3) (tok : Token),
      let c : ElemCfg := s.elemCfg plot unit el
      let e : ElemSt := s.elem c.key
      let h : Queue := s.queue c.ctl
      let v : Nat := payBits (h.toks.headD Token.bubble).payload (8 * h.used) 8
      s.fieldRuns = true ∧ c.op = 3 ∧ s.headTok (c.inQ 0) = some tok ∧ (h.toks.headD Token.bubble).vcount ≠ 0 ∧
        c.inQ 0 ≠ c.ctl ∧ (c.perRow = true → e.rowOpen = true → tok.marks.rowS = true) ∧ v < c.nio ∧ v < 15 ∧
        0 < s.credits (c.outQ v) ∧ c.outQ v ≠ c.inQ 0 ∧ c.outQ v ≠ c.ctl ∧ c.perRow = true) ∧
    (∃ (s : State) (plot : BitVec 9) (unit : Bool) (el : BitVec 3) (tok : Token),
      let c : ElemCfg := s.elemCfg plot unit el
      let e : ElemSt := s.elem c.key
      let h : Queue := s.queue c.ctl
      let v : Nat := payBits (h.toks.headD Token.bubble).payload (8 * h.used) 8
      s.fieldRuns = true ∧ c.op = 3 ∧ s.headTok (c.inQ 0) = some tok ∧ (h.toks.headD Token.bubble).vcount ≠ 0 ∧
        c.inQ 0 ≠ c.ctl ∧ (c.perRow = true → e.rowOpen = true → tok.marks.rowS = true) ∧ v < c.nio ∧ v < 15 ∧
        s.credits (c.outQ v) = 0) ∧
    (∃ (s : State) (plot : BitVec 9) (unit : Bool) (el : BitVec 3) (tok : Token),
      let c : ElemCfg := s.elemCfg plot unit el
      let e : ElemSt := s.elem c.key
      let h : Queue := s.queue c.ctl
      let v : Nat := payBits (h.toks.headD Token.bubble).payload (8 * h.used) 8
      s.fieldRuns = true ∧ c.op = 3 ∧ s.headTok (c.inQ 0) = some tok ∧ (h.toks.headD Token.bubble).vcount ≠ 0 ∧
        c.inQ 0 ≠ c.ctl ∧ (c.perRow = true → e.rowOpen = true → tok.marks.rowS = true) ∧ (c.nio ≤ v ∨ 15 ≤ v) ∧
        h.used + 1 < (h.toks.headD Token.bubble).vcount) ∧
    (∃ (s : State) (plot : BitVec 9) (unit : Bool) (el : BitVec 3) (tok : Token),
      let c : ElemCfg := s.elemCfg plot unit el
      let e : ElemSt := s.elem c.key
      let h : Queue := s.queue c.ctl
      let v : Nat := payBits (h.toks.headD Token.bubble).payload (8 * h.used) 8
      s.fieldRuns = true ∧ c.op = 3 ∧ s.headTok (c.inQ 0) = some tok ∧ (h.toks.headD Token.bubble).vcount ≠ 0 ∧
        c.inQ 0 ≠ c.ctl ∧ (c.perRow = true → e.rowOpen = true → tok.marks.rowS = true) ∧ (c.nio ≤ v ∨ 15 ≤ v) ∧
        (h.toks.headD Token.bubble).vcount ≤ h.used + 1) ∧
    (∃ (s : State) (plot : BitVec 9) (unit : Bool) (el : BitVec 3),
      let c : ElemCfg := s.elemCfg plot unit el
      let e : ElemSt := s.elem c.key
      s.fieldRuns = true ∧ c.op = 4 ∧ (s.headTok (c.inQ e.next) = none ∨ s.credits (c.outQ 0) = 0)) ∧
    (∃ (s : State) (plot : BitVec 9) (unit : Bool) (el : BitVec 3) (tok : Token),
      let c : ElemCfg := s.elemCfg plot unit el
      let e : ElemSt := s.elem c.key
      s.fieldRuns = true ∧ c.op = 4 ∧ s.headTok (c.inQ e.next) = some tok ∧ 0 < s.credits (c.outQ 0) ∧
        c.outQ 0 ≠ c.inQ e.next) ∧
    (∃ (s : State) (plot : BitVec 9) (unit : Bool) (el : BitVec 3) (tok : Token),
      let c : ElemCfg := s.elemCfg plot unit el
      let e : ElemSt := s.elem c.key
      let h : Queue := s.queue c.ctl
      let v : Nat := payBits (h.toks.headD Token.bubble).payload (8 * h.used) 8
      s.fieldRuns = true ∧ c.op = 5 ∧ (h.toks.headD Token.bubble).vcount ≠ 0 ∧ (c.perRow = true → e.rowOpen = false) ∧
        v < c.nio ∧ v < 15 ∧ s.headTok (c.inQ v) = some tok ∧ 0 < s.credits (c.outQ 0) ∧ [c.inQ v, c.outQ 0, c.ctl].Nodup ∧
        h.used + 1 < (h.toks.headD Token.bubble).vcount) ∧
    (∃ (s : State) (plot : BitVec 9) (unit : Bool) (el : BitVec 3) (tok : Token),
      let c : ElemCfg := s.elemCfg plot unit el
      let e : ElemSt := s.elem c.key
      let h : Queue := s.queue c.ctl
      let v : Nat := payBits (h.toks.headD Token.bubble).payload (8 * h.used) 8
      s.fieldRuns = true ∧ c.op = 5 ∧ (h.toks.headD Token.bubble).vcount ≠ 0 ∧ (c.perRow = true → e.rowOpen = false) ∧
        v < c.nio ∧ v < 15 ∧ s.headTok (c.inQ v) = some tok ∧ 0 < s.credits (c.outQ 0) ∧ [c.inQ v, c.outQ 0, c.ctl].Nodup ∧
        (h.toks.headD Token.bubble).vcount ≤ h.used + 1) ∧
    (∃ (s : State) (plot : BitVec 9) (unit : Bool) (el : BitVec 3),
      let c : ElemCfg := s.elemCfg plot unit el
      let e : ElemSt := s.elem c.key
      let h : Queue := s.queue c.ctl
      let v : Nat := payBits (h.toks.headD Token.bubble).payload (8 * h.used) 8
      s.fieldRuns = true ∧ c.op = 5 ∧ (h.toks.headD Token.bubble).vcount ≠ 0 ∧ (c.perRow = true → e.rowOpen = false) ∧
        v < c.nio ∧ v < 15 ∧ s.headTok (c.inQ v) = none) ∧
    (∃ (s : State) (plot : BitVec 9) (unit : Bool) (el : BitVec 3),
      let c : ElemCfg := s.elemCfg plot unit el
      let e : ElemSt := s.elem c.key
      let h : Queue := s.queue c.ctl
      let v : Nat := payBits (h.toks.headD Token.bubble).payload (8 * h.used) 8
      s.fieldRuns = true ∧ c.op = 5 ∧ (h.toks.headD Token.bubble).vcount ≠ 0 ∧ (c.perRow = true → e.rowOpen = false) ∧
        (c.nio ≤ v ∨ 15 ≤ v) ∧ h.used + 1 < (h.toks.headD Token.bubble).vcount) ∧
    (∃ (s : State) (plot : BitVec 9) (unit : Bool) (el : BitVec 3),
      let c : ElemCfg := s.elemCfg plot unit el
      let e : ElemSt := s.elem c.key
      let h : Queue := s.queue c.ctl
      let v : Nat := payBits (h.toks.headD Token.bubble).payload (8 * h.used) 8
      s.fieldRuns = true ∧ c.op = 5 ∧ (h.toks.headD Token.bubble).vcount ≠ 0 ∧ (c.perRow = true → e.rowOpen = false) ∧
        (c.nio ≤ v ∨ 15 ≤ v) ∧ (h.toks.headD Token.bubble).vcount ≤ h.used + 1) :=
  ⟨⟨fedTwo0, 0, false, 0, by decide +kernel⟩,
    ⟨fedTwo0, 0, false, 0, by decide +kernel⟩,
    ⟨fedTwo0, 0, false, 0, by decide +kernel⟩,
    ⟨fedTwo0, 0, false, 0, by decide +kernel⟩,
    ⟨fedTwo0, 0, false, 0, by decide +kernel⟩,
    ⟨fedTwo0, 17, false, 0, (token true), by decide +kernel⟩,
    ⟨element, 17, false, 0, by decide +kernel⟩,
    ⟨fedTwo0, 17, false, 1, (token true), [(0, (token true)), (1, (token true))], by decide +kernel⟩,
    ⟨(full (fedAll 0)), 17, false, 1, (token true), by decide +kernel⟩,
    ⟨fedTwo0, 17, false, 2, (token true), by decide +kernel⟩,
    ⟨(fedAll 0), 17, false, 2, (token true), by decide +kernel⟩,
    ⟨fedTwo0, 17, false, 2, (token true), by decide +kernel⟩,
    ⟨(full (fedAll 0)), 17, false, 2, (token true), by decide +kernel⟩,
    ⟨fedTwo15, 17, false, 2, (token true), by decide +kernel⟩,
    ⟨fed15, 17, false, 2, (token true), by decide +kernel⟩,
    ⟨element, 17, false, 3, by decide +kernel⟩,
    ⟨fedTwo0, 17, false, 3, (token true), by decide +kernel⟩,
    ⟨fedTwo0, 17, false, 4, (token true), by decide +kernel⟩,
    ⟨(fedAll 0), 17, false, 4, (token true), by decide +kernel⟩,
    ⟨(fed (furrowQ 17 0 1) (ctl 0) element), 17, false, 4, by decide +kernel⟩,
    ⟨fedTwo15, 17, false, 4, by decide +kernel⟩,
    ⟨fed15, 17, false, 4, by decide +kernel⟩⟩

theorem witness_FurrowAndLantern :
    (∃ (f : LFunc), f < 16) ∧
    (∃ (w : BitVec 64) (l : Nat) (l' : Nat), l < 32 ∧ l' < 32 ∧ l / 2 ^ bitsOf w 18 3 = l' / 2 ^ bitsOf w 18 3) ∧
    (∃ (row : List RowElem), row.length ≤ 8192 ∧ ∀ (x : RowElem), x ∈ row → x.snd = true) ∧
    (∃ (s : State) (plot : BitVec 9) (unit : Bool) (feed : FurrowFeed),
      let pl : Nat := plot.toNat
      let u : Nat := bit unit
      let k : Nat := 2 * pl + u
      let cfg : FurrowCfg := s.lit.furrowAt k
      let pipe : PipeSt := s.pipe k
      let dots : List Nat := List.filter (fun (k : Nat) => bitsOf (cfg.stages.getD k 0) 0 2 == 0) (List.range 6)
      let heads : Option (List (Nat × Token)) := List.mapM (fun (r : Nat × QId) => Option.map (fun (t : Token) => (r.fst, t))
        (s.headScaled r.snd)) (s.boundRoles pl u)
      s.fieldRuns = true ∧ pipe.held = none ∧ (heads ∈ [none, some []] ∨ cfg.idlePipe = true ∨
        feedOk cfg dots feed = false)) ∧
    (∃ (s : State) (plot : BitVec 9) (unit : Bool) (x : List LaneVal × Marks),
      let pl : Nat := plot.toNat
      let u : Nat := bit unit
      let k : Nat := 2 * pl + u
      let pipe : PipeSt := s.pipe k
      s.fieldRuns = true ∧ pipe.held = some x ∧ s.passAt pl = none) ∧
    (∃ (s : State) (plot : BitVec 9) (unit : Bool) (x : List LaneVal × Marks) (p : PassSt) (q : QId),
      let pl : Nat := plot.toNat
      let u : Nat := bit unit
      let k : Nat := 2 * pl + u
      let cfg : FurrowCfg := s.lit.furrowAt k
      let pipe : PipeSt := s.pipe k
      let dst : PassSt → Option QId := fun (p : PassSt) => s.lit.destQ pl u (passStage p.desc pl) (bitsOf cfg.port 25 4)
      let e : Emission := s.emit p pl u
        { chain := pipe.chain, chainOpen := pipe.chainOpen, inMarks := pipe.inMarks, held := none, lin := pipe.lin, rowOpen := pipe.rowOpen, dens := pipe.dens, drain := pipe.drain, outVals := pipe.outVals, outMarks := pipe.outMarks, outPos := pipe.outPos, group := pipe.group }
        x.fst x.snd
      s.fieldRuns = true ∧ pipe.held = some x ∧ s.passAt pl = some p ∧ dst p = some q ∧ s.credits q < e.toks.length) ∧
    (∃ (s : State) (plot : BitVec 9) (unit : Bool) (x : List LaneVal × Marks) (p : PassSt) (q : QId),
      let pl : Nat := plot.toNat
      let u : Nat := bit unit
      let k : Nat := 2 * pl + u
      let cfg : FurrowCfg := s.lit.furrowAt k
      let pipe : PipeSt := s.pipe k
      let roles : List QId := List.map (fun (x : Nat × QId) => x.snd) (s.boundRoles pl u)
      let heads : Option (List (Nat × Token)) := List.mapM (fun (r : Nat × QId) => Option.map (fun (t : Token) => (r.fst, t))
        (s.headScaled r.snd)) (s.boundRoles pl u)
      let dst : PassSt → Option QId := fun (p : PassSt) => s.lit.destQ pl u (passStage p.desc pl) (bitsOf cfg.port 25 4)
      let e : Emission := s.emit p pl u
        { chain := pipe.chain, chainOpen := pipe.chainOpen, inMarks := pipe.inMarks, held := none, lin := pipe.lin, rowOpen := pipe.rowOpen, dens := pipe.dens, drain := pipe.drain, outVals := pipe.outVals, outMarks := pipe.outMarks, outPos := pipe.outPos, group := pipe.group }
        x.fst x.snd
      s.fieldRuns = true ∧ pipe.held = some x ∧ s.passAt pl = some p ∧ dst p = some q ∧ e.toks.length ≤ s.credits q ∧
        heads ∈ [none, some []] ∧ ¬q ∈ roles) ∧
    (∃ (s : State) (plot : BitVec 9) (unit : Bool) (feed : FurrowFeed) (r0 : Nat) (t0 : Token) (ts : List (Nat × Token)),
      let pl : Nat := plot.toNat
      let u : Nat := bit unit
      let k : Nat := 2 * pl + u
      let cfg : FurrowCfg := s.lit.furrowAt k
      let pipe : PipeSt := s.pipe k
      let w : W64 := cfg.lantern
      let toLantern : Bool := bitOf (cfg.stages.getD 5 0) 22
      let dots : List Nat := List.filter (fun (k : Nat) => bitsOf (cfg.stages.getD k 0) 0 2 == 0) (List.range 6)
      let roles : List QId := List.map (fun (x : Nat × QId) => x.snd) (s.boundRoles pl u)
      let heads : Option (List (Nat × Token)) := List.mapM (fun (r : Nat × QId) => Option.map (fun (t : Token) => (r.fst, t))
        (s.headScaled r.snd)) (s.boundRoles pl u)
      s.fieldRuns = true ∧ pipe.held = none ∧ heads = some ((r0, t0) :: ts) ∧ cfg.idlePipe = false ∧
        feedOk cfg dots feed = true ∧ (∀ (x : Nat × Token), x ∈ ts → x.snd.marks = t0.marks) ∧ roles.Nodup ∧ toLantern = true ∧
        bitsOf w 0 3 ≠ 0 ∧ 2 ≤ rowsWaiting pipe) ∧
    (∃ (s : State) (plot : BitVec 9) (unit : Bool) (feed : FurrowFeed) (r0 : Nat) (t0 : Token) (ts : List (Nat × Token)),
      let pl : Nat := plot.toNat
      let u : Nat := bit unit
      let k : Nat := 2 * pl + u
      let cfg : FurrowCfg := s.lit.furrowAt k
      let pipe : PipeSt := s.pipe k
      let w : W64 := cfg.lantern
      let toLantern : Bool := bitOf (cfg.stages.getD 5 0) 22
      let dots : List Nat := List.filter (fun (k : Nat) => bitsOf (cfg.stages.getD k 0) 0 2 == 0) (List.range 6)
      let roles : List QId := List.map (fun (x : Nat × QId) => x.snd) (s.boundRoles pl u)
      let heads : Option (List (Nat × Token)) := List.mapM (fun (r : Nat × QId) => Option.map (fun (t : Token) => (r.fst, t))
        (s.headScaled r.snd)) (s.boundRoles pl u)
      let m : Marks := t0.marks
      let tok : Nat → Option Token := fun (r : Nat) => Option.map (fun (x : Nat × Token) => x.snd) (List.find? (fun (t : Nat ×
        Token) => t.fst == r) ((r0, t0) :: ts))
      let run : List (Option LaneVal) × Chain := runStages cfg { a := tok 0, b := tok 1, c := tok 2 } feed dots (m.chS ||
        !pipe.chainOpen) m.chE 6 0 [] pipe.chain
      let pipe1 : PipeSt := if dots.isEmpty = true then pipe else
        { chain := if m.chE = true then Chain.none else run.snd, chainOpen := !m.chE, inMarks := pipe.inMarks, held := pipe.held, lin := pipe.lin, rowOpen := pipe.rowOpen, dens := pipe.dens, drain := pipe.drain, outVals := pipe.outVals, outMarks := pipe.outMarks, outPos := pipe.outPos, group := pipe.group }
      let om : Marks :=
        { chS := dots.isEmpty && (m.chS || pipe1.inMarks.chS), chE := dots.isEmpty && m.chE, rowS := m.rowS || pipe1.inMarks.rowS, rowE := m.rowE }
      let vals : List LaneVal := List.filterMap id run.fst
      let result : Bool := dots.isEmpty || m.chE
      s.fieldRuns = true ∧ pipe.held = none ∧ heads = some ((r0, t0) :: ts) ∧ cfg.idlePipe = false ∧
        feedOk cfg dots feed = true ∧ (∀ (x : Nat × Token), x ∈ ts → x.snd.marks = t0.marks) ∧ roles.Nodup ∧
        (toLantern = false ∨ bitsOf w 0 3 = 0 ∨ rowsWaiting pipe < 2) ∧ (result = false ∨ toLantern = false ∧ vals = [] ∧
        om.rowE = false ∧ om.chE = false)) ∧
    (∃ (s : State) (plot : BitVec 9) (unit : Bool) (feed : FurrowFeed) (r0 : Nat) (t0 : Token) (ts : List (Nat × Token)),
      let pl : Nat := plot.toNat
      let u : Nat := bit unit
      let k : Nat := 2 * pl + u
      let cfg : FurrowCfg := s.lit.furrowAt k
      let pipe : PipeSt := s.pipe k
      let w : W64 := cfg.lantern
      let toLantern : Bool := bitOf (cfg.stages.getD 5 0) 22
      let dots : List Nat := List.filter (fun (k : Nat) => bitsOf (cfg.stages.getD k 0) 0 2 == 0) (List.range 6)
      let roles : List QId := List.map (fun (x : Nat × QId) => x.snd) (s.boundRoles pl u)
      let heads : Option (List (Nat × Token)) := List.mapM (fun (r : Nat × QId) => Option.map (fun (t : Token) => (r.fst, t))
        (s.headScaled r.snd)) (s.boundRoles pl u)
      let m : Marks := t0.marks
      let result : Bool := dots.isEmpty || m.chE
      let side : Option (Option Token × Option Token) := s.lanternSide pl u w (!pipe.rowOpen || m.rowS)
      s.fieldRuns = true ∧ pipe.held = none ∧ heads = some ((r0, t0) :: ts) ∧ cfg.idlePipe = false ∧
        feedOk cfg dots feed = true ∧ (∀ (x : Nat × Token), x ∈ ts → x.snd.marks = t0.marks) ∧ roles.Nodup ∧ toLantern = true ∧
        result = true ∧ (toLantern = false ∨ bitsOf w 0 3 = 0 ∨ rowsWaiting pipe < 2) ∧ side = none) ∧
    (∃ (s : State) (plot : BitVec 9) (unit : Bool) (feed : FurrowFeed) (r0 : Nat) (t0 : Token) (ts : List (Nat × Token)) (mt
      dt : Option Token),
      let pl : Nat := plot.toNat
      let u : Nat := bit unit
      let k : Nat := 2 * pl + u
      let cfg : FurrowCfg := s.lit.furrowAt k
      let pipe : PipeSt := s.pipe k
      let w : W64 := cfg.lantern
      let toLantern : Bool := bitOf (cfg.stages.getD 5 0) 22
      let dots : List Nat := List.filter (fun (k : Nat) => bitsOf (cfg.stages.getD k 0) 0 2 == 0) (List.range 6)
      let roles : List QId := List.map (fun (x : Nat × QId) => x.snd) (s.boundRoles pl u)
      let heads : Option (List (Nat × Token)) := List.mapM (fun (r : Nat × QId) => Option.map (fun (t : Token) => (r.fst, t))
        (s.headScaled r.snd)) (s.boundRoles pl u)
      let m : Marks := t0.marks
      let result : Bool := dots.isEmpty || m.chE
      let side : Option (Option Token × Option Token) := s.lanternSide pl u w (!pipe.rowOpen || m.rowS)
      let l : List QId := (roles ++ if mt = none then [] else (s.roleQ pl u 3).toList) ++ if dt = none then [] else (s.roleQ
        pl u 4).toList
      s.fieldRuns = true ∧ pipe.held = none ∧ heads = some ((r0, t0) :: ts) ∧ cfg.idlePipe = false ∧
        feedOk cfg dots feed = true ∧ (∀ (x : Nat × Token), x ∈ ts → x.snd.marks = t0.marks) ∧ roles.Nodup ∧ toLantern = true ∧
        result = true ∧ (toLantern = false ∨ bitsOf w 0 3 = 0 ∨ rowsWaiting pipe < 2) ∧ side = some (mt, dt) ∧
        (∀ (x : Token), x ∈ mt → x.marks = m) ∧ l.Nodup) ∧
    (∃ (s : State) (plot : BitVec 9) (unit : Bool) (feed : FurrowFeed) (r0 : Nat) (t0 : Token) (ts : List (Nat × Token)),
      let pl : Nat := plot.toNat
      let u : Nat := bit unit
      let k : Nat := 2 * pl + u
      let cfg : FurrowCfg := s.lit.furrowAt k
      let pipe : PipeSt := s.pipe k
      let toLantern : Bool := bitOf (cfg.stages.getD 5 0) 22
      let dots : List Nat := List.filter (fun (k : Nat) => bitsOf (cfg.stages.getD k 0) 0 2 == 0) (List.range 6)
      let roles : List QId := List.map (fun (x : Nat × QId) => x.snd) (s.boundRoles pl u)
      let heads : Option (List (Nat × Token)) := List.mapM (fun (r : Nat × QId) => Option.map (fun (t : Token) => (r.fst, t))
        (s.headScaled r.snd)) (s.boundRoles pl u)
      let m : Marks := t0.marks
      let tok : Nat → Option Token := fun (r : Nat) => Option.map (fun (x : Nat × Token) => x.snd) (List.find? (fun (t : Nat ×
        Token) => t.fst == r) ((r0, t0) :: ts))
      let run : List (Option LaneVal) × Chain := runStages cfg { a := tok 0, b := tok 1, c := tok 2 } feed dots (m.chS ||
        !pipe.chainOpen) m.chE 6 0 [] pipe.chain
      let pipe1 : PipeSt := if dots.isEmpty = true then pipe else
        { chain := if m.chE = true then Chain.none else run.snd, chainOpen := !m.chE, inMarks := pipe.inMarks, held := pipe.held, lin := pipe.lin, rowOpen := pipe.rowOpen, dens := pipe.dens, drain := pipe.drain, outVals := pipe.outVals, outMarks := pipe.outMarks, outPos := pipe.outPos, group := pipe.group }
      let om : Marks :=
        { chS := dots.isEmpty && (m.chS || pipe1.inMarks.chS), chE := dots.isEmpty && m.chE, rowS := m.rowS || pipe1.inMarks.rowS, rowE := m.rowE }
      let vals : List LaneVal := List.filterMap id run.fst
      let result : Bool := dots.isEmpty || m.chE
      s.fieldRuns = true ∧ pipe.held = none ∧ heads = some ((r0, t0) :: ts) ∧ cfg.idlePipe = false ∧
        feedOk cfg dots feed = true ∧ (∀ (x : Nat × Token), x ∈ ts → x.snd.marks = t0.marks) ∧ roles.Nodup ∧ toLantern = false ∧
        result = true ∧ (vals ≠ [] ∨ om.rowE = true ∨ om.chE = true) ∧ s.passAt pl = none) ∧
    (∃ (s : State) (plot : BitVec 9) (unit : Bool) (feed : FurrowFeed) (r0 : Nat) (t0 : Token) (ts : List (Nat × Token)) (p :
      PassSt) (q : QId),
      let pl : Nat := plot.toNat
      let u : Nat := bit unit
      let k : Nat := 2 * pl + u
      let cfg : FurrowCfg := s.lit.furrowAt k
      let pipe : PipeSt := s.pipe k
      let toLantern : Bool := bitOf (cfg.stages.getD 5 0) 22
      let dots : List Nat := List.filter (fun (k : Nat) => bitsOf (cfg.stages.getD k 0) 0 2 == 0) (List.range 6)
      let roles : List QId := List.map (fun (x : Nat × QId) => x.snd) (s.boundRoles pl u)
      let heads : Option (List (Nat × Token)) := List.mapM (fun (r : Nat × QId) => Option.map (fun (t : Token) => (r.fst, t))
        (s.headScaled r.snd)) (s.boundRoles pl u)
      let dst : PassSt → Option QId := fun (p : PassSt) => s.lit.destQ pl u (passStage p.desc pl) (bitsOf cfg.port 25 4)
      let m : Marks := t0.marks
      let tok : Nat → Option Token := fun (r : Nat) => Option.map (fun (x : Nat × Token) => x.snd) (List.find? (fun (t : Nat ×
        Token) => t.fst == r) ((r0, t0) :: ts))
      let run : List (Option LaneVal) × Chain := runStages cfg { a := tok 0, b := tok 1, c := tok 2 } feed dots (m.chS ||
        !pipe.chainOpen) m.chE 6 0 [] pipe.chain
      let pipe1 : PipeSt := if dots.isEmpty = true then pipe else
        { chain := if m.chE = true then Chain.none else run.snd, chainOpen := !m.chE, inMarks := pipe.inMarks, held := pipe.held, lin := pipe.lin, rowOpen := pipe.rowOpen, dens := pipe.dens, drain := pipe.drain, outVals := pipe.outVals, outMarks := pipe.outMarks, outPos := pipe.outPos, group := pipe.group }
      let om : Marks :=
        { chS := dots.isEmpty && (m.chS || pipe1.inMarks.chS), chE := dots.isEmpty && m.chE, rowS := m.rowS || pipe1.inMarks.rowS, rowE := m.rowE }
      let vals : List LaneVal := List.filterMap id run.fst
      let result : Bool := dots.isEmpty || m.chE
      let e : Emission := s.emit p pl u
        { chain := pipe1.chain, chainOpen := pipe1.chainOpen, inMarks := Marks.none, held := pipe1.held, lin := pipe1.lin, rowOpen := pipe1.rowOpen, dens := pipe1.dens, drain := pipe1.drain, outVals := pipe1.outVals, outMarks := pipe1.outMarks, outPos := pipe1.outPos, group := pipe1.group }
        vals om
      s.fieldRuns = true ∧ pipe.held = none ∧ heads = some ((r0, t0) :: ts) ∧ cfg.idlePipe = false ∧
        feedOk cfg dots feed = true ∧ (∀ (x : Nat × Token), x ∈ ts → x.snd.marks = t0.marks) ∧ roles.Nodup ∧ toLantern = false ∧
        result = true ∧ (vals ≠ [] ∨ om.rowE = true ∨ om.chE = true) ∧ s.passAt pl = some p ∧ dst p = some q ∧
        (q :: roles).Nodup ∧ e.toks.length ≤ s.credits q) ∧
    (∃ (s : State) (plot : BitVec 9) (unit : Bool) (feed : FurrowFeed) (r0 : Nat) (t0 : Token) (ts : List (Nat × Token)) (p :
      PassSt) (q : QId),
      let pl : Nat := plot.toNat
      let u : Nat := bit unit
      let k : Nat := 2 * pl + u
      let cfg : FurrowCfg := s.lit.furrowAt k
      let pipe : PipeSt := s.pipe k
      let toLantern : Bool := bitOf (cfg.stages.getD 5 0) 22
      let dots : List Nat := List.filter (fun (k : Nat) => bitsOf (cfg.stages.getD k 0) 0 2 == 0) (List.range 6)
      let roles : List QId := List.map (fun (x : Nat × QId) => x.snd) (s.boundRoles pl u)
      let heads : Option (List (Nat × Token)) := List.mapM (fun (r : Nat × QId) => Option.map (fun (t : Token) => (r.fst, t))
        (s.headScaled r.snd)) (s.boundRoles pl u)
      let dst : PassSt → Option QId := fun (p : PassSt) => s.lit.destQ pl u (passStage p.desc pl) (bitsOf cfg.port 25 4)
      let m : Marks := t0.marks
      let tok : Nat → Option Token := fun (r : Nat) => Option.map (fun (x : Nat × Token) => x.snd) (List.find? (fun (t : Nat ×
        Token) => t.fst == r) ((r0, t0) :: ts))
      let run : List (Option LaneVal) × Chain := runStages cfg { a := tok 0, b := tok 1, c := tok 2 } feed dots (m.chS ||
        !pipe.chainOpen) m.chE 6 0 [] pipe.chain
      let pipe1 : PipeSt := if dots.isEmpty = true then pipe else
        { chain := if m.chE = true then Chain.none else run.snd, chainOpen := !m.chE, inMarks := pipe.inMarks, held := pipe.held, lin := pipe.lin, rowOpen := pipe.rowOpen, dens := pipe.dens, drain := pipe.drain, outVals := pipe.outVals, outMarks := pipe.outMarks, outPos := pipe.outPos, group := pipe.group }
      let om : Marks :=
        { chS := dots.isEmpty && (m.chS || pipe1.inMarks.chS), chE := dots.isEmpty && m.chE, rowS := m.rowS || pipe1.inMarks.rowS, rowE := m.rowE }
      let vals : List LaneVal := List.filterMap id run.fst
      let result : Bool := dots.isEmpty || m.chE
      let e : Emission := s.emit p pl u
        { chain := pipe1.chain, chainOpen := pipe1.chainOpen, inMarks := Marks.none, held := pipe1.held, lin := pipe1.lin, rowOpen := pipe1.rowOpen, dens := pipe1.dens, drain := pipe1.drain, outVals := pipe1.outVals, outMarks := pipe1.outMarks, outPos := pipe1.outPos, group := pipe1.group }
        vals om
      s.fieldRuns = true ∧ pipe.held = none ∧ heads = some ((r0, t0) :: ts) ∧ cfg.idlePipe = false ∧
        feedOk cfg dots feed = true ∧ (∀ (x : Nat × Token), x ∈ ts → x.snd.marks = t0.marks) ∧ roles.Nodup ∧ toLantern = false ∧
        result = true ∧ (vals ≠ [] ∨ om.rowE = true ∨ om.chE = true) ∧ s.passAt pl = some p ∧ dst p = some q ∧
        (q :: roles).Nodup ∧ s.credits q < e.toks.length) ∧
    (∃ (s : State) (plot : BitVec 9) (unit : Bool) (c : Instr) (op : Nat),
      let pl : Nat := plot.toNat
      let u : Nat := bit unit
      let k : Nat := 2 * pl + u
      let cfg : FurrowCfg := s.lit.furrowAt k
      let w : W64 := cfg.lantern
      let toLantern : Bool := bitOf (cfg.stages.getD 5 0) 22
      s.fieldRuns = true ∧ (c, op) ∈ [(Instr.lanternFunc plot unit, 0), (Instr.lanternStatsRow plot unit, 1),
        (Instr.lanternSoftmaxRow plot unit, 2), (Instr.lanternExpsumRow plot unit, 3), (Instr.statsPart plot unit, 4),
        (Instr.statsMerge plot unit, 5)] ∧ (s.passAt pl = none ∨ toLantern = false ∨ bitsOf w 0 3 ≠ op)) ∧
    (∃ (s : State) (plot : BitVec 9) (unit : Bool) (c : Instr) (op : Nat),
      let pl : Nat := plot.toNat
      let u : Nat := bit unit
      let k : Nat := 2 * pl + u
      let cfg : FurrowCfg := s.lit.furrowAt k
      let pipe : PipeSt := s.pipe k
      let w : W64 := cfg.lantern
      let toLantern : Bool := bitOf (cfg.stages.getD 5 0) 22
      s.fieldRuns = true ∧ (c, op) ∈ [(Instr.lanternFunc plot unit, 0), (Instr.lanternStatsRow plot unit, 1),
        (Instr.lanternSoftmaxRow plot unit, 2), (Instr.lanternExpsumRow plot unit, 3), (Instr.statsPart plot unit, 4),
        (Instr.statsMerge plot unit, 5)] ∧ s.passAt pl ≠ none ∧ toLantern = true ∧ bitsOf w 0 3 = op ∧ op ≠ 0 ∧
        pipe.drain = [] ∧ rowSplit pipe.lin = none) ∧
    (∃ (s : State) (plot : BitVec 9) (unit : Bool) (c : Instr) (op d : Nat) (tok : Token) (es : List (Nat × Token)),
      let pl : Nat := plot.toNat
      let u : Nat := bit unit
      let k : Nat := 2 * pl + u
      let cfg : FurrowCfg := s.lit.furrowAt k
      let pipe : PipeSt := s.pipe k
      let w : W64 := cfg.lantern
      let toLantern : Bool := bitOf (cfg.stages.getD 5 0) 22
      s.fieldRuns = true ∧ (c, op) ∈ [(Instr.lanternFunc plot unit, 0), (Instr.lanternStatsRow plot unit, 1),
        (Instr.lanternSoftmaxRow plot unit, 2), (Instr.lanternExpsumRow plot unit, 3), (Instr.statsPart plot unit, 4),
        (Instr.statsMerge plot unit, 5)] ∧ s.passAt pl ≠ none ∧ toLantern = true ∧ bitsOf w 0 3 = op ∧ op ≠ 0 ∧
        pipe.drain = (d, tok) :: es ∧ s.credits d = 0) ∧
    (∃ (s : State) (plot : BitVec 9) (unit : Bool) (c : Instr) (op d : Nat) (tok : Token) (es : List (Nat × Token)),
      let pl : Nat := plot.toNat
      let u : Nat := bit unit
      let k : Nat := 2 * pl + u
      let cfg : FurrowCfg := s.lit.furrowAt k
      let pipe : PipeSt := s.pipe k
      let w : W64 := cfg.lantern
      let toLantern : Bool := bitOf (cfg.stages.getD 5 0) 22
      s.fieldRuns = true ∧ (c, op) ∈ [(Instr.lanternFunc plot unit, 0), (Instr.lanternStatsRow plot unit, 1),
        (Instr.lanternSoftmaxRow plot unit, 2), (Instr.lanternExpsumRow plot unit, 3), (Instr.statsPart plot unit, 4),
        (Instr.statsMerge plot unit, 5)] ∧ s.passAt pl ≠ none ∧ toLantern = true ∧ bitsOf w 0 3 = op ∧ op ≠ 0 ∧
        pipe.drain = (d, tok) :: es ∧ 0 < s.credits d ∧ es = [] ∧ rowSplit pipe.lin = none) ∧
    (∃ (s : State) (plot : BitVec 9) (unit : Bool) (p : PassSt) (q : QId),
      let pl : Nat := plot.toNat
      let u : Nat := bit unit
      let k : Nat := 2 * pl + u
      let cfg : FurrowCfg := s.lit.furrowAt k
      let pipe : PipeSt := s.pipe k
      let w : W64 := cfg.lantern
      let toLantern : Bool := bitOf (cfg.stages.getD 5 0) 22
      let dst : PassSt → Option QId := fun (p : PassSt) => s.lit.destQ pl u (passStage p.desc pl) (bitsOf cfg.port 25 4)
      s.fieldRuns = true ∧ s.passAt pl = some p ∧ dst p = some q ∧ toLantern = true ∧ bitsOf w 0 3 = 0 ∧ pipe.lin = []) ∧
    (∃ (s : State) (plot : BitVec 9) (unit : Bool) (p : PassSt) (q : QId) (b : LBeat) (bs : List LBeat),
      let pl : Nat := plot.toNat
      let u : Nat := bit unit
      let k : Nat := 2 * pl + u
      let cfg : FurrowCfg := s.lit.furrowAt k
      let pipe : PipeSt := s.pipe k
      let w : W64 := cfg.lantern
      let toLantern : Bool := bitOf (cfg.stages.getD 5 0) 22
      let dst : PassSt → Option QId := fun (p : PassSt) => s.lit.destQ pl u (passStage p.desc pl) (bitsOf cfg.port 25 4)
      let e : Emission := s.emit p pl u
        { chain := pipe.chain, chainOpen := pipe.chainOpen, inMarks := pipe.inMarks, held := pipe.held, lin := bs, rowOpen := pipe.rowOpen, dens := pipe.dens, drain := pipe.drain, outVals := pipe.outVals, outMarks := pipe.outMarks, outPos := pipe.outPos, group := pipe.group }
        (List.map (fun (v : Tallow) => LaneVal.ofT (lanternFunc (bitsOf w 3 4) v)) b.vals) b.marks
      s.fieldRuns = true ∧ s.passAt pl = some p ∧ dst p = some q ∧ toLantern = true ∧ bitsOf w 0 3 = 0 ∧ pipe.lin = b :: bs ∧
        e.toks.length ≤ s.credits q) ∧
    (∃ (s : State) (plot : BitVec 9) (unit : Bool) (p : PassSt) (q : QId) (b : LBeat) (bs : List LBeat),
      let pl : Nat := plot.toNat
      let u : Nat := bit unit
      let k : Nat := 2 * pl + u
      let cfg : FurrowCfg := s.lit.furrowAt k
      let pipe : PipeSt := s.pipe k
      let w : W64 := cfg.lantern
      let toLantern : Bool := bitOf (cfg.stages.getD 5 0) 22
      let dst : PassSt → Option QId := fun (p : PassSt) => s.lit.destQ pl u (passStage p.desc pl) (bitsOf cfg.port 25 4)
      let e : Emission := s.emit p pl u
        { chain := pipe.chain, chainOpen := pipe.chainOpen, inMarks := pipe.inMarks, held := pipe.held, lin := bs, rowOpen := pipe.rowOpen, dens := pipe.dens, drain := pipe.drain, outVals := pipe.outVals, outMarks := pipe.outMarks, outPos := pipe.outPos, group := pipe.group }
        (List.map (fun (v : Tallow) => LaneVal.ofT (lanternFunc (bitsOf w 3 4) v)) b.vals) b.marks
      s.fieldRuns = true ∧ s.passAt pl = some p ∧ dst p = some q ∧ toLantern = true ∧ bitsOf w 0 3 = 0 ∧ pipe.lin = b :: bs ∧
        s.credits q < e.toks.length) ∧
    (∃ (s : State) (plot : BitVec 9) (unit : Bool) (p : PassSt) (q : QId) (row rest : List LBeat) (c : Instr) (one : Bool) (r
      : List Tallow × RowStatus),
      let pl : Nat := plot.toNat
      let u : Nat := bit unit
      let k : Nat := 2 * pl + u
      let cfg : FurrowCfg := s.lit.furrowAt k
      let pipe : PipeSt := s.pipe k
      let w : W64 := cfg.lantern
      let toLantern : Bool := bitOf (cfg.stages.getD 5 0) 22
      let dst : PassSt → Option QId := fun (p : PassSt) => s.lit.destQ pl u (passStage p.desc pl) (bitsOf cfg.port 25 4)
      let en : Bool := bitOf w 7
      let den : Option Token := if bitOf w 8 = true then pipe.dens.head? else none
      let sq : Option QId := if bitOf w 9 = true then s.lit.destQ pl u (passStage p.desc pl) (bitsOf cfg.port 29 4) else none
      let vs : List Tallow := if one = true then List.take (elemsPerBeat (bitsOf (passOcw p.desc (passStage p.desc pl)) 0 4))
        (lanes32 r.fst) else r.fst
      let pipe1 : PipeSt :=
        { chain := pipe.chain, chainOpen := pipe.chainOpen, inMarks := pipe.inMarks, held := pipe.held, lin := rest, rowOpen := pipe.rowOpen, dens := if bitOf w 8 = true then pipe.dens.tail else pipe.dens, drain := pipe.drain, outVals := pipe.outVals, outMarks := pipe.outMarks, outPos := pipe.outPos, group := pipe.group }
      let e : Emission := s.emit p pl u pipe1 (List.map LaneVal.ofT vs)
        { chS := false, chE := false, rowS := true, rowE := true }
      let n : Nat := min (s.credits q) e.toks.length
      s.fieldRuns = true ∧ s.passAt pl = some p ∧ dst p = some q ∧ toLantern = true ∧ pipe.drain = [] ∧
        rowSplit pipe.lin = some (row, rest) ∧ (c = Instr.lanternStatsRow plot unit ∧ bitsOf w 0 3 = 1 ∧ one = true ∧
        r = statsOut s.lit.compat row ∨ c = Instr.statsPart plot unit ∧ bitsOf w 0 3 = 4 ∧ one = true ∧
        r = statsPartRow (rowValuesOf row) ∨ c = Instr.statsMerge plot unit ∧ bitsOf w 0 3 = 5 ∧ one = true ∧ r = mergeOut row ∨
        c = Instr.lanternSoftmaxRow plot unit ∧ bitsOf w 0 3 = 2 ∧ one = false ∧ r = softmaxOut s.lit.compat en row den ∨
        c = Instr.lanternExpsumRow plot unit ∧ bitsOf w 0 3 = 3 ∧ one = true ∧ r = expsumOut en row) ∧ (q :: sq.toList).Nodup ∧
        n = e.toks.length ∧ ∀ (x : QId), x ∈ sq → 0 < s.credits x) ∧
    (∃ (s : State) (plot : BitVec 9) (unit : Bool) (p : PassSt) (q : QId) (row rest : List LBeat) (c : Instr) (one : Bool) (r
      : List Tallow × RowStatus),
      let pl : Nat := plot.toNat
      let u : Nat := bit unit
      let k : Nat := 2 * pl + u
      let cfg : FurrowCfg := s.lit.furrowAt k
      let pipe : PipeSt := s.pipe k
      let w : W64 := cfg.lantern
      let toLantern : Bool := bitOf (cfg.stages.getD 5 0) 22
      let dst : PassSt → Option QId := fun (p : PassSt) => s.lit.destQ pl u (passStage p.desc pl) (bitsOf cfg.port 25 4)
      let en : Bool := bitOf w 7
      let den : Option Token := if bitOf w 8 = true then pipe.dens.head? else none
      let sq : Option QId := if bitOf w 9 = true then s.lit.destQ pl u (passStage p.desc pl) (bitsOf cfg.port 29 4) else none
      let vs : List Tallow := if one = true then List.take (elemsPerBeat (bitsOf (passOcw p.desc (passStage p.desc pl)) 0 4))
        (lanes32 r.fst) else r.fst
      let pipe1 : PipeSt :=
        { chain := pipe.chain, chainOpen := pipe.chainOpen, inMarks := pipe.inMarks, held := pipe.held, lin := rest, rowOpen := pipe.rowOpen, dens := if bitOf w 8 = true then pipe.dens.tail else pipe.dens, drain := pipe.drain, outVals := pipe.outVals, outMarks := pipe.outMarks, outPos := pipe.outPos, group := pipe.group }
      let e : Emission := s.emit p pl u pipe1 (List.map LaneVal.ofT vs)
        { chS := false, chE := false, rowS := true, rowE := true }
      let n : Nat := min (s.credits q) e.toks.length
      s.fieldRuns = true ∧ s.passAt pl = some p ∧ dst p = some q ∧ toLantern = true ∧ pipe.drain = [] ∧
        rowSplit pipe.lin = some (row, rest) ∧ (c = Instr.lanternStatsRow plot unit ∧ bitsOf w 0 3 = 1 ∧ one = true ∧
        r = statsOut s.lit.compat row ∨ c = Instr.statsPart plot unit ∧ bitsOf w 0 3 = 4 ∧ one = true ∧
        r = statsPartRow (rowValuesOf row) ∨ c = Instr.statsMerge plot unit ∧ bitsOf w 0 3 = 5 ∧ one = true ∧ r = mergeOut row ∨
        c = Instr.lanternSoftmaxRow plot unit ∧ bitsOf w 0 3 = 2 ∧ one = false ∧ r = softmaxOut s.lit.compat en row den ∨
        c = Instr.lanternExpsumRow plot unit ∧ bitsOf w 0 3 = 3 ∧ one = true ∧ r = expsumOut en row) ∧ (q :: sq.toList).Nodup ∧
        n < e.toks.length) :=
  ⟨⟨0, by decide +kernel⟩,
    ⟨0, 0, 0, by decide +kernel⟩,
    ⟨[(0, true)], by decide, by simp⟩,
    ⟨quietRow, 0, false, feed1, by decide +kernel⟩,
    ⟨heldNoPass, 17, false, ([⟨12, 302222231531620438900736, none⟩], ⟨false, false, true, true⟩), by decide +kernel⟩,
    ⟨heldFull, 17, false, ([⟨12, 302222231531620438900736, none⟩], ⟨false, false, true, true⟩), passAll, 2184,
      by decide +kernel⟩,
    ⟨heldPass, 17, false, ([⟨12, 302222231531620438900736, none⟩], ⟨false, false, true, true⟩), passAll, 2184,
      by decide +kernel⟩,
    ⟨drainingTwo, 17, false, feed1, 0, (token true), [], by decide +kernel⟩,
    ⟨quietRow, 17, false, [], 0, ⟨66081, 0, 0⟩, [], by decide +kernel⟩,
    ⟨noMask, 17, false, feed1, 0, (token true), [], by decide +kernel⟩,
    ⟨nothingWaits, 17, false, feed1, 0, (token true), [], (none), (none), by decide +kernel⟩,
    ⟨noPass, 17, false, feed1, 0, (token true), [], by decide +kernel⟩,
    ⟨quietRow, 17, false, feed1, 0, ⟨66081, 0, 0⟩, [], passAll, 2184, by decide +kernel⟩,
    ⟨fullPipe, 17, false, feed1, 0, (token true), [], passAll, 2184, by decide +kernel⟩,
    ⟨quietRow, 0, false, Instr.lanternFunc 0 false, 0, by decide +kernel⟩,
    ⟨joining, 17, false, Instr.lanternSoftmaxRow 17 false, 2, by decide +kernel⟩,
    ⟨drainingFull, 17, false, Instr.lanternStatsRow 17 false, 1, 2184, (token true), [], by decide +kernel⟩,
    ⟨draining, 17, false, Instr.lanternStatsRow 17 false, 1, 2184, (token true), [], by decide +kernel⟩,
    ⟨nothingWaits, 17, false, passAll, 2184, by decide +kernel⟩,
    ⟨(waiting 1 0), 17, false, passAll, 2184, (beat1 true), [], by decide +kernel⟩,
    ⟨fullLantern, 17, false, passAll, 2184, (beat1 true), [], by decide +kernel⟩,
    ⟨statsWaits, 17, false, passAll, 2184, [(beat1 true)], [], Instr.lanternStatsRow 17 false, true,
      ([302222231531620438900736, 0], ⟨false, false, false, false, false, 1⟩), by decide +kernel⟩,
    ⟨statsFull, 17, false, passAll, 2184, [(beat1 true)], [], Instr.lanternStatsRow 17 false, true,
      ([302222231531620438900736, 0], ⟨false, false, false, false, false, 1⟩), by decide +kernel⟩⟩

theorem witness_AddressGenerators :
    (∃ (s : State) (plot : BitVec 9) (unit : Bool) (ag : BitVec 2), s.agRun plot unit ag = none) ∧
    (∃ (s : State) (plot : BitVec 9) (unit : Bool) (ag : BitVec 2), s.agRun plot unit ag = none) ∧
    (∃ (s : State) (plot : BitVec 9) (unit : Bool) (ag : BitVec 2), s.agRun plot unit ag = none) ∧
    (∃ (s : State) (plot : BitVec 9) (unit : Bool) (ag : BitVec 2) (r : AgRun),
      let own : Owner := Owner.tile r.key
      s.agRun plot unit ag = some r ∧ (r.b.far = false ∨ r.d.kind = 3 ∨ s.ownerPending own = true)) ∧
    (∃ (s : State) (plot : BitVec 9) (unit : Bool) (ag : BitVec 2) (r : AgRun),
      let own : Owner := Owner.tile r.key
      let n : Nat := s.nextFar r r.d.tiles r.st.far
      s.agRun plot unit ag = some r ∧ r.b.far = true ∧ r.d.kind ≠ 3 ∧ s.ownerPending own = false ∧
        if r.b.write = true then r.st.t ≤ n else r.d.tiles ≤ n ∨ r.st.t + 1 < n) ∧
    (∃ (s : State) (plot : BitVec 9) (unit : Bool) (ag : BitVec 2) (r : AgRun),
      let own : Owner := Owner.tile r.key
      let n : Nat := s.nextFar r r.d.tiles r.st.far
      let a : Nat := s.tileAddr r n
      let s₁ : State := if r.st.wait = 0 then s.boardRequest own r.pass.order (some r.pass.pseq) false a r.tileBytes else s
      s.agRun plot unit ag = some r ∧ r.b.far = true ∧ (r.d.kind = 0 ∨ r.d.kind = 1) ∧ s.ownerPending own = false ∧
        r.b.write = false ∧ n < r.d.tiles ∧ n ≤ r.st.t + 1 ∧ s₁.boardHeld own = false) ∧
    (∃ (s : State) (plot : BitVec 9) (unit : Bool) (ag : BitVec 2) (r : AgRun) (o : Nat),
      let own : Owner := Owner.tile r.key
      let n : Nat := s.nextFar r r.d.tiles r.st.far
      let a : Nat := s.tileAddr r n
      s.agRun plot unit ag = some r ∧ s.locate a = Loc.top o ∧ (fun (write : Bool) (o : Nat) => r.b.far = true ∧
        r.d.kind ≠ 3 ∧ r.b.write = write ∧ s.ownerPending own = false ∧ r.st.wait ≠ 0 ∧ s.boardHeld own = true ∧
        s.rangeRefuses write a r.tileBytes = false ∧ s.accessRefused write a r.tileBytes = false ∧
        topRange o r.tileBytes = true ∧ r.scaleBytes = 0 ∧ 0 < r.tileBytes ∧ (r.d.kind = 2 →
        (List.any r.st.lens fun (e : Nat × Nat) => e.fst == (r.pageAt n).fst) = true ∧ s.seedbed.bad = [] ∧
        (fun (off : Nat) => s.locate (s.gaddr 0 (r.at off)) = Loc.seedbed (r.at off)) (r.pageRow (r.pageAt n).fst + 8 *
        ((r.pageAt n).snd + 1)))) false o ∧ n < r.d.tiles ∧ n ≤ r.st.t + 1 ∧ s.topsoil.badIn 64 o r.tileBytes = [] ∧
        (fun (off : Nat) => s.locate (s.gaddr 0 (r.at off)) = Loc.seedbed (r.at off)) (r.slotOff n)) ∧
    (∃ (s : State) (plot : BitVec 9) (unit : Bool) (ag : BitVec 2) (r : AgRun) (o : Nat),
      let own : Owner := Owner.tile r.key
      let n : Nat := s.nextFar r r.d.tiles r.st.far
      let a : Nat := s.tileAddr r n
      s.agRun plot unit ag = some r ∧ s.locate a = Loc.top o ∧ (fun (write : Bool) (o : Nat) => r.b.far = true ∧
        r.d.kind ≠ 3 ∧ r.b.write = write ∧ s.ownerPending own = false ∧ r.st.wait ≠ 0 ∧ s.boardHeld own = true ∧
        s.rangeRefuses write a r.tileBytes = false ∧ s.accessRefused write a r.tileBytes = false ∧
        topRange o r.tileBytes = true ∧ r.scaleBytes = 0 ∧ 0 < r.tileBytes ∧ (r.d.kind = 2 →
        (List.any r.st.lens fun (e : Nat × Nat) => e.fst == (r.pageAt n).fst) = true ∧ s.seedbed.bad = [] ∧
        (fun (off : Nat) => s.locate (s.gaddr 0 (r.at off)) = Loc.seedbed (r.at off)) (r.pageRow (r.pageAt n).fst + 8 *
        ((r.pageAt n).snd + 1)))) true o ∧ r.d.kind ≠ 2 ∧ n < r.st.t ∧ s.writeWaits a r.tileBytes = false ∧ s.topsoil.bad = [] ∧
        s.seedbed.bad = [] ∧ o % 64 = 0 ∧ a % 64 = 0 ∧ (fun (off : Nat) => s.locate (s.gaddr 0 (r.at off)) = Loc.seedbed (r.at
        off)) (r.slotOff n)) ∧
    (∃ (s : State) (plot : BitVec 9) (unit : Bool) (ag : BitVec 2) (r : AgRun), s.agRun plot unit ag = some r ∧
      (r.d.kind = 3 ∨ r.d.tiles ≤ r.st.t ∨ s.tileReady r = false)) ∧
    (∃ (s : State) (plot : BitVec 9) (unit : Bool) (ag : BitVec 2) (r : AgRun) (marks : BitVec 4),
      let o : Nat := s.accessOff r r.st.t r.st.si
      let dist : Int := s.accessDist r r.st.t r.st.si
      let so : Nat := r.beatScaleOff r.st.t dist 0
      let valid : Nat := s.validOf r r.st.t r.st.si
      let x : List Token × List (List Byte) := s.readToks r o dist valid marks none
      s.agRun plot unit ag = some r ∧ r.d.kind = 0 ∧ r.st.t < r.d.tiles ∧ s.tileReady r = true ∧ r.b.write = false ∧
        (valid = 0 ∨ (fun (off : Nat) => s.locate (s.gaddr 0 (r.at off)) = Loc.seedbed (r.at off)) o ∧
        s.seedbed.badIn 8 (r.at o) (64 * r.d.beats) = [] ∧ (isMx r.d.fmt = true →
        (fun (off : Nat) => s.locate (s.gaddr 0 (r.at off)) = Loc.seedbed (r.at off)) so ∧
        s.seedbed.badIn 8 (r.at so) (r.d.beats * blocksPerBeat r.d.fmt) = [])) ∧ s.credits r.portQ < x.fst.length) ∧
    (∃ (s : State) (plot : BitVec 9) (unit : Bool) (ag : BitVec 2) (r : AgRun) (marks : BitVec 4),
      let o : Nat := s.accessOff r r.st.t r.st.si
      let dist : Int := s.accessDist r r.st.t r.st.si
      let so : Nat := r.beatScaleOff r.st.t dist 0
      let valid : Nat := s.validOf r r.st.t r.st.si
      let x : List Token × List (List Byte) := s.readToks r o dist valid marks none
      s.agRun plot unit ag = some r ∧ r.d.kind = 0 ∧ r.st.t < r.d.tiles ∧ s.tileReady r = true ∧ r.b.write = false ∧
        (valid = 0 ∨ (fun (off : Nat) => s.locate (s.gaddr 0 (r.at off)) = Loc.seedbed (r.at off)) o ∧
        s.seedbed.badIn 8 (r.at o) (64 * r.d.beats) = [] ∧ (isMx r.d.fmt = true →
        (fun (off : Nat) => s.locate (s.gaddr 0 (r.at off)) = Loc.seedbed (r.at off)) so ∧
        s.seedbed.badIn 8 (r.at so) (r.d.beats * blocksPerBeat r.d.fmt) = [])) ∧ x.fst.length ≤ s.credits r.portQ) ∧
    (∃ (s : State) (plot : BitVec 9) (unit : Bool) (ag : BitVec 2) (r : AgRun), s.agRun plot unit ag = some r ∧ r.d.kind = 0 ∧
      r.st.t < r.d.tiles ∧ s.tileReady r = true ∧ r.b.write = true ∧ s.takeBeats r.portQ r.d.beats = none) ∧
    (∃ (s : State) (plot : BitVec 9) (unit : Bool) (ag : BitVec 2) (r : AgRun) (tok : Token) (s1 : State),
      let o : Nat := s.accessOff r r.st.t r.st.si
      let valid : Nat := s.validOf r r.st.t r.st.si
      s.agRun plot unit ag = some r ∧ r.d.kind = 0 ∧ r.st.t < r.d.tiles ∧ s.tileReady r = true ∧ r.b.write = true ∧
        r.b.far = false ∧ r.d.beats = 1 ∧ s.takeBeats r.portQ 1 = some ([tok], s1) ∧ isMx r.d.fmt = false ∧
        min tok.vcount (min (elemsPerBeat r.d.fmt) valid) * elemBits r.d.fmt = 512 ∧
        (fun (off : Nat) => s.locate (s.gaddr 0 (r.at off)) = Loc.seedbed (r.at off)) o) ∧
    (∃ (s : State) (plot : BitVec 9) (unit : Bool) (ag : BitVec 2) (r : AgRun), s.agRun plot unit ag = some r ∧
      r.d.kind ≠ 3) ∧
    (∃ (s : State) (plot : BitVec 9) (unit : Bool) (ag : BitVec 2) (r : AgRun), s.agRun plot unit ag = some r ∧ r.d.kind = 3 ∧
      r.st.t < r.treeRows ∧ passRowActive r.pass.desc r.st.t = false) ∧
    (∃ (s : State) (plot : BitVec 9) (unit : Bool) (ag : BitVec 2) (r : AgRun),
      let pOff : Nat := 64 * r.b.idxLine + r.st.t * 1024
      let lOff : Nat := 64 * r.b.sbScale + r.st.t * 8 * (r.d.limit1 + 1)
      let parents : List Int := treeParents (List.map (fun (i : Nat) => s.seedbed.byte 8 (r.at (pOff + i))) (List.range 1024))
      let n : Nat := treeCount parents
      let len : Nat := s.hopNat r lOff 8
      let depths : List Nat := if len < n then [] else treeDepths parents n
      let ts : List Token := List.drop r.st.sub (nodeTokens (decide (len < n)) (ancestors parents depths n) len n r.st.si)
      s.agRun plot unit ag = some r ∧ r.d.kind = 3 ∧ r.st.t < r.treeRows ∧ passRowActive r.pass.desc r.st.t = true ∧ 0 < n ∧
        s.credits r.portQ = 0 ∧ ts ≠ []) ∧
    (∃ (s : State) (plot : BitVec 9) (unit : Bool) (ag : BitVec 2) (r : AgRun),
      let pOff : Nat := 64 * r.b.idxLine + r.st.t * 1024
      let lOff : Nat := 64 * r.b.sbScale + r.st.t * 8 * (r.d.limit1 + 1)
      let parents : List Int := treeParents (List.map (fun (i : Nat) => s.seedbed.byte 8 (r.at (pOff + i))) (List.range 1024))
      let n : Nat := treeCount parents
      let len : Nat := s.hopNat r lOff 8
      let depths : List Nat := if len < n then [] else treeDepths parents n
      let ts : List Token := List.drop r.st.sub (nodeTokens (decide (len < n)) (ancestors parents depths n) len n r.st.si)
      let now : List Token := List.take (s.credits r.portQ) ts
      s.agRun plot unit ag = some r ∧ r.d.kind = 3 ∧ r.st.t < r.treeRows ∧ passRowActive r.pass.desc r.st.t = true ∧ 0 < n ∧
        (now ≠ [] ∨ ts = []) ∧ (r.st.si ≠ 0 ∨ r.st.sub ≠ 0)) ∧
    (∃ (s : State) (plot : BitVec 9) (unit : Bool) (ag : BitVec 2) (r : AgRun),
      let pOff : Nat := 64 * r.b.idxLine + r.st.t * 1024
      let lOff : Nat := 64 * r.b.sbScale + r.st.t * 8 * (r.d.limit1 + 1)
      let dOff : Nat := 64 * r.b.sbBase + r.st.t * 1024
      let parents : List Int := treeParents (List.map (fun (i : Nat) => s.seedbed.byte 8 (r.at (pOff + i))) (List.range 1024))
      let n : Nat := treeCount parents
      let len : Nat := s.hopNat r lOff 8
      let depths : List Nat := if len < n then [] else treeDepths parents n
      let ts : List Token := List.drop r.st.sub (nodeTokens (decide (len < n)) (ancestors parents depths n) len n r.st.si)
      let now : List Token := List.take (s.credits r.portQ) ts
      s.agRun plot unit ag = some r ∧ r.d.kind = 3 ∧ r.st.t < r.treeRows ∧ passRowActive r.pass.desc r.st.t = true ∧ 0 < n ∧
        (now ≠ [] ∨ ts = []) ∧ r.st.si = 0 ∧ r.st.sub = 0 ∧ (fun (off : Nat) => s.locate (s.gaddr 0 (r.at off)) = Loc.seedbed
        (r.at off)) dOff ∧ (fun (off : Nat) => s.locate (s.gaddr 0 (r.at off)) = Loc.seedbed (r.at off)) pOff ∧
        (fun (off : Nat) => s.locate (s.gaddr 0 (r.at off)) = Loc.seedbed (r.at off)) lOff ∧ s.seedbed.bad = []) :=
  ⟨⟨fedWriter, 0, false, 0, by decide +kernel⟩,
    ⟨fedWriter, 0, false, 0, by decide +kernel⟩,
    ⟨fedWriter, 0, false, 0, by decide +kernel⟩,
    ⟨fedWriter, 17, false, 0, agWrite, by decide +kernel⟩,
    ⟨drained, 17, false, 0, ⟨136, 34, 0, ⟨5, 0, 0, [0, 0, 0, 0, 0, 0, 0, 0, 4398047559680, 0, 0, 0, 0, 0, 0, 0, 2, 0, 0, 0, 0,
      0, 0, 0, 0, 0, 0, 0, 0, 0, 0, 0, 1, 0, 0, 0, 0, 0, 0, 0, 279585, 0, 0, 0, 0, 0, 0, 0, 0, 0, 0, 0, 0, 0, 0, 0, 0, 0, 0, 0,
      0, 0, 0, 0], 0, 0, false, 0, 0, false, ⟨0, 0, 0, 0, 0, 0, 0, 0, 0, 0⟩⟩, ⟨true, true, 0, 0, 5, true, 0, 0, 0, 0, 0, 0, 0⟩,
      ⟨[32, 2, 1, 1, 1, 1], [64, 0, 0, 0, 0, 0], 2, 1, 0, [0, 1, 2, 3, 4, 5], [0, 1, 2, 3, 4, 5], 2, [0, 0, 0, 0, 0, 0], 0, 0,
      1⟩, ⟨true, 5, 0, 1, 0, 1, 0, [0, 1, 5, 63], [], [], [], 0, false⟩⟩, by decide +kernel⟩,
    ⟨(farGen 0 1), 17, false, 0, agWait, by decide +kernel⟩,
    ⟨heldFar, 17, false, 0, agWait, 1048576, by decide +kernel⟩,
    ⟨drains, 17, false, 0, ⟨136, 34, 0, ⟨5, 0, 0, [0, 0, 0, 0, 0, 0, 0, 0, 4398047559680, 0, 0, 0, 0, 0, 0, 0, 2, 0, 0, 0, 0,
      0, 0, 0, 0, 0, 0, 0, 0, 0, 0, 0, 1, 0, 0, 0, 0, 0, 0, 0, 279585, 0, 0, 0, 0, 0, 0, 0, 0, 0, 0, 0, 0, 0, 0, 0, 0, 0, 0, 0,
      0, 0, 0, 0], 0, 0, false, 0, 0, false, ⟨0, 0, 0, 0, 0, 0, 0, 0, 0, 0⟩⟩, ⟨true, true, 0, 0, 5, true, 0, 0, 0, 0, 0, 0, 0⟩,
      ⟨[32, 2, 1, 1, 1, 1], [64, 0, 0, 0, 0, 0], 2, 1, 0, [0, 1, 2, 3, 4, 5], [0, 1, 2, 3, 4, 5], 2, [0, 0, 0, 0, 0, 0], 0, 0,
      1⟩, ⟨true, 5, 0, 1, 0, 0, 1, [0, 1, 5, 63], [], [], [], 0, false⟩⟩, 1048576, by decide +kernel⟩,
    ⟨heldFar, 17, false, 0, agWait, by decide +kernel⟩,
    ⟨nearFull, 17, false, 0, agNear, 0, by decide +kernel⟩,
    ⟨farEnds, 17, false, 0, agFar2, 0, by decide +kernel⟩,
    ⟨takenWriter, 17, false, 0, agWrite, by decide +kernel⟩,
    ⟨fedWriter, 17, false, 0, agWrite, tokFull, takenWriter, by decide +kernel⟩,
    ⟨fedWriter, 17, false, 0, agWrite, by decide +kernel⟩,
    ⟨treeAbsent, 17, false, 0, ⟨136, 34, 0, ⟨5, 0, 0, [0, 0, 0, 0, 0, 0, 0, 0, 4398047559680, 0, 0, 0, 0, 0, 0, 0, 2, 0, 0, 0,
      0, 0, 0, 0, 0, 0, 0, 0, 0, 0, 0, 0, 0, 0, 0, 0, 0, 0, 0, 0, 279585, 0, 0, 0, 0, 0, 0, 0, 0, 0, 0, 0, 0, 0, 0, 0, 0, 0, 0,
      0, 0, 0, 0, 0], 0, 0, false, 0, 0, false, ⟨0, 0, 0, 0, 0, 0, 0, 0, 0, 0⟩⟩, ⟨true, false, 0, 2, 0, false, 0, 0, 32, 64, 0,
      0, 0⟩, ⟨[1, 2, 1, 1, 1, 1], [64, 0, 0, 0, 0, 0], 11, 1, 3, [0, 1, 2, 3, 4, 5], [0, 1, 2, 3, 4, 5], 0, [0, 3, 0, 0, 0, 0],
      0, 2, 0⟩, ⟨true, 5, 0, 0, 0, 0, 0, [], [], [], [], 0, false⟩⟩, by decide +kernel⟩,
    ⟨treeFull, 17, false, 0, agTree0, by decide +kernel⟩,
    ⟨treeGoesOn, 17, false, 0, agTree1, by decide +kernel⟩,
    ⟨treeBegins, 17, false, 0, agTree0, by decide +kernel⟩⟩

theorem witness_ApplyNeedsScrub :
    (∃ (s : State) (src : Source), Takes s src 0xF0020 2 ∧ (sliceOf (s.sliceWord 0) (s.sliceWord 1) (s.sliceWord 2)).job ≠
      s.get LAMP_JOB.LAST_JOB ∧ s.get LAMP_JOB.SCRUBBED = 0) :=
  ⟨applying7, Source.lamp, by decide +kernel⟩

theorem witness_LampCommands :
    (∃ (s : State) (src : Source) (c : Instr) (lvl : Nat), (c, lvl) ∈ [(Instr.attest src, 1), (Instr.planInstall src, 2),
      (Instr.jobEnd src, 2), (Instr.scrub src, 2), (Instr.debugNonce src, 2), (Instr.debugUnlock src, 2), (Instr.fabricRekey
      src, 2), (Instr.hostSession src, 2)] ∧ Takes s src 0x30000 lvl ∧ s.get LAMP_STATUS.BUSY = 1) ∧
    (∃ (s : State) (src : Source),
      let a0 : Nat := s.get (LAMP_ARG.ARG 0)
      let a1 : Nat := s.get (LAMP_ARG.ARG 1)
      Takes s src 0x30000 1 ∧ s.get LAMP_STATUS.BUSY = 0 ∧ (s.ownTop true a0 1152 = false ∨ s.ownTop false a1 32 = false)) ∧
    (∃ (s : State) (src : Source) (o : Nat),
      let a0 : Nat := s.get (LAMP_ARG.ARG 0)
      let a1 : Nat := s.get (LAMP_ARG.ARG 1)
      Takes s src 0x30000 1 ∧ s.get LAMP_STATUS.BUSY = 0 ∧ s.ownTop true a0 1152 = true ∧ s.ownTop false a1 32 = true ∧
        s.locate a0 = Loc.top o ∧ s.get WARD_STATUS.STATE = 0 ∧ s.lamp.aliasCert.length ≤ 256) ∧
    (∃ (s : State) (src : Source),
      let a0 : Nat := s.get (LAMP_ARG.ARG 0)
      let a1 : Nat := s.get (LAMP_ARG.ARG 1)
      Takes s src 0x30000 2 ∧ s.get LAMP_STATUS.BUSY = 0 ∧ s.ownTop false a0 a1 = false) ∧
    (∃ (s : State) (src : Source),
      let a0 : Nat := s.get (LAMP_ARG.ARG 0)
      let a1 : Nat := s.get (LAMP_ARG.ARG 1)
      let r : Option Plan := readPlan s.part (s.peek a0 a1) a1
      Takes s src 0x30000 2 ∧ s.get LAMP_STATUS.BUSY = 0 ∧ s.ownTop false a0 a1 = true ∧ r = none) ∧
    (∃ (s : State) (src : Source) (p o : Plan),
      let a0 : Nat := s.get (LAMP_ARG.ARG 0)
      let a1 : Nat := s.get (LAMP_ARG.ARG 1)
      let r : Option Plan := readPlan s.part (s.peek a0 a1) a1
      Takes s src 0x30000 2 ∧ s.get LAMP_STATUS.BUSY = 0 ∧ s.ownTop false a0 a1 = true ∧ r = some p ∧ s.net.stored = some o ∧
        o.rack ≠ p.rack) ∧
    (∃ (s : State) (src : Source) (p o : Plan),
      let a0 : Nat := s.get (LAMP_ARG.ARG 0)
      let a1 : Nat := s.get (LAMP_ARG.ARG 1)
      let r : Option Plan := readPlan s.part (s.peek a0 a1) a1
      Takes s src 0x30000 2 ∧ s.get LAMP_STATUS.BUSY = 0 ∧ s.ownTop false a0 a1 = true ∧ r = some p ∧ s.net.stored = some o ∧
        o.rack = p.rack ∧ (p.seq < o.seq ∨ p.seq = o.seq ∧ p.digest ≠ o.digest)) ∧
    (∃ (s : State) (src : Source) (p : Plan),
      let a0 : Nat := s.get (LAMP_ARG.ARG 0)
      let a1 : Nat := s.get (LAMP_ARG.ARG 1)
      let r : Option Plan := readPlan s.part (s.peek a0 a1) a1
      Takes s src 0x30000 2 ∧ s.get LAMP_STATUS.BUSY = 0 ∧ s.ownTop false a0 a1 = true ∧ r = some p ∧
        ∀ (o : Plan), o ∈ s.net.stored → o.rack = p.rack ∧ (o.seq < p.seq ∨ o.seq = p.seq ∧ o.digest = p.digest)) ∧
    (∃ (s : State) (src : Source) (c : Instr) (op : Nat), Takes s src 0x30000 2 ∧ s.get LAMP_STATUS.BUSY = 0 ∧
      (c = Instr.jobEnd src ∧ op = 3 ∨ c = Instr.scrub src ∧ op = 4) ∧ (op = 3 ∧ s.net.slice = none ∨ op = 4 ∧
      s.net.slice ≠ none ∨ s.bistRunning = true)) ∧
    (∃ (s : State) (src : Source) (c : Instr) (op : Nat), Takes s src 0x30000 2 ∧ s.get LAMP_STATUS.BUSY = 0 ∧
      (c = Instr.jobEnd src ∧ op = 3 ∨ c = Instr.scrub src ∧ op = 4) ∧ (op = 3 ↔ s.net.slice ≠ none) ∧ s.bistRunning = false ∧
      s.lenderHolds = true) ∧
    (∃ (s : State) (src : Source) (c : Instr) (op : Nat), Takes s src 0x30000 2 ∧ s.get LAMP_STATUS.BUSY = 0 ∧
      (c = Instr.jobEnd src ∧ op = 3 ∨ c = Instr.scrub src ∧ op = 4) ∧ (op = 3 ↔ s.net.slice ≠ none) ∧ s.bistRunning = false ∧
      s.lenderHolds = false) ∧
    (∃ (s : State) (src : Source),
      let a0 : Nat := s.get (LAMP_ARG.ARG 0)
      Takes s src 0x30000 2 ∧ s.get LAMP_STATUS.BUSY = 0 ∧ s.ownTop true a0 32 = false) ∧
    (∃ (s : State) (src : Source) (o : Nat),
      let a0 : Nat := s.get (LAMP_ARG.ARG 0)
      Takes s src 0x30000 2 ∧ s.get LAMP_STATUS.BUSY = 0 ∧ s.ownTop true a0 32 = true ∧ s.locate a0 = Loc.top o ∧
        s.get WARD_STATUS.STATE = 0) ∧
    (∃ (s : State) (src : Source), Takes s src 0x30000 2 ∧ s.get LAMP_STATUS.BUSY = 0 ∧ (s.net.slice ≠ none ∨
      s.get LAMP_JOB.SCRUBBED = 0 ∨ s.bistRunning = true)) ∧
    (∃ (s : State) (src : Source), Takes s src 0x30000 2 ∧ s.get LAMP_STATUS.BUSY = 0 ∧ s.net.slice = none ∧
      s.get LAMP_JOB.SCRUBBED = 1 ∧ s.bistRunning = false ∧ s.lenderHolds = true) ∧
    (∃ (s : State) (src : Source),
      let a0 : Nat := s.get (LAMP_ARG.ARG 0)
      Takes s src 0x30000 2 ∧ s.get LAMP_STATUS.BUSY = 0 ∧ s.net.slice = none ∧ s.get LAMP_JOB.SCRUBBED = 1 ∧
        s.bistRunning = false ∧ s.lenderHolds = false ∧ s.ownTop false a0 384 = false) ∧
    (∃ (s : State) (src : Source),
      let a0 : Nat := s.get (LAMP_ARG.ARG 0)
      Takes s src 0x30000 2 ∧ s.get LAMP_STATUS.BUSY = 0 ∧ s.net.slice = none ∧ s.get LAMP_JOB.SCRUBBED = 1 ∧
        s.bistRunning = false ∧ s.lenderHolds = false ∧ s.ownTop false a0 384 = true ∧ s.tokenOk (s.peek a0 384) = false) ∧
    (∃ (s : State) (src : Source),
      let a0 : Nat := s.get (LAMP_ARG.ARG 0)
      Takes s src 0x30000 2 ∧ s.get LAMP_STATUS.BUSY = 0 ∧ s.net.slice = none ∧ s.get LAMP_JOB.SCRUBBED = 1 ∧
        s.bistRunning = false ∧ s.lenderHolds = false ∧ s.ownTop false a0 384 = true ∧ s.tokenOk (s.peek a0 384) = true) ∧
    (∃ (s : State) (src : Source),
      let a0 : Nat := s.get (LAMP_ARG.ARG 0)
      Takes s src 0x30000 2 ∧ s.get LAMP_STATUS.BUSY = 0 ∧ (s.get CHIP_STRAPS.BRIDGE_EN = 0 ∨ 2 ≤ a0 % 4)) ∧
    (∃ (s : State) (src : Source),
      let a0 : Nat := s.get (LAMP_ARG.ARG 0)
      Takes s src 0x30000 2 ∧ s.get LAMP_STATUS.BUSY = 0 ∧ s.get CHIP_STRAPS.BRIDGE_EN = 1 ∧ a0 % 4 = 0) ∧
    (∃ (s : State) (src : Source),
      let a0 : Nat := s.get (LAMP_ARG.ARG 0)
      Takes s src 0x30000 2 ∧ s.get LAMP_STATUS.BUSY = 0 ∧ s.get CHIP_STRAPS.BRIDGE_EN = 1 ∧ a0 % 4 = 1) ∧
    (∃ (s : State), s.lamp.running ≠ 3 ∧ s.lamp.running ≠ 4 ∧ s.lamp.running ≠ 6) ∧
    (∃ (s : State), (s.lamp.running = 3 ∨ s.lamp.running = 4 ∨ s.lamp.running = 6) ∧ s.lamp.running = 6) ∧
    (∃ (s : State) (src : Source) (val : W64),
      let w : State := s.put (LAMP_HSIG.SIG 11) (BitVec.toNat val)
      let msg : Nat := sha384Nat (leBytes 8 (s.get LAMP_HNONCE.NONCE) ++ leBytes 8 (BitVec.toNat s.part.serial))
      let good : Plan → Bool := fun (p : Plan) => ecdsaVerify p.rackKeyX p.rackKeyY msg (beAt w.hostSig 0 48) (beAt w.hostSig
        48 48)
      Takes s src 0x30090 0 ∧ (s.net.plan = none ∨ s.get CHIP_STRAPS.BRIDGE_EN = 0 ∨ ∃ (p : Plan), s.net.plan = some p ∧
        good p = false)) ∧
    (∃ (s : State) (src : Source) (val : W64) (p : Plan),
      let w : State := s.put (LAMP_HSIG.SIG 11) (BitVec.toNat val)
      let msg : Nat := sha384Nat (leBytes 8 (s.get LAMP_HNONCE.NONCE) ++ leBytes 8 (BitVec.toNat s.part.serial))
      let good : Plan → Bool := fun (p : Plan) => ecdsaVerify p.rackKeyX p.rackKeyY msg (beAt w.hostSig 0 48) (beAt w.hostSig
        48 48)
      Takes s src 0x30090 0 ∧ s.net.plan = some p ∧ s.get CHIP_STRAPS.BRIDGE_EN = 1 ∧ good p = true) :=
  ⟨⟨(State.put on LAMP_STATUS.BUSY 1), Source.lamp, Instr.attest (Source.lamp), 1, by decide +kernel⟩,
    ⟨known, Source.lamp, by decide +kernel⟩,
    ⟨(args ownA ownA on), Source.lamp, 0, by decide +kernel⟩,
    ⟨known, Source.lamp, by decide +kernel⟩,
    ⟨noToken, Source.lamp, by decide +kernel⟩,
    ⟨otherRack, m, planOk, plan2, by decide +kernel, by decide +kernel, by decide +kernel, plan_read _ (by decide +kernel),
      by decide +kernel, by decide +kernel⟩,
    ⟨older, m, planOk, plan6, by decide +kernel, by decide +kernel, by decide +kernel, plan_read _ (by decide +kernel),
      by decide +kernel, by decide +kernel, by decide +kernel⟩,
    ⟨firstPlan, m, planOk, by decide +kernel, by decide +kernel, by decide +kernel, plan_read _ (by decide +kernel),
      by decide +kernel⟩,
    ⟨known, Source.lamp, Instr.jobEnd (Source.lamp), 3, by decide +kernel⟩,
    ⟨(grant on 1 2), Source.lamp, Instr.scrub (Source.lamp), 4, by decide +kernel⟩,
    ⟨known, Source.lamp, Instr.scrub (Source.lamp), 4, by decide +kernel⟩,
    ⟨known, Source.lamp, by decide +kernel⟩,
    ⟨noToken, Source.lamp, 0, by decide +kernel⟩,
    ⟨known, Source.lamp, by decide +kernel⟩,
    ⟨(grant scrubbed 1 2), Source.lamp, by decide +kernel⟩,
    ⟨unlocking, Source.lamp, by decide +kernel⟩,
    ⟨noToken, Source.lamp, by decide +kernel⟩,
    ⟨tokenHere, m, by decide +kernel, by decide +kernel, by decide +kernel, by decide +kernel, by decide +kernel,
      by decide +kernel, by decide +kernel, token_reads⟩,
    ⟨known, Source.lamp, by decide +kernel⟩,
    ⟨bridge, Source.lamp, by decide +kernel⟩,
    ⟨badHostArg, Source.lamp, by decide +kernel⟩,
    ⟨known, by decide +kernel⟩,
    ⟨(withLamp (fun l => { l with running := 6 }) on), by decide +kernel⟩,
    ⟨known, Source.lamp, 0, by decide +kernel⟩,
    ⟨hostWrites, Source.lamp, lastWord, planOk, by decide +kernel⟩⟩

theorem witness_KeyMessages :
    (∃ (s : State) (h : MsgHdr),
      let chip : Nat := h.src.toNat
      s.pair chip = none) ∧
    (∃ (s : State) (h : MsgHdr) (m : KeyMsg) (p : PairKey),
      let chip : Nat := h.src.toNat
      let head : List Byte := keyHead m.job.toNat m.gen.toNat m.keyslot.toNat m.kind.toNat m.dir.toNat (BitVec.toNat m.count)
      let iv : Nat := keyIv m.dir.toNat (BitVec.toNat m.count)
      let ks : List (List Nat) := keySchedule p.key
      let text : List Nat := natBytes 32 m.cipher.toNat
      s.pair chip = some p ∧ (¬gcmTag ks iv (bytesToNats head) text = m.tag.toNat ∨ BitVec.toNat m.count < p.next ∨
        m.dir.toNat ≠ keyDir p.serial (BitVec.toNat s.part.serial))) ∧
    (∃ (s : State) (h : MsgHdr) (m : KeyMsg) (p : PairKey),
      let chip : Nat := h.src.toNat
      let head : List Byte := keyHead m.job.toNat m.gen.toNat m.keyslot.toNat m.kind.toNat m.dir.toNat (BitVec.toNat m.count)
      let iv : Nat := keyIv m.dir.toNat (BitVec.toNat m.count)
      let ks : List (List Nat) := keySchedule p.key
      let text : List Nat := natBytes 32 m.cipher.toNat
      s.pair chip = some p ∧ gcmTag ks iv (bytesToNats head) text = m.tag.toNat ∧ p.next ≤ BitVec.toNat m.count ∧
        m.dir.toNat = keyDir p.serial (BitVec.toNat s.part.serial) ∧ m.kind = 2) ∧
    (∃ (s : State) (h : MsgHdr) (m : KeyMsg) (p : PairKey),
      let chip : Nat := h.src.toNat
      let head : List Byte := keyHead m.job.toNat m.gen.toNat m.keyslot.toNat m.kind.toNat m.dir.toNat (BitVec.toNat m.count)
      let iv : Nat := keyIv m.dir.toNat (BitVec.toNat m.count)
      let ks : List (List Nat) := keySchedule p.key
      let text : List Nat := natBytes 32 m.cipher.toNat
      s.pair chip = some p ∧ gcmTag ks iv (bytesToNats head) text = m.tag.toNat ∧ p.next ≤ BitVec.toNat m.count ∧
        m.dir.toNat = keyDir p.serial (BitVec.toNat s.part.serial) ∧ m.kind = 1 ∧ s.lamp.keyWait = false ∧
        s.get LAMP_JOB.KEYED = 0) ∧
    (∃ (s : State) (h : MsgHdr) (m : KeyMsg) (p : PairKey),
      let chip : Nat := h.src.toNat
      let head : List Byte := keyHead m.job.toNat m.gen.toNat m.keyslot.toNat m.kind.toNat m.dir.toNat (BitVec.toNat m.count)
      let iv : Nat := keyIv m.dir.toNat (BitVec.toNat m.count)
      let ks : List (List Nat) := keySchedule p.key
      let text : List Nat := natBytes 32 m.cipher.toNat
      s.pair chip = some p ∧ gcmTag ks iv (bytesToNats head) text = m.tag.toNat ∧ p.next ≤ BitVec.toNat m.count ∧
        m.dir.toNat = keyDir p.serial (BitVec.toNat s.part.serial) ∧ m.kind = 1 ∧ s.net.slice.isSome = true ∧
        m.job.toNat = s.job ∧ m.gen.toNat = s.gen ∧ m.keyslot.toNat = s.get LAMP_JOB.KEYSLOT ∧ (s.lamp.keyWait = true ∨
        s.get LAMP_JOB.KEYED = 1) ∧ s.lamp.joining = true) ∧
    (∃ (s : State), s.lamp.aliasKey = none) ∧
    (∃ (s : State) (ac ic : List Byte) (d : Nat), s.lamp.aliasKey = some d ∧ s.peerOk ac ic = false) ∧
    (∃ (s : State) (h : MsgHdr) (ac ic : List Byte) (d : Nat) (p : PairKey),
      let chip : Nat := h.src.toNat
      s.lamp.aliasKey = some d ∧ s.peerOk ac ic = true ∧ s.pair chip = some p ∧ (p.aliasX, p.aliasY) = certKey ac) ∧
    (∃ (s : State) (h : MsgHdr) (ac ic : List Byte) (d : Nat),
      let chip : Nat := h.src.toNat
      s.lamp.aliasKey = some d ∧ s.peerOk ac ic = true ∧ s.pair chip = none) ∧
    (∃ (s : State), s.lamp.draining = false ∨ s.get LAMP_JOB.KEYED = 0) ∧
    (∃ (s : State), s.lamp.draining = true ∧ s.get LAMP_JOB.KEYED = 1) ∧
    (∃ (s : State), s.lamp.keyWait = false ∨ s.get LAMP_JOB.KEYED = 1) ∧
    (∃ (s : State), s.lamp.keyWait = true ∧ s.get LAMP_JOB.KEYED = 0) :=
  ⟨⟨joins, hdr, by decide +kernel⟩,
    ⟨joins, hdr1, wrongTag, peer, by decide +kernel⟩,
    ⟨joins, hdr1, fabricKey0, peer, by decide +kernel⟩,
    ⟨lateKey, hdr1, linkKey0, peer, by decide +kernel⟩,
    ⟨joins, hdr1, linkKey0, peer, by decide +kernel⟩,
    ⟨joins, by decide +kernel⟩,
    ⟨(withLamp (fun l => { l with aliasKey := (some 1) }) on), [], [], 1, by decide +kernel⟩,
    ⟨(meets [((rackIndex 256), ⟨4, keyX, keyY, 0, 0, 0⟩)]), hdr1, aliasBytes, identBytes, 1, ⟨4, keyX, keyY, 0, 0, 0⟩,
      by decide +kernel⟩,
    ⟨(meets []), hdr, aliasBytes, identBytes, 1, by decide +kernel⟩,
    ⟨joins, by decide +kernel⟩,
    ⟨(State.put (withLamp (fun l => { l with prevSlot := (some 1), draining := true }) on) LAMP_JOB.KEYED 1),
      by decide +kernel⟩,
    ⟨lateKey, by decide +kernel⟩,
    ⟨joins, by decide +kernel⟩⟩

theorem witness_BistAndRepair :
    (∃ (s : State) (src : Source), Takes s src 0x130000 2 ∧ s.bistBad = true) ∧
    (∃ (s : State) (src : Source), Takes s src 0x130000 2 ∧ s.bistBad = false ∧ s.get BIST_CFG.TARGET ≠ 0 ∧
      s.get BIST_CFG.TARGET = 1) ∧
    (∃ (s : State) (src : Source), Takes s src 0x130000 2 ∧ s.bistBad = false ∧ s.get BIST_CFG.TARGET = 0 ∧
      s.haltDone = true ∧ s.testedOn = stripsOf (s.get BIST_CFG.STRIPS) ∧ s.field.scanned = false ∧ s.get CANDLE_GOV.HOLD = 0) ∧
    (∃ (s : State) (src : Source), Takes s src 0x130000 2 ∧ s.bistBad = false ∧ s.get BIST_CFG.TARGET = 0 ∧
      (s.haltDone = false ∨ s.get CANDLE_GOV.HOLD = 1)) ∧
    (∃ (s : State) (src : Source), Takes s src 0x130000 2 ∧ s.bistRunning = true) ∧
    (∃ (s : State) (src : Source), Takes s src 0x130000 2 ∧ s.bistRunning = false) ∧
    (∃ (s : State) (src : Source), Takes s src 0x130000 2 ∧ s.get CHIP_STATUS.FIELD_IN_RESET = 0) ∧
    (∃ (s : State) (src : Source), Takes s src 0x130000 2 ∧ s.get CHIP_STATUS.FIELD_IN_RESET = 1 ∧ s.bist.boot = none) ∧
    (∃ (s : State) (src : Source) (l : RepList) (e : RepEntry), Takes s src 0x130000 2 ∧
      s.get CHIP_STATUS.FIELD_IN_RESET = 1 ∧ s.bist.boot = some l ∧ l.entries = [e] ∧ s.fused = [] ∧ entKind e.w0 = 1 ∧
      s.strip (locStrip e.w0) = StripRep.clear ∧ locCol e.w0 < 16) ∧
    (∃ (s : State) (src : Source) (l : RepList) (e : RepEntry), Takes s src 0x130000 2 ∧
      s.get CHIP_STATUS.FIELD_IN_RESET = 1 ∧ s.bist.boot = some l ∧ l.entries = [e] ∧ s.fused = [] ∧ (entKind e.w0 = 2 ∨
      entKind e.w0 = 3 ∨ entKind e.w0 = 4) ∧ s.bist.soft = []) ∧
    (∃ (s : State) (src : Source), Takes s src 0x130000 2 ∧ s.listImage = none) ∧
    (∃ (s : State) (src : Source) (l o : RepList), Takes s src 0x130000 2 ∧ s.listImage = some l ∧ s.repairList = some o ∧
      l.seq ≤ o.seq) ∧
    (∃ (s : State) (src : Source) (l : RepList), Takes s src 0x130000 2 ∧ s.listImage = some l ∧
      ∀ (o : RepList), o ∈ s.repairList → o.seq < l.seq) ∧
    (∃ (s : State) (src : Source) (l : RepList) (mv : Nat), Takes s src 0x130000 2 ∧ s.listImage = some l ∧
      (s.net.slice ≠ none ∨ 512 < s.bist.fuses.length + l.entries.length ∨ mv < 1710)) ∧
    (∃ (s : State) (src : Source) (l : RepList) (mv : Nat), Takes s src 0x130000 2 ∧ s.listImage = some l ∧
      s.net.slice = none ∧ s.bist.fuses.length + l.entries.length ≤ 512 ∧ 1710 ≤ mv) ∧
    (∃ (s : State), s.get BIST_STATUS.STATE ≠ 2 ∨ s.bistField = true ∧ s.get CANDLE_GOV.HOLD = 1) ∧
    (∃ (s : State), s.get BIST_STATUS.STATE = 2 ∧ (s.bistField = false ∨ s.get CANDLE_GOV.HOLD = 0) ∧ s.bistField = false) ∧
    (∃ (s : State), s.get BIST_STATUS.STATE = 2 ∧ (s.bistField = false ∨ s.get CANDLE_GOV.HOLD = 0) ∧ s.bistField = true ∧
      s.power.bistStrips = 0 ∧ s.bist.resetWait = false ∧ s.scansBad = false ∧ s.savedStrips = []) ∧
    (∃ (s : State), s.get BIST_STATUS.STATE = 2 ∧ (s.bistField = false ∨ s.get CANDLE_GOV.HOLD = 0) ∧ s.bistField = true ∧
      s.power.bistStrips = 0 ∧ s.scansBad = true) ∧
    (∃ (s : State),
      let i : Nat := s.get BIST_RPTR.HEAD
      let n : Nat := 2 ^ s.get BIST_RES.LOG2N
      let o : Nat := 4096 * s.get BIST_RES.BASE + 32 * (i % n)
      s.get BIST_STATUS.STATE = 2 ∧ (s.bistField = false ∨ s.get CANDLE_GOV.HOLD = 0) ∧ s.bistField = false ∧
        s.get BIST_CFG.AUTO_REP = 0 ∧ s.get WARD_STATUS.STATE = 0 ∧ idxSub 32 i (s.get BIST_RPTR.TAIL) ≠ n ∧
        topRange o 32 = true) ∧
    (∃ (s : State),
      let i : Nat := s.get BIST_RPTR.HEAD
      let n : Nat := 2 ^ s.get BIST_RES.LOG2N
      s.get BIST_STATUS.STATE = 2 ∧ (s.bistField = false ∨ s.get CANDLE_GOV.HOLD = 0) ∧ s.bistField = false ∧
        s.get BIST_CFG.AUTO_REP = 0 ∧ s.get WARD_STATUS.STATE = 0 ∧ idxSub 32 i (s.get BIST_RPTR.TAIL) = n) :=
  ⟨⟨fieldTested, Source.lamp, by decide +kernel⟩,
    ⟨(bist 1), Source.lamp, by decide +kernel⟩,
    ⟨on, Source.lamp, by decide +kernel⟩,
    ⟨heldBist, Source.lamp, by decide +kernel⟩,
    ⟨fieldTested, Source.lamp, by decide +kernel⟩,
    ⟨heldBist, Source.lamp, by decide +kernel⟩,
    ⟨fieldTested, Source.lamp, by decide +kernel⟩,
    ⟨on, Source.lamp, by decide +kernel⟩,
    ⟨(listing (repEntry 1)), Source.lamp, ⟨1, [(repEntry 1)]⟩, (repEntry 1), by decide +kernel⟩,
    ⟨(listing (repEntry 3)), Source.lamp, ⟨1, [⟨3, 0⟩]⟩, (repEntry 3), by decide +kernel⟩,
    ⟨fieldTested, Source.lamp, by decide +kernel⟩,
    ⟨(listAt 0), Source.lamp, ⟨0, []⟩, ⟨0, []⟩, by decide +kernel⟩,
    ⟨(listAt 3), Source.lamp, ⟨3, []⟩, by decide +kernel⟩,
    ⟨(listAt 3), Source.lamp, ⟨3, []⟩, 0, by decide +kernel⟩,
    ⟨(listAt 3), Source.lamp, ⟨3, []⟩, 1245184, by decide +kernel⟩,
    ⟨heldBist, by decide +kernel⟩,
    ⟨ringFull, by decide +kernel⟩,
    ⟨(tested 0), by decide +kernel⟩,
    ⟨fieldTested, by decide +kernel⟩,
    ⟨(tested 1), by decide +kernel⟩,
    ⟨ringFull, by decide +kernel⟩⟩

end Sys2Proof.Slice0
end

section
/-!
PROOFS. What every operation that records an error or counts lines leaves as it was, and the answers and control
addresses that are built from the chip's own position (R9, R341, R378, R496).
-/
namespace Sys2Proof.Machine

/-! ### The chip's own position -/

theorem get_lt (s : State) (f : Fld) : s.get f < 2 ^ f.len := Nat.mod_lt _ (Nat.two_pow_pos _)

/-- Coordinates and rack of a chip of this rack, as R10 checks them. -/
theorem chipAt_onRack (s : State) (d : Nat) :
    s.chipAt d < 2 ^ 20 ∧ s.chipAt d / 4096 = s.get ROUTE_SELF.RACK ∧ s.chipAt d / 256 % 16 ≤ 3 ∧
      s.chipAt d / 16 % 16 ≤ 3 ∧ s.chipAt d % 16 ≤ 3 := by
  have hr : s.get ROUTE_SELF.RACK < 2 ^ 8 := get_lt s ROUTE_SELF.RACK
  have hx : d % 4 < 4 := Nat.mod_lt _ (by decide)
  have hy : d / 4 % 4 < 4 := Nat.mod_lt _ (by decide)
  have hz : d / 16 % 4 < 4 := Nat.mod_lt _ (by decide)
  unfold State.chipAt coordBits
  generalize d % 4 = x at *
  generalize d / 4 % 4 = y at *
  generalize d / 16 % 4 = z at *
  omega

theorem chipAt_passes_rack_check (s : State) (d : Nat) :
    ¬ (s.chipAt d / 4096 ≠ s.get ROUTE_SELF.RACK ∨ 3 < s.chipAt d / 256 % 16 ∨ 3 < s.chipAt d / 16 % 16 ∨
      3 < s.chipAt d % 16) := by
  obtain ⟨-, hrack, hx, hy, hz⟩ := chipAt_onRack s d
  omega

theorem self_eq_chipAt (s : State) : s.self = s.chipAt (s.get ROUTE_SELF.XYZ) := rfl

theorem self_lt (s : State) : s.self < 2 ^ 20 := (chipAt_onRack s _).1

theorem self_congr {s t : State} (h : t.reg ROUTE_SELF.RACK.reg = s.reg ROUTE_SELF.RACK.reg) : t.self = s.self := by
  simp only [State.self, State.get, h]

/-- What a packet of this chip says depends on its position and its slice alone. -/
theorem mkPacket_congr {s t : State} (hself : t.reg ROUTE_SELF.RACK.reg = s.reg ROUTE_SELF.RACK.reg)
    (hslice : t.net.slice = s.net.slice) (vc op dst addr tag : Nat) (bs : List Byte) :
    t.mkPacket vc op dst addr tag bs = s.mkPacket vc op dst addr tag bs := by
  simp only [State.mkPacket, State.job, State.gen, hslice, self_congr hself]

/-! ### The error log -/

theorem errlog_eq_regs_sched (s : State) (r : ErrRec) :
    s.errlog r = { s with regs := (s.errlog r).regs, sched := (s.errlog r).sched } := by
  unfold State.errlog
  split
  · rfl
  · dsimp only
    split <;> rfl

theorem reg_bump_ne (s : State) {f : Fld} {j : Nat} (n : Nat) (h : j ≠ f.reg) : (s.bump f n).reg j = s.reg j :=
  reg_put_ne s _ h

theorem reg_errIrq (s : State) (cls off : Nat) : (s.errIrq cls).reg off = s.reg off := rfl

/-- The error log writes registers of its own block alone. -/
theorem reg_errlog_of_block_ne (s : State) (r : ErrRec) {off : Nat} (h : blockOf off ≠ 0x12) :
    (s.errlog r).reg off = s.reg off := by
  have hword (i k : Nat) (hk : k < 4) : off ≠ (ERRLOG_REC.WORD (i % 256) k).reg := by
    have hi : i % 256 < 256 := Nat.mod_lt _ (by decide)
    simp only [blockOf] at h ⊢
    omega
  have hstatus : off ≠ ERRLOG_STATUS.DROPPED.reg := by rintro rfl; exact h (by decide)
  have hptr : off ≠ ERRLOG_PTR.HEAD.reg := by rintro rfl; exact h (by decide)
  unfold State.errlog
  split
  · rfl
  · dsimp only
    split
    · exact reg_bump_ne s 1 hstatus
    · rw [reg_errIrq, reg_put_ne _ _ hptr, reg_put_ne _ _ (hword _ 3 (by decide)), reg_put_ne _ _ (hword _ 2 (by decide)),
        reg_put_ne _ _ (hword _ 1 (by decide)), reg_put_ne _ _ (hword _ 0 (by decide))]

/-! ### States that differ in records -/

/-- `t` is `s` but for registers other than ROUTE_SELF, the scheduler and Topsoil: what counts, error records
and repaired lines may change. -/
structure SameButRecords (s t : State) : Prop where
  rest : t = { s with regs := t.regs, sched := t.sched, topsoil := t.topsoil }
  position : t.reg ROUTE_SELF.RACK.reg = s.reg ROUTE_SELF.RACK.reg

namespace SameButRecords

theorem refl (s : State) : SameButRecords s s := ⟨rfl, rfl⟩

theorem trans {s t u : State} (h : SameButRecords s t) (k : SameButRecords t u) : SameButRecords s u := by
  refine ⟨?_, k.position.trans h.position⟩
  rw [k.rest, h.rest]

theorem bump (s : State) {f : Fld} (n : Nat) (h : ROUTE_SELF.RACK.reg ≠ f.reg) : SameButRecords s (s.bump f n) :=
  ⟨rfl, reg_put_ne s _ h⟩

theorem errlog (s : State) (r : ErrRec) : SameButRecords s (s.errlog r) :=
  ⟨by rw [errlog_eq_regs_sched], reg_errlog_of_block_ne s r (by decide)⟩

theorem addrFault (s : State) (block addr : Nat) : SameButRecords s (s.addrFault block addr) := errlog s _

theorem repairLine (s : State) (l : Nat) : SameButRecords s (s.repairLine l) := ⟨rfl, rfl⟩

/-- A line that a read outside every step finds uncorrectable is recorded, and repaired where it is protected (R468, R469). -/
theorem lineError (s : State) (sub : Bool) (l : Nat) : SameButRecords s (s.lineError sub false l) := by
  unfold State.lineError
  rw [if_neg (by decide)]
  split
  · exact (repairLine s l).trans (errlog _ _)
  · exact errlog _ _

theorem each {α : Type} {f : State → α → State} (hf : ∀ s x, SameButRecords s (f s x)) (l : List α) (s : State) :
    SameButRecords s (s.each l f) := by
  induction l generalizing s with
  | nil => exact refl s
  | cons x l ih => exact (hf s x).trans (ih (f s x))

theorem net_eq {s t : State} (h : SameButRecords s t) : t.net = s.net := by rw [h.rest]

theorem mkPacket_eq {s t : State} (h : SameButRecords s t) (vc op dst addr tag : Nat) (bs : List Byte) :
    t.mkPacket vc op dst addr tag bs = s.mkPacket vc op dst addr tag bs :=
  mkPacket_congr h.position (by rw [h.net_eq]) ..

end SameButRecords

/-! ### Accesses to this chip's Topsoil and Subsoil -/

section OwnTiers

variable {s : State} {a : Nat}

theorem locate_own_top (hchip : a / 2 ^ 44 % 2 ^ 20 = s.self) (htier : a / 2 ^ 42 % 4 = 1) :
    s.locate a = if topOk (a % 2 ^ 42) then .top (a % 2 ^ 42) else .refused := by
  simp only [State.locate, hchip, htier, self_eq_chipAt, if_neg (chipAt_passes_rack_check s _), if_true]

theorem locate_own_sub (hchip : a / 2 ^ 44 % 2 ^ 20 = s.self) (htier : a / 2 ^ 42 % 4 = 2) :
    s.locate a = if s.subRange (a % 2 ^ 42) 1 then .sub (a % 2 ^ 42) else .refused := by
  simp only [State.locate, hchip, htier, self_eq_chipAt, if_neg (chipAt_passes_rack_check s _), if_true]

theorem locate_own_ne_seedbed (hchip : a / 2 ^ 44 % 2 ^ 20 = s.self) (htier : a / 2 ^ 42 % 4 = 1 ∨ a / 2 ^ 42 % 4 = 2)
    (o : Nat) : s.locate a ≠ .seedbed o := by
  rcases htier with htier | htier
  · rw [locate_own_top hchip htier]; split <;> simp
  · rw [locate_own_sub hchip htier]; split <;> simp

/-- An access to the chip's own Topsoil or Subsoil that is not refused lies in its tier (R10, R311, R312). -/
theorem locate_of_not_accessRefused {write : Bool} {n : Nat} (hchip : a / 2 ^ 44 % 2 ^ 20 = s.self)
    (htier : a / 2 ^ 42 % 4 = 1 ∨ a / 2 ^ 42 % 4 = 2) (h : s.accessRefused write a n = false) :
    (s.locate a = .top (a % 2 ^ 42) ∧ topRange (a % 2 ^ 42) n = true) ∨
      (s.locate a = .sub (a % 2 ^ 42) ∧ s.subRange (a % 2 ^ 42) n = true) := by
  rw [State.accessRefused, Bool.or_eq_false_iff] at h
  replace h := h.2
  rcases htier with htier | htier
  · have hloc := locate_own_top hchip htier
    split at hloc
    · rw [hloc] at h
      exact .inl ⟨hloc, by simpa using h⟩
    · simp [hloc] at h
  · have hloc := locate_own_sub hchip htier
    split at hloc
    · rw [hloc] at h
      exact .inr ⟨hloc, by simpa using h⟩
    · simp [hloc] at h

end OwnTiers

/-! ### What an access to Topsoil or Subsoil counts and records -/

theorem topTouch_of_topRange (s : State) {o n : Nat} (h : topRange o n = true) :
    s.topTouch o n = s.bump (TOPSOIL_LINES.LINES (o / 2 ^ 37)) (lineCount o n) := if_pos h

theorem subTouch_of_subRange (s : State) {o n : Nat} (h : s.subRange o n = true) :
    s.subTouch o n = s.bump SUBSOIL_LINES.LINES (lineCount o n) := if_pos h

/-- The line counters of Topsoil are not ROUTE_SELF. -/
theorem topsoilLines_ne_routeSelf (a : Nat) : ROUTE_SELF.RACK.reg ≠ (TOPSOIL_LINES.LINES (a % 2 ^ 42 / 2 ^ 37)).reg := by
  simp only
  omega

namespace SameButRecords

theorem topTouch (s : State) (a n : Nat) : SameButRecords s (s.topTouch (a % 2 ^ 42) n) := by
  unfold State.topTouch
  split
  · exact bump s _ (topsoilLines_ne_routeSelf a)
  · exact errlog s _

theorem subTouch (s : State) (o n : Nat) : SameButRecords s (s.subTouch o n) := by
  unfold State.subTouch
  split
  · exact bump s _ (by decide)
  · exact errlog s _

theorem touch {s : State} {a : Nat} (h : s.locate a = .top (a % 2 ^ 42) ∨ s.locate a = .sub (a % 2 ^ 42)) (n : Nat) :
    SameButRecords s (s.touch a n) := by
  rcases h with hloc | hloc
  · simpa only [State.touch, hloc] using topTouch s a n
  · simpa only [State.touch, hloc] using subTouch s _ n

theorem readErrors {s : State} {a : Nat} (h : ∀ o, s.locate a ≠ .seedbed o) (n : Nat) :
    SameButRecords s (s.readErrors a n false).1 := by
  unfold State.readErrors
  split
  · exact absurd ‹_› (h _)
  · exact each (fun s l => lineError s false l) _ s
  · exact each (fun s l => lineError s true l) _ s
  · exact refl s

theorem sameMemory {s t : State} (h : SameButRecords s t) : SameMemory s { t with topsoil := s.topsoil } := by
  have hseed : t.seedbed = s.seedbed := by rw [h.rest]
  have hsub : t.subsoil = s.subsoil := by rw [h.rest]
  exact fun a => ⟨fun _ => congrArg (·.byte 8 a) hseed, fun _ => rfl, fun _ => congrArg (·.byte 64 a) hsub⟩

end SameButRecords

/-! ### Writes to Topsoil or Subsoil with the Ward off -/

section WardOff

variable {s : State} {a : Nat} {bs : List Byte}

theorem wardOn_eq_false (hward : s.get WARD_STATUS.STATE = 0) : s.wardOn = false := by simp [State.wardOn, hward]

theorem writeWaits_of_ward_off (hward : s.get WARD_STATUS.STATE = 0) (n : Nat) : s.writeWaits a n = false := by
  unfold State.writeWaits
  split
  · simp [State.wardHolds, wardOn_eq_false hward]
  · rfl

/-- No line of Topsoil sends a delta: the write stores its bytes and counts its lines. -/
theorem topWrite_of_ward_off (hrange : topRange (a % 2 ^ 42) bs.length = true) (hward : s.get WARD_STATUS.STATE = 0) :
    s.topWrite (a % 2 ^ 42) bs = State.bump { s with topsoil := s.topsoil.write 64 (a % 2 ^ 42) bs }
      (TOPSOIL_LINES.LINES (a % 2 ^ 42 / 2 ^ 37)) (lineCount (a % 2 ^ 42) bs.length) := by
  have hreg : WARD_STATUS.STATE.reg ≠ (TOPSOIL_LINES.LINES (a % 2 ^ 42 / 2 ^ 37)).reg := by simp only; omega
  have hoff : State.wardOn (State.bump { s with topsoil := s.topsoil.write 64 (a % 2 ^ 42) bs }
      (TOPSOIL_LINES.LINES (a % 2 ^ 42 / 2 ^ 37)) (lineCount (a % 2 ^ 42) bs.length)) = false :=
    wardOn_eq_false ((get_put_ne _ _ (.inl hreg)).trans hward)
  rw [State.topWrite, if_pos hrange]
  dsimp only
  rw [topTouch_of_topRange _ hrange, hoff]
  rfl

theorem subWrite_of_subRange {o : Nat} (hrange : s.subRange o bs.length = true) :
    s.subWrite o bs = State.bump { s with subsoil := s.subsoil.write 64 o bs } SUBSOIL_LINES.LINES (lineCount o bs.length) := by
  rw [State.subWrite, if_pos hrange]
  exact subTouch_of_subRange _ hrange

theorem pokeAt_top (hloc : s.locate a = .top (a % 2 ^ 42)) (hrange : topRange (a % 2 ^ 42) bs.length = true)
    (hward : s.get WARD_STATUS.STATE = 0) :
    s.pokeAt a bs = State.bump { s with topsoil := s.topsoil.write 64 (a % 2 ^ 42) bs }
      (TOPSOIL_LINES.LINES (a % 2 ^ 42 / 2 ^ 37)) (lineCount (a % 2 ^ 42) bs.length) := by
  rw [State.pokeAt, hloc]
  exact topWrite_of_ward_off hrange hward

theorem pokeAt_sub {o : Nat} (hloc : s.locate a = .sub o) (hrange : s.subRange o bs.length = true) :
    s.pokeAt a bs = State.bump { s with subsoil := s.subsoil.write 64 o bs } SUBSOIL_LINES.LINES (lineCount o bs.length) := by
  rw [State.pokeAt, hloc]
  exact subWrite_of_subRange hrange

end WardOff

end Sys2Proof.Machine
end

section
/-!
PROOFS. READ and WRITE requests that other chips have sent to this chip's Topsoil and Subsoil (R10, R311, R312, R318, R323,
R378).
-/
namespace Sys2Proof.Machine

/-! ### Refusals -/

theorem mkPacket_takePacket (s : State) (p : Packet) (vc op dst addr tag : Nat) (bs : List Byte) :
    (s.takePacket p).mkPacket vc op dst addr tag bs = s.mkPacket vc op dst addr tag bs := rfl

theorem refuseGrant_eq (s : State) (p : Packet) :
    (s.takePacket p).refuseGrant p =
      ((s.takePacket p).put TIER_ERR.GRANT 1).post (s.mkPacket p.vc.toNat 6 p.src.toNat 0 p.tag.toNat []) := by
  have hpkt := mkPacket_congr (s := s) (t := (s.takePacket p).put TIER_ERR.GRANT 1)
    (reg_put_ne _ _ (by decide)) rfl p.vc.toNat 6 p.src.toNat 0 p.tag.toNat []
  rw [State.refuseGrant, State.reply, if_pos rfl, hpkt]

theorem refuseRequest_eq (s : State) (p : Packet) :
    (s.takePacket p).refuseRequest p =
      ((s.takePacket p).addrFault 0xE p.addr.toNat).post (s.mkPacket p.vc.toNat 6 p.src.toNat 0 p.tag.toNat []) := by
  have hpkt := (SameButRecords.addrFault (s.takePacket p) 0xE p.addr.toNat).mkPacket_eq p.vc.toNat 6 p.src.toNat 0 p.tag.toNat []
  rw [State.refuseRequest, State.reply, if_pos rfl, hpkt]
  rfl

/-! ### Which requests reach memory -/

section OwnMemory

variable {s : State} {p : Packet}

theorem exec_write_eq (s : State) (p : Packet) : exec (.write p) s = execWrite p s := rfl

theorem exec_read_eq (s : State) (p : Packet) : exec (.read p) s = execRead p s := rfl

theorem exec_write_of_not_delivered (h : p ∉ s.net.delivered) : exec (.write p) s = .next s := by
  simp [exec_write_eq, execWrite, h]

theorem exec_read_of_not_delivered (h : p ∉ s.net.delivered) : exec (.read p) s = .next s := by
  simp [exec_read_eq, execRead, h]

/-- The packet is delivered and names this chip's Topsoil or Subsoil. -/
structure AtOwnMemory (s : State) (p : Packet) : Prop where
  delivered : p ∈ s.net.delivered
  chip : p.addr.toNat / 2 ^ 44 % 2 ^ 20 = s.self
  tier : p.addr.toNat / 2 ^ 42 % 4 = 1 ∨ p.addr.toNat / 2 ^ 42 % 4 = 2

theorem exec_write_own_memory (h : AtOwnMemory s p) (hop : p.op = 1) (hseg : isSegment p = false)
    (hdelta : s.isDelta p = false) : exec (.write p) s = .next (s.writeMemory p) := by
  obtain ⟨hdel, hchip, htier⟩ := h
  have htier0 : p.addr.toNat / 2 ^ 42 % 4 ≠ 0 := by omega
  have htier3 : p.addr.toNat / 2 ^ 42 % 4 ≠ 3 := by omega
  simp [exec_write_eq, execWrite, hdel, hop, State.writePacket, hseg, hdelta, -Nat.reducePow, hchip, htier0, htier3]

theorem exec_read_own_memory (h : AtOwnMemory s p) (hop : p.op = 2) :
    exec (.read p) s = .next (
      if !s.servesMemory p 64 then (s.takePacket p).refuseGrant p
      else if s.accessRefused false p.addr.toNat 64 then (s.takePacket p).refuseRequest p
      else (((s.takePacket p).touch p.addr.toNat 64).readErrors p.addr.toNat 64 false).1.reply p 3 (s.peek p.addr.toNat 64)) := by
  obtain ⟨hdel, hchip, htier⟩ := h
  have htier0 : p.addr.toNat / 2 ^ 42 % 4 ≠ 0 := by omega
  have htier3 : p.addr.toNat / 2 ^ 42 % 4 ≠ 3 := by omega
  simp [exec_read_eq, execRead, hdel, hop, State.readPacket, -Nat.reducePow, hchip, htier0, htier3]

/-! ### Served requests -/

theorem locate_takePacket (s : State) (p : Packet) (a : Nat) : (s.takePacket p).locate a = s.locate a := rfl

/-- A read that is served leaves everything but counts, records and repaired lines as it was. -/
theorem SameButRecords.read_served (h : AtOwnMemory s p) (hacc : s.accessRefused false p.addr.toNat 64 = false) :
    SameButRecords (s.takePacket p)
      (((s.takePacket p).touch p.addr.toNat 64).readErrors p.addr.toNat 64 false).1 := by
  obtain ⟨-, hchip, htier⟩ := h
  have hloc := (locate_of_not_accessRefused hchip htier hacc).imp And.left And.left
  rw [← locate_takePacket s p] at hloc
  have htouch := touch hloc 64
  have hself : State.self _ = s.self := self_congr htouch.position
  exact htouch.trans (readErrors (locate_own_ne_seedbed (hchip.trans hself.symm) htier) 64)

/-- A write that is served with the Ward off changes the tier and its line counter alone. -/
theorem pokeAt_served (h : AtOwnMemory s p) {bs : List Byte} (hacc : s.accessRefused true p.addr.toNat bs.length = false)
    (hward : s.get WARD_STATUS.STATE = 0) :
    (s.takePacket p).pokeAt p.addr.toNat bs = (s.pokeAt p.addr.toNat bs).takePacket p ∧
      s.pokeAt p.addr.toNat bs = { s with
        regs := (s.pokeAt p.addr.toNat bs).regs, topsoil := (s.pokeAt p.addr.toNat bs).topsoil,
        subsoil := (s.pokeAt p.addr.toNat bs).subsoil } ∧
      (s.pokeAt p.addr.toNat bs).reg ROUTE_SELF.RACK.reg = s.reg ROUTE_SELF.RACK.reg := by
  obtain ⟨-, hchip, htier⟩ := h
  obtain ⟨hloc, hrange⟩ | ⟨hloc, hrange⟩ := locate_of_not_accessRefused hchip htier hacc
  · rw [pokeAt_top hloc hrange hward, pokeAt_top (s := s.takePacket p) hloc hrange hward]
    exact ⟨rfl, rfl, reg_bump_ne _ _ (topsoilLines_ne_routeSelf _)⟩
  · rw [pokeAt_sub hloc hrange, pokeAt_sub (s := s.takePacket p) hloc hrange]
    exact ⟨rfl, rfl, reg_bump_ne _ _ (by decide)⟩

theorem writeMemory_refuseGrant (hserves : s.servesMemory p (packetBytes p).length = false) :
    s.writeMemory p = (s.takePacket p).refuseGrant p := by
  simp [State.writeMemory, hserves]

theorem writeMemory_refuseRequest (hserves : s.servesMemory p (packetBytes p).length = true)
    (hacc : s.accessRefused true p.addr.toNat (packetBytes p).length = true) :
    s.writeMemory p = (s.takePacket p).refuseRequest p := by
  simp [State.writeMemory, hserves, hacc]

theorem writeMemory_served (h : AtOwnMemory s p) (hserves : s.servesMemory p (packetBytes p).length = true)
    (hacc : s.accessRefused true p.addr.toNat (packetBytes p).length = false) (hward : s.get WARD_STATUS.STATE = 0) :
    s.writeMemory p = ((s.pokeAt p.addr.toNat (packetBytes p)).takePacket p).post
      (s.mkPacket p.vc.toNat 5 p.src.toNat p.addr.toNat p.tag.toNat []) := by
  obtain ⟨hcomm, hrest, hpos⟩ := pokeAt_served h hacc hward
  have hslice : (s.pokeAt p.addr.toNat (packetBytes p)).net.slice = s.net.slice := by rw [hrest]
  simp only [State.writeMemory, hserves, hacc, writeWaits_of_ward_off hward, hcomm, State.reply, Bool.not_true,
    Bool.false_eq_true, if_false, Nat.reduceEqDiff]
  rw [mkPacket_takePacket, mkPacket_congr hpos hslice]

theorem exec_read_served (h : AtOwnMemory s p) (hop : p.op = 2) (hserves : s.servesMemory p 64 = true)
    (hacc : s.accessRefused false p.addr.toNat 64 = false) :
    ∃ u, SameButRecords (s.takePacket p) u ∧ exec (.read p) s = .next
      (u.post (s.mkPacket p.vc.toNat 3 p.src.toNat p.addr.toNat p.tag.toNat (s.peek p.addr.toNat 64))) := by
  have hsame := SameButRecords.read_served h hacc
  refine ⟨_, hsame, ?_⟩
  simp only [exec_read_own_memory h hop, hserves, hacc, State.reply, hsame.mkPacket_eq, mkPacket_takePacket, Bool.not_true,
    Bool.false_eq_true, if_false, Nat.reduceEqDiff]

end OwnMemory

/-- Settles O40, by the two forms of a request: refused with REFUSED, or served, where everything but tier, counts and
records stays and the answer is built from the position and slice that the request met. -/
theorem memoryRequests : Obligations.MemoryRequests := by
  unfold Obligations.MemoryRequests
  intro s p
  dsimp only
  refine ⟨fun h => ⟨exec_write_of_not_delivered h, exec_read_of_not_delivered h⟩, fun hdel hchip htier => ?_⟩
  have hown : AtOwnMemory s p := ⟨hdel, hchip, htier⟩
  refine ⟨fun hop hseg hdelta => ?_, fun hop => ?_⟩
  · rw [exec_write_own_memory hown hop hseg hdelta]
    refine ⟨fun hserves => ?_, fun hserves hacc => ?_, fun hserves hacc hward => ?_⟩
    · rw [writeMemory_refuseGrant hserves, refuseGrant_eq]
    · rw [writeMemory_refuseRequest hserves hacc, refuseRequest_eq]
    · obtain ⟨-, hrest, -⟩ := pokeAt_served hown hacc hward
      rw [writeMemory_served hown hserves hacc hward]
      refine ⟨_, rfl, rfl, rfl, ?_, ?_⟩
      all_goals rw [hrest]; rfl
  · refine ⟨fun hserves => ?_, fun hserves hacc => ?_, fun hserves hacc => ?_⟩
    · rw [exec_read_own_memory hown hop, hserves, refuseGrant_eq]
      rfl
    · rw [exec_read_own_memory hown hop, hserves, hacc, refuseRequest_eq]
      rfl
    · obtain ⟨u, hsame, hexec⟩ := exec_read_served hown hop hserves hacc
      refine ⟨_, hexec, ?_, hsame.sameMemory, ?_⟩
      · rw [State.post, hsame.net_eq]
        rfl
      · rw [hsame.rest]
        exact ⟨rfl, rfl, rfl⟩

end Sys2Proof.Machine
end

section
/-!
PROOFS. REGISTER_WRITE at addresses other than a listed register of this chip (R6, R10, R12, R384, R566).
-/
namespace Sys2Proof.Machine

theorem exec_registerWrite_eq (s : State) (src : Source) (size : Nat) (addr val : W64) :
    exec (.registerWrite src size addr val) s = .next (s.registerWrite src size addr.toNat val) := rfl

/-! ### Addresses of control space -/

/-- The global fabric address of offset `off` of a chip's control space (R9, R12). -/
def controlAddr (chip off : Nat) : Nat := chip * 2 ^ 44 + 3 * 2 ^ 42 + off

theorem gaddr_control (s : State) (off : Nat) : s.gaddr 3 off = controlAddr s.self off := rfl

section ControlAddr

variable {chip off : Nat}

theorem toNat_controlAddr (hchip : chip < 2 ^ 20) (hoff : off < 0x400000) :
    (BitVec.ofNat 64 (controlAddr chip off)).toNat = controlAddr chip off := by
  rw [BitVec.toNat_ofNat, controlAddr]
  omega

theorem controlAddr_chip (hchip : chip < 2 ^ 20) (hoff : off < 0x400000) :
    controlAddr chip off / 2 ^ 44 % 2 ^ 20 = chip := by
  rw [controlAddr]; omega

theorem controlAddr_tier (hoff : off < 0x400000) : controlAddr chip off / 2 ^ 42 % 4 = 3 := by
  rw [controlAddr]; omega

theorem controlAddr_offset (hoff : off < 0x400000) : controlAddr chip off % 2 ^ 42 = off := by
  rw [controlAddr]; omega

end ControlAddr

/-! ### REGISTER_WRITE by address -/

section RegisterWrite

variable {off : Nat}

/-- The packet that carries a register write to another chip. -/
def State.controlPacket (s : State) (src : Source) (chip addr : Nat) (val : W64) : Packet :=
  { s.mkPacket 3 1 chip addr (s.net.nextTag % 65536) (leBytes 8 val.toNat) with priv := s.privOf src }

/-- The state after a register write has gone out to another chip. -/
def State.sendControl (s : State) (src : Source) (chip addr : Nat) (val : W64) : State :=
  { s with net := { s.net with
    outbox := s.net.outbox ++ [s.controlPacket src chip addr val], nextTag := s.net.nextTag + 1,
    requests := s.net.requests ++ [⟨s.net.nextTag % 65536, 3, .control, addr⟩] } }

/-- REGISTER_WRITE at the control space of a chip of this rack: refused, a write of this chip, or a packet to another. -/
theorem registerWrite_controlAddr (s : State) (src : Source) (size d : Nat) (val : W64) (hoff : off < 0x400000) :
    s.registerWrite src size (controlAddr (s.chipAt d) off) val =
      if (size ≠ 8 ∨ off % 8 ≠ 0) ∨ s.chipAt d ≠ s.self ∧ s.level src < 2 then
        s.addrFault (blockOf off) (controlAddr (s.chipAt d) off)
      else if s.chipAt d = s.self then s.regWrite src off val
      else s.sendControl src (s.chipAt d) (controlAddr (s.chipAt d) off) val := by
  have hlt : s.chipAt d < 2 ^ 20 := (chipAt_onRack s d).1
  have hwindow : ¬ 0x400000 ≤ off := by omega
  simp only [State.registerWrite, controlAddr_chip hlt hoff, controlAddr_offset hoff, controlAddr_tier hoff,
    chipAt_passes_rack_check s d, hwindow, hoff, decide_false, Bool.false_or, ne_eq, not_true_eq_false, or_false,
    Bool.or_eq_true, Bool.and_eq_true, decide_eq_true_eq, if_true]
  rfl

theorem exec_registerWrite_controlAddr (s : State) (src : Source) (size d : Nat) (val : W64) (hoff : off < 0x400000) :
    exec (.registerWrite src size (BitVec.ofNat 64 (controlAddr (s.chipAt d) off)) val) s = .next (
      if (size ≠ 8 ∨ off % 8 ≠ 0) ∨ s.chipAt d ≠ s.self ∧ s.level src < 2 then
        s.addrFault (blockOf off) (controlAddr (s.chipAt d) off)
      else if s.chipAt d = s.self then s.regWrite src off val
      else s.sendControl src (s.chipAt d) (controlAddr (s.chipAt d) off) val) := by
  rw [exec_registerWrite_eq, toNat_controlAddr (chipAt_onRack s d).1 hoff, registerWrite_controlAddr _ _ _ _ _ hoff]

/-- An aligned offset of the window that no chapter lists takes a write without effect (R566). -/
theorem regWrite_unlisted (s : State) (src : Source) (val : W64) (halign : off % 8 = 0) (hoff : off < 0x400000)
    (hgap : off < 0x150000 ∨ 0x200000 ≤ off) (hlisted : listed off = false) : s.regWrite src off val = s := by
  have hinside : ¬ (off % 8 ≠ 0 ∨ 0x400000 ≤ off ∨ 0x150000 ≤ off ∧ off < 0x200000) := by omega
  rw [State.regWrite, if_neg hinside, hlisted]
  rfl

theorem length_leBytes (n x : Nat) : (leBytes n x).length = n := by
  induction n generalizing x with
  | zero => rfl
  | succ n ih => rw [leBytes, List.length_cons, ih]

/-- A register's value fills one flit. -/
theorem controlPacket_payload (s : State) (src : Source) (chip addr : Nat) (val : W64) :
    (s.controlPacket src chip addr val).payload = [payOfBytes (leBytes 8 val.toNat)] := by
  have htake : (leBytes 8 val.toNat).take 64 = leBytes 8 val.toNat :=
    List.take_of_length_le (by rw [length_leBytes]; decide)
  rw [State.controlPacket, State.mkPacket, length_leBytes]
  exact congrArg (fun bs => [payOfBytes bs]) htake

/-- Its TAG has the 16 low bits of the next transaction number (R378). -/
theorem controlPacket_tag (s : State) (src : Source) (chip addr : Nat) (val : W64) :
    (s.controlPacket src chip addr val).tag = BitVec.ofNat 16 s.net.nextTag :=
  BitVec.eq_of_toNat_eq (Nat.mod_mod _ _)

end RegisterWrite

/-- Settles O8, by the one equation of REGISTER_WRITE at an address of control space. -/
theorem registerWriteElsewhere : Obligations.RegisterWriteElsewhere := by
  unfold Obligations.RegisterWriteElsewhere
  intro s src size off dst val hoff
  refine ⟨fun hbad => ?_, fun halign hgap hlisted => ?_, fun halign _ hother => ⟨fun hlevel => ?_, fun hlevel => ?_⟩⟩
  · rw [gaddr_control, self_eq_chipAt, exec_registerWrite_controlAddr _ _ _ _ _ hoff, if_pos (.inl hbad)]
  · rw [gaddr_control, self_eq_chipAt, exec_registerWrite_controlAddr _ _ _ _ _ hoff, ← self_eq_chipAt,
      if_neg (by simp [halign]), if_pos rfl, regWrite_unlisted s src val halign hoff hgap hlisted]
  · have hbad : (8 ≠ 8 ∨ off % 8 ≠ 0) ∨ s.chipAt dst ≠ s.self ∧ s.level src < 2 := .inr ⟨hother, hlevel⟩
    exact (exec_registerWrite_controlAddr s src 8 dst val hoff).trans (by rw [if_pos hbad]; rfl)
  · have hgood : ¬ ((8 ≠ 8 ∨ off % 8 ≠ 0) ∨ s.chipAt dst ≠ s.self ∧ s.level src < 2) := by omega
    have hchip : s.chipAt dst < 2 ^ 20 := (chipAt_onRack s dst).1
    refine ⟨_, s.controlPacket src (s.chipAt dst) (controlAddr (s.chipAt dst) off) val,
      (exec_registerWrite_controlAddr s src 8 dst val hoff).trans (by rw [if_neg hgood, if_neg hother]), rfl, rfl, rfl,
      Nat.mod_eq_of_lt hchip, Nat.mod_eq_of_lt (self_lt s), toNat_controlAddr hchip hoff, rfl, controlPacket_payload ..,
      controlPacket_tag .., rfl, rfl⟩

end Sys2Proof.Machine
end

section
/-!
PROOFS. A Lantern whose row drains into a queue without credit (R111, R161): what its commands leave behind, and why the
statement about the Lantern needs the pipelines in their one form.
-/
namespace Sys2Proof.Machine

/-! ### Writing back what a sparse map reads as -/

section OneForm

variable {α : Type} {d : Nat → α}

/-- A key below every entry is unlisted. -/
theorem KMap.unlisted_of_rising {m : KMap α} {j k : Nat} (h : KMap.rising (some j) m = true) (hk : k ≤ j) :
    KMap.get d m k = d k ∧ KMap.erase m k = m ∧ ∀ v, KMap.insert m k v = (k, v) :: m := by
  induction m generalizing j with
  | nil => exact ⟨rfl, rfl, fun _ => rfl⟩
  | cons e m ih =>
    obtain ⟨hlo, hrest⟩ := KMap.rising_cons h
    have hlt : k < e.1 := Nat.lt_of_le_of_lt hk (hlo j rfl)
    obtain ⟨hget, herase, -⟩ := ih hrest (Nat.le_of_lt hlt)
    refine ⟨?_, ?_, fun v => ?_⟩
    · rw [KMap.get, if_neg (Nat.ne_of_gt hlt), hget]
    · rw [KMap.erase, if_neg (Nat.ne_of_gt hlt), herase]
    · rw [KMap.insert, if_pos hlt]

theorem KMap.set_get_of_rising [DecidableEq α] {m : KMap α} {lo : Option Nat} (hrising : KMap.rising lo m = true)
    (hlisted : ∀ e ∈ m, e.2 ≠ d e.1) (k : Nat) : KMap.set d m k (KMap.get d m k) = m := by
  induction m generalizing lo with
  | nil => exact if_pos rfl
  | cons e m ih =>
    obtain ⟨-, hrest⟩ := KMap.rising_cons hrising
    have ihm := ih hrest fun x hx => hlisted x (List.mem_cons_of_mem _ hx)
    rcases Nat.lt_trichotomy k e.1 with hlt | rfl | hgt
    · obtain ⟨hget, herase, -⟩ := KMap.unlisted_of_rising (d := d) hrest (Nat.le_of_lt hlt)
      rw [KMap.get, if_neg (Nat.ne_of_gt hlt), hget, KMap.set, if_pos rfl, KMap.erase, if_neg (Nat.ne_of_gt hlt), herase]
    · obtain ⟨-, herase, hinsert⟩ := KMap.unlisted_of_rising (d := d) hrest (Nat.le_refl e.1)
      rw [KMap.get, if_pos rfl, KMap.set, if_neg (hlisted e List.mem_cons_self), KMap.erase, if_pos rfl, herase, hinsert]
    · rw [KMap.get, if_neg (Nat.ne_of_lt hgt), KMap.set, KMap.erase, if_neg (Nat.ne_of_lt hgt)]
      rw [KMap.set] at ihm
      split at ihm
      · next hdefault => rw [if_pos hdefault, ihm]
      · next hdefault => rw [if_neg hdefault, KMap.insert, if_neg (Nat.lt_asymm hgt), ihm]

/-- Writing back what a map in its one form reads as changes nothing. -/
theorem KMap.set_get_of_wf [DecidableEq α] {m : KMap α} (h : KMap.wf d m = true) (k : Nat) :
    KMap.set d m k (KMap.get d m k) = m := by
  rw [KMap.wf, Bool.and_eq_true, List.all_eq_true] at h
  obtain ⟨hrising, hlisted⟩ := h
  exact KMap.set_get_of_rising hrising (fun e he => of_decide_eq_true (hlisted e he)) k

theorem setPipe_pipe_of_wf {s : State} (h : KMap.wf (fun _ => PipeSt.clear) s.field.pipes = true) (k : Nat) :
    s.setPipe k (s.pipe k) = s := by
  rw [State.setPipe, State.pipe, KMap.set_get_of_wf h]

end OneForm

/-! ### A row that drains and finds no credit -/

section Stalled

variable {s : State} {plot : BitVec 9} {unit : Bool} {d : QId} {tok : Token} {es : List (Nat × Token)}

theorem pumpTokens_of_no_credit (hcredit : s.credits d = 0) : s.pumpTokens ((d, tok) :: es) = (s, (d, tok) :: es) := by
  have hpush : s.canPush d = false := by rw [State.canPush, hcredit]; rfl
  rw [State.pumpTokens, hpush]
  rfl

/-- The pump writes the pipeline back as it reads it. -/
theorem lanternPump_of_no_credit {k : Nat} (hdrain : (s.pipe k).drain = (d, tok) :: es) (hcredit : s.credits d = 0) :
    s.lanternPump k = s.setPipe k (s.pipe k) := by
  rw [State.lanternPump, hdrain, pumpTokens_of_no_credit hcredit, ← hdrain]
  exact if_neg (by simp [hdrain])

theorem pipe_setPipe_self (k : Nat) (v : PipeSt) : (s.setPipe k v).pipe k = v := KMap.get_set_self _ _ _ _

/-- No row fires while the one before it drains (R111). -/
theorem rowFire_of_no_credit {plot u : Nat} (one : Bool) (f : List LBeat → Option Token → List Tallow × RowStatus)
    (p : PassSt) (w : W64) (hdrain : (s.pipe (2 * plot + u)).drain = (d, tok) :: es) (hcredit : s.credits d = 0) :
    s.rowFire one f p plot u w = s.setPipe (2 * plot + u) (s.pipe (2 * plot + u)) := by
  rw [State.rowFire, lanternPump_of_no_credit hdrain hcredit, pipe_setPipe_self, hdrain]

theorem lantern_eq_of_fire_eq {op : Nat} {fire : PassSt → Nat → Nat → W64 → State}
    (h : ∀ p w, fire p plot.toNat (bit unit) w = s) : s.lantern plot unit op fire = s := by
  rw [State.lantern]
  split
  · rfl
  · rw [h, ite_self]

/-- With the pipelines in their one form, a command of the Lantern that finds no credit for the row that drains leaves the
whole state as it was. -/
theorem exec_rowOp_of_no_credit {c : Instr} (hforms : KMap.wf (fun _ => PipeSt.clear) s.field.pipes = true)
    (hdrain : (s.pipe (2 * plot.toNat + bit unit)).drain = (d, tok) :: es) (hcredit : s.credits d = 0)
    (hc : c ∈ [Instr.lanternStatsRow plot unit, .lanternSoftmaxRow plot unit, .lanternExpsumRow plot unit,
      .statsPart plot unit, .statsMerge plot unit]) : exec c s = .next s := by
  have hfire (one : Bool) (f : List LBeat → Option Token → List Tallow × RowStatus) (p : PassSt) (w : W64) :
      s.rowFire one f p plot.toNat (bit unit) w = s :=
    (rowFire_of_no_credit one f p w hdrain hcredit).trans (setPipe_pipe_of_wf hforms _)
  simp only [List.mem_cons, List.not_mem_nil, or_false] at hc
  rcases hc with rfl | rfl | rfl | rfl | rfl
  all_goals exact congrArg Host.Outcome.next (lantern_eq_of_fire_eq fun _ _ => hfire _ _ _ _)

/-- STATS that finds no credit for the row that drains writes the pipeline back as it reads it. -/
theorem exec_lanternStatsRow_of_no_credit {p : PassSt} (hruns : s.fieldRuns = true) (hpass : s.passAt plot.toNat = some p)
    (hlantern : bitOf ((s.lit.furrowAt (2 * plot.toNat + bit unit)).stages.getD 5 0) 22 = true)
    (hop : bitsOf (s.lit.furrowAt (2 * plot.toNat + bit unit)).lantern 0 3 = 1)
    (hdrain : (s.pipe (2 * plot.toNat + bit unit)).drain = (d, tok) :: es) (hcredit : s.credits d = 0) :
    exec (.lanternStatsRow plot unit) s =
      .next (s.setPipe (2 * plot.toNat + bit unit) (s.pipe (2 * plot.toNat + bit unit))) := by
  refine congrArg Host.Outcome.next ?_
  simp only [State.lantern, hpass, hruns, hlantern, hop, rowFire_of_no_credit _ _ _ _ hdrain hcredit]
  rfl

end Stalled

/-! ### Pipelines outside the one form -/

/-- A pipeline with a token to deliver to OQ0 of unit 0 of plot 0. -/
def drainingPipe : PipeSt := { PipeSt.clear with drain := [(furrowQ 0 0 8, Token.bubble)] }

/-- A Pass whose stage 0 has the Furrow Units of plot 0. -/
def passOfPlot0 : PassSt :=
  ⟨0, 0, 0, (List.replicate 64 0).set 40 (BitVec.ofNat 64 (2 ^ 18)), 0, 0, false, 0, 0, false, .zero⟩

/-- Unit 0 of plot 0 runs STATS, OQ0 has no credit, and the map of pipelines lists the draining pipeline of the unit twice. It
reads as the map that lists it once. -/
def listedTwice : State :=
  { State.reset.put CHIP_STATUS.FIELD_IN_RESET 0 with
    sched := { SchedSt.reset with inflight := [passOfPlot0] }
    lit := { Image.cleared with
      furrow := [(0, { FurrowCfg.idle with stages := (List.replicate 6 0).set 5 (BitVec.ofNat 64 (2 ^ 22)), lantern := 1 })] }
    field := { FieldSt.clear with
      pipes := [(0, drainingPipe), (0, drainingPipe)], queues := [(furrowQ 0 0 8, { Queue.empty with out := 16 })] } }

/-- Refutes O55: without credit the statement wants the very same state, and the Lantern's pump writes the pipeline back as it
reads it. That is the same state only where the map of pipelines is in its one form (`exec_rowOp_of_no_credit`), which the
statement does not suppose: from a map that lists the pipeline twice, the next state lists it once. (Each update of the map, a
write, a filter or a flush, keeps the one form, so no run reaches this state.) -/
theorem not_furrowAndLantern : ¬ Obligations.FurrowAndLantern := by
  unfold Obligations.FurrowAndLantern
  intro h
  obtain ⟨-, -, -, hunits⟩ := h
  have hruns : listedTwice.fieldRuns = true := by decide
  have hpass : listedTwice.passAt 0 = some passOfPlot0 := by decide
  obtain ⟨-, -, -, hcommands, -⟩ := hunits listedTwice 0 false hruns
  obtain ⟨-, hrow⟩ := hcommands (.lanternStatsRow 0 false) 1 (by simp)
  obtain ⟨-, hdrains⟩ := hrow (by simp [hpass]) (by decide) (by decide) (by decide)
  obtain ⟨hstays, -⟩ := hdrains (furrowQ 0 0 8) Token.bubble [] rfl
  have hwrites : exec (.lanternStatsRow 0 false) listedTwice = .next (listedTwice.setPipe 0 drainingPipe) :=
    exec_lanternStatsRow_of_no_credit hruns hpass (by decide) (by decide) rfl (by decide)
  have hsame : Host.Outcome.next (listedTwice.setPipe 0 drainingPipe) = .next listedTwice :=
    hwrites.symm.trans (hstays (by decide))
  have hlength := congrArg (fun s : State => s.field.pipes.length) (Host.Outcome.next.inj hsame)
  exact absurd hlength (by decide)

end Sys2Proof.Machine
end

section
/-!
PROOFS. The Field's maps and the Hopper's Seedbed under an address generator: what a generator and a queue read as after an
update, a run of writes to one queue, and reads that meet no uncorrectable word (R117, R134, R161).
-/
namespace Sys2Proof.Machine

/-! ### Generators and queues -/

section FieldMaps

variable (s : State)

@[simp] theorem ag_setAg_self (k : Nat) (v : AgSt) : (s.setAg k v).ag k = v := KMap.get_set_self _ _ _ _

theorem ag_setAg_ne {j k : Nat} (v : AgSt) (h : j ≠ k) : (s.setAg k v).ag j = s.ag j := KMap.get_set_ne _ _ _ h

@[simp] theorem queue_setAg (k : Nat) (v : AgSt) (q : QId) : (s.setAg k v).queue q = s.queue q := rfl

@[simp] theorem queue_setQueue_self (q : QId) (v : Queue) : (s.setQueue q v).queue q = v := KMap.get_set_self _ _ _ _

theorem queue_setQueue_ne {p q : QId} (v : Queue) (h : p ≠ q) : (s.setQueue q v).queue p = s.queue p :=
  KMap.get_set_ne _ _ _ h

/-- What a generator reads as depends on the Field alone. -/
theorem ag_congr {s t : State} (h : t.field = s.field) (k : Nat) : t.ag k = s.ag k := by rw [State.ag, h]; rfl

theorem queue_congr {s t : State} (h : t.field = s.field) (q : QId) : t.queue q = s.queue q := by rw [State.queue, h]; rfl

end FieldMaps

/-! ### Writing a list of tokens to one queue -/

section Pushes

/-- The writes of a list of tokens to a queue by its writer. -/
def State.pushAll (s : State) (q : QId) (l : List Token) : State := s.each l fun s t => s.push q t

theorem pushAll_cons (s : State) (q : QId) (t : Token) (l : List Token) :
    s.pushAll q (t :: l) = (s.push q t).pushAll q l := rfl

theorem pushAll_frame (s : State) (q : QId) (l : List Token) :
    s.pushAll q l = { s with field := { s.field with queues := (s.pushAll q l).field.queues } } := by
  induction l generalizing s with
  | nil => rfl
  | cons t l ih => rw [pushAll_cons, ih]; rfl

theorem ag_pushAll (s : State) (q : QId) (l : List Token) (k : Nat) : (s.pushAll q l).ag k = s.ag k := by
  rw [pushAll_frame]; rfl

theorem queue_pushAll_self (s : State) (q : QId) (l : List Token) :
    (s.pushAll q l).queue q = { s.queue q with toks := (s.queue q).toks ++ l, out := (s.queue q).out + l.length } := by
  induction l generalizing s with
  | nil => simp [State.pushAll, State.each]
  | cons t l ih =>
    rw [pushAll_cons, ih, State.push, queue_setQueue_self]
    simp only [List.append_assoc, List.singleton_append, List.length_cons, Nat.add_assoc, Nat.add_comm 1]

theorem queue_pushAll_ne (s : State) {p q : QId} (l : List Token) (h : p ≠ q) : (s.pushAll q l).queue p = s.queue p := by
  induction l generalizing s with
  | nil => rfl
  | cons t l ih => rw [pushAll_cons, ih, State.push, queue_setQueue_ne _ _ h]

end Pushes

/-! ### The head of a port's queue -/

theorem popN_frame (s : State) (q : QId) (n : Nat) :
    s.popN q n = { s with field := { s.field with queues := (s.popN q n).field.queues } } := by
  rw [State.popN]; split <;> rfl

theorem queue_popN_ne (s : State) {p q : QId} (n : Nat) (h : p ≠ q) : (s.popN q n).queue p = s.queue p := by
  rw [State.popN]; split <;> exact queue_setQueue_ne _ _ h

/-- Retiring the head takes one token or two. -/
theorem retireHead_eq_popN (s : State) (q : QId) : ∃ n, s.retireHead q = s.popN q n := by
  rw [State.retireHead]; split <;> exact ⟨_, rfl⟩

theorem retireHead_frame (s : State) (q : QId) :
    s.retireHead q = { s with field := { s.field with queues := (s.retireHead q).field.queues } } := by
  obtain ⟨n, hn⟩ := retireHead_eq_popN s q
  rw [hn]; exact popN_frame s q n

theorem queue_retireHead_ne (s : State) {p q : QId} (h : p ≠ q) : (s.retireHead q).queue p = s.queue p := by
  obtain ⟨n, hn⟩ := retireHead_eq_popN s q
  rw [hn, queue_popN_ne s n h]

theorem takeBeats_one {s s1 : State} {q : QId} {ts : List Token} (h : s.takeBeats q 1 = some (ts, s1)) : s1 = s.retireHead q := by
  simp only [State.takeBeats, Option.map_some, Option.bind_eq_some_iff, Option.some.injEq, Prod.mk.injEq] at h
  obtain ⟨-, -, -, rfl⟩ := h
  rfl

/-! ### Where this chip's Topsoil and Seedbed lie (R10, R311) -/

section Locations

variable {s t : State} {a o : Nat}

/-- Only an address of this chip's own tier 1 leads to its Topsoil. -/
theorem locate_eq_top_iff :
    s.locate a = .top o ↔ a / 2 ^ 44 % 2 ^ 20 = s.self ∧ a / 2 ^ 42 % 4 = 1 ∧ topOk o = true ∧ o = a % 2 ^ 42 := by
  constructor
  · intro h
    unfold State.locate at h
    dsimp only at h
    split at h
    · cases h
    · split at h
      · next hchip =>
        split at h
        · split at h <;> cases h
        · next htier =>
          split at h
          · next hok => cases h; exact ⟨hchip, htier, hok, rfl⟩
          · cases h
        · split at h <;> cases h
        · cases h
      · split at h <;> cases h
  · rintro ⟨hchip, htier, hok, rfl⟩
    rw [locate_own_top hchip htier, if_pos hok]

/-- Another state of the chip at the same position finds its Topsoil at the same addresses. -/
theorem locate_top_of_position (hpos : t.reg ROUTE_SELF.RACK.reg = s.reg ROUTE_SELF.RACK.reg) (h : s.locate a = .top o) :
    t.locate a = .top o := by
  rw [locate_eq_top_iff] at h ⊢
  rwa [self_congr hpos]

theorem gaddr_congr (hpos : t.reg ROUTE_SELF.RACK.reg = s.reg ROUTE_SELF.RACK.reg) (tier off : Nat) :
    t.gaddr tier off = s.gaddr tier off := by rw [State.gaddr, self_congr hpos]; rfl

/-- An offset of tier 0 of this chip. -/
theorem locate_gaddr_seedbed (s : State) {x : Nat} (h : x < 2 ^ 42) :
    s.locate (s.gaddr 0 x) = if seedbedOk x then .seedbed x else .refused := by
  have hself := self_lt s
  have hchip : s.gaddr 0 x / 2 ^ 44 % 2 ^ 20 = s.self := by unfold State.gaddr; omega
  have htier : s.gaddr 0 x / 2 ^ 42 % 4 = 0 := by unfold State.gaddr; omega
  have hoff : s.gaddr 0 x % 2 ^ 42 = x := by unfold State.gaddr; omega
  simp only [State.locate, hchip, htier, hoff, self_eq_chipAt, if_neg (chipAt_passes_rack_check s _), if_true]

/-- A Seedbed offset that an address leads to lies in one of the 1,024 Hoppers. -/
theorem lt_of_locate_eq_seedbed (h : s.locate a = .seedbed o) : o < 2 ^ 30 := by
  have hok : seedbedOk o = true := by
    unfold State.locate at h
    dsimp only at h
    split at h
    · cases h
    · split at h
      · split at h
        · split at h
          · next hok => cases h; exact hok
          · cases h
        · split at h <;> cases h
        · split at h <;> cases h
        · cases h
      · split at h <;> cases h
  simp only [seedbedOk, decide_eq_true_eq] at hok
  omega

/-- Where a byte of the chip's own Hopper lies does not depend on the state. -/
theorem locate_seedbed_congr (t : State) (h : s.locate (s.gaddr 0 o) = .seedbed o) :
    t.locate (t.gaddr 0 o) = .seedbed o := by
  have ho : o < 2 ^ 42 := Nat.lt_trans (lt_of_locate_eq_seedbed h) (by decide)
  rw [locate_gaddr_seedbed _ ho] at h ⊢
  exact h

/-- A write at a byte of a Hopper stores in the Seedbed alone. -/
theorem pokeAt_seedbed (h : s.locate a = .seedbed o) (bs : List Byte) :
    s.pokeAt a bs = { s with seedbed := s.seedbed.write 8 o bs } := by rw [State.pokeAt, h]

end Locations

/-! ### Reads that meet no uncorrectable codeword (R117, R466) -/

section SoundReads

variable {s : State} {r : AgRun} {off n : Nat}

theorem Mem.badIn_of_bad_nil {m : Mem} (h : m.bad = []) (gran a n : Nat) : m.badIn gran a n = [] := by
  rw [Mem.badIn, h]; exact ite_self _

theorem readErrors_of_badIn {a o : Nat} (hloc : s.locate a = .seedbed o) (hsound : s.seedbed.badIn 8 o n = []) (stepBound : Bool) :
    s.readErrors a n stepBound = (s, false) := by
  unfold State.readErrors
  simp only [hloc, hsound]
  rfl

theorem readErrors_of_refused {a : Nat} (hloc : s.locate a = .refused) (stepBound : Bool) :
    s.readErrors a n stepBound = (s, false) := by
  unfold State.readErrors
  simp only [hloc]

/-- The definition as an equation of functions: applied to a state, the kernel would evaluate the address that is read. -/
theorem hopRead_eq_fun : State.hopRead = fun s r off n => (s.readErrors (s.gaddr 0 (r.at off)) n true).1 := rfl

theorem hopRead_eq_readErrors (s : State) (r : AgRun) (off n : Nat) :
    s.hopRead r off n = (s.readErrors (s.gaddr 0 (r.at off)) n true).1 := by rw [hopRead_eq_fun]

theorem hopRead_of_badIn (hloc : s.locate (s.gaddr 0 (r.at off)) = .seedbed (r.at off))
    (hsound : s.seedbed.badIn 8 (r.at off) n = []) : s.hopRead r off n = s := 
  (hopRead_eq_readErrors s r off n).trans (congrArg Prod.fst (readErrors_of_badIn hloc hsound true))

/-- A Seedbed without an uncorrectable word: an offset of tier 0 is read or refused, and nothing is recorded. -/
theorem hopRead_of_bad_nil (hlt : r.at off < 2 ^ 42) (hsound : s.seedbed.bad = []) : s.hopRead r off n = s := by
  have hloc := locate_gaddr_seedbed s hlt
  split at hloc
  · exact hopRead_of_badIn hloc (Mem.badIn_of_bad_nil hsound ..)
  · exact (hopRead_eq_readErrors s r off n).trans (congrArg Prod.fst (readErrors_of_refused hloc true))

@[simp] theorem sbCode_clean (s : State) (r : AgRun) (o : Nat) : s.sbCode r o .clean = s := rfl

end SoundReads

end Sys2Proof.Machine
end

section
/-!
PROOFS. The accesses of an address generator (R130, R134 to R136): the walk after one access, a read that puts its beats into
the queue of its port, and a write of one whole line.
-/
namespace Sys2Proof.Machine

section Access

variable {s s1 : State} {r : AgRun} {st : AgSt} {marks : BitVec 4} {code : CodeResult}

/-! ### Which generator a command finds -/

theorem agRun_st {plot : BitVec 9} {unit : Bool} {ag : BitVec 2} (h : s.agRun plot unit ag = some r) : s.ag r.key = r.st := by
  unfold State.agRun at h
  dsimp only at h
  split at h
  · cases h
  · obtain ⟨p, -, rfl⟩ := Option.map_eq_some_iff.mp h
    rfl

theorem exec_agAccess_of_agRun {plot : BitVec 9} {unit : Bool} {ag : BitVec 2} (h : s.agRun plot unit ag = some r) :
    exec (.agAccess plot unit ag marks code) s = .next (s.agAccess r marks code) := by
  show execAgAccess plot unit ag marks code s = _
  rw [execAgAccess, h]

theorem exec_farTileFetch_of_agRun {plot : BitVec 9} {unit : Bool} {ag : BitVec 2} (h : s.agRun plot unit ag = some r)
    (remote : FarRead) :
    exec (.farTileFetch plot unit ag remote) s = .next (s.farTile r remote.bytes remote.code remote.feed) := by
  show execFarTileFetch plot unit ag remote s = _
  rw [execFarTileFetch, h]

theorem exec_treeMaskRow_of_agRun {plot : BitVec 9} {unit : Bool} {ag : BitVec 2} (h : s.agRun plot unit ag = some r) :
    exec (.treeMaskRow plot unit ⟨ag, code⟩) s = .next (if r.d.kind = 3 then s.treeMask r code else s) := by
  show execTreeMaskRow plot unit ⟨ag, code⟩ s = _
  rw [execTreeMaskRow, h]

/-- A generator that does not walk does nothing. -/
theorem exec_of_agRun_none {plot : BitVec 9} {unit : Bool} {ag : BitVec 2} (h : s.agRun plot unit ag = none) :
    (∀ remote, exec (.farTileFetch plot unit ag remote) s = .next s) ∧
      (∀ marks code, exec (.agAccess plot unit ag marks code) s = .next s) ∧
      ∀ code, exec (.treeMaskRow plot unit ⟨ag, code⟩) s = .next s := by
  refine ⟨fun remote => ?_, fun marks code => ?_, fun code => ?_⟩
  · show execFarTileFetch plot unit ag remote s = _
    rw [execFarTileFetch, h]
  · show execAgAccess plot unit ag marks code s = _
    rw [execAgAccess, h]
  · show execTreeMaskRow plot unit ⟨ag, code⟩ s = _
    rw [execTreeMaskRow, h]

/-! ### The walk after an access -/

/-- The walk after one access: the next one of its tile, or the first one of the next tile. -/
def AgRun.nextWalk (r : AgRun) (st : AgSt) : AgSt :=
  if st.si + 1 < r.d.accesses then { st with si := st.si + 1 } else { st with si := 0, t := st.t + 1 }

/-- A walk's state with the mark that nothing is left (R217). -/
def AgRun.closed (r : AgRun) (st : AgSt) : AgSt := { st with ended := r.finished st }

theorem nextWalk_far (r : AgRun) (st : AgSt) : (r.nextWalk st).far = st.far := by rw [AgRun.nextWalk]; split <;> rfl

/-- The walk's place depends on its place alone. -/
theorem nextWalk_place {st st' : AgSt} (ht : st'.t = st.t) (hsi : st'.si = st.si) :
    (r.nextWalk st').t = (r.nextWalk st).t ∧ (r.nextWalk st').si = (r.nextWalk st).si := by
  simp only [AgRun.nextWalk, hsi]
  split
  · exact ⟨ht, rfl⟩
  · exact ⟨congrArg (· + 1) ht, rfl⟩

/-- Every access moves the walk on. -/
theorem nextWalk_moves (r : AgRun) (st : AgSt) : (r.nextWalk st).t ≠ st.t ∨ (r.nextWalk st).si ≠ st.si := by
  rw [AgRun.nextWalk]
  split
  · exact .inr (Nat.succ_ne_self _)
  · exact .inl (Nat.succ_ne_self _)

theorem finished_congr {st st' : AgSt} (ht : st'.t = st.t) (hfar : st'.far = st.far) : r.finished st' = r.finished st := by
  rw [AgRun.finished, AgRun.finished, ht, hfar]

theorem ringEnd_frame (s : State) (r : AgRun) :
    s.ringEnd r = { s with field := { s.field with rings := (s.ringEnd r).field.rings } } := by
  unfold State.ringEnd
  split
  · rfl
  · dsimp only
    split
    · rfl
    · split <;> rfl

theorem agAdvance_frame (s : State) (r : AgRun) (st : AgSt) :
    s.agAdvance r st = { s with field := { s.field with
      ags := (s.agAdvance r st).field.ags, rings := (s.agAdvance r st).field.rings } } := by
  unfold State.agAdvance
  split
  · rfl
  · dsimp only
    rw [ringEnd_frame]
    rfl

theorem queue_agAdvance (s : State) (r : AgRun) (st : AgSt) (q : QId) : (s.agAdvance r st).queue q = s.queue q := by
  rw [agAdvance_frame]; rfl

theorem ag_agAdvance_ne (s : State) (r : AgRun) (st : AgSt) {k : Nat} (h : k ≠ r.key) : (s.agAdvance r st).ag k = s.ag k := by
  unfold State.agAdvance
  split
  · exact ag_setAg_ne s _ h
  · refine (ag_setAg_ne _ _ h).trans ?_
    rw [ringEnd_frame]
    rfl

/-- A walk that drains no far tile keeps its count of far tiles. -/
theorem ag_agAdvance_self (s : State) (hdrains : (r.b.far && r.b.write) = false) (st : AgSt) :
    (s.agAdvance r st).ag r.key = r.closed (r.nextWalk st) := by
  unfold State.agAdvance AgRun.nextWalk
  split
  · exact ag_setAg_self ..
  · simp only [hdrains]
    exact ag_setAg_self ..

/-! ### Accesses of a plain walk -/

/-- Nothing moves without a tile. -/
theorem agAccess_of_not_ready (h : r.d.kind = 3 ∨ r.d.tiles ≤ r.st.t ∨ s.tileReady r = false) : s.agAccess r marks code = s := by
  rw [State.agAccess, if_pos (h.imp_right (Or.imp_right (by simp [·])))]

theorem lengthRead_of_kind_ne (h : r.d.kind ≠ 2) (n : Nat) : s.lengthRead r n = (s, r) := by
  rw [State.lengthRead, if_pos (.inl h)]

theorem tileCounts_of_kind_ne (h : r.d.kind ≠ 2) : s.tileCounts r = s := by
  have hfault : s.tileFaults r r.st.t = false := by simp [State.tileFaults, h]
  have hpage : s.pageRead r r.st.t = s := if_neg fun hk => h hk.1
  unfold State.tileCounts
  simp [hfault, hpage]

theorem indexCount_of_kind_ne (h : r.d.kind ≠ 1) : s.indexCount r = s := by
  unfold State.indexCount
  split
  · exact absurd ‹_› h
  · rfl

/-- An access of a plain walk, made or not, counts no event of its own. -/
theorem agAccess_of_plain (hkind : r.d.kind = 0) (hleft : r.st.t < r.d.tiles) (hready : s.tileReady r = true)
    (hacc : (if r.b.write then s.agWriteAccess r code else s.agReadAccess r marks code) = s1)
    (hmade : s1 ≠ s → s1.ag r.key ≠ r.st) : s.agAccess r marks code = s1 := by
  have hgo : ¬ (r.d.kind = 3 ∨ r.d.tiles ≤ r.st.t ∨ (!s.tileReady r) = true) := by
    simp [hkind, hready, Nat.not_le.mpr hleft]
  have hcounts (x : State) : x.tileCounts r = x := tileCounts_of_kind_ne (by simp [hkind])
  have hindex (x : State) : x.indexCount r = x := indexCount_of_kind_ne (by simp [hkind])
  rw [State.agAccess, if_neg hgo, lengthRead_of_kind_ne (by simp [hkind])]
  dsimp only
  rw [hacc]
  split
  · next hsame => exact Eq.symm (Classical.byContradiction fun hne => hmade hne hsame)
  · rw [hcounts, ite_self, hindex]

/-- A walk that an access has moved on is not the walk before it. -/
theorem closed_nextWalk_ne {st' : AgSt} (ht : st'.t = st.t) (hsi : st'.si = st.si) : r.closed (r.nextWalk st') ≠ st := by
  intro h
  obtain ⟨hplace, hindex⟩ := nextWalk_place (r := r) ht hsi
  have hsame : (r.nextWalk st').t = st.t ∧ (r.nextWalk st').si = st.si := ⟨congrArg (·.t) h, congrArg (·.si) h⟩
  rcases nextWalk_moves r st with hmove | hmove
  · exact hmove (hplace.symm.trans hsame.1)
  · exact hmove (hindex.symm.trans hsame.2)

/-! ### Read accesses (R134) -/

/-- The bytes of the next access and its scales lie in the Hopper and hold no uncorrectable word. -/
def State.accessSound (s : State) (r : AgRun) : Prop :=
  let o := s.accessOff r r.st.t r.st.si
  let so := r.beatScaleOff r.st.t (s.accessDist r r.st.t r.st.si) 0
  s.validOf r r.st.t r.st.si = 0 ∨
    s.locate (s.gaddr 0 (r.at o)) = .seedbed (r.at o) ∧ s.seedbed.badIn 8 (r.at o) (64 * r.d.beats) = [] ∧
      (isMx r.d.fmt = true → s.locate (s.gaddr 0 (r.at so)) = .seedbed (r.at so) ∧
        s.seedbed.badIn 8 (r.at so) (r.d.beats * blocksPerBeat r.d.fmt) = [])

/-- The tokens of the next read access, and the scale group that it leaves open. -/
def State.accessToks (s : State) (r : AgRun) (marks : BitVec 4) : List Token × List (List Byte) :=
  s.readToks r (s.accessOff r r.st.t r.st.si) (s.accessDist r r.st.t r.st.si) (s.validOf r r.st.t r.st.si) marks none

/-- A read of sound bytes puts its tokens into the queue, when there is credit for all of them, and moves the walk on. -/
theorem agReadAccess_of_sound (hsound : s.accessSound r) :
    s.agReadAccess r marks .clean =
      if s.credits r.portQ < (s.accessToks r marks).1.length then s
      else (s.pushAll r.portQ (s.accessToks r marks).1).agAdvance r { r.st with group := (s.accessToks r marks).2 } := by
  have hbeats : (if s.validOf r r.st.t r.st.si = 0 then s
      else s.hopRead r (s.accessOff r r.st.t r.st.si) (64 * r.d.beats)) = s := by
    split
    · rfl
    · next hvalid =>
      obtain ⟨hloc, hbad, -⟩ := hsound.resolve_left hvalid
      exact hopRead_of_badIn hloc hbad
  have hscales : (if s.validOf r r.st.t r.st.si = 0 ∨ (!isMx r.d.fmt) = true then s
      else s.hopRead r (r.beatScaleOff r.st.t (s.accessDist r r.st.t r.st.si) 0) (r.d.beats * blocksPerBeat r.d.fmt)) = s := by
    split
    · rfl
    · next hmx =>
      obtain ⟨hvalid, hfmt⟩ := not_or.mp hmx
      obtain ⟨-, -, hscale⟩ := hsound.resolve_left hvalid
      obtain ⟨hloc, hbad⟩ := hscale (by simpa using hfmt)
      exact hopRead_of_badIn hloc hbad
  unfold State.agReadAccess
  simp only [sbCode_clean, ite_self, Option.isSome_none, Bool.false_eq_true, if_false, hbeats, hscales]
  rfl

theorem agAccess_read_waits (hkind : r.d.kind = 0) (hleft : r.st.t < r.d.tiles) (hready : s.tileReady r = true)
    (hread : r.b.write = false) (hsound : s.accessSound r) (hcredit : s.credits r.portQ < (s.accessToks r marks).1.length) :
    s.agAccess r marks .clean = s := by
  refine agAccess_of_plain hkind hleft hready ?_ (fun hne => absurd rfl hne)
  rw [hread, if_neg (by decide), agReadAccess_of_sound hsound, if_pos hcredit]

theorem agAccess_read_sends (hkind : r.d.kind = 0) (hleft : r.st.t < r.d.tiles) (hready : s.tileReady r = true)
    (hread : r.b.write = false) (hsound : s.accessSound r) (hcredit : (s.accessToks r marks).1.length ≤ s.credits r.portQ) :
    s.agAccess r marks .clean =
      (s.pushAll r.portQ (s.accessToks r marks).1).agAdvance r { r.st with group := (s.accessToks r marks).2 } := by
  refine agAccess_of_plain hkind hleft hready ?_ fun _ => ?_
  · rw [hread, if_neg (by decide), agReadAccess_of_sound hsound, if_neg (Nat.not_lt.mpr hcredit)]
  · rw [ag_agAdvance_self _ (by simp [hread])]
    exact closed_nextWalk_ne rfl rfl

/-! ### Write accesses (R118, R134) -/

theorem agAccess_write_waits (hkind : r.d.kind = 0) (hleft : r.st.t < r.d.tiles) (hready : s.tileReady r = true)
    (hwrite : r.b.write = true) (hbeat : s.takeBeats r.portQ r.d.beats = none) : s.agAccess r marks code = s := by
  refine agAccess_of_plain hkind hleft hready ?_ (fun hne => absurd rfl hne)
  rw [hwrite, if_pos rfl, State.agWriteAccess, hbeat]

/-- Bytes are less than the power of their count. -/
theorem leNat_lt (l : List Byte) : leNat l < 2 ^ (8 * l.length) := by
  induction l with
  | nil => decide
  | cons b l ih =>
    have hb := b.isLt
    rw [leNat, List.length_cons, Nat.mul_add, Nat.pow_add]
    omega

/-- The state after the 64 bytes of a beat are stored at an offset of the Hopper. -/
def State.storeLine (s : State) (r : AgRun) (o : Nat) (t : Token) : State :=
  { s with seedbed := s.seedbed.write 8 (r.at o) (leBytes 64 (storedPayload r.d.fmt t.payload).toNat) }

/-- A beat that fills its line is stored whole: nothing of the line stays, and no word is partly stored. -/
theorem storeBeat_of_full {o n : Nat} {dist : Int} {t : Token} (hmx : isMx r.d.fmt = false) (hfull : n * elemBits r.d.fmt = 512)
    (hloc : s.locate (s.gaddr 0 (r.at o)) = .seedbed (r.at o)) : (s.storeBeat r o dist 0 n t).1 = s.storeLine r o t := by
  have hpad : ¬ (0 < n ∧ (r.d.fmt = 6 ∨ r.d.fmt = 7)) := by
    rintro ⟨-, h | h⟩ <;> rw [h] at hmx <;> exact absurd hmx (by decide)
  have hold : leNat ((List.range 64).map fun i => s.seedbed.stored (r.at (o + i))) / 2 ^ (n * elemBits r.d.fmt) = 0 := by
    rw [hfull]
    refine Nat.div_eq_of_lt (Nat.lt_of_lt_of_eq (leNat_lt _) ?_)
    rw [List.length_map, List.length_range]
  have hpay : (storedPayload r.d.fmt t.payload).toNat % 2 ^ (n * elemBits r.d.fmt) = (storedPayload r.d.fmt t.payload).toNat := by
    rw [hfull, BitVec.toNat_mod_cancel]
  have hlen : cdiv (n * elemBits r.d.fmt) 8 = 64 := by rw [hfull]; rfl
  have hwords : ¬ (n * elemBits r.d.fmt % 64 ≠ 0 ∧ s.seedbed.isBad (r.at o / 8 + n * elemBits r.d.fmt / 64) = true) := by
    rw [hfull]
    simp
  unfold State.storeBeat
  simp only [hlen, Nat.mul_zero, Nat.add_zero, hold, Nat.zero_mul, hpay, if_neg hwords, if_neg hpad, hmx, if_true,
    Bool.false_eq_true, if_false]
  exact pokeAt_seedbed hloc _

/-- A write of one beat with 512 bits of unmasked elements: its line is stored, its token retires, and the walk moves on. -/
theorem agAccess_write_stores {tok : Token} (hkind : r.d.kind = 0) (hleft : r.st.t < r.d.tiles)
    (hready : s.tileReady r = true) (hwrite : r.b.write = true) (hnear : r.b.far = false) (hbeats : r.d.beats = 1)
    (htake : s.takeBeats r.portQ 1 = some ([tok], s1)) (hmx : isMx r.d.fmt = false)
    (hfull : min tok.vcount (min (elemsPerBeat r.d.fmt) (s.validOf r r.st.t r.st.si)) * elemBits r.d.fmt = 512)
    (hloc : s.locate (s.gaddr 0 (r.at (s.accessOff r r.st.t r.st.si))) = .seedbed (r.at (s.accessOff r r.st.t r.st.si))) :
    ∃ st : AgSt, st.t = r.st.t ∧ st.si = r.st.si ∧ st.far = r.st.far ∧
      s.agAccess r marks .clean = ((s.retireHead r.portQ).storeLine r (s.accessOff r r.st.t r.st.si) tok).agAdvance r st := by
  have hs1 := takeBeats_one htake
  have hstore := fun dist => storeBeat_of_full (dist := dist) (t := tok) hmx hfull (locate_seedbed_congr s1 hloc)
  have hacc : ∃ st : AgSt, st.t = r.st.t ∧ st.si = r.st.si ∧ st.far = r.st.far ∧
      s.agWriteAccess r .clean = (s1.storeLine r (s.accessOff r r.st.t r.st.si) tok).agAdvance r st := by
    unfold State.agWriteAccess
    simp only [hbeats, htake, sbCode_clean, ite_self, List.zipIdx_cons, List.zipIdx_nil, List.foldl_cons, List.foldl_nil,
      Nat.zero_mul, Nat.sub_zero, hstore]
    refine ⟨_, ?_, ?_, ?_, rfl⟩ <;> split <;> rfl
  obtain ⟨st, ht, hsi, hfar, hacc⟩ := hacc
  refine ⟨st, ht, hsi, hfar, ?_⟩
  rw [← hs1]
  refine agAccess_of_plain hkind hleft hready ?_ fun _ => ?_
  · rw [hwrite, if_pos rfl, hacc]
  · rw [ag_agAdvance_self _ (by simp [hnear])]
    exact closed_nextWalk_ne ht hsi

end Access
end Sys2Proof.Machine
end

section
/-!
PROOFS. A TREE walk (R146 to R149): what its row holds, the depths that it stores when it begins, and the mask tokens that it
sends as the credits allow.
-/
namespace Sys2Proof.Machine

section Tree

variable {s : State} {r : AgRun} {code : CodeResult}

/-! ### The row of a TREE walk -/

/-- Where a row's parents, its length word and its depths lie in the Hopper. -/
def AgRun.treeParentOff (r : AgRun) : Nat := 64 * r.b.idxLine + r.st.t * 1024
def AgRun.treeLenOff (r : AgRun) : Nat := 64 * r.b.sbScale + r.st.t * 8 * (r.d.limit1 + 1)
def AgRun.treeDepthOff (r : AgRun) : Nat := 64 * r.b.sbBase + r.st.t * 1024

def State.rowParents (s : State) (r : AgRun) : List Int :=
  treeParents ((List.range 1024).map fun i => s.seedbed.byte 8 (r.at (r.treeParentOff + i)))

def State.rowNodes (s : State) (r : AgRun) : Nat := treeCount (s.rowParents r)

def State.rowLen (s : State) (r : AgRun) : Nat := s.hopNat r r.treeLenOff 8

/-- Whether the context is too short for the row's nodes (R148). -/
def State.rowShort (s : State) (r : AgRun) : Bool := decide (s.rowLen r < s.rowNodes r)

/-- The depths of a row; none where the context is too short. -/
def State.rowDepths (s : State) (r : AgRun) : List Nat :=
  if s.rowShort r then [] else treeDepths (s.rowParents r) (s.rowNodes r)

/-- The tokens of the node that are still to be sent. -/
def State.nodeLeft (s : State) (r : AgRun) : List Token :=
  (nodeTokens (s.rowShort r) (ancestors (s.rowParents r) (s.rowDepths r) (s.rowNodes r)) (s.rowLen r)
    (s.rowNodes r) r.st.si).drop r.st.sub

/-- Those of them that there is credit for. -/
def State.nodeNow (s : State) (r : AgRun) : List Token := (s.nodeLeft r).take (s.credits r.portQ)

/-- The walk after its next row. -/
def AgRun.nextRow (r : AgRun) : AgSt :=
  { r.st with si := 0, sub := 0, t := r.st.t + 1, ended := decide (r.treeRows ≤ r.st.t + 1) }

/-- The walk when the tokens that there is credit for are sent. -/
def State.afterNode (s : State) (r : AgRun) : AgSt :=
  if (s.nodeNow r).length < (s.nodeLeft r).length then { r.st with sub := r.st.sub + (s.nodeNow r).length }
  else if r.st.si + 1 < s.rowNodes r then { r.st with si := r.st.si + 1, sub := 0 }
  else r.nextRow

theorem rowDepths_eq (s : State) (r : AgRun) : s.rowDepths r =
    if s.rowLen r < s.rowNodes r then [] else treeDepths (s.rowParents r) (s.rowNodes r) := by
  simp only [State.rowDepths, State.rowShort, decide_eq_true_eq]

/-- The bytes of a row's depths, for all 256 places (R147). -/
def State.depthBytes (s : State) (r : AgRun) : List Byte :=
  (List.range 256).flatMap fun i => leBytes 4 (if i < s.rowNodes r then (s.rowDepths r).getD i 0 else 0)

/-- The faults of a row: the row itself when it is too short, else its detached nodes (R148). -/
def State.rowFaults (s : State) (r : AgRun) : Nat :=
  if s.rowShort r then 1
  else ((List.range (s.rowNodes r)).filter fun i => (s.rowDepths r).getD i 0 == 0).length

theorem rowFaults_eq (s : State) (r : AgRun) : s.rowFaults r =
    if s.rowLen r < s.rowNodes r then 1
    else ((List.range (s.rowNodes r)).filter fun i => (s.rowDepths r).getD i 0 == 0).length := by
  simp only [State.rowFaults, State.rowShort, decide_eq_true_eq]

/-- What a walk does when it begins a row. -/
def State.rowBegin (s : State) (r : AgRun) (code : CodeResult) : State :=
  let t := ((s.sbCode r r.treeParentOff code).hopRead r r.treeParentOff 1024).hopRead r r.treeLenOff 8
  (t.pokeAt (t.gaddr 0 (r.at r.treeDepthOff)) (s.depthBytes r)).agCount r fun c => { c with treeF := c.treeF + s.rowFaults r }

/-- The row begins with its first node's first token. -/
def State.rowStart (s : State) (r : AgRun) (code : CodeResult) : State :=
  if r.st.si ≠ 0 ∨ r.st.sub ≠ 0 ∨ !passRowActive r.pass.desc r.st.t then s else s.rowBegin r code

/-- The walk goes on at node `si` of `n`, or at the next row. -/
def State.nextNode (t : State) (r : AgRun) (n si : Nat) : State :=
  if si < n ∧ passRowActive r.pass.desc r.st.t then t.setAg r.key { r.st with si := si, sub := 0 } else t.setAg r.key r.nextRow

/-! ### What one command does -/

/-- The definition by its named parts, as an equation of functions. -/
theorem treeMask_eq_fun : State.treeMask = fun s r code =>
    if r.treeRows ≤ r.st.t then s
    else if !passRowActive r.pass.desc r.st.t ∨ s.rowNodes r = 0 then (s.rowStart r code).nextNode r (s.rowNodes r) 0
    else
      let t := (s.rowStart r code).pushAll r.portQ (s.nodeNow r)
      if (s.nodeNow r).length = (s.nodeLeft r).length then t.nextNode r (s.rowNodes r) (r.st.si + 1)
      else if (s.nodeNow r).isEmpty then s
      else t.setAg r.key { r.st with sub := r.st.sub + (s.nodeNow r).length } := rfl

/-- A row that the Pass marks absent is passed over (assumption 59). -/
theorem treeMask_of_absent (hleft : r.st.t < r.treeRows) (habsent : passRowActive r.pass.desc r.st.t = false) :
    s.treeMask r code = s.setAg r.key r.nextRow := by
  rw [treeMask_eq_fun]
  simp only [State.rowStart, State.nextNode, habsent, if_neg (Nat.not_le.mpr hleft), Bool.not_false, true_or, or_true, if_true,
    Bool.false_eq_true, and_false, if_false]

/-- A row that is there: with tokens to send and no credit nothing moves; else the row begins where it has not, and the tokens
that there is credit for are sent. -/
theorem treeMask_of_active (hleft : r.st.t < r.treeRows) (hactive : passRowActive r.pass.desc r.st.t = true)
    (hnodes : 0 < s.rowNodes r) :
    s.treeMask r code =
      if s.nodeNow r = [] ∧ s.nodeLeft r ≠ [] then s
      else ((if r.st.si ≠ 0 ∨ r.st.sub ≠ 0 then s else s.rowBegin r code).pushAll r.portQ (s.nodeNow r)).setAg r.key
        (s.afterNode r) := by
  have hle : (s.nodeNow r).length ≤ (s.nodeLeft r).length := by rw [State.nodeNow, List.length_take]; exact Nat.min_le_right ..
  rw [treeMask_eq_fun, State.afterNode]
  simp only [State.rowStart, State.nextNode, hactive, if_neg (Nat.not_le.mpr hleft), Bool.not_true, Bool.false_eq_true, or_false,
    false_or, if_neg (Nat.ne_of_gt hnodes), and_true]
  by_cases hall : (s.nodeNow r).length = (s.nodeLeft r).length
  · have hgo : ¬ (s.nodeNow r = [] ∧ s.nodeLeft r ≠ []) := by
      rintro ⟨hnow, hts⟩
      rw [hnow] at hall
      exact hts (List.length_eq_zero_iff.mp hall.symm)
    rw [if_pos hall, if_neg hgo, if_neg (Nat.not_lt.mpr (Nat.le_of_eq hall.symm))]
    split <;> rfl
  · have hlt : (s.nodeNow r).length < (s.nodeLeft r).length := Nat.lt_of_le_of_ne hle hall
    have hts : s.nodeLeft r ≠ [] := fun h => by simp [h] at hlt
    simp only [if_neg hall, if_pos hlt, List.isEmpty_iff, hts, ne_eq, not_false_eq_true, and_true]

/-- Event counts stand in the scheduler. -/
theorem agCount_seedbed (s : State) (r : AgRun) (f : PassCnt → PassCnt) (m : Mem) :
    State.agCount { s with seedbed := m } r f = { s with seedbed := m, sched := (s.agCount r f).sched } := rfl

/-- A row that begins with sound words stores its depths and counts its faults; nothing else is touched. -/
theorem rowBegin_of_sound (hdepth : s.locate (s.gaddr 0 (r.at r.treeDepthOff)) = .seedbed (r.at r.treeDepthOff))
    (hparent : s.locate (s.gaddr 0 (r.at r.treeParentOff)) = .seedbed (r.at r.treeParentOff))
    (hlen : s.locate (s.gaddr 0 (r.at r.treeLenOff)) = .seedbed (r.at r.treeLenOff)) (hsound : s.seedbed.bad = []) :
    s.rowBegin r .clean =
      { s with seedbed := s.seedbed.write 8 (r.at r.treeDepthOff) (s.depthBytes r)
               sched := (s.agCount r fun c => { c with treeF := c.treeF + s.rowFaults r }).sched } := by
  rw [State.rowBegin]
  simp only [sbCode_clean, hopRead_of_badIn hparent (Mem.badIn_of_bad_nil hsound ..),
    hopRead_of_badIn hlen (Mem.badIn_of_bad_nil hsound ..), pokeAt_seedbed hdepth]
  exact agCount_seedbed ..

theorem treeMask_of_no_credit (hleft : r.st.t < r.treeRows) (hactive : passRowActive r.pass.desc r.st.t = true)
    (hnodes : 0 < s.rowNodes r) (hcredit : s.credits r.portQ = 0) (hmore : s.nodeLeft r ≠ []) : s.treeMask r code = s := by
  rw [treeMask_of_active hleft hactive hnodes]
  exact if_pos ⟨by rw [State.nodeNow, hcredit, List.take_zero], hmore⟩

/-- A walk with a token to send now, or with none left, does not wait for credit. -/
theorem not_stalled (h : s.nodeNow r ≠ [] ∨ s.nodeLeft r = []) : ¬ (s.nodeNow r = [] ∧ s.nodeLeft r ≠ []) :=
  fun ⟨hnow, hmore⟩ => h.elim (· hnow) hmore

theorem treeMask_of_begun (hleft : r.st.t < r.treeRows) (hactive : passRowActive r.pass.desc r.st.t = true)
    (hnodes : 0 < s.rowNodes r) (hgo : s.nodeNow r ≠ [] ∨ s.nodeLeft r = []) (hbegun : r.st.si ≠ 0 ∨ r.st.sub ≠ 0) :
    s.treeMask r code = (s.pushAll r.portQ (s.nodeNow r)).setAg r.key (s.afterNode r) := by
  rw [treeMask_of_active hleft hactive hnodes, if_neg (not_stalled hgo), if_pos hbegun]

theorem treeMask_of_fresh (hleft : r.st.t < r.treeRows) (hactive : passRowActive r.pass.desc r.st.t = true)
    (hnodes : 0 < s.rowNodes r) (hgo : s.nodeNow r ≠ [] ∨ s.nodeLeft r = []) (hsi : r.st.si = 0) (hsub : r.st.sub = 0) :
    s.treeMask r code = ((s.rowBegin r code).pushAll r.portQ (s.nodeNow r)).setAg r.key (s.afterNode r) := by
  rw [treeMask_of_active hleft hactive hnodes, if_neg (not_stalled hgo), if_neg (by simp [hsi, hsub])]

/-- Tokens that a walk sends: they go to the queue of its port, the walk is kept, and the rest stays. -/
theorem sent_effect {b : State} {m : Mem} {c : SchedSt} (hb : b = { s with seedbed := m, sched := c }) (l : List Token) (st : AgSt) :
    let t := (b.pushAll r.portQ l).setAg r.key st
    (t.queue r.portQ = { s.queue r.portQ with toks := (s.queue r.portQ).toks ++ l, out := (s.queue r.portQ).out + l.length } ∧
      (∀ q, q ≠ r.portQ → t.queue q = s.queue q) ∧ t.ag r.key = st ∧ (∀ k, k ≠ r.key → t.ag k = s.ag k) ∧
      t = { s with seedbed := t.seedbed, sched := t.sched, field := { s.field with queues := t.field.queues, ags := t.field.ags } }) ∧
    t.seedbed = m ∧ t.sched = c := by
  have hfield : b.field = s.field := by rw [hb]
  have hpush := pushAll_frame b r.portQ l
  refine ⟨⟨?_, fun q hq => ?_, ag_setAg_self .., fun k hk => ?_, ?_⟩, ?_, ?_⟩
  · rw [queue_setAg, queue_pushAll_self, queue_congr hfield]
  · rw [queue_setAg, queue_pushAll_ne _ _ hq, queue_congr hfield]
  · rw [ag_setAg_ne _ _ hk, ag_pushAll, ag_congr hfield]
  · rw [State.setAg, hpush, hb]
  · show (b.pushAll r.portQ l).seedbed = _
    rw [hpush, hb]
  · show (b.pushAll r.portQ l).sched = _
    rw [hpush, hb]

end Tree
end Sys2Proof.Machine
end

section
/-!
PROOFS. Far tiles (R131, R132, R227): how a tile takes its turn, and how its bytes come from this chip's Topsoil.
-/
namespace Sys2Proof.Machine

section FarTile

variable {s : State} {r : AgRun} {a n o off : Nat} {remote : List Byte} {code feed : CodeResult}

/-! ### The scoreboard entry of a tile -/

theorem boardHeld_boardRetire (s : State) (own : Owner) : (s.boardRetire own).boardHeld own = false := by
  show (s.sched.entries.filter fun e => decide (e.owner ≠ own)).any (fun e => decide (e.owner = own)) = false
  simp

theorem boardRetire_frame (s : State) (own : Owner) :
    s.boardRetire own = { s with regs := (s.boardRetire own).regs, sched := (s.boardRetire own).sched } := rfl

theorem ownerDone_tile {k : Nat} (h : s.ownerPending (.tile k) = false) : s.ownerDone (.tile k) = s.boardRetire (.tile k) := by
  unfold State.ownerDone
  rw [h]
  rfl

/-! ### A tile's turn -/

/-- The next tile that the walk fetches or drains. -/
def State.turn (s : State) (r : AgRun) : Nat := s.nextFar r r.d.tiles r.st.far

/-- Whether a tile may move: one that the walk has left is drained, and one that it comes to next is fetched. -/
def AgRun.mayMove (r : AgRun) (n : Nat) : Bool :=
  if r.b.write then decide (n < r.st.t) else decide (n < r.d.tiles ∧ n ≤ r.st.t + 1)

theorem farTile_stays (h : r.b.far = false ∨ r.d.kind = 3 ∨ s.ownerPending (.tile r.key) = true) :
    s.farTile r remote code feed = s := by
  have hstop : (!r.b.far || r.d.kind == 3 || s.ownerPending (.tile r.key)) = true := by
    rcases h with h | h | h <;> simp [h]
  rw [State.farTile]
  exact if_pos hstop

/-- The tile whose turn it is, when nothing of the walk is unanswered. -/
theorem farTile_goes (hfar : r.b.far = true) (hkind : r.d.kind ≠ 3) (hpend : s.ownerPending (.tile r.key) = false) :
    s.farTile r remote code feed =
      if !r.mayMove (s.turn r) then s.putAg r { r.st with far := s.turn r }
      else if r.b.write && s.writeWaits (s.tileAddr r (s.turn r)) r.tileBytes then s
      else
        let x := s.lengthRead r (s.turn r)
        let t := if x.2.st.wait = 0 then
            x.1.boardRequest (.tile x.2.key) x.2.pass.order (some x.2.pass.pseq) x.2.b.write (s.tileAddr r (s.turn r)) x.2.tileBytes
          else x.1
        if t.boardHeld (.tile x.2.key) then t.tileMove x.2 (s.turn r) remote code feed
        else t.setAg x.2.key { x.2.st with wait := 1 } := by
  have hgo : ¬ ((!r.b.far || r.d.kind == 3 || s.ownerPending (.tile r.key)) = true) := by simp [hfar, hkind, hpend]
  rw [State.farTile]
  exact if_neg hgo

theorem farTile_not_due (hfar : r.b.far = true) (hkind : r.d.kind ≠ 3) (hpend : s.ownerPending (.tile r.key) = false)
    (hdue : r.mayMove (s.turn r) = false) : s.farTile r remote code feed = s.putAg r { r.st with far := s.turn r } := by
  rw [farTile_goes hfar hkind hpend, hdue]
  rfl

/-- A read tile of a plain or indexed walk that holds no entry yet. -/
theorem farTile_waits (hfar : r.b.far = true) (hkind : r.d.kind = 0 ∨ r.d.kind = 1) (hpend : s.ownerPending (.tile r.key) = false)
    (hread : r.b.write = false) (hdue : r.mayMove (s.turn r) = true)
    (hheld : (if r.st.wait = 0 then
      s.boardRequest (.tile r.key) r.pass.order (some r.pass.pseq) false (s.tileAddr r (s.turn r)) r.tileBytes else s).boardHeld
        (.tile r.key) = false) :
    s.farTile r remote code feed = (if r.st.wait = 0 then
      s.boardRequest (.tile r.key) r.pass.order (some r.pass.pseq) false (s.tileAddr r (s.turn r)) r.tileBytes else s).setAg r.key
        { r.st with wait := 1 } := by
  rw [farTile_goes hfar (by omega) hpend, hdue, lengthRead_of_kind_ne (by omega)]
  simp only [hread, Bool.not_true, Bool.false_and, Bool.false_eq_true, if_false, hheld]

/-- A tile that holds its entry moves. -/
theorem farTile_moves (hfar : r.b.far = true) (hkind : r.d.kind ≠ 3) (hpend : s.ownerPending (.tile r.key) = false)
    (hdue : r.mayMove (s.turn r) = true) (hward : (r.b.write && s.writeWaits (s.tileAddr r (s.turn r)) r.tileBytes) = false)
    (hlen : s.lengthRead r (s.turn r) = (s, r)) (hwait : r.st.wait ≠ 0) (hheld : s.boardHeld (.tile r.key) = true) :
    s.farTile r remote code feed = s.tileMove r (s.turn r) remote code feed := by
  rw [farTile_goes hfar hkind hpend, hdue, hward, hlen]
  simp only [if_neg hwait, hheld, Bool.not_true, Bool.false_eq_true, if_false, if_true]

/-! ### A tile that is fetched from this chip's Topsoil -/

theorem farRefused_of_top {write : Bool} (hloc : s.locate a = .top o) (hlist : s.rangeRefuses write a n = false)
    (hacc : s.accessRefused write a n = false) : s.farRefused write a n = none := by
  have hcommons : s.isCommons a = false := by rw [State.isCommons, hloc]
  unfold State.farRefused
  simp only [hlist, hcommons, hacc, Bool.false_and, Bool.or_false, Bool.false_eq_true, if_false]

/-- An access to Topsoil leaves the chip's position. -/
theorem topTouch_position (hloc : s.locate a = .top o) (n : Nat) :
    (s.topTouch o n).reg ROUTE_SELF.RACK.reg = s.reg ROUTE_SELF.RACK.reg := by
  obtain ⟨-, -, -, rfl⟩ := locate_eq_top_iff.mp hloc
  exact (SameButRecords.topTouch s a n).position

/-- A line counter of Topsoil counts, and nothing else changes. -/
theorem topTouch_frame (s : State) (hrange : topRange o n = true) : s.topTouch o n = { s with regs := (s.topTouch o n).regs } := by
  rw [topTouch_of_topRange s hrange]
  rfl

theorem readAny_of_top (own : Option Owner) (hloc : s.locate a = .top o) (hrange : topRange o n = true)
    (hsound : s.topsoil.badIn 64 o n = []) (stepBound : Bool) :
    s.readAny own a n .clean stepBound remote = (s.topTouch o n, s.topsoil.read 64 o n, false) := by
  have hloc' := locate_top_of_position (topTouch_position hloc n) hloc
  have hsound' : (s.topTouch o n).topsoil.badIn 64 o n = [] := by rw [topTouch_frame s hrange]; exact hsound
  simp only [State.readAny, hloc, State.readChecked, State.peek, State.touch, State.topPeek, hrange, if_true, State.readErrors,
    hloc', hsound']
  rfl

theorem tileIn_of_top (hloc : s.locate a = .top o) (hn : 0 < n) (hlist : s.rangeRefuses false a n = false)
    (hacc : s.accessRefused false a n = false) (hrange : topRange o n = true) (hsound : s.topsoil.badIn 64 o n = [])
    (hhere : s.locate (s.gaddr 0 (r.at off)) = .seedbed (r.at off)) :
    s.tileIn r a n off remote .clean =
      { s.topTouch o n with seedbed := s.seedbed.write 8 (r.at off) (s.topsoil.read 64 o n) } := by
  unfold State.tileIn
  rw [if_neg (Nat.ne_of_gt hn), farRefused_of_top hloc hlist hacc]
  dsimp only
  rw [readAny_of_top _ hloc hrange hsound]
  dsimp only
  rw [if_neg (by decide), pokeAt_seedbed (locate_seedbed_congr _ hhere), topTouch_frame s hrange]

/-- The page entry of a tile is read from sound words. -/
theorem pageRead_of_sound (h : r.d.kind = 2 → s.seedbed.bad = [] ∧
    s.locate (s.gaddr 0 (r.at (r.pageRow (r.pageAt n).1 + 8 * ((r.pageAt n).2 + 1)))) =
      .seedbed (r.at (r.pageRow (r.pageAt n).1 + 8 * ((r.pageAt n).2 + 1)))) : s.pageRead r n = s := by
  rw [State.pageRead]
  dsimp only
  split
  · next hk =>
    obtain ⟨hbad, hloc⟩ := h hk.1
    exact hopRead_of_badIn hloc (Mem.badIn_of_bad_nil hbad ..)
  · rfl

theorem lengthRead_of_known (h : r.d.kind = 2 → r.st.lens.any (fun e => e.1 == (r.pageAt n).1) = true) :
    s.lengthRead r n = (s, r) := by
  rw [State.lengthRead]
  refine if_pos ?_
  by_cases hk : r.d.kind = 2
  · exact .inr (h hk)
  · exact .inl hk

/-- A read tile without scales fills its slot, and its entry retires. -/
theorem tileMove_of_read (hread : r.b.write = false) (hpage : s.pageRead r n = s) (hscale : r.scaleBytes = 0)
    (hpend : s.ownerPending (.tile r.key) = false) (hin :
      s.tileIn r (s.tileAddr r n) r.tileBytes (r.slotOff n) remote .clean =
        { s.topTouch o r.tileBytes with seedbed := s.seedbed.write 8 (r.at (r.slotOff n)) (s.topsoil.read 64 o r.tileBytes) })
    (hrange : topRange o r.tileBytes = true) :
    s.tileMove r n remote .clean .clean = State.boardRetire (State.putAg
      { s.topTouch o r.tileBytes with seedbed := s.seedbed.write 8 (r.at (r.slotOff n)) (s.topsoil.read 64 o r.tileBytes) } r
      { r.st with far := n + 1, wait := 0 }) (.tile r.key) := by
  have hnone (x : State) (c off : Nat) (remote : List Byte) : x.tileIn r c 0 off remote .clean = x := if_pos rfl
  unfold State.tileMove
  simp only [hread, ite_self, sbCode_clean, hpage, hscale, hin, hnone, Bool.false_eq_true, if_false,
    show feedBad .clean = false from rfl]
  refine ownerDone_tile ?_
  rw [topTouch_frame s hrange]
  exact hpend

end FarTile
end Sys2Proof.Machine
end

section
/-!
PROOFS. A written tile that is drained to this chip's Topsoil (R132): its stored bytes go to their lines under byte enables,
each protected line sends its delta, and every other byte stays.
-/
namespace Sys2Proof.Machine

/-! ### Bytes stored one by one -/

section Bytes

variable {m : Mem}

/-- Stores `f d` at `o + d` for each distance `d` of a list. -/
def Mem.pokeAll (m : Mem) (o : Nat) (f : Nat → Byte) (ds : List Nat) : Mem := ds.foldl (fun m d => m.poke (o + d) (f d)) m

theorem bad_pokeAll (m : Mem) (o : Nat) (f : Nat → Byte) (ds : List Nat) : (m.pokeAll o f ds).bad = m.bad := by
  induction ds generalizing m with
  | nil => rfl
  | cons d ds ih => exact ih _

theorem pokeAll_append (m : Mem) (o : Nat) (f : Nat → Byte) (ds es : List Nat) :
    m.pokeAll o f (ds ++ es) = (m.pokeAll o f ds).pokeAll o f es := List.foldl_append

theorem isBad_of_bad_nil (hsound : m.bad = []) (g : Nat) : m.isBad g = false := by rw [Mem.isBad, hsound]; rfl

theorem byte_of_bad_nil (hsound : m.bad = []) (gran x : Nat) : m.byte gran x = m.stored x := by
  rw [Mem.byte, isBad_of_bad_nil hsound]
  rfl

theorem stored_pokeAll (m : Mem) (o : Nat) (f : Nat → Byte) (ds : List Nat) (x : Nat) :
    (m.pokeAll o f ds).stored x = if ∃ d ∈ ds, x = o + d then f (x - o) else m.stored x := by
  induction ds generalizing m with
  | nil => simp [Mem.pokeAll]
  | cons d ds ih =>
    refine (ih (m.poke (o + d) (f d))).trans ?_
    by_cases hds : ∃ e ∈ ds, x = o + e
    · obtain ⟨e, he, hx⟩ := hds
      rw [if_pos ⟨e, he, hx⟩, if_pos ⟨e, List.mem_cons_of_mem d he, hx⟩]
    · rw [if_neg hds]
      by_cases hd : x = o + d
      · rw [if_pos ⟨d, List.mem_cons_self, hd⟩, hd, Mem.stored_poke_self, Nat.add_sub_cancel_left]
      · rw [Mem.stored_poke_ne m _ hd, if_neg]
        rintro ⟨e, he, hx⟩
        rcases List.mem_cons.mp he with rfl | he
        · exact hd hx
        · exact hds ⟨e, he, hx⟩

theorem byte_pokeAll (hsound : m.bad = []) (gran o : Nat) (f : Nat → Byte) (ds : List Nat) (x : Nat) :
    (m.pokeAll o f ds).byte gran x = if ∃ d ∈ ds, x = o + d then f (x - o) else m.byte gran x := by
  rw [byte_of_bad_nil ((bad_pokeAll ..).trans hsound), byte_of_bad_nil hsound, stored_pokeAll]

theorem heal_of_bad_nil (hsound : m.bad = []) (gran a n : Nat) : m.heal gran a n = m := by
  rw [Mem.heal_eq]
  generalize List.range (n / gran + 2) = ks
  induction ks with
  | nil => rfl
  | cons k ks ih => rwa [List.foldl_cons, healStep, isBad_of_bad_nil hsound, Bool.and_false, if_neg (by decide)]

/-- Byte enables of a line of sound bytes: the named bytes are stored. -/
theorem pokeSome_of_bad_nil (hsound : m.bad = []) {gran l o : Nat} (p : Nat → Nat) (f : Nat → Byte) {ds : List Nat}
    (hplace : ∀ d ∈ ds, 64 * l + p d = o + d) :
    m.pokeSome gran l (ds.map fun d => (p d, f d)) = m.pokeAll o f ds := by
  rw [Mem.pokeSome, heal_of_bad_nil hsound, ite_self, List.foldl_map]
  induction ds generalizing m with
  | nil => rfl
  | cons d ds ih =>
    rw [List.foldl_cons, isBad_of_bad_nil hsound, if_neg (by decide), hplace d List.mem_cons_self]
    exact ih (m := m.poke (o + d) (f d)) hsound fun e he => hplace e (List.mem_cons_of_mem d he)

end Bytes

/-! ### States that differ in messages -/

/-- `t` is `s` but for registers other than ROUTE_SELF, messages that no operation of the scoreboard waits for, and what the
Ward keeps of its deltas. -/
structure SameButDeltas (s t : State) : Prop where
  rest : t = { s with regs := t.regs, net := t.net, ward := t.ward }
  position : t.reg ROUTE_SELF.RACK.reg = s.reg ROUTE_SELF.RACK.reg
  pending : ∀ own, t.ownerPending own = s.ownerPending own

namespace SameButDeltas

variable {s t u : State}

theorem refl (s : State) : SameButDeltas s s := ⟨rfl, rfl, fun _ => rfl⟩

theorem trans (h : SameButDeltas s t) (k : SameButDeltas t u) : SameButDeltas s u := by
  refine ⟨?_, k.position.trans h.position, fun own => (k.pending own).trans (h.pending own)⟩
  rw [k.rest, h.rest]

/-- The same Topsoil put into both. -/
theorem withTopsoil (h : SameButDeltas s t) (m : Mem) : SameButDeltas { s with topsoil := m } { t with topsoil := m } := by
  refine ⟨?_, h.position, h.pending⟩
  rw [h.rest]

theorem topTouch {a o n : Nat} (hloc : s.locate a = .top o) (hrange : topRange o n = true) : SameButDeltas s (s.topTouch o n) := by
  refine ⟨?_, topTouch_position hloc n, fun own => ?_⟩ <;> rw [topTouch_frame s hrange]
  rfl

/-- A delta is a request of its own kind, and counts in the registers of the Ward. -/
theorem sendDelta (s : State) (off k : Nat) (d : Payload) : SameButDeltas s (s.sendDelta off k d) := by
  refine ⟨rfl, ?_, fun own => ?_⟩
  · unfold State.sendDelta
    exact (reg_put_ne _ _ (by decide)).trans (reg_put_ne _ _ (by decide))
  · show List.any (s.net.requests ++ [_]) _ = s.ownerPending own
    rw [List.any_append]
    simp [State.ownerPending]

theorem deltas (old : Mem) (l n : Nat) (s : State) : SameButDeltas s (s.deltas old l n) := by
  induction n generalizing l s with
  | zero => exact refl s
  | succ n ih =>
    rw [State.deltas]
    refine trans ?_ (ih (l + 1) _)
    split
    · split
      · exact refl s
      · exact sendDelta s _ _ _
    · exact refl s

theorem topWriteSome {a l : Nat} (bs : List (Nat × Byte)) (hloc : s.locate a = .top (64 * l)) (hrange : topRange (64 * l) 64 = true) :
    SameButDeltas { s with topsoil := s.topsoil.pokeSome 64 l bs } (s.topWriteSome l bs) := by
  have htouch : SameButDeltas { s with topsoil := s.topsoil.pokeSome 64 l bs }
      (State.topTouch { s with topsoil := s.topsoil.pokeSome 64 l bs } (64 * l) 64) :=
    topTouch (locate_top_of_position rfl hloc) hrange
  rw [State.topWriteSome, if_pos hrange]
  dsimp only
  split
  · exact htouch.trans (deltas _ _ _ _)
  · exact htouch

end SameButDeltas

/-! ### The lines of a tile -/

section Lines

variable {s : State} {r : AgRun} {a n o : Nat}

/-- A whole line of a range of Topsoil whose ends are line boundaries. -/
theorem locate_line_of_top (hloc : s.locate a = .top o) (ha : a % 64 = 0) (hrange : topRange o n = true) {k : Nat}
    (hlo : a ≤ 64 * k) (hhi : 64 * k + 64 ≤ a + n) :
    s.locate (64 * k) = .top (o + (64 * k - a)) ∧ topRange (o + (64 * k - a)) 64 = true := by
  obtain ⟨hchip, htier, hok, rfl⟩ := locate_eq_top_iff.mp hloc
  obtain ⟨j, hj⟩ : ∃ j, 64 * k = a + 64 * j := ⟨k - a / 64, by omega⟩
  simp only [topRange, topOk, Bool.or_eq_true, Bool.and_eq_true, beq_iff_eq, decide_eq_true_eq] at hok hrange ⊢
  rw [locate_eq_top_iff, hj, Nat.add_sub_cancel_left]
  simp only [topOk, decide_eq_true_eq]
  omega

/-- The bytes of one line of a tile, drained. -/
theorem lineOut_of_top (hloc : s.locate a = .top o) (ha : a % 64 = 0) (hrange : topRange o n = true) (hsound : s.topsoil.bad = [])
    {k : Nat} (hlo : a ≤ 64 * k) (hhi : 64 * k + 64 ≤ a + n) (f : Nat → Byte) {ds : List Nat} (hds : ∀ d ∈ ds, (a + d) / 64 = k)
    (old : List Byte) :
    SameButDeltas { s with topsoil := s.topsoil.pokeAll o f ds }
      (s.lineOut r (64 * k) (ds.map fun d => ((a + d) % 64, f d)) old) := by
  obtain ⟨hline, hlines⟩ := locate_line_of_top hloc ha hrange hlo hhi
  have ho : o % 64 = 0 := by
    obtain ⟨-, -, -, rfl⟩ := locate_eq_top_iff.mp hloc
    omega
  have hnum : 64 * ((o + (64 * k - a)) / 64) = o + (64 * k - a) := by omega
  have hplace : ∀ d ∈ ds, 64 * ((o + (64 * k - a)) / 64) + (a + d) % 64 = o + d := by
    intro d hd
    have := hds d hd
    omega
  rw [State.lineOut, hline]
  dsimp only
  rw [← pokeSome_of_bad_nil hsound (fun d => (a + d) % 64) f hplace]
  exact SameButDeltas.topWriteSome _ (by rw [hnum]; exact hline) (by rw [hnum]; exact hlines)

/-- The stored bytes of a tile, drained line by line. -/
theorem lines_of_top (hloc : s.locate a = .top o) (ha : a % 64 = 0) (hrange : topRange o n = true) (hsound : s.topsoil.bad = [])
    {off : Nat} {f : Nat → Byte} (hf : ∀ d, s.seedbed.byte 8 (r.at (off + d)) = f d) (ds : List Nat) (old : Nat → List Byte)
    {ks : List Nat} (hks : ∀ k ∈ ks, a ≤ 64 * k ∧ 64 * k + 64 ≤ a + n) :
    SameButDeltas { s with topsoil := s.topsoil.pokeAll o f (ks.flatMap fun k => ds.filter fun d => decide ((a + d) / 64 = k)) }
      (s.each ks fun s k => s.lineOut r (64 * k) ((ds.filter fun d => decide ((a + d) / 64 = k)).map fun d =>
        ((a + d) % 64, s.seedbed.byte 8 (r.at (off + d)))) (old k)) := by
  induction ks generalizing s with
  | nil => exact SameButDeltas.refl s
  | cons k ks ih =>
    obtain ⟨hlo, hhi⟩ := hks k List.mem_cons_self
    have hone := lineOut_of_top (r := r) hloc ha hrange hsound hlo hhi f
      (ds := ds.filter fun d => decide ((a + d) / 64 = k)) (fun d hd => of_decide_eq_true (List.mem_filter.mp hd).2) (old k)
    rw [State.each, List.foldl_cons, List.flatMap_cons, pokeAll_append]
    simp only [hf]
    generalize s.lineOut r (64 * k) ((ds.filter fun d => decide ((a + d) / 64 = k)).map fun d => ((a + d) % 64, f d)) (old k) = t
      at hone ⊢
    have htop : t.topsoil = s.topsoil.pokeAll o f (ds.filter fun d => decide ((a + d) / 64 = k)) := by rw [hone.rest]
    have hseed : t.seedbed = s.seedbed := by rw [hone.rest]
    have hrest := ih (s := t) (locate_top_of_position hone.position hloc) (by rw [htop, bad_pokeAll, hsound])
      (by rw [hseed]; exact hf) (fun k' hk' => hks k' (List.mem_cons_of_mem k hk'))
    rw [htop] at hrest
    exact (hone.withTopsoil _).trans hrest

theorem mem_distinct (l : List Nat) (x : Nat) : x ∈ distinct l ↔ x ∈ l := by
  have hfold : ∀ acc : List Nat, x ∈ l.foldl (fun acc y => if acc.contains y then acc else acc ++ [y]) acc ↔ x ∈ acc ∨ x ∈ l := by
    induction l with
    | nil => simp
    | cons y l ih =>
      intro acc
      rw [List.foldl_cons, ih, List.mem_cons]
      by_cases hy : acc.contains y
      · have hmem : y ∈ acc := List.contains_iff_mem.mp hy
        rw [if_pos hy]
        constructor
        · rintro (h | h)
          · exact .inl h
          · exact .inr (.inr h)
        · rintro (h | rfl | h)
          · exact .inl h
          · exact .inl hmem
          · exact .inr h
      · rw [if_neg hy, List.mem_append, List.mem_singleton, or_assoc]
  exact (hfold []).trans (by simp)

theorem lt_of_mem_storedIn {l : List Nat} {lo d : Nat} (h : d ∈ storedIn l lo n) : d < n := by
  simp only [storedIn, List.mem_map, List.mem_filter, decide_eq_true_eq] at h
  obtain ⟨x, ⟨-, hx⟩, rfl⟩ := h
  omega

/-- Reads of the Hopper that is drained record nothing. -/
theorem each_hopRead_of_bad_nil (hsound : s.seedbed.bad = []) {ws : List Nat} (hws : ∀ w ∈ ws, r.at (8 * w) < 2 ^ 42) :
    (s.each ws fun s w => s.hopRead r (8 * w) 8) = s := by
  induction ws with
  | nil => rfl
  | cons w ws ih =>
    rw [State.each, List.foldl_cons, hopRead_of_bad_nil (hws w List.mem_cons_self) hsound]
    exact ih fun v hv => hws v (List.mem_cons_of_mem w hv)

/-- A written tile of whole lines, drained to Topsoil: the stored bytes and no other are there as they are in the Hopper. -/
theorem tileOut_of_top {off : Nat} (l : List Nat) (old : List Byte) (hloc : s.locate a = .top o) (ha : a % 64 = 0) (hn : n % 64 = 0)
    (hrange : topRange o n = true) (hlist : s.rangeRefuses true a n = false) (hacc : s.accessRefused true a n = false)
    (htop : s.topsoil.bad = []) (hseed : s.seedbed.bad = []) (hhere : s.locate (s.gaddr 0 (r.at off)) = .seedbed (r.at off)) :
    ∃ ds, (∀ d, d ∈ ds ↔ d ∈ storedIn l off n) ∧
      SameButDeltas { s with topsoil := s.topsoil.pokeAll o (fun d => s.seedbed.byte 8 (r.at (off + d))) ds }
        (s.tileOut r a off n l old) := by
  unfold State.tileOut
  dsimp only
  split
  · next hnone =>
    refine ⟨[], fun d => ?_, SameButDeltas.refl s⟩
    rw [← mem_distinct (storedIn l off n), List.isEmpty_iff.mp hnone]
  · rw [farRefused_of_top hloc hlist hacc]
    dsimp only
    have hlt (d : Nat) (hd : d ∈ distinct (storedIn l off n)) : d < n := lt_of_mem_storedIn ((mem_distinct ..).mp hd)
    have hbound : n ≤ 2 ^ 37 := by
      simp only [topRange, Bool.or_eq_true, Bool.and_eq_true, beq_iff_eq] at hrange
      omega
    rw [each_hopRead_of_bad_nil hseed]
    · refine ⟨_, fun d => ?_, lines_of_top hloc ha hrange htop (fun _ => rfl) _ (fun k => old.drop (64 * (k - a / 64))) ?_⟩
      · simp only [List.mem_flatMap, mem_distinct, List.mem_map, List.mem_filter, decide_eq_true_eq]
        exact ⟨fun ⟨_, _, hd, _⟩ => hd, fun hd => ⟨_, ⟨d, hd, rfl⟩, hd, rfl⟩⟩
      · intro k hk
        obtain ⟨d, hd, rfl⟩ := List.mem_map.mp ((mem_distinct ..).mp hk)
        have := hlt d hd
        omega
    · intro w hw
      obtain ⟨d, hd, rfl⟩ := List.mem_map.mp ((mem_distinct ..).mp hw)
      have := hlt d hd
      have := lt_of_locate_eq_seedbed hhere
      unfold AgRun.at at *
      omega

/-- The walk's state when a written tile is drained. -/
def AgRun.drained (r : AgRun) (n : Nat) : AgSt :=
  { r.st with far := n + 1, wait := 0, stored0 := if r.slot n = 0 then [] else r.st.stored0
              stored1 := if r.slot n = 0 then r.st.stored1 else [] }

/-- A written tile without scales is drained, and its entry retires. -/
theorem tileMove_of_write {remote : List Byte} (hwrite : r.b.write = true) (hscale : r.scaleBytes = 0) :
    s.tileMove r n remote .clean .clean =
      ((s.tileOut r (s.tileAddr r n) (r.slotOff n) r.tileBytes (if r.slot n = 0 then r.st.stored0 else r.st.stored1) remote).putAg r
        (r.drained n)).ownerDone (.tile r.key) := by
  have hnone (x : State) (c off : Nat) (l : List Nat) (remote : List Byte) : x.tileOut r c off 0 l remote = x := by
    have hempty : storedIn l off 0 = [] := List.eq_nil_iff_forall_not_mem.mpr fun d hd => Nat.not_lt_zero d (lt_of_mem_storedIn hd)
    rw [State.tileOut, hempty]
    rfl
  have hst : (if r.slot n = 0 then { r.st with far := n + 1, wait := 0, stored0 := [] }
      else { r.st with far := n + 1, wait := 0, stored1 := [] }) = r.drained n := by
    rw [AgRun.drained]
    split <;> rfl
  unfold State.tileMove
  simp only [hwrite, sbCode_clean, hscale, hnone, if_true, show feedBad .clean = false from rfl, Bool.false_eq_true, if_false, hst]

end Lines
end Sys2Proof.Machine
end

section
/-!
PROOFS. The address generators' commands (R130, R131, R134, R136, R147, R149, R227): what each leaves behind, and the statement
about them.
-/
namespace Sys2Proof.Machine

section Effects

variable {s : State} {r : AgRun} {o : Nat}

/-! ### Far tiles -/

theorem mayMove_of_read {n : Nat} (hread : r.b.write = false) (hn : n < r.d.tiles) (hnext : n ≤ r.st.t + 1) :
    r.mayMove n = true := by simp [AgRun.mayMove, hread, hn, hnext]

theorem mayMove_of_write {n : Nat} (hwrite : r.b.write = true) (hn : n < r.st.t) : r.mayMove n = true := by
  simp [AgRun.mayMove, hwrite, hn]

theorem not_mayMove {n : Nat} (h : if r.b.write then r.st.t ≤ n else r.d.tiles ≤ n ∨ r.st.t + 1 < n) : r.mayMove n = false := by
  rw [AgRun.mayMove]
  split at h
  · rw [if_pos ‹_›, decide_eq_false_iff_not]
    omega
  · rw [if_neg ‹_›, decide_eq_false_iff_not]
    omega

/-- What a tile that is fetched leaves behind. -/
theorem fetched_effect (n : Nat) (bs : List Byte) (hrange : topRange o r.tileBytes = true) :
    let t := State.boardRetire (State.putAg { s.topTouch o r.tileBytes with seedbed := s.seedbed.write 8 (r.at (r.slotOff n)) bs } r
      { r.st with far := n + 1, wait := 0 }) (.tile r.key)
    t.seedbed = s.seedbed.write 8 (r.at (r.slotOff n)) bs ∧ t.ag r.key = r.closed { r.st with far := n + 1, wait := 0 } ∧
      (∀ k, k ≠ r.key → t.ag k = s.ag k) ∧ t.boardHeld (.tile r.key) = false ∧
      t = { s with regs := t.regs, seedbed := t.seedbed, sched := t.sched, field := { s.field with ags := t.field.ags } } := by
  refine ⟨rfl, ag_setAg_self .., fun k hk => ?_, boardHeld_boardRetire .., ?_⟩
  · refine (ag_setAg_ne _ _ hk).trans ?_
    rw [topTouch_frame s hrange]
    rfl
  · rw [boardRetire_frame, State.putAg, topTouch_frame s hrange]
    rfl

/-- What a tile that is drained leaves behind: `u` is the state when its bytes are stored. -/
theorem drained_effect {u : State} {n off : Nat} {ds : List Nat} (hsound : s.topsoil.bad = [])
    (hpend : s.ownerPending (.tile r.key) = false)
    (hout : SameButDeltas { s with topsoil := s.topsoil.pokeAll o (fun d => s.seedbed.byte 8 (r.at (off + d))) ds } u) :
    let t := (u.putAg r (r.drained n)).ownerDone (.tile r.key)
    (∀ x, t.topsoil.byte 64 x = if ∃ d ∈ ds, x = o + d then s.seedbed.byte 8 (r.at (off + (x - o))) else s.topsoil.byte 64 x) ∧
      SameMemoryBut (fun tier x => tier = 1 ∧ ∃ d ∈ ds, x = o + d) s t ∧ t.ag r.key = r.closed (r.drained n) ∧
      (∀ k, k ≠ r.key → t.ag k = s.ag k) ∧ t.boardHeld (.tile r.key) = false ∧ ∀ q, t.queue q = s.queue q := by
  have hdone : (u.putAg r (r.drained n)).ownerDone (.tile r.key) = (u.putAg r (r.drained n)).boardRetire (.tile r.key) :=
    ownerDone_tile ((hout.pending _).trans hpend)
  have hfield : u.field = s.field := by rw [hout.rest]
  have hseed : u.seedbed = s.seedbed := by rw [hout.rest]
  have hsub : u.subsoil = s.subsoil := by rw [hout.rest]
  have htop : u.topsoil = s.topsoil.pokeAll o (fun d => s.seedbed.byte 8 (r.at (off + d))) ds := by rw [hout.rest]
  have hbyte (x : Nat) : u.topsoil.byte 64 x =
      if ∃ d ∈ ds, x = o + d then s.seedbed.byte 8 (r.at (off + (x - o))) else s.topsoil.byte 64 x := by
    rw [htop, byte_pokeAll hsound]
  dsimp only
  rw [hdone]
  refine ⟨hbyte, fun x => ⟨fun _ => congrArg (·.byte 8 x) hseed, fun hx => ?_, fun _ => congrArg (·.byte 64 x) hsub⟩,
    ag_setAg_self .., fun k hk => ?_, boardHeld_boardRetire .., fun q => queue_congr hfield q⟩
  · exact (hbyte x).trans (if_neg fun hd => hx ⟨rfl, hd⟩)
  · exact (ag_setAg_ne u _ hk).trans (ag_congr hfield k)

/-! ### Accesses -/

/-- What a read access leaves behind. -/
theorem read_effect (hread : r.b.write = false) (l : List Token) (st : AgSt) :
    let t := (s.pushAll r.portQ l).agAdvance r st
    t.queue r.portQ = { s.queue r.portQ with toks := (s.queue r.portQ).toks ++ l, out := (s.queue r.portQ).out + l.length } ∧
      (∀ q, q ≠ r.portQ → t.queue q = s.queue q) ∧ t.ag r.key = r.closed (r.nextWalk st) ∧ (∀ k, k ≠ r.key → t.ag k = s.ag k) ∧
      t = { s with field := { s.field with queues := t.field.queues, ags := t.field.ags, rings := t.field.rings } } := by
  refine ⟨?_, fun q hq => ?_, ag_agAdvance_self _ (by simp [hread]) st, fun k hk => ?_, ?_⟩
  · rw [queue_agAdvance, queue_pushAll_self]
  · rw [queue_agAdvance, queue_pushAll_ne _ _ hq]
  · rw [ag_agAdvance_ne _ _ _ hk, ag_pushAll]
  · rw [agAdvance_frame, pushAll_frame]

/-- A beat taken from a port and stored changes its queue and the Seedbed. -/
theorem storeLine_frame (s : State) (r : AgRun) (o : Nat) (tok : Token) :
    (s.retireHead r.portQ).storeLine r o tok =
      { s with seedbed := s.seedbed.write 8 (r.at o) (leBytes 64 (storedPayload r.d.fmt tok.payload).toNat)
               field := { s.field with queues := (s.retireHead r.portQ).field.queues } } := by
  rw [State.storeLine, retireHead_frame]

theorem queue_storeLine (s : State) (r : AgRun) (o : Nat) (tok : Token) (q : QId) : (s.storeLine r o tok).queue q = s.queue q :=
  queue_congr (by rw [State.storeLine]) q

/-- What a write access leaves behind when its beat is stored: `u` is the state then, and `m` its Seedbed. -/
theorem write_effect {u : State} {m : Mem} {qs : KMap Queue} {st : AgSt}
    (hu : u = { s with seedbed := m, field := { s.field with queues := qs } }) (hnear : r.b.far = false) (ht : st.t = r.st.t)
    (hsi : st.si = r.st.si) (hfar : st.far = r.st.far) :
    let t := u.agAdvance r st
    (∀ k, k ≠ r.key → t.ag k = s.ag k) ∧
      (t.ag r.key).t = (r.nextWalk r.st).t ∧ (t.ag r.key).si = (r.nextWalk r.st).si ∧ (t.ag r.key).far = r.st.far ∧
      (t.ag r.key).ended = r.finished (r.nextWalk r.st) ∧
      (t.seedbed = m ∧ t.topsoil = s.topsoil ∧ t.subsoil = s.subsoil) ∧
      t = { s with seedbed := t.seedbed,
                   field := { s.field with queues := t.field.queues, ags := t.field.ags, rings := t.field.rings } } := by
  have hframe : u.agAdvance r st = { s with seedbed := m, field := { s.field with
      queues := (u.agAdvance r st).field.queues, ags := (u.agAdvance r st).field.ags
      rings := (u.agAdvance r st).field.rings } } := by
    rw [agAdvance_frame, hu]
  obtain ⟨hplace, hindex⟩ := nextWalk_place (r := r) ht hsi
  have hlast : (r.nextWalk st).far = (r.nextWalk r.st).far := by rw [nextWalk_far, nextWalk_far, hfar]
  have hwalk := ag_agAdvance_self (r := r) u (by simp [hnear]) st
  refine ⟨fun k hk => ?_, ?_, ?_, ?_, ?_, ⟨?_, ?_, ?_⟩, ?_⟩
  · rw [ag_agAdvance_ne _ _ _ hk, hu]
    rfl
  · rw [hwalk]; exact hplace
  · rw [hwalk]; exact hindex
  · rw [hwalk]; exact (nextWalk_far r st).trans hfar
  · rw [hwalk]; exact finished_congr hplace hlast
  · rw [hframe]
  · rw [hframe]
  · rw [hframe]
  · rw [hframe]

/-- A write to the Seedbed leaves every other byte as it was. -/
theorem sameMemoryBut_of_seedbed_write {t : State} {a : Nat} {bs : List Byte} (hseed : t.seedbed = s.seedbed.write 8 a bs)
    (htop : t.topsoil = s.topsoil) (hsub : t.subsoil = s.subsoil) :
    SameMemoryBut (fun tier x => tier = 0 ∧ a ≤ x ∧ x < a + bs.length) s t := by
  refine fun x => ⟨fun hx => ?_, fun _ => by rw [htop], fun _ => by rw [hsub]⟩
  rw [hseed]
  exact Mem.byte_write_out _ (by decide) _ _ _ (by omega)

end Effects

/-- Settles O56: each command is the walk's own operation on the generator that runs (`exec_agAccess_of_agRun` and the like),
and each clause is one case of that operation with what it leaves behind. -/
theorem addressGenerators : Obligations.AddressGenerators := by
  unfold Obligations.AddressGenerators
  intro s plot unit ag
  refine ⟨fun hnone => ?_, fun r hr => ?_⟩
  · obtain ⟨hfar, hacc, htree⟩ := exec_of_agRun_none hnone
    exact ⟨fun remote code feed => hfar ⟨remote, code, feed⟩, hacc, htree⟩
  intro here ags next closed own n a moves
  have hfetch {t : State} {remote : List Byte} {code feed : CodeResult} (h : s.farTile r remote code feed = t) :
      exec (.farTileFetch plot unit ag ⟨remote, code, feed⟩) s = .next t :=
    (exec_farTileFetch_of_agRun hr _).trans (congrArg _ h)
  have haccess {t : State} {marks : BitVec 4} {code : CodeResult} (h : s.agAccess r marks code = t) :
      exec (.agAccess plot unit ag marks code) s = .next t := (exec_agAccess_of_agRun hr).trans (congrArg _ h)
  have htree {t : State} {code : CodeResult} (h : (if r.d.kind = 3 then s.treeMask r code else s) = t) :
      exec (.treeMaskRow plot unit ⟨ag, code⟩) s = .next t := (exec_treeMaskRow_of_agRun hr).trans (congrArg _ h)
  refine ⟨?stays, ?notDue, ?waits, ?fetches, ?drains, ?notReady, ?accesses, ?notTree, ?absent, ?sends⟩
  case stays => exact fun h _ _ _ => hfetch (farTile_stays h)
  case notDue => exact fun hfar hkind hpend hdue _ _ _ => hfetch (farTile_not_due hfar hkind hpend (not_mayMove hdue))
  case waits =>
    intro hfar hkind hpend hread hn hnext s₁ hheld _ _ _
    exact hfetch (farTile_waits hfar hkind hpend hread (mayMove_of_read hread hn hnext) hheld)
  case fetches =>
    rintro o hloc ⟨hfar, hkind, hread, hpend, hwait, hheld, hlist, hacc, hrange, hscale, hpos, hpaged⟩ hn hnext hsound hslot
    have hpage : s.pageRead r n = s := pageRead_of_sound fun hk => (hpaged hk).2
    have hlen : s.lengthRead r n = (s, r) := lengthRead_of_known fun hk => (hpaged hk).1
    have hmove := farTile_moves (remote := []) (code := .clean) (feed := .clean) hfar hkind hpend (mayMove_of_read hread hn hnext)
      (by rw [hread]; rfl) hlen hwait hheld
    exact ⟨_, hfetch (hmove.trans (tileMove_of_read hread hpage hscale hpend
      (tileIn_of_top hloc hpos hlist hacc hrange hsound hslot) hrange)), fetched_effect n _ hrange⟩
  case drains =>
    rintro o hloc ⟨hfar, hkind, hwrite, hpend, hwait, hheld, hlist, hacc, hrange, hscale, -, -⟩ hplain hn hward htop hseed - ha
      hslot l ds
    obtain ⟨es, hes, hout⟩ :=
      tileOut_of_top (n := r.tileBytes) l [] hloc ha (Nat.mul_mod_right ..) hrange hlist hacc htop hseed hslot
    have hmove := farTile_moves (remote := []) (code := .clean) (feed := .clean) hfar hkind hpend (mayMove_of_write hwrite hn)
      ((congrArg (r.b.write && ·) hward).trans (Bool.and_false _)) (lengthRead_of_kind_ne hplain n) hwait hheld
    have heffect := drained_effect (n := n) htop hpend hout
    simp only [hes] at heffect
    exact ⟨_, hfetch (hmove.trans (tileMove_of_write hwrite hscale)), heffect⟩
  case notReady => exact fun h _ _ => haccess (agAccess_of_not_ready h)
  case accesses =>
    intro hkind hleft hready o dist so valid
    refine ⟨?_, fun marks hwrite hbeat => haccess (agAccess_write_waits hkind hleft hready hwrite hbeat), ?_⟩
    · intro marks hread hsound x
      exact ⟨fun hcredit => haccess (agAccess_read_waits hkind hleft hready hread hsound hcredit), fun hcredit =>
        ⟨_, haccess (agAccess_read_sends hkind hleft hready hread hsound hcredit), read_effect hread ..⟩⟩
    · intro marks tok s1 hwrite hnear hbeats htake hmx hfull hloc
      obtain ⟨st, ht, hsi, hfar, hstores⟩ := agAccess_write_stores hkind hleft hready hwrite hnear hbeats htake hmx hfull hloc
      obtain ⟨hags, hplace, hindex, htiles, hended, ⟨hseed, htop, hsub⟩, hframe⟩ :=
        write_effect (storeLine_frame s r o tok) hnear ht hsi hfar
      have hmem := sameMemoryBut_of_seedbed_write hseed htop hsub
      rw [length_leBytes] at hmem
      have hqueue (q : QId) := (queue_agAdvance _ r st q).trans (queue_storeLine (s.retireHead r.portQ) r o tok q)
      exact ⟨_, haccess hstores, hseed, hqueue _, fun q hq => (hqueue q).trans (queue_retireHead_ne s hq), hmem,
        hags, hplace, hindex, htiles, hended, hframe⟩
  case notTree => exact fun hkind _ => htree (if_neg hkind)
  case absent => exact fun hkind hleft habsent _ => htree ((if_pos hkind).trans (treeMask_of_absent hleft habsent))
  case sends =>
    intro hkind hleft hactive pOff lOff dOff parents n len depths ts now after sent hnodes
    have hdepths : depths = s.rowDepths r := (rowDepths_eq s r).symm
    have hts : ts = s.nodeLeft r := by
      show (nodeTokens (decide (len < n)) (ancestors parents depths n) len n r.st.si).drop r.st.sub = _
      rw [hdepths]
      rfl
    have hnow : now = s.nodeNow r := by
      show ts.take (s.credits r.portQ) = _
      rw [hts]
      rfl
    have hafter : after = s.afterNode r := by
      show (if now.length < ts.length then { r.st with sub := r.st.sub + now.length } else _) = _
      rw [hts, hnow]
      rfl
    have hfaults : (if len < n then 1 else ((List.range n).filter fun i => depths.getD i 0 == 0).length) = s.rowFaults r := by
      rw [hdepths]
      exact (rowFaults_eq s r).symm
    have hbytes : ((List.range 256).flatMap fun i => leBytes 4 (if i < n then depths.getD i 0 else 0)) = s.depthBytes r := by
      rw [hdepths]
      rfl
    have hsent {b : State} {m : Mem} {c : SchedSt} (hb : b = { s with seedbed := m, sched := c }) :
        let t := (b.pushAll r.portQ (s.nodeNow r)).setAg r.key (s.afterNode r)
        sent t ∧ t.seedbed = m ∧ t.sched = c := by
      rw [← hnow, ← hafter]
      exact sent_effect hb now after
    rw [hnow, hts, hbytes, hfaults]
    refine ⟨fun hcredit hmore code => ?_, fun hgo hbegun code => ?_, fun hgo hsi hsub hdepth hparent hlen hsound => ?_⟩
    · exact htree ((if_pos hkind).trans (treeMask_of_no_credit hleft hactive hnodes hcredit hmore))
    · exact ⟨_, htree ((if_pos hkind).trans (treeMask_of_begun hleft hactive hnodes hgo hbegun)), hsent rfl⟩
    · exact ⟨_, htree ((if_pos hkind).trans (treeMask_of_fresh hleft hactive hnodes hgo hsi hsub)),
        hsent (rowBegin_of_sound hdepth hparent hlen hsound)⟩

end Sys2Proof.Machine
end

section
/-!
PROOFS. Tokens that move between queues of the Field (R156, R161): what a write, a read and a used control value do to their
own queue, and that they leave everything but the queues alone.
-/
namespace Sys2Proof.Machine

/-! ### Single queues and elements -/

section Queues

variable (s : State)

@[simp] theorem queue_push_self (q : QId) (t : Token) :
    (s.push q t).queue q = { s.queue q with toks := (s.queue q).toks ++ [t], out := (s.queue q).out + 1 } :=
  queue_setQueue_self s q _

theorem queue_push_ne {p q : QId} (t : Token) (h : p ≠ q) : (s.push q t).queue p = s.queue p := queue_setQueue_ne s _ h

@[simp] theorem toks_popN_self (q : QId) (n : Nat) : ((s.popN q n).queue q).toks = (s.queue q).toks.drop n := by
  rw [State.popN]; split <;> rw [queue_setQueue_self]

@[simp] theorem used_popN_self (q : QId) (n : Nat) : ((s.popN q n).queue q).used = (s.queue q).used := by
  rw [State.popN]; split <;> rw [queue_setQueue_self]

@[simp] theorem elem_setElem_self (k : Nat) (v : ElemSt) : (s.setElem k v).elem k = v := KMap.get_set_self _ _ _ _

theorem elem_setElem_ne {j k : Nat} (v : ElemSt) (h : j ≠ k) : (s.setElem k v).elem j = s.elem j := KMap.get_set_ne _ _ _ h

theorem elem_congr {s t : State} (h : t.field.elems = s.field.elems) (k : Nat) : t.elem k = s.elem k := by
  rw [State.elem, h]; rfl

theorem canPush_of_credits {s : State} {q : QId} (h : 0 < s.credits q) : s.canPush q = true := decide_eq_true h

theorem not_canPush_of_credits {s : State} {q : QId} (h : s.credits q = 0) : ¬ s.canPush q = true := by
  simp [State.canPush, h]

/-- A queue whose head has values is not empty: the bubble, which stands for the head of an empty queue, has none. -/
theorem exists_head_of_vcount_ne {l : List Token} (h : (l.headD .bubble).vcount ≠ 0) : ∃ t ts, l = t :: ts ∧ t.vcount ≠ 0 := by
  cases l with
  | nil => exact absurd (by decide) h
  | cons t ts => exact ⟨t, ts, rfl, h⟩

end Queues

/-! ### One token from queue to queue, and one control value used -/

/-- One token moves from queue `i` to queue `o`. -/
def Moved (s t : State) (i o : QId) (tok : Token) : Prop :=
  (t.queue i).toks = (s.queue i).toks.drop 1 ∧
    t.queue o = { s.queue o with toks := (s.queue o).toks ++ [tok], out := (s.queue o).out + 1 }

/-- One value of the control queue `q` has been used. -/
def ControlUsed (s t : State) (q : QId) : Prop :=
  ((s.queue q).used + 1 < ((s.queue q).toks.headD .bubble).vcount →
      t.queue q = { s.queue q with used := (s.queue q).used + 1 }) ∧
    (((s.queue q).toks.headD .bubble).vcount ≤ (s.queue q).used + 1 →
      (t.queue q).toks = (s.queue q).toks.drop 1 ∧ (t.queue q).used = 0)

section Moves

variable {s t u : State} {i o q : QId} {tok : Token}

theorem moved_pop_push (s : State) (tok : Token) (h : o ≠ i) : Moved s ((s.popN i 1).push o tok) i o tok := by
  refine ⟨?_, ?_⟩
  · rw [queue_push_ne _ _ h.symm, toks_popN_self]
  · rw [queue_push_self, queue_popN_ne _ _ h]

theorem queue_pop_push_ne (s : State) {x : QId} (tok : Token) (hi : x ≠ i) (ho : x ≠ o) :
    ((s.popN i 1).push o tok).queue x = s.queue x := by
  rw [queue_push_ne _ _ ho, queue_popN_ne _ _ hi]

/-- A move is seen alike from every state and in every state with the same two queues. -/
theorem Moved.congr {s' t' : State} (h : Moved s t i o tok) (hsi : s'.queue i = s.queue i) (hso : s'.queue o = s.queue o)
    (hti : t'.queue i = t.queue i) (hto : t'.queue o = t.queue o) : Moved s' t' i o tok := by
  rw [Moved, hsi, hso, hti, hto]; exact h

theorem queue_ctlUse_ne {p : QId} (s : State) (h : p ≠ q) : (s.ctlUse q).queue p = s.queue p := by
  unfold State.ctlUse
  dsimp only
  split
  · rfl
  · split
    · rw [queue_popN_ne _ _ h, queue_setQueue_ne _ _ h]
    · exact queue_setQueue_ne _ _ h

/-- Using the head's next value retires the head with its last one. -/
theorem controlUsed_ctlUse (hq : u.queue q = s.queue q) (h : ((s.queue q).toks.headD .bubble).vcount ≠ 0) :
    ControlUsed s (u.ctlUse q) q := by
  obtain ⟨t, ts, hl, -⟩ := exists_head_of_vcount_ne h
  rw [ControlUsed, State.ctlUse, hq, hl]
  dsimp only [List.headD_cons]
  refine ⟨fun hmore => ?_, fun hlast => ?_⟩
  · rw [if_neg (by omega), queue_setQueue_self, ← hl]
  · rw [if_pos hlast, toks_popN_self, used_popN_self, queue_setQueue_self]
    exact ⟨rfl, rfl⟩

theorem ControlUsed.congr (h : ControlUsed s u q) (ht : t.queue q = u.queue q) : ControlUsed s t q := by
  rw [ControlUsed, ht]; exact h

theorem ctlValue_of_vcount_ne (h : ((s.queue q).toks.headD .bubble).vcount ≠ 0) :
    s.ctlValue q = some (payBits ((s.queue q).toks.headD .bubble).payload (8 * (s.queue q).used) 8) := by
  obtain ⟨t, ts, hl, -⟩ := exists_head_of_vcount_ne h
  rw [State.ctlValue, hl]; rfl

/-- A control token with values stays at the head (R156). -/
theorem retireEmpty_of_vcount_ne (h : ((s.queue q).toks.headD .bubble).vcount ≠ 0) : s.retireEmpty q = s := by
  obtain ⟨t, ts, hl, ht⟩ := exists_head_of_vcount_ne h
  simp [State.retireEmpty, hl, ht]

end Moves

/-! ### What moves of tokens leave alone -/

/-- Every queue but those listed stays, and everything but the queues. -/
def SameButQueues (l : List QId) (s t : State) : Prop :=
  (∀ x, x ∉ l → t.queue x = s.queue x) ∧ t = { s with field := { s.field with queues := t.field.queues } }

namespace SameButQueues

variable {l : List QId} {s t : State} {q : QId}

theorem refl (l : List QId) (s : State) : SameButQueues l s s := ⟨fun _ _ => rfl, rfl⟩

theorem trans {u : State} (h : SameButQueues l s t) (k : SameButQueues l t u) : SameButQueues l s u :=
  ⟨fun x hx => (k.1 x hx).trans (h.1 x hx), by rw [k.2, h.2]⟩

theorem setQueue (s : State) (v : Queue) (hq : q ∈ l) : SameButQueues l s (s.setQueue q v) :=
  ⟨fun _ hx => queue_setQueue_ne s v (ne_of_mem_of_not_mem hq hx).symm, rfl⟩

theorem push (s : State) (tok : Token) (hq : q ∈ l) : SameButQueues l s (s.push q tok) := setQueue s _ hq

theorem popN (s : State) (n : Nat) (hq : q ∈ l) : SameButQueues l s (s.popN q n) :=
  ⟨fun _ hx => queue_popN_ne s n (ne_of_mem_of_not_mem hq hx).symm, popN_frame s q n⟩

theorem pop_push (s : State) {i o : QId} (tok : Token) (hi : i ∈ l) (ho : o ∈ l) :
    SameButQueues l s ((s.popN i 1).push o tok) := (popN s 1 hi).trans (push _ tok ho)

theorem ctlUse (s : State) (hq : q ∈ l) : SameButQueues l s (s.ctlUse q) := by
  unfold State.ctlUse
  dsimp only
  split
  · exact refl l s
  · split
    · exact (setQueue s _ hq).trans (popN _ 1 hq)
    · exact setQueue s _ hq

/-- Operations that each touch listed queues alone do so one after another. -/
theorem each {α : Type} {f : State → α → State} {xs : List α} (hf : ∀ s, ∀ x ∈ xs, SameButQueues l s (f s x)) (s : State) :
    SameButQueues l s (s.each xs f) := by
  induction xs generalizing s with
  | nil => exact refl l s
  | cons x xs ih =>
    exact (hf s x List.mem_cons_self).trans (ih (fun s y hy => hf s y (List.mem_cons_of_mem _ hy)) _)

theorem sched_eq (h : SameButQueues l s t) : t.sched = s.sched := by rw [h.2]

theorem elems_eq (h : SameButQueues l s t) : t.field.elems = s.field.elems := by rw [h.2]

theorem elem_eq (h : SameButQueues l s t) (k : Nat) : t.elem k = s.elem k := elem_congr h.elems_eq k

end SameButQueues

end Sys2Proof.Machine
end

section
/-!
PROOFS. Steering elements (R169, R172 to R179): what each operation does when it fires and when it waits, and the statement about
them.
-/
namespace Sys2Proof.Machine

/-! ### Steering faults, and what an element leaves alone -/

section Faults

variable {s t : State}

@[simp] theorem field_steerFault (s : State) (plot n : Nat) : (s.steerFault plot n).field = s.field := by
  unfold State.steerFault
  split
  · rfl
  · split <;> rfl

@[simp] theorem queue_steerFault (s : State) (plot n : Nat) (q : QId) : (s.steerFault plot n).queue q = s.queue q :=
  queue_congr (field_steerFault s plot n) q

@[simp] theorem elem_steerFault (s : State) (plot n k : Nat) : (s.steerFault plot n).elem k = s.elem k :=
  elem_congr (by rw [field_steerFault]) k

theorem steerFault_frame (s : State) (plot n : Nat) : s.steerFault plot n = { s with sched := (s.steerFault plot n).sched } := by
  unfold State.steerFault
  split
  · rfl
  · split <;> rfl

/-- The fault count depends on the Passes in flight alone. -/
theorem sched_steerFault_congr (h : t.sched = s.sched) (plot n : Nat) :
    (t.steerFault plot n).sched = (s.steerFault plot n).sched := by
  have hpass : t.passAt plot = s.passAt plot := by rw [State.passAt, h]; rfl
  unfold State.steerFault
  rw [hpass]
  split
  · exact h
  · split
    · exact h
    · rw [State.countPass, State.countPass, h]

theorem sched_steerFault_of_none {plot : Nat} (h : s.passAt plot = none) (n : Nat) : (s.steerFault plot n).sched = s.sched := by
  rw [State.steerFault, h]

/-- With no fault the count stays; it may be read as 0 more. -/
theorem sched_steerFault_of_some {plot : Nat} {p : PassSt} (h : s.passAt plot = some p) (n : Nat) :
    (s.steerFault plot n).sched = { s.sched with inflight := s.sched.inflight.map fun x =>
      if x.pseq = p.pseq then { x with cnt := { x.cnt with steerF := x.cnt.steerF + n } } else x } := by
  rw [State.steerFault, h]
  dsimp only
  split
  · next h0 => simp [h0]
  · rfl

/-- Every queue but those listed stays, and so does everything but the elements and what the scheduler counts. -/
def SameButSteering (l : List QId) (s t : State) : Prop :=
  (∀ x, x ∉ l → t.queue x = s.queue x) ∧
    t = { s with sched := t.sched, field := { s.field with queues := t.field.queues, elems := t.field.elems } }

namespace SameButSteering

variable {l : List QId}

theorem of_queues (h : SameButQueues l s t) : SameButSteering l s t :=
  ⟨h.1, by obtain ⟨-, ht⟩ := h; rw [ht]⟩

theorem setElem (h : SameButSteering l s t) (k : Nat) (v : ElemSt) : SameButSteering l s (t.setElem k v) := by
  obtain ⟨hq, ht⟩ := h
  exact ⟨hq, by rw [ht]; rfl⟩

theorem steerFault (h : SameButSteering l s t) (plot n : Nat) : SameButSteering l s (t.steerFault plot n) := by
  obtain ⟨hq, ht⟩ := h
  exact ⟨fun x hx => (queue_steerFault t plot n x).trans (hq x hx), by rw [steerFault_frame, ht]⟩

end SameButSteering

end Faults

/-! ### Firing -/

section Firing

variable {s t : State} {plot : BitVec 9} {unit : Bool} {el : BitVec 3} {op : Nat} {fire : ElemCfg → State} {i : Instr}

/-- A command of the element's own kind fires it, and what it leaves is what the firing leaves. -/
theorem exec_of_op (hi : exec i s = .next (s.elemFire plot unit el op fire)) (hruns : s.fieldRuns = true)
    (hop : (s.elemCfg plot unit el).op = op) (ht : fire (s.elemCfg plot unit el) = t) : exec i s = .next t := by
  rw [hi, State.elemFire, hruns, hop, ← ht]; simp

theorem exec_of_op_ne (hi : exec i s = .next (s.elemFire plot unit el op fire)) (hop : (s.elemCfg plot unit el).op ≠ op) :
    exec i s = .next s := by
  rw [hi]; simp [State.elemFire, hop]

end Firing

/-! ### FORK (R172) -/

section Fork

variable {s : State} {c : ElemCfg} {tok : Token}

theorem fork_fires (htok : s.headTok (c.inQ 0) = some tok) (hcredit : ∀ q ∈ c.outs, 0 < s.credits q) :
    s.fork c = (s.popN (c.inQ 0) 1).each c.outs fun s q => s.push q tok := by
  rw [State.fork, htok]
  exact if_pos (List.all_eq_true.mpr fun q hq => canPush_of_credits (hcredit q hq))

theorem fork_waits (h : s.headTok (c.inQ 0) = none ∨ ∃ q ∈ c.outs, s.credits q = 0) : s.fork c = s := by
  unfold State.fork
  split
  · rfl
  · next t htok =>
    obtain hnone | ⟨q, hq, hcredit⟩ := h
    · exact absurd (htok.symm.trans hnone) (by simp)
    · exact if_neg fun hall => not_canPush_of_credits hcredit (List.all_eq_true.mp hall q hq)

/-- A queue outside a list keeps its tokens when one token is written to each queue of the list. -/
theorem queue_push_each_of_not_mem {l : List QId} (s : State) {x : QId} (tok : Token) (h : x ∉ l) :
    (s.each l fun s q => s.push q tok).queue x = s.queue x :=
  (SameButQueues.each (fun s _ hq => SameButQueues.push s tok hq) s).1 x h

/-- Each of several queues takes one copy of a token that is written to all of them. -/
theorem queue_push_each_of_mem {l : List QId} (s : State) {q : QId} (tok : Token) (hl : l.Nodup) (hq : q ∈ l) :
    (s.each l fun s q => s.push q tok).queue q =
      { s.queue q with toks := (s.queue q).toks ++ [tok], out := (s.queue q).out + 1 } := by
  induction l generalizing s with
  | nil => exact absurd hq List.not_mem_nil
  | cons p l ih =>
    obtain ⟨hp, hl⟩ := List.nodup_cons.mp hl
    show ((s.push p tok).each l fun s q => s.push q tok).queue q = _
    obtain rfl | hq := List.mem_cons.mp hq
    · rw [queue_push_each_of_not_mem _ tok hp, queue_push_self]
    · rw [ih _ hl hq, queue_push_ne _ _ (ne_of_mem_of_not_mem hq hp)]

/-- What a FORK that fires leaves behind. -/
theorem fork_effect (s : State) (tok : Token) {i : QId} {l : List QId} (hdistinct : (i :: l).Nodup) :
    let t := (s.popN i 1).each l fun s q => s.push q tok
    (∀ q ∈ l, Moved s t i q tok) ∧ (t.queue i).toks = (s.queue i).toks.drop 1 ∧ SameButQueues (i :: l) s t := by
  obtain ⟨hi, hl⟩ := List.nodup_cons.mp hdistinct
  have hhead : (((s.popN i 1).each l fun s q => s.push q tok).queue i).toks = (s.queue i).toks.drop 1 := by
    rw [queue_push_each_of_not_mem _ tok hi, toks_popN_self]
  refine ⟨fun q hq => ⟨hhead, ?_⟩, hhead, ?_⟩
  · rw [queue_push_each_of_mem _ tok hl hq, queue_popN_ne _ _ (ne_of_mem_of_not_mem hq hi)]
  · exact (SameButQueues.popN s 1 List.mem_cons_self).trans
      (.each (fun s _ hq => .push s tok (List.mem_cons_of_mem _ hq)) _)

end Fork

/-! ### JOIN (R173, R174) -/

section Join

variable {s : State} {c : ElemCfg} {tok : Token} {ts : List (Nat × Token)}

/-- The inputs of a JOIN that take part when input 0 gives a token. -/
def ElemCfg.joined (c : ElemCfg) (tok : Token) : List Nat := (List.range c.nio).filter (joins c.once tok.marks.rowS)

/-- The moves of a JOIN's tokens, each from its input to the output of its number. -/
def State.joinMoves (s : State) (c : ElemCfg) (ts : List (Nat × Token)) : State :=
  s.each ts fun s t => (s.popN (c.inQ t.1) 1).push (c.outQ t.1) t.2

/-- An element's state when a JOIN has fired on a token of input 0. -/
def ElemSt.afterJoin (e : ElemSt) (c : ElemCfg) (tok : Token) : ElemSt :=
  let rowOpen := (tok.marks.rowS || e.rowOpen) && !tok.marks.rowE
  { e with rowOpen := rowOpen, once := rowOpen && decide (c.once ≠ 0) }

theorem joinMoves_cons (s : State) (c : ElemCfg) (x : Nat × Token) (ts : List (Nat × Token)) :
    s.joinMoves c (x :: ts) = ((s.popN (c.inQ x.1) 1).push (c.outQ x.1) x.2).joinMoves c ts := rfl

theorem join_fires (htok : s.headTok (c.inQ 0) = some tok) (hts : s.joinTokens c (c.joined tok) = some ts)
    (hcredit : ∀ j ∈ c.joined tok, 0 < s.credits (c.outQ j)) :
    s.join4 c = ((s.joinMoves c ts).setElem c.key (((s.joinMoves c ts).elem c.key).afterJoin c tok)).steerFault c.plot
      (bit (!marksAgree c.once ts)) := by
  have hall : ((c.joined tok).all fun j => s.canPush (c.outQ j)) = true :=
    List.all_eq_true.mpr fun j hj => canPush_of_credits (hcredit j hj)
  rw [ElemCfg.joined] at hall hts
  unfold State.join4
  rw [htok]
  dsimp only
  rw [hts]
  exact if_pos hall

theorem joinTokens_cons_eq_some {j : Nat} {js : List Nat} :
    s.joinTokens c (j :: js) = some ts ↔ ∃ t l, s.headTok (c.inQ j) = some t ∧ s.joinTokens c js = some l ∧ ts = (j, t) :: l := by
  simp only [State.joinTokens, List.mapM_cons, Option.bind_eq_bind, Option.bind_eq_some_iff, Option.map_eq_some_iff,
    Option.pure_def, Option.some.injEq]
  constructor
  · rintro ⟨_, ⟨t, ht, rfl⟩, l, hl, rfl⟩
    exact ⟨t, l, ht, hl, rfl⟩
  · rintro ⟨t, l, ht, hl, rfl⟩
    exact ⟨_, ⟨t, ht, rfl⟩, l, hl, rfl⟩

theorem map_fst_of_joinTokens {js : List Nat} (h : s.joinTokens c js = some ts) : ts.map Prod.fst = js := by
  induction js generalizing ts with
  | nil => cases h; rfl
  | cons j js ih =>
    obtain ⟨t, l, -, hl, rfl⟩ := joinTokens_cons_eq_some.mp h
    rw [List.map_cons, ih hl]

/-- No input's token is missing once all have been found. -/
theorem headTok_ne_none_of_joinTokens {js : List Nat} (h : s.joinTokens c js = some ts) {j : Nat} (hj : j ∈ js) :
    s.headTok (c.inQ j) ≠ none := by
  induction js generalizing ts with
  | nil => exact absurd hj List.not_mem_nil
  | cons k js ih =>
    obtain ⟨t, l, ht, hl, -⟩ := joinTokens_cons_eq_some.mp h
    obtain rfl | hj := List.mem_cons.mp hj
    · rw [ht]; exact Option.some_ne_none t
    · exact ih hl hj

theorem join_waits (htok : s.headTok (c.inQ 0) = some tok)
    (h : ∃ j ∈ c.joined tok, s.headTok (c.inQ j) = none ∨ s.credits (c.outQ j) = 0) : s.join4 c = s := by
  obtain ⟨j, hj, hmissing⟩ := h
  unfold State.join4
  rw [htok]
  dsimp only
  split
  · rfl
  · next ts hts =>
    refine if_neg fun hall => ?_
    obtain hnone | hcredit := hmissing
    · exact headTok_ne_none_of_joinTokens hts hj hnone
    · exact not_canPush_of_credits hcredit (List.all_eq_true.mp hall j hj)

theorem joinMoves_frame (s : State) (c : ElemCfg) (ts : List (Nat × Token)) :
    SameButQueues ((ts.map Prod.fst).map c.inQ ++ (ts.map Prod.fst).map c.outQ) s (s.joinMoves c ts) := by
  refine .each (fun s x hx => .pop_push s x.2 ?_ ?_) s
  · exact List.mem_append_left _ (List.mem_map_of_mem (List.mem_map_of_mem hx))
  · exact List.mem_append_right _ (List.mem_map_of_mem (List.mem_map_of_mem hx))

/-- Between distinct queues every token of a JOIN moves: the moves before and after it leave its two queues alone. -/
theorem moved_joinMoves (s : State) (hdistinct : ((ts.map Prod.fst).map c.inQ ++ (ts.map Prod.fst).map c.outQ).Nodup)
    {x : Nat × Token} (hx : x ∈ ts) : Moved s (s.joinMoves c ts) (c.inQ x.1) (c.outQ x.1) x.2 := by
  induction ts generalizing s with
  | nil => exact absurd hx List.not_mem_nil
  | cons y ts ih =>
    obtain ⟨hins, houts, hdisjoint⟩ := List.nodup_append.mp hdistinct
    simp only [List.map_cons, List.nodup_cons] at hins houts
    have hin {j : Nat} (hj : j ∈ (y :: ts).map Prod.fst) := List.mem_map_of_mem (f := c.inQ) hj
    have hout {j : Nat} (hj : j ∈ (y :: ts).map Prod.fst) := List.mem_map_of_mem (f := c.outQ) hj
    have hy : y.1 ∈ (y :: ts).map Prod.fst := List.mem_cons_self
    rw [joinMoves_cons]
    obtain rfl | hx := List.mem_cons.mp hx
    · have hfirst := moved_pop_push s x.2 (hdisjoint _ (hin hy) _ (hout hy)).symm
      refine hfirst.congr rfl rfl ((joinMoves_frame _ c ts).1 _ ?_) ((joinMoves_frame _ c ts).1 _ ?_)
      · refine fun hmem => (List.mem_append.mp hmem).elim hins.1 fun hmem => ?_
        exact hdisjoint _ (hin hy) _ (List.mem_cons_of_mem _ hmem) rfl
      · refine fun hmem => (List.mem_append.mp hmem).elim (fun hmem => ?_) houts.1
        exact hdisjoint _ (List.mem_cons_of_mem _ hmem) _ (hout hy) rfl
    · have hx' : x.1 ∈ ts.map Prod.fst := List.mem_map_of_mem hx
      have hrest : ((ts.map Prod.fst).map c.inQ ++ (ts.map Prod.fst).map c.outQ).Nodup :=
        List.nodup_append.mpr ⟨hins.2, houts.2, fun a ha b hb =>
          hdisjoint a (List.mem_cons_of_mem _ ha) b (List.mem_cons_of_mem _ hb)⟩
      refine (ih _ hrest hx).congr (queue_pop_push_ne s y.2 ?_ ?_).symm (queue_pop_push_ne s y.2 ?_ ?_).symm rfl rfl
      · exact ne_of_mem_of_not_mem (List.mem_map_of_mem hx') hins.1
      · exact hdisjoint _ (hin (List.mem_cons_of_mem _ hx')) _ (hout hy)
      · exact (hdisjoint _ (hin hy) _ (hout (List.mem_cons_of_mem _ hx'))).symm
      · exact ne_of_mem_of_not_mem (List.mem_map_of_mem hx') houts.1

/-- What a JOIN that fires leaves behind. -/
theorem join_effect (s : State) (v : ElemSt) (n : Nat)
    (hdistinct : ((ts.map Prod.fst).map c.inQ ++ (ts.map Prod.fst).map c.outQ).Nodup) :
    let t := ((s.joinMoves c ts).setElem c.key v).steerFault c.plot n
    (∀ x ∈ ts, Moved s t (c.inQ x.1) (c.outQ x.1) x.2) ∧
      SameButSteering ((ts.map Prod.fst).map c.inQ ++ (ts.map Prod.fst).map c.outQ) s t ∧
      t.sched = (s.steerFault c.plot n).sched ∧ ∀ k, k ≠ c.key → t.elem k = s.elem k := by
  have hframe := joinMoves_frame s c ts
  refine ⟨fun x hx => ?_, ((SameButSteering.of_queues hframe).setElem c.key v).steerFault c.plot n,
    sched_steerFault_congr ?_ c.plot n, fun k hk => ?_⟩
  · exact (moved_joinMoves s hdistinct hx).congr rfl rfl (queue_steerFault ..) (queue_steerFault ..)
  · exact hframe.sched_eq
  · rw [elem_steerFault, elem_setElem_ne _ _ hk, hframe.elem_eq]

end Join

/-! ### Control values as targets (R178) -/

theorem ctlTarget_of_lt {nio v : Nat} (hnio : v < nio) (hv : v < 15) : ctlTarget nio v = (some v, 0) := by
  rw [ctlTarget, if_neg (by omega), if_neg (by omega)]

theorem ctlTarget_of_le {nio v : Nat} (h : nio ≤ v ∨ 15 ≤ v) : ctlTarget nio v = (none, if v = 15 then 0 else 1) := by
  unfold ctlTarget
  split
  · rfl
  · rw [if_pos (by omega)]

/-! ### STEER (R171, R175, R178) -/

section Steer

variable {s u : State} {c : ElemCfg} {tok : Token} {v : Nat}

/-- A STEER in state `u`, when its token has gone where its next control value says. -/
def State.steered (u : State) (c : ElemCfg) (e : ElemSt) (tok : Token) (r : Option Nat × Nat) : State :=
  State.steerFault (if c.perRow then (u.ctlUse c.ctl).setElem c.key { e with rowOpen := !tok.marks.rowE, held := r.1.getD 0xF }
    else u.ctlUse c.ctl) c.plot (r.2 + bit (c.perRow && !tok.marks.rowS))

/-- A STEER that needs a control value and has one sends its token by it, or waits. -/
theorem steer_of_value (htok : s.headTok (c.inQ 0) = some tok) (hval : ((s.queue c.ctl).toks.headD .bubble).vcount ≠ 0)
    (hrow : c.perRow = true → (s.elem c.key).rowOpen = true → tok.marks.rowS = true)
    (hv : payBits ((s.queue c.ctl).toks.headD .bubble).payload (8 * (s.queue c.ctl).used) 8 = v) :
    s.steer c = (s.steerTo c tok (ctlTarget c.nio v).1).elim s
      fun u => u.steered c (s.elem c.key) tok (ctlTarget c.nio v) := by
  have hnew : ¬ (c.perRow && (s.elem c.key).rowOpen && !tok.marks.rowS) = true := by
    simpa [and_assoc] using hrow
  unfold State.steer
  dsimp only
  rw [retireEmpty_of_vcount_ne hval, htok]
  dsimp only
  rw [if_neg hnew, ctlValue_of_vcount_ne hval, hv]
  dsimp only
  split
  · next h => rw [h]; rfl
  · next h => rw [h]; rfl

theorem steerTo_none (s : State) (c : ElemCfg) (tok : Token) : s.steerTo c tok none = some (s.popN (c.inQ 0) 1) := rfl

theorem steerTo_sends {j : Nat} (h : 0 < s.credits (c.outQ j)) :
    s.steerTo c tok (some j) = some ((s.popN (c.inQ 0) 1).push (c.outQ j) tok) := if_pos (canPush_of_credits h)

theorem steerTo_waits {j : Nat} (h : s.credits (c.outQ j) = 0) : s.steerTo c tok (some j) = none :=
  if_neg (not_canPush_of_credits h)

theorem queue_steered (u : State) (c : ElemCfg) (e : ElemSt) (tok : Token) (r : Option Nat × Nat) (q : QId) :
    (u.steered c e tok r).queue q = (u.ctlUse c.ctl).queue q := by
  rw [State.steered, queue_steerFault]
  split <;> rfl

theorem queue_steered_ne {q : QId} (u : State) (e : ElemSt) (tok : Token) (r : Option Nat × Nat) (h : q ≠ c.ctl) :
    (u.steered c e tok r).queue q = u.queue q := (queue_steered ..).trans (queue_ctlUse_ne u h)

/-- What a STEER leaves behind: `u` is the state when its token has left IN0. -/
theorem steered_effect {l : List QId} (hu : SameButQueues l s u) (hl : c.ctl ∈ l) (hctl : u.queue c.ctl = s.queue c.ctl)
    (hval : ((s.queue c.ctl).toks.headD .bubble).vcount ≠ 0) (e : ElemSt) (tok : Token) (r : Option Nat × Nat) :
    let t := u.steered c e tok r
    ControlUsed s t c.ctl ∧ SameButSteering l s t ∧
      t.sched = (s.steerFault c.plot (r.2 + bit (c.perRow && !tok.marks.rowS))).sched ∧
      (c.perRow = true → (t.elem c.key).held = r.1.getD 0xF ∧ (t.elem c.key).rowOpen = !tok.marks.rowE) := by
  have hframe := hu.trans (SameButQueues.ctlUse u hl)
  have hsteer := SameButSteering.of_queues hframe
  refine ⟨(controlUsed_ctlUse hctl hval).congr (queue_steered ..), .steerFault ?_ _ _, sched_steerFault_congr ?_ _ _,
    fun hrow => ?_⟩
  · split
    · exact hsteer.setElem _ _
    · exact hsteer
  · split <;> exact hframe.sched_eq
  · rw [State.steered, if_pos hrow, elem_steerFault, elem_setElem_self]
    exact ⟨rfl, rfl⟩

end Steer

/-! ### MERGE (R176) -/

section Merge

variable {s : State} {c : ElemCfg} {tok : Token}

/-- An element's state when a MERGE has taken a token. -/
def ElemSt.afterMerge (e : ElemSt) (c : ElemCfg) (tok : Token) : ElemSt :=
  { e with next := if !c.perRow || tok.marks.rowE then (e.next + 1) % c.nio else e.next, rowOpen := c.perRow && !tok.marks.rowE }

theorem merge_fires (htok : s.headTok (c.inQ (s.elem c.key).next) = some tok) (hcredit : 0 < s.credits (c.outQ 0)) :
    s.mergeFire c = ((s.popN (c.inQ (s.elem c.key).next) 1).push (c.outQ 0) tok).setElem c.key
      ((s.elem c.key).afterMerge c tok) := by
  unfold State.mergeFire
  dsimp only
  rw [htok]
  exact if_pos (canPush_of_credits hcredit)

theorem merge_waits (h : s.headTok (c.inQ (s.elem c.key).next) = none ∨ s.credits (c.outQ 0) = 0) : s.mergeFire c = s := by
  unfold State.mergeFire
  dsimp only
  split
  · rfl
  · next t htok =>
    obtain hnone | hcredit := h
    · exact absurd (htok.symm.trans hnone) (by simp)
    · exact if_neg (not_canPush_of_credits hcredit)

/-- The turn passes with every token, or with the last token of a row. -/
theorem next_afterMerge (e : ElemSt) (c : ElemCfg) (tok : Token) :
    (e.afterMerge c tok).next = if c.perRow && !tok.marks.rowE then e.next else (e.next + 1) % c.nio := by
  cases hp : c.perRow <;> cases he : tok.marks.rowE <;> simp [ElemSt.afterMerge, hp, he]

end Merge

/-! ### SELECT (R177, R178) -/

section Select

variable {s u : State} {c : ElemCfg} {tok : Token} {v : Nat}

/-- A SELECT in state `u`, when the token of the input `j` that its control value names has gone to OUT0. -/
def State.selected (u : State) (c : ElemCfg) (e : ElemSt) (tok : Token) (j : Nat) : State :=
  if c.perRow then (u.ctlUse c.ctl).setElem c.key { e with rowOpen := !tok.marks.rowE, held := j } else u.ctlUse c.ctl

/-- A SELECT that needs a control value and has one takes a token from the input that it names, drops the value when it names
none, or waits. -/
theorem select_of_value (hval : ((s.queue c.ctl).toks.headD .bubble).vcount ≠ 0)
    (hrow : c.perRow = true → (s.elem c.key).rowOpen = false)
    (hv : payBits ((s.queue c.ctl).toks.headD .bubble).payload (8 * (s.queue c.ctl).used) 8 = v) :
    s.select c = (ctlTarget c.nio v).1.elim ((s.ctlUse c.ctl).steerFault c.plot (ctlTarget c.nio v).2)
      fun j => (s.selectFrom c j).elim s fun r => r.1.selected c (s.elem c.key) r.2 j := by
  have hnew : ¬ (c.perRow && (s.elem c.key).rowOpen) = true := by simpa using hrow
  unfold State.select
  dsimp only
  rw [retireEmpty_of_vcount_ne hval, if_neg hnew, ctlValue_of_vcount_ne hval, hv]
  dsimp only
  split
  · next h => rw [h]; rfl
  · next h =>
    rw [h]
    dsimp only [Option.elim_some]
    split
    · next h => rw [h]; rfl
    · next h => rw [h]; rfl

theorem selectFrom_takes {j : Nat} (htok : s.headTok (c.inQ j) = some tok) (hcredit : 0 < s.credits (c.outQ 0)) :
    s.selectFrom c j = some ((s.popN (c.inQ j) 1).push (c.outQ 0) tok, tok) := by
  rw [State.selectFrom, htok]
  exact if_pos (canPush_of_credits hcredit)

theorem selectFrom_waits {j : Nat} (h : s.headTok (c.inQ j) = none) : s.selectFrom c j = none := by
  rw [State.selectFrom, h]

theorem queue_selected (u : State) (c : ElemCfg) (e : ElemSt) (tok : Token) (j : Nat) (q : QId) :
    (u.selected c e tok j).queue q = (u.ctlUse c.ctl).queue q := by
  rw [State.selected]
  split <;> rfl

theorem queue_selected_ne {q : QId} (u : State) (e : ElemSt) (tok : Token) (j : Nat) (h : q ≠ c.ctl) :
    (u.selected c e tok j).queue q = u.queue q := (queue_selected ..).trans (queue_ctlUse_ne u h)

/-- What a SELECT leaves behind: `u` is the state when its token has gone to OUT0. -/
theorem selected_effect {l : List QId} (hu : SameButQueues l s u) (hl : c.ctl ∈ l) (hctl : u.queue c.ctl = s.queue c.ctl)
    (hval : ((s.queue c.ctl).toks.headD .bubble).vcount ≠ 0) (e : ElemSt) (tok : Token) (j : Nat) :
    let t := u.selected c e tok j
    ControlUsed s t c.ctl ∧ SameButSteering l s t ∧ t.sched = s.sched := by
  have hframe := hu.trans (SameButQueues.ctlUse u hl)
  have hsteer := SameButSteering.of_queues hframe
  refine ⟨(controlUsed_ctlUse hctl hval).congr (queue_selected ..), ?_⟩
  unfold State.selected
  split
  · exact ⟨hsteer.setElem _ _, hframe.sched_eq⟩
  · exact ⟨hsteer, hframe.sched_eq⟩

end Select

/-- Settles O54: each command is its element's own operation (`exec_of_op`); it waits or fires, and what the firing leaves
behind is the moves of its tokens, the control value used and the faults counted. -/
theorem steering : Obligations.Steering := by
  unfold Obligations.Steering
  intro s plot unit el hruns c e h v moved used faulted only
  have hfork : exec (.forkFire plot unit el) s = .next (s.elemFire plot unit el 1 s.fork) := rfl
  have hjoin : exec (.joinFire plot unit el) s = .next (s.elemFire plot unit el 2 s.join4) := rfl
  have hsteer : exec (.steerFire plot unit el) s = .next (s.elemFire plot unit el 3 s.steer) := rfl
  have hmerge : exec (.mergeFire plot unit el) s = .next (s.elemFire plot unit el 4 s.mergeFire) := rfl
  have hselect : exec (.selectFire plot unit el) s = .next (s.elemFire plot unit el 5 s.select) := rfl
  have hfaulted {t : State} {n : Nat} (ht : t.sched = (s.steerFault plot.toNat n).sched) : faulted t n := by
    dsimp only [faulted]
    split
    · next hpass => exact ht.trans (sched_steerFault_of_none hpass n)
    · next p hpass => exact ht.trans (sched_steerFault_of_some hpass n)
  refine ⟨exec_of_op_ne hfork, exec_of_op_ne hjoin, exec_of_op_ne hsteer, exec_of_op_ne hmerge,
    exec_of_op_ne hselect, ?fork, ?join, ?steer, ?merge, ?select⟩
  case fork =>
    refine fun hop => ⟨fun tok htok hcredit hdistinct => ?_, fun hwait => exec_of_op hfork hruns hop (fork_waits hwait)⟩
    obtain ⟨hmoved, hhead, hframe⟩ := fork_effect s tok hdistinct
    exact ⟨_, exec_of_op hfork hruns hop (fork_fires htok hcredit), hmoved, hhead, SameButSteering.of_queues hframe,
      hframe.sched_eq, hframe.elems_eq⟩
  case join =>
    intro hop tok htok js
    refine ⟨fun ts hts hcredit hdistinct => ?_, fun hwait => exec_of_op hjoin hruns hop (join_waits htok hwait)⟩
    have hjs : ts.map Prod.fst = js := map_fst_of_joinTokens hts
    rw [← hjs] at hdistinct ⊢
    obtain ⟨hmoved, honly, hsched, helems⟩ := join_effect s (((s.joinMoves c ts).elem c.key).afterJoin c tok)
      (bit (!marksAgree c.once ts)) hdistinct
    have hbit : bit (!marksAgree c.once ts) = if marksAgree c.once ts then 0 else 1 := by cases marksAgree c.once ts <;> rfl
    exact ⟨_, exec_of_op hjoin hruns hop (join_fires htok hts hcredit), hmoved, honly, hfaulted (hbit ▸ hsched), helems⟩
  case steer =>
    intro hop tok htok hval hinctl hrow miss
    have hvalue : s.steer c = _ := steer_of_value htok hval hrow (v := v) rfl
    refine ⟨fun hnio hv hcredit hio hoctl => ?_, fun hnio hv hcredit => exec_of_op hsteer hruns hop ?_, fun hdrop => ?_⟩
    · rw [ctlTarget_of_lt hnio hv, steerTo_sends hcredit] at hvalue
      have hframe : SameButQueues [c.inQ 0, c.ctl, c.outQ v] s ((s.popN (c.inQ 0) 1).push (c.outQ v) tok) :=
        .pop_push s tok (by simp) (by simp)
      obtain ⟨hused, honly, hsched, helem⟩ := steered_effect hframe (by simp)
        (queue_pop_push_ne s tok hinctl.symm hoctl.symm) hval e tok (some v, 0)
      refine ⟨_, exec_of_op hsteer hruns hop hvalue, (moved_pop_push s tok hio).congr rfl rfl
        (queue_steered_ne _ _ _ _ hinctl) (queue_steered_ne _ _ _ _ hoctl), hused, honly, hfaulted ?_, helem⟩
      exact hsched.trans (by rw [Nat.zero_add]; rfl)
    · rw [hvalue, ctlTarget_of_lt hnio hv, steerTo_waits hcredit]
      rfl
    · rw [ctlTarget_of_le hdrop, steerTo_none] at hvalue
      obtain ⟨hused, honly, hsched, -⟩ := steered_effect (.popN s 1 (l := [c.inQ 0, c.ctl]) (q := c.inQ 0) (by simp)) (by simp)
        (queue_popN_ne s 1 hinctl.symm) hval e tok (none, if v = 15 then 0 else 1)
      refine ⟨_, exec_of_op hsteer hruns hop hvalue, ?_, hused, honly, hfaulted hsched⟩
      exact (congrArg Queue.toks (queue_steered_ne _ _ _ _ hinctl)).trans (toks_popN_self ..)
  case merge =>
    refine fun hop => ⟨fun hwait => exec_of_op hmerge hruns hop (merge_waits hwait), fun tok htok hcredit hio => ?_⟩
    have hframe : SameButQueues [c.inQ e.next, c.outQ 0] s ((s.popN (c.inQ e.next) 1).push (c.outQ 0) tok) :=
      .pop_push s tok (by simp) (by simp)
    refine ⟨_, exec_of_op hmerge hruns hop (merge_fires htok hcredit), moved_pop_push s tok hio,
      (SameButSteering.of_queues hframe).setElem _ _, hframe.sched_eq, ?_, fun k hk => ?_⟩
    · rw [elem_setElem_self]
      exact next_afterMerge e c tok
    · rw [elem_setElem_ne _ _ hk, hframe.elem_eq]
  case select =>
    intro hop hval hrow
    have hvalue : s.select c = _ := select_of_value hval hrow (v := v) rfl
    refine ⟨fun tok hnio hv htok hcredit hdistinct => ?_, fun hnio hv hnone => exec_of_op hselect hruns hop ?_, fun hdrop => ?_⟩
    · rw [ctlTarget_of_lt hnio hv, Option.elim_some, selectFrom_takes htok hcredit] at hvalue
      have hframe : SameButQueues [c.inQ v, c.outQ 0, c.ctl] s ((s.popN (c.inQ v) 1).push (c.outQ 0) tok) :=
        .pop_push s tok (by simp) (by simp)
      simp only [List.nodup_cons, List.mem_cons, List.not_mem_nil, or_false, not_or] at hdistinct
      obtain ⟨⟨hio, hinctl⟩, hoctl, -⟩ := hdistinct
      obtain ⟨hused, honly, hsched⟩ := selected_effect hframe (by simp)
        (queue_pop_push_ne s tok (Ne.symm hinctl) (Ne.symm hoctl)) hval e tok v
      exact ⟨_, exec_of_op hselect hruns hop hvalue, (moved_pop_push s tok (Ne.symm hio)).congr rfl rfl
        (queue_selected_ne _ _ _ _ hinctl) (queue_selected_ne _ _ _ _ hoctl), hused, honly, hsched⟩
    · rw [hvalue, ctlTarget_of_lt hnio hv, Option.elim_some, selectFrom_waits hnone]
      rfl
    · rw [ctlTarget_of_le hdrop, Option.elim_none] at hvalue
      have hframe := SameButQueues.ctlUse s (l := [c.ctl]) (q := c.ctl) (by simp)
      exact ⟨_, exec_of_op hselect hruns hop hvalue, (controlUsed_ctlUse rfl hval).congr (queue_steerFault ..),
        (SameButSteering.of_queues hframe).steerFault _ _, hfaulted (sched_steerFault_congr hframe.sched_eq _ _),
        (congrArg FieldSt.elems (field_steerFault ..)).trans hframe.elems_eq⟩

end Sys2Proof.Machine
end

section
/-!
PROOFS. What the loader and the rotation registers rest on: a control write that is taken, and the operations that leave both
planes, the Field, Seedbed and the registers of the rotation block as they were (R10, R198, R412, R477, R496).
-/
namespace Sys2Proof.Machine

/-! ### Control writes that are taken -/

theorem ctlWrite_of_takes {s : State} {src : Source} {off lvl : Nat} (h : Takes s src off lvl) (val : W64)
    (act : State → State) : s.ctlWrite src off lvl val act = act s := by
  obtain ⟨hlevel, hwaits, hgated⟩ := h
  rw [State.ctlWrite, if_neg (Nat.not_lt.mpr hlevel), hwaits, hgated]
  rfl

/-! ### Tiers of addresses (R9, R10) -/

section Tiers

variable {s : State} {a o : Nat}

/-- Seedbed is tier 0, on every chip. -/
theorem locate_ne_seedbed_of_tier (h : a / 2 ^ 42 % 4 ≠ 0) (o : Nat) : s.locate a ≠ .seedbed o := by
  intro hloc
  obtain htier | htier | htier : a / 2 ^ 42 % 4 = 1 ∨ a / 2 ^ 42 % 4 = 2 ∨ a / 2 ^ 42 % 4 = 3 := by omega
  all_goals
    simp only [State.locate, htier] at hloc
    split_ifs at hloc

/-- An address that leads to Subsoil is one of tier 2, at an offset that Subsoil has. -/
theorem tier_of_locate_eq_sub (h : s.locate a = .sub o) :
    a / 2 ^ 42 % 4 = 2 ∧ o = a % 2 ^ 42 ∧ s.subRange o 1 = true := by
  obtain htier | htier | htier | htier :
      a / 2 ^ 42 % 4 = 0 ∨ a / 2 ^ 42 % 4 = 1 ∨ a / 2 ^ 42 % 4 = 2 ∨ a / 2 ^ 42 % 4 = 3 := by omega
  all_goals
    simp only [State.locate, htier] at h
    split_ifs at h
  cases h
  exact ⟨htier, rfl, ‹_›⟩

/-- The largest Subsoil ends well before the next tier begins. -/
theorem subSize_lt (s : State) : s.subSize < 2 ^ 41 := by
  have hgb : s.get SUBSOIL_CFG.CH_GB < 2 ^ 6 := get_lt s SUBSOIL_CFG.CH_GB
  have hch : s.subChannels ≤ 16 := by unfold State.subChannels; split <;> decide
  have hmul : s.subChannels * s.get SUBSOIL_CFG.CH_GB ≤ 16 * 63 := Nat.mul_le_mul hch (by omega)
  unfold State.subSize
  omega

/-- The three header copies of an image that the loader takes (R190) lie in the tier of the image. -/
theorem tier_of_headerCopy {n k : Nat} (h : s.loadAddrBad a n = false) (hk : k < 3) : (a + 256 * k) / 2 ^ 42 % 4 ≠ 0 := by
  have hplace : a / 2 ^ 42 % 4 ≠ 0 ∧ a % 2 ^ 42 < 2 ^ 41 := by
    rw [State.loadAddrBad, Bool.or_eq_false_iff] at h
    obtain ⟨-, h⟩ := h
    split at h
    next o hloc =>
      obtain ⟨-, htier, hok, rfl⟩ := locate_eq_top_iff.mp hloc
      simp only [topOk, decide_eq_true_eq] at hok
      omega
    next o hloc =>
      obtain ⟨htier, rfl, hrange⟩ := tier_of_locate_eq_sub hloc
      have hsize := subSize_lt s
      simp only [State.subRange, decide_eq_true_eq] at hrange
      omega
    next => cases h
  omega

end Tiers

/-! ### Operations outside the planes -/

/-- `t` is `s` but for Topsoil, Subsoil, the scheduler, packets, the Ward and registers outside the block of rotation. -/
structure SameRotation (s t : State) : Prop where
  rest : t = { s with regs := t.regs, topsoil := t.topsoil, subsoil := t.subsoil, sched := t.sched, net := t.net, ward := t.ward }
  block : ∀ off, blockOf off = 5 → t.reg off = s.reg off

namespace SameRotation

variable {s t u : State}

theorem refl (s : State) : SameRotation s s := ⟨rfl, fun _ _ => rfl⟩

theorem trans (h : SameRotation s t) (k : SameRotation t u) : SameRotation s u := by
  refine ⟨?_, fun off hoff => (k.block off hoff).trans (h.block off hoff)⟩
  rw [k.rest, h.rest]

theorem get_eq (h : SameRotation s t) {f : Fld} (hf : blockOf f.reg = 5) : t.get f = s.get f := by
  rw [State.get, h.block f.reg hf]; rfl

theorem put (s : State) {f : Fld} (v : Nat) (hf : blockOf f.reg ≠ 5) : SameRotation s (s.put f v) :=
  ⟨rfl, fun off hoff => reg_put_ne s v (by rintro rfl; exact hf hoff)⟩

theorem bump (s : State) {f : Fld} (n : Nat) (hf : blockOf f.reg ≠ 5) : SameRotation s (s.bump f n) := put s _ hf

theorem withTopsoil (s : State) (m : Mem) : SameRotation s { s with topsoil := m } := ⟨rfl, fun _ _ => rfl⟩

theorem errlog (s : State) (r : ErrRec) : SameRotation s (s.errlog r) :=
  ⟨by rw [errlog_eq_regs_sched], fun off hoff => reg_errlog_of_block_ne s r (by rw [hoff]; decide)⟩

theorem each {α : Type} {f : State → α → State} {l : List α} (hf : ∀ s, ∀ x ∈ l, SameRotation s (f s x)) (s : State) :
    SameRotation s (s.each l f) := by
  induction l generalizing s with
  | nil => exact refl s
  | cons x l ih =>
    exact (hf s x List.mem_cons_self).trans (ih (fun s y hy => hf s y (List.mem_cons_of_mem x hy)) (f s x))

/-! Reads -/

theorem lineError (s : State) (sub : Bool) (l : Nat) : SameRotation s (s.lineError sub false l) := by
  unfold State.lineError
  rw [if_neg (by decide)]
  split
  · exact (withTopsoil s _).trans (errlog (s.repairLine l) _)
  · exact errlog s _

theorem readErrors {a : Nat} (h : ∀ o, s.locate a ≠ .seedbed o) (n : Nat) : SameRotation s (s.readErrors a n false).1 := by
  unfold State.readErrors
  split
  · exact absurd ‹_› (h _)
  · exact each (fun s l _ => lineError s false l) s
  · exact each (fun s l _ => lineError s true l) s
  · exact refl s

theorem topTouch (s : State) (o n : Nat) : SameRotation s (s.topTouch o n) := by
  unfold State.topTouch
  split
  · exact bump s _ (by simp only [blockOf]; omega)
  · exact errlog s _

theorem subTouch (s : State) (o n : Nat) : SameRotation s (s.subTouch o n) := by
  unfold State.subTouch
  split
  · exact bump s _ (by decide)
  · exact errlog s _

theorem touch (s : State) (a n : Nat) : SameRotation s (s.touch a n) := by
  unfold State.touch
  split
  · exact topTouch s _ n
  · exact subTouch s _ n
  · exact refl s

/-! Writes -/

theorem sendDelta (s : State) (off k : Nat) (d : Payload) : SameRotation s (s.sendDelta off k d) := by
  refine ⟨rfl, fun x hx => ?_⟩
  unfold State.sendDelta
  have hpend : x ≠ WARD_PEND.UNACKED.reg := by rintro rfl; exact absurd hx (by decide)
  have hbytes : x ≠ WARD_BYTES.BYTES.reg := by rintro rfl; exact absurd hx (by decide)
  exact (reg_put_ne _ _ hbytes).trans (reg_put_ne _ _ hpend)

theorem deltas (old : Mem) (l n : Nat) (s : State) : SameRotation s (s.deltas old l n) := by
  induction n generalizing l s with
  | zero => exact refl s
  | succ n ih =>
    rw [State.deltas]
    refine trans ?_ (ih (l + 1) _)
    split
    · split
      · exact refl s
      · exact sendDelta s _ _ _
    · exact refl s

theorem topWrite (s : State) (o : Nat) (bs : List Byte) : SameRotation s (s.topWrite o bs) := by
  unfold State.topWrite
  split
  · have hstored : SameRotation s (State.topTouch { s with topsoil := s.topsoil.write 64 o bs } o bs.length) :=
      (withTopsoil s _).trans (topTouch _ o bs.length)
    dsimp only
    split
    · exact hstored.trans (deltas _ _ _ _)
    · exact hstored
  · exact topTouch s o bs.length

theorem subWrite (s : State) (o : Nat) (bs : List Byte) : SameRotation s (s.subWrite o bs) := by
  refine trans ?_ (subTouch _ o bs.length)
  split
  · exact ⟨rfl, fun _ _ => rfl⟩
  · exact refl s

theorem pokeAt {a : Nat} (h : ∀ o, s.locate a ≠ .seedbed o) (bs : List Byte) : SameRotation s (s.pokeAt a bs) := by
  unfold State.pokeAt
  split
  · exact absurd ‹_› (h _)
  · exact topWrite s _ bs
  · exact subWrite s _ bs
  · exact refl s

/-! Power -/

theorem domWait (s : State) (d : Nat) : SameRotation s (s.domWait d) := by
  unfold State.domWait
  split
  · exact refl s
  · exact put s _ (by decide)

theorem domRequest (s : State) (d : Nat) : SameRotation s (s.domRequest d) := by
  have hite (c : Prop) [Decidable c] (u : State) (k : Nat) : SameRotation u (if c then u.domWait k else u) := by
    split
    · exact domWait u k
    · exact refl u
  exact ((hite _ s 22).trans (hite _ _ 2)).trans (domWait _ d)

theorem powerStrips (s : State) (mask : Nat) : SameRotation s (s.powerStrips mask) :=
  each (fun s k _ => domRequest s (4 + k)) s

/-! The loader's reads of an image, and the vote over its header copies (R190, R493) -/

theorem loaderReads {a n : Nat} (h : s.loadAddrBad a n = false) : SameRotation s (s.loaderReads a n) :=
  (readErrors (fun o => locate_ne_seedbed_of_tier (tier_of_headerCopy h (k := 0) (by decide)) o) n).trans (touch _ a n)

theorem headerVote {a n : Nat} (h : s.loadAddrBad a n = false) (t : State) : SameRotation t (t.headerVote a) := by
  unfold State.headerVote
  dsimp only
  split
  · exact errlog t _
  · refine each (fun u k hk => ?_) t
    split
    · exact refl u
    · exact pokeAt (fun o => locate_ne_seedbed_of_tier (tier_of_headerCopy h (List.mem_range.mp hk)) o) _

end SameRotation

end Sys2Proof.Machine
end

section
/-!
PROOFS. Loading the dark plane (R195, R198, R201): how a LOAD ends, the end of the write of the plane, and LOAD_ABORT.
-/
namespace Sys2Proof.Machine

/-! ### A dark plane that goes idle, and a load that fails -/

/-- The fields that a load writes: its state, its error, and what describes the dark plane (R201, R212). -/
def loadFields : List Fld :=
  [ROTATE_STATUS.LOAD_STATE, ROTATE_LOAD_ERR.CODE, ROTATE_LOAD_ERR.SECTION, ROTATE_LOAD_ERR.RECORD, ROTATE_STATUS.DARK_VALID,
    ROTATE_DARK_ID.IMAGE_ID, ROTATE_PLANE_INFO.DARK_MASK, ROTATE_PLANE_INFO.DARK_COMPAT, ROTATE_PLANE_INFO.DARK_FORMER]

/-- A LOAD that is not refused, before its checks. -/
def State.loadBegun (s : State) : State := s.darkClear.put ROTATE_STATUS.LOAD_STATE loadBusy

/-- The checks have passed, and the loader writes image `m`. -/
def State.withLoading (s : State) (m : Image) : State := { s with rot := { s.rot with loading := some m } }

section Loads

variable {s t u : State} {a n : Nat}

/-- Writing a field of a listed register keeps every other one. -/
theorem SameRegsBut.put {l : List Nat} {f : Fld} (h : SameRegsBut l s t) (v : Nat) (hf : f.reg ∈ l) :
    SameRegsBut l s (t.put f v) :=
  fun off hoff => (reg_put_ne t v (by rintro rfl; exact hoff hf)).trans (h off hoff)

theorem sameFieldsBut_darkClear (s : State) : SameFieldsBut loadFields s s.darkClear := by
  have hcleared : SameFieldsBut loadFields s { s with dark := .cleared } := fun _ _ => rfl
  exact ((((hcleared.put 0 (by simp [loadFields])).put 0 (by simp [loadFields])).put 0 (by simp [loadFields])).put 0
    (by simp [loadFields])).put 0 (by simp [loadFields])

theorem sameFieldsBut_loadBegun (s : State) : SameFieldsBut loadFields s s.loadBegun :=
  (sameFieldsBut_darkClear s).put loadBusy (by simp [loadFields])

theorem sameFieldsBut_failLoad (s : State) (e : LoadErr) : SameFieldsBut loadFields s (s.failLoad e) := by
  have hcleared : SameFieldsBut loadFields s (State.darkClear { s with rot := { s.rot with loading := none } }) :=
    sameFieldsBut_darkClear _
  exact (((hcleared.put e.code (by simp [loadFields])).put e.section_ (by simp [loadFields])).put e.record
    (by simp [loadFields])).put loadFailed (by simp [loadFields])

theorem loadState_failLoad (s : State) (e : LoadErr) : (s.failLoad e).loadState = loadFailed :=
  get_put_self _ _ (by decide)

theorem loadErr_failLoad (s : State) (e : LoadErr) :
    (s.failLoad e).get ROTATE_LOAD_ERR.CODE = e.code % 256 ∧ (s.failLoad e).get ROTATE_LOAD_ERR.SECTION = e.section_ % 2 ^ 12 ∧
      (s.failLoad e).get ROTATE_LOAD_ERR.RECORD = e.record % 2 ^ 32 := by
  simp (disch := decide) only [State.failLoad, get_put_self, get_put_ne, Nat.reducePow, and_self]

/-- A failed load drives only registers, the dark plane and what the loader holds. -/
theorem failLoad_frame (s : State) (e : LoadErr) :
    s.failLoad e = { s with regs := (s.failLoad e).regs, dark := .cleared, rot := { s.rot with loading := none } } := rfl

/-- A failed load writes ROTATE_STATUS, LOAD_ERR, DARK_ID and PLANE_INFO. -/
theorem sameRegsBut_failLoad (s : State) (e : LoadErr) : SameRegsBut [0x50008, 0x50020, 0x50038, 0x50040] s (s.failLoad e) := by
  have hcleared : SameRegsBut [0x50008, 0x50020, 0x50038, 0x50040] s
      { s with dark := .cleared, rot := { s.rot with loading := none } } := fun _ _ => rfl
  exact ((((((((hcleared.put 0 (by simp)).put 0 (by simp)).put 0 (by simp)).put 0 (by simp)).put 0 (by simp)).put e.code
    (by simp)).put e.section_ (by simp)).put e.record (by simp)).put loadFailed (by simp)

/-- The dark plane of `t` is idle, and its lit plane, rotation, Field and Seedbed are those of `s` (R195, R198). -/
structure DarkIdle (s t : State) : Prop where
  dark : t.dark = .cleared
  darkValid : t.get ROTATE_STATUS.DARK_VALID = 0
  darkId : t.get ROTATE_DARK_ID.IMAGE_ID = 0
  lit : t.lit = s.lit
  litValid : t.get ROTATE_STATUS.LIT_VALID = s.get ROTATE_STATUS.LIT_VALID
  rotState : t.rotState = s.rotState
  field : t.field = s.field
  seedbed : t.seedbed = s.seedbed

theorem darkIdle_loadBegun (s : State) : DarkIdle s s.loadBegun where
  dark := rfl
  darkValid := by
    simp (disch := decide) only [State.loadBegun, State.darkClear, State.darkInvalid, get_put_self, get_put_ne,
      Nat.zero_mod]
  darkId := by
    simp (disch := decide) only [State.loadBegun, State.darkClear, State.darkInvalid, get_put_self, get_put_ne,
      Nat.zero_mod]
  lit := rfl
  litValid := sameFieldsBut_loadBegun s _ (by decide)
  rotState := sameFieldsBut_loadBegun s _ (by decide)
  field := rfl
  seedbed := rfl

theorem darkIdle_failLoad (s : State) (e : LoadErr) : DarkIdle s (s.failLoad e) where
  dark := rfl
  darkValid := by
    simp (disch := decide) only [State.failLoad, State.darkClear, State.darkInvalid, get_put_self, get_put_ne,
      Nat.zero_mod]
  darkId := by
    simp (disch := decide) only [State.failLoad, State.darkClear, State.darkInvalid, get_put_self, get_put_ne,
      Nat.zero_mod]
  lit := rfl
  litValid := sameFieldsBut_failLoad s e _ (by decide)
  rotState := sameFieldsBut_failLoad s e _ (by decide)
  field := rfl
  seedbed := rfl

theorem DarkIdle.of_sameRotation (h : DarkIdle s t) (k : SameRotation t u) : DarkIdle s u where
  dark := by rw [k.rest, ← h.dark]
  darkValid := (k.get_eq (by decide)).trans h.darkValid
  darkId := (k.get_eq (by decide)).trans h.darkId
  lit := by rw [k.rest, ← h.lit]
  litValid := (k.get_eq (by decide)).trans h.litValid
  rotState := (k.get_eq (by decide)).trans h.rotState
  field := by rw [k.rest, ← h.field]
  seedbed := by rw [k.rest, ← h.seedbed]

theorem DarkIdle.failLoad (h : DarkIdle s t) (e : LoadErr) : DarkIdle s (t.failLoad e) :=
  have k := darkIdle_failLoad t e
  { dark := k.dark, darkValid := k.darkValid, darkId := k.darkId, lit := h.lit, litValid := k.litValid.trans h.litValid
    rotState := k.rotState.trans h.rotState, field := h.field, seedbed := h.seedbed }

theorem DarkIdle.withLoading (h : DarkIdle s t) (m : Image) : DarkIdle s (t.withLoading m) := { h with }

/-! ### How the checks of a LOAD end -/

/-- What the checks of a LOAD at `[a, a + n)` can do to `u`: `t` is `u` failed at step 0, or the loader has read the image,
voted on its header and powered strips, and the load fails or goes on by the outcome of steps 1 to 9 (R198). -/
inductive LoadEnds (u : State) (a n : Nat) : State → Prop
  | address : u.loadAddrBad a n = true → LoadEnds u a n (u.failLoad ⟨0x0C, 0, 0⟩)
  | failed {e : LoadErr} {v : State} : u.loadAddrBad a n = false → u.loadOutcome a n = .error e → SameRotation u v →
      LoadEnds u a n (v.failLoad e)
  | passed {m : Image} {v : State} : u.loadAddrBad a n = false → u.loadOutcome a n = .ok m → SameRotation u v →
      LoadEnds u a n (v.withLoading m)

theorem loadRun_ends (ha : u.get ROTATE_LOAD_ADDR.ADDR = a) (hn : u.get ROTATE_LOAD_LEN.LEN = n) : LoadEnds u a n u.loadRun := by
  unfold State.loadRun
  rw [ha, hn]
  dsimp only
  split
  next hbad => exact .address hbad
  next hbad =>
    rw [Bool.not_eq_true] at hbad
    have hread : SameRotation u ((u.loaderReads a n).headerVote a) :=
      (SameRotation.loaderReads hbad).trans (SameRotation.headerVote hbad _)
    split
    next e hout =>
      refine .failed hbad hout ?_
      split
      · exact hread.trans (.powerStrips _ _)
      · exact hread
    next m hout => exact .passed hbad hout (hread.trans (.powerStrips _ _))

theorem LoadEnds.darkIdle (h : LoadEnds u a n t) (hu : DarkIdle s u) : DarkIdle s t := by
  cases h with
  | address => exact hu.failLoad _
  | failed _ _ hv => exact (hu.of_sameRotation hv).failLoad _
  | passed _ _ hv => exact (hu.of_sameRotation hv).withLoading _

theorem LoadEnds.of_loadAddrBad (h : LoadEnds u a n t) (hbad : u.loadAddrBad a n = true) : t = u.failLoad ⟨0x0C, 0, 0⟩ := by
  cases h with
  | address => rfl
  | failed hgood => rw [hgood] at hbad; cases hbad
  | passed hgood => rw [hgood] at hbad; cases hbad

theorem LoadEnds.of_error (h : LoadEnds u a n t) (hgood : u.loadAddrBad a n = false) {e : LoadErr}
    (hout : u.loadOutcome a n = .error e) : ∃ v, t = State.failLoad v e := by
  cases h with
  | address hbad => rw [hgood] at hbad; cases hbad
  | failed _ hout' => rw [hout] at hout'; cases hout'; exact ⟨_, rfl⟩
  | passed _ hout' => rw [hout] at hout'; cases hout'

theorem LoadEnds.of_ok (h : LoadEnds u a n t) (hgood : u.loadAddrBad a n = false) {m : Image}
    (hout : u.loadOutcome a n = .ok m) : t.loadState = u.loadState ∧ t.rot.loading = some m := by
  cases h with
  | address hbad => rw [hgood] at hbad; cases hbad
  | failed _ hout' => rw [hout] at hout'; cases hout'
  | passed _ hout' hv =>
    rw [hout] at hout'
    cases hout'
    exact ⟨hv.get_eq (by decide), rfl⟩

theorem load_of_refused (h : s.loadState = loadBusy ∨ s.rotState ≠ rotNone) : s.load = s.put ROTATE_ERR.REFUSED 1 := if_pos h

theorem load_of_idle (hload : s.loadState ≠ loadBusy) (hrot : s.rotState = rotNone) : s.load = s.loadBegun.loadRun :=
  if_neg (by simp [hload, hrot])

theorem load_ends (hload : s.loadState ≠ loadBusy) (hrot : s.rotState = rotNone) :
    LoadEnds s.loadBegun (s.get ROTATE_LOAD_ADDR.ADDR) (s.get ROTATE_LOAD_LEN.LEN) s.load := by
  rw [load_of_idle hload hrot]
  exact loadRun_ends (sameFieldsBut_loadBegun s _ (by decide)) (sameFieldsBut_loadBegun s _ (by decide))

theorem loadState_loadBegun (s : State) : s.loadBegun.loadState = loadBusy := get_put_self _ _ (by decide)

/-! ### The commands -/

theorem exec_load_of_takes {s₀ : State} {src : Source} {compat : Bool} (h : Takes (s₀.compatPin compat) src 0x50000 1) :
    exec (.load ⟨src, compat⟩) s₀ = .next (s₀.compatPin compat).load :=
  congrArg Host.Outcome.next (ctlWrite_of_takes h 1 fun s => s.load)

theorem exec_loadAbort_of_takes {src : Source} (h : Takes s src 0x50000 1) : exec (.loadAbort src) s = .next s.loadAbort :=
  congrArg Host.Outcome.next (ctlWrite_of_takes h 2 fun s => s.loadAbort)

theorem exec_loadComplete_of_powered {s₀ : State} {compat readback : Bool} {m : Image}
    (hm : (s₀.compatPin compat).rot.loading = some m)
    (hon : (stripsOf m.mask).all (fun k => (s₀.compatPin compat).domOn (4 + k)) = true) :
    exec (.loadComplete ⟨readback, compat⟩) s₀ = .next ((s₀.compatPin compat).loadEnd m readback) := by
  show Host.Outcome.next _ = _
  simp only [hm, hon, if_true]

/-- What the write of a plane leaves, when every word reads back (R198, R212). -/
theorem loadEnd_valid (s : State) (m : Image) :
    let t := s.loadEnd m true
    t.loadState = loadValid ∧ t.get ROTATE_STATUS.DARK_VALID = 1 ∧ t.get ROTATE_DARK_ID.IMAGE_ID = m.imageId.toNat % 2 ^ 64 ∧
      t.get ROTATE_PLANE_INFO.DARK_MASK = m.mask % 256 ∧ t.get ROTATE_PLANE_INFO.DARK_COMPAT = bit s.compatNow ∧
      t.get ROTATE_PLANE_INFO.DARK_FORMER = 0 := by
  have hbit : bit s.compatNow % 2 ^ 1 = bit s.compatNow := by cases s.compatNow <;> rfl
  simp (disch := decide) only [State.loadEnd, State.loadState, Bool.not_true, Bool.false_eq_true, if_false, get_put_self, get_put_ne,
    hbit]
  exact ⟨rfl, rfl, trivial, rfl, trivial, rfl⟩

theorem sameFieldsBut_loadEnd (s : State) (m : Image) :
    SameFieldsBut [ROTATE_STATUS.DARK_VALID, ROTATE_STATUS.LOAD_STATE, ROTATE_DARK_ID.IMAGE_ID, ROTATE_PLANE_INFO.DARK_MASK,
      ROTATE_PLANE_INFO.DARK_COMPAT, ROTATE_PLANE_INFO.DARK_FORMER] s (s.loadEnd m true) := by
  have hplane : SameFieldsBut [ROTATE_STATUS.DARK_VALID, ROTATE_STATUS.LOAD_STATE, ROTATE_DARK_ID.IMAGE_ID,
      ROTATE_PLANE_INFO.DARK_MASK, ROTATE_PLANE_INFO.DARK_COMPAT, ROTATE_PLANE_INFO.DARK_FORMER] s
      { s with dark := { m with compat := s.compatNow }, rot := { s.rot with loading := none, darkBad := false } } :=
    fun _ _ => rfl
  exact (((((hplane.put 1 (by simp)).put loadValid (by simp)).put m.imageId.toNat (by simp)).put m.mask (by simp)).put
    (bit s.compatNow) (by simp)).put 0 (by simp)

/-- The write of a plane drives only registers, the dark plane and what the loader holds. -/
theorem loadEnd_frame (s : State) (m : Image) :
    s.loadEnd m true = { s with regs := (s.loadEnd m true).regs, dark := { m with compat := s.compatNow },
                                rot := { s.rot with loading := none, darkBad := false } } := rfl

end Loads

/-- Settles O16: by the three ways in which the checks of a LOAD end. -/
theorem loadDarkPlane : Obligations.LoadDarkPlane := by
  unfold Obligations.LoadDarkPlane
  intro s₀ src compat s
  refine ⟨fun htakes hbusy => ?refused, fun htakes hload hrot => ?loads, fun htakes hbusy => ?aborts, fun htakes hidle => ?idle,
    fun m hm hon => ⟨?valid, ?unread⟩⟩
  case refused => rw [exec_load_of_takes htakes, load_of_refused hbusy]
  case loads =>
    have hends := load_ends hload hrot
    have hdark := hends.darkIdle (darkIdle_loadBegun s)
    refine ⟨s.load, exec_load_of_takes htakes, hdark.dark, hdark.darkValid, hdark.darkId, hdark.lit, hdark.litValid,
      hdark.rotState.trans hrot, hdark.field, hdark.seedbed, fun hbad => ?_, fun hgood => ?_⟩
    · rw [hends.of_loadAddrBad hbad]
      exact ⟨loadState_failLoad .., (loadErr_failLoad ..).1, rfl⟩
    · split
      next e hout =>
        obtain ⟨v, hv⟩ := hends.of_error hgood hout
        rw [hv]
        obtain ⟨hcode, hsection, hrecord⟩ := loadErr_failLoad v e
        exact ⟨loadState_failLoad v e, hcode, hsection, hrecord, rfl⟩
      next m hout =>
        obtain ⟨hstate, hloading⟩ := hends.of_ok hgood hout
        exact ⟨hstate.trans (loadState_loadBegun s), hloading⟩
  case aborts =>
    rw [exec_loadAbort_of_takes htakes, State.loadAbort, if_pos hbusy]
    exact ⟨_, rfl, loadState_failLoad .., (loadErr_failLoad ..).1, (darkIdle_failLoad ..).darkValid, failLoad_frame ..,
      sameRegsBut_failLoad _ _⟩
  case idle => rw [exec_loadAbort_of_takes htakes, State.loadAbort, if_neg hidle]
  case valid =>
    obtain ⟨hstate, hvalid, hid, hmask, hcompat, hformer⟩ := loadEnd_valid s m
    exact ⟨_, exec_loadComplete_of_powered hm hon, congrArg State.dark (loadEnd_frame s m), hstate, hvalid, hid, hmask, hcompat,
      hformer, loadEnd_frame s m, sameFieldsBut_loadEnd s m⟩
  case unread =>
    exact ⟨_, exec_loadComplete_of_powered hm hon, rfl, loadState_failLoad .., (loadErr_failLoad ..).1,
      (darkIdle_failLoad ..).darkValid, failLoad_frame ..⟩

end Sys2Proof.Machine
end

section
/-!
PROOFS. Arming and the leader's decision (R203, R204, R206, R208, R334): what ARM and DISARM leave, the streams that ARM holds,
and the message that the leader multicasts.
-/
namespace Sys2Proof.Machine

section Arming

variable {s t u : State}

/-! ### The scoreboard entries of held streams -/

/-- `t` is `s` but for scoreboard entries that streams of `l` held, and the counts of the scoreboard. -/
structure EntriesRetired (l : List StreamSt) (s t : State) : Prop where
  rest : t = { s with regs := t.regs, sched := { s.sched with entries := t.sched.entries, waiting := t.sched.waiting } }
  fields : SameFieldsBut [STEP_MSB.USED, STEP_MSB.HIGH] s t
  entries : ∀ o ∈ t.sched.entries, o ∈ s.sched.entries
  kept : ∀ o ∈ s.sched.entries, (∀ x ∈ l, o.owner ≠ .stream false x.pos) → o ∈ t.sched.entries

namespace EntriesRetired

variable {l : List StreamSt} {x : StreamSt}

theorem refl (s : State) : EntriesRetired l s s := ⟨rfl, .refl _ s, fun _ ho => ho, fun _ ho _ => ho⟩

theorem trans (h : EntriesRetired l s t) (k : EntriesRetired l t u) : EntriesRetired l s u where
  rest := by rw [k.rest, h.rest]
  fields := h.fields.trans k.fields
  entries o ho := h.entries o (k.entries o ho)
  kept o ho hl := k.kept o (h.kept o ho hl) hl

theorem boardRetire (s : State) (hx : x ∈ l) : EntriesRetired l s (s.boardRetire (.stream false x.pos)) where
  rest := rfl
  fields := by
    have hfilter : SameFieldsBut [STEP_MSB.USED, STEP_MSB.HIGH] s { s with sched := { s.sched with
        entries := s.sched.entries.filter (fun e => decide (e.owner ≠ .stream false x.pos))
        waiting := s.sched.waiting.filter (fun e => decide (e.owner ≠ .stream false x.pos)) } } := fun _ _ => rfl
    exact (hfilter.put _ (by simp)).put _ (by simp)
  entries o ho := (List.mem_filter.mp ho).1
  kept o ho hl := List.mem_filter.mpr ⟨ho, decide_eq_true (hl x hx)⟩

theorem each {ls : List StreamSt} (hls : ∀ x ∈ ls, x ∈ l) (s : State) :
    EntriesRetired l s (s.each ls fun s x => s.boardRetire (.stream false x.pos)) := by
  induction ls generalizing s with
  | nil => exact refl s
  | cons x ls ih =>
    exact (boardRetire s (hls x List.mem_cons_self)).trans (ih (fun y hy => hls y (List.mem_cons_of_mem x hy)) _)

end EntriesRetired

/-! ### HARROW_STATUS, and the streams that ARM holds (R334) -/

/-- HARROW_STATUS (R334). -/
def statusFields : List Fld := [HARROW_STATUS.ACTIVE, HARROW_STATUS.RANGES, HARROW_STATUS.ROT_HOLD, HARROW_STATUS.RECLAIM]

/-- What shows the streams that are held, and the entries that retire with them. -/
def holdFields : List Fld := HARROW_QPTR.ISSUE 0 :: STEP_MSB.USED :: STEP_MSB.HIGH :: statusFields

theorem SameFieldsBut.mono {l m : List Fld} (h : SameFieldsBut l s t) (hlm : ∀ f ∈ l, f ∈ m) : SameFieldsBut m s t :=
  fun f hf => h f fun g hg => hf g (hlm g hg)

theorem sameFieldsBut_harrowStatus (s : State) : SameFieldsBut statusFields s s.harrowStatus :=
  ((((SameFieldsBut.refl _ s).put _ (by simp [statusFields])).put _ (by simp [statusFields])).put _
    (by simp [statusFields])).put _ (by simp [statusFields])

theorem sameFieldsBut_releaseStreams (s : State) : SameFieldsBut statusFields s s.releaseStreams :=
  SameFieldsBut.trans (fun _ _ => rfl) (sameFieldsBut_harrowStatus { s with harrow := { s.harrow with rotHold := none } })

/-- `t` is `s` with the streams of steps after `n` held: none of them is left, and only entries of streams have retired. -/
structure StreamsHeld (n : Nat) (s t : State) : Prop where
  rest : t = { s with regs := t.regs, harrow := t.harrow,
                      sched := { s.sched with entries := t.sched.entries, waiting := t.sched.waiting } }
  fields : SameFieldsBut holdFields s t
  rotHold : t.harrow.rotHold = some n
  streams : ∀ x ∈ t.harrow.streams, x ∈ s.harrow.streams ∧ (x.queue1 = true ∨ streamStep x.desc ≤ n)
  entries : ∀ o ∈ t.sched.entries, o ∈ s.sched.entries
  kept : ∀ o ∈ s.sched.entries, (∀ x ∈ s.harrow.streams, o.owner ≠ .stream false x.pos) → o ∈ t.sched.entries

theorem streamsHeld_holdStreams (s : State) (n : Nat) : StreamsHeld n s (s.holdStreams n) := by
  have hretired := EntriesRetired.each (l := s.harrow.streams)
    (ls := (s.harrow.streams.filter fun t => !t.queue1 && decide (n < streamStep t.desc)).filter s.streamQuiet)
    (fun x hx => List.mem_of_mem_filter (List.mem_of_mem_filter hx)) s
  have hharrow := congrArg State.harrow hretired.rest
  unfold State.holdStreams
  dsimp only at hharrow ⊢
  generalize s.each _ _ = u at hretired hharrow ⊢
  refine ⟨?rest, ?fields, rfl, fun x hx => ?streams, hretired.entries, hretired.kept⟩
  case rest => rw [hretired.rest]; rfl
  case fields =>
    have hmsb : SameFieldsBut holdFields s u := hretired.fields.mono (by simp [holdFields])
    refine SameFieldsBut.trans ?_ ((sameFieldsBut_harrowStatus _).mono fun f hf => by simp [holdFields, hf])
    exact (hmsb.of_regs rfl).put _ (by simp [holdFields])
  case streams =>
    obtain ⟨hmem, hstep⟩ := List.mem_filter.mp hx
    rw [hharrow] at hmem
    exact ⟨hmem, by simpa using hstep⟩

/-! ### ARM and DISARM (R203, R204) -/

/-- A step is armed, before its streams are held. -/
def State.armedFor (s : State) (n : Nat) : State :=
  State.put { s.releaseStreams with rot := { s.rot with armed := some n, now := false } } ROTATE_STATUS.ROT_STATE rotArmed

theorem sameFieldsBut_armedFor (s : State) (n : Nat) :
    SameFieldsBut (ROTATE_STATUS.ROT_STATE :: statusFields) s (s.armedFor n) :=
  (((sameFieldsBut_releaseStreams s).mono fun _ hf => List.mem_cons_of_mem _ hf).of_regs rfl).put _ List.mem_cons_self

theorem rotArm_of_refused (h : s.rotState = rotReady ∨ s.rotState = rotSwap) : s.arm = s.put ROTATE_ERR.REFUSED 1 := if_pos h

theorem not_refused_of_none_or_armed (h : s.rotState = rotNone ∨ s.rotState = rotArmed) :
    ¬ (s.rotState = rotReady ∨ s.rotState = rotSwap) := by
  rcases h with h | h <;> rw [h] <;> decide

theorem rotArm_of_stale (hrot : s.rotState = rotNone ∨ s.rotState = rotArmed)
    (hnow : s.rotatesNow (s.get ROTATE_AT_STEP.STEP) = false) (hdone : s.stepDone (s.get ROTATE_AT_STEP.STEP) = true) :
    s.arm = s.put ROTATE_ERR.STALE 1 := by
  rw [State.arm]
  dsimp only
  rw [if_neg (not_refused_of_none_or_armed hrot), hnow, hdone]
  rfl

/-- A rotation that does not run at once waits for its point. -/
theorem rotationNow_of_not_now (h : s.rot.now = false) : s.rotationNow = s := by
  unfold State.rotationNow
  split
  · simp [h]
  · rfl

theorem rotArm_of_accepted (hrot : s.rotState = rotNone ∨ s.rotState = rotArmed)
    (hnow : s.rotatesNow (s.get ROTATE_AT_STEP.STEP) = false) (hdone : s.stepDone (s.get ROTATE_AT_STEP.STEP) = false) :
    s.arm = (s.armedFor (s.get ROTATE_AT_STEP.STEP)).holdStreams (s.get ROTATE_AT_STEP.STEP) := by
  have hheld := streamsHeld_holdStreams (s.armedFor (s.get ROTATE_AT_STEP.STEP)) (s.get ROTATE_AT_STEP.STEP)
  rw [State.arm]
  dsimp only
  rw [if_neg (not_refused_of_none_or_armed hrot), hnow, hdone]
  refine rotationNow_of_not_now ?_
  exact congrArg (fun u => u.rot.now) hheld.rest

theorem rotState_armedFor (s : State) (n : Nat) : (s.armedFor n).rotState = rotArmed := get_put_self _ _ (by decide)

theorem disarm_of_armed (h : s.rotState = rotArmed) : s.disarm = s.unarm := if_pos h

theorem disarm_of_not_armed (h : s.rotState ≠ rotArmed) : s.disarm = s := if_neg h

theorem unarm_frame (s : State) :
    s.unarm = { s with regs := s.unarm.regs, harrow := { s.harrow with rotHold := none },
                       rot := { s.rot with armed := none, now := false } } := rfl

theorem sameFieldsBut_unarm (s : State) : SameFieldsBut (ROTATE_STATUS.ROT_STATE :: statusFields) s s.unarm := by
  have hforgot : SameFieldsBut (ROTATE_STATUS.ROT_STATE :: statusFields) s
      (State.put { s with rot := { s.rot with armed := none, now := false } } ROTATE_STATUS.ROT_STATE rotNone) :=
    SameFieldsBut.put _ (fun _ _ => rfl) List.mem_cons_self
  exact hforgot.trans ((sameFieldsBut_releaseStreams _).mono fun _ hf => List.mem_cons_of_mem _ hf)

theorem rotState_unarm (s : State) : s.unarm.rotState = rotNone :=
  (sameFieldsBut_releaseStreams _ ROTATE_STATUS.ROT_STATE (by decide)).trans (get_put_self _ _ (by decide))

theorem exec_rotArm_of_takes {src : Source} (h : Takes s src 0x50000 1) : exec (.arm src) s = .next s.arm :=
  congrArg Host.Outcome.next (ctlWrite_of_takes h 4 fun s => s.arm)

theorem exec_disarm_of_takes {src : Source} (h : Takes s src 0x50000 1) : exec (.disarm src) s = .next s.disarm :=
  congrArg Host.Outcome.next (ctlWrite_of_takes h 8 fun s => s.disarm)

end Arming

/-! ### The leader's decision (R206, R208) -/

section Leader

variable {s : State} {rs : List ReadyMsg} {r : ReadyMsg}

theorem readyCause_of_notLoaded (hr : r ∈ rs) (h : r.notLoaded = true) : readyCause rs = 3 :=
  if_pos (List.any_eq_true.mpr ⟨r, hr, h⟩)

/-- Chips that agree on step and image, each with its image loaded, rotate. -/
theorem readyCause_of_agree {n img dig : Nat}
    (h : ∀ x ∈ rs, x.step = n ∧ x.imageId = img ∧ x.digest8 = dig ∧ x.notLoaded = false) : readyCause rs = 0 := by
  have hloaded : rs.any (·.notLoaded) = false := List.any_eq_false.mpr fun x hx => by
    obtain ⟨-, -, -, hloaded⟩ := h x hx
    simp [hloaded]
  unfold readyCause
  rw [if_neg (by simp [hloaded])]
  cases rs with
  | nil => rfl
  | cons y ys =>
    obtain ⟨hstep, himg, hdig, -⟩ := h y List.mem_cons_self
    refine if_pos (List.all_eq_true.mpr fun x hx => ?_)
    obtain ⟨hstep', himg', hdig', -⟩ := h x (List.mem_cons_of_mem y hx)
    simp [hstep, himg, hdig, hstep', himg', hdig']

/-- Two chips with different images: cause 2. -/
theorem readyCause_of_mismatch {x y : ReadyMsg} (hloaded : ∀ z ∈ rs, z.notLoaded = false) (hx : x ∈ rs) (hy : y ∈ rs)
    (h : x.imageId ≠ y.imageId) : readyCause rs = 2 := by
  have hany : rs.any (·.notLoaded) = false := List.any_eq_false.mpr fun z hz => by simp [hloaded z hz]
  unfold readyCause
  rw [if_neg (by simp [hany])]
  cases rs with
  | nil => cases hx
  | cons z zs =>
    refine if_neg fun hall => h ?_
    have hsame (w : ReadyMsg) (hw : w ∈ z :: zs) : w.imageId = z.imageId := by
      rcases List.mem_cons.mp hw with rfl | hw
      · rfl
      · have := List.all_eq_true.mp hall w hw
        simp only [Bool.and_eq_true, beq_iff_eq] at this
        exact this.1.2
    rw [hsame x hx, hsame y hy]

/-- The READYs that the leader holds once `r` has come: one of each chip, the last. -/
def State.readiesWith (s : State) (r : ReadyMsg) : List ReadyMsg := s.rot.readies.filter (fun x => x.idx != r.idx) ++ [r]

/-- Whether every chip of the slice has sent one. -/
def State.allReady (s : State) (rs : List ReadyMsg) : Bool := (List.range s.sliceSize).all fun i => rs.any fun x => x.idx == i

/-- The step that the leader's own READY names. -/
def leaderStep (rs : List ReadyMsg) (r : ReadyMsg) : Nat := ((rs.find? fun x => x.idx == 0).map (·.step)).getD r.step

/-- The leader has decided. -/
def State.decided (s : State) : State := { s with rot := { s.rot with readies := [], decided := true } }

theorem mem_readiesWith (s : State) (r : ReadyMsg) : r ∈ s.readiesWith r :=
  List.mem_append_right _ List.mem_cons_self

theorem leaderStep_of_agree (h : ∀ x ∈ rs, x.step = r.step) : leaderStep rs r = r.step := by
  unfold leaderStep
  cases hfind : rs.find? fun x => x.idx == 0 with
  | none => rfl
  | some x => exact h x (List.mem_of_find?_eq_some hfind)

theorem readyAtLeader_of_missing (s : State) (r : ReadyMsg) (h : s.allReady (s.readiesWith r) = false) :
    s.readyAtLeader r = { s with rot := { s.rot with readies := s.readiesWith r } } := if_neg (Bool.eq_false_iff.mp h)

theorem readyAtLeader_of_go (s : State) (r : ReadyMsg) (hall : s.allReady (s.readiesWith r) = true)
    (hcause : readyCause (s.readiesWith r) = 0) (hstep : leaderStep (s.readiesWith r) r = r.step) :
    s.readyAtLeader r = s.decided.sendAll 0x0102 (stepMsg r.step (leBytes 8 r.imageId)) := by
  rw [← hstep]
  exact (if_pos hall).trans (if_pos hcause)

theorem readyAtLeader_of_abort (s : State) (r : ReadyMsg) {c : Nat} (hall : s.allReady (s.readiesWith r) = true)
    (hcause : readyCause (s.readiesWith r) = c) (hc : c ≠ 0) :
    s.readyAtLeader r = s.decided.sendAll 0x0103 (stepMsg (leaderStep (s.readiesWith r) r) [BitVec.ofNat 8 c]) := by
  subst hcause
  exact (if_pos hall).trans (if_neg hc)

theorem exec_ready_of_msgOk {h : MsgHdr} {k : Nat} (hmsg : s.msgOk h .toLeader = true) (hk : s.indexOf h.src.toNat = some k)
    (step img dig : W64) (nl : Bool) :
    exec (.ready h step img dig nl) s = .next (s.readyAtLeader ⟨k, step.toNat, img.toNat, dig.toNat, nl⟩) := by
  refine congrArg Host.Outcome.next ((if_pos hmsg).trans ?_)
  dsimp only
  rw [hk]
  rfl

theorem exec_rotateTimeout_of_open {n : Nat} (harmed : s.rot.armed = some n) (hleads : s.leads = true)
    (hrot : s.rotState = rotReady) (hopen : s.rot.decided = false) :
    exec .rotateTimeout s = .next (s.decided.sendAll 0x0103 (stepMsg n [1])) := by
  show Host.Outcome.next _ = _
  rw [harmed]
  dsimp only
  rw [if_pos ⟨hleads, hrot, by simp [hopen]⟩]
  rfl

theorem exec_rotateTimeout_of_decided (h : s.rot.decided = true) : exec .rotateTimeout s = .next s := by
  show Host.Outcome.next _ = _
  split
  · rw [if_neg (by simp [h])]
  · rfl

end Leader

/-- Settles O17: ARM by what `holdStreams` leaves, READY by the cause that the leader finds. -/
theorem rotationAgreement : Obligations.RotationAgreement := by
  unfold Obligations.RotationAgreement
  intro s src
  refine ⟨fun htakes hrot => ?refused, fun htakes hrot hnow => ⟨fun hdone => ?stale, fun hopen => ?armed⟩,
    fun htakes hrot => ?disarmed, fun htakes hrot => ?unarmed, fun h step img dig nl k hmsg hk => ?ready,
    fun n harmed hleads hrot hopen => exec_rotateTimeout_of_open harmed hleads hrot hopen, exec_rotateTimeout_of_decided⟩
  case refused => rw [exec_rotArm_of_takes htakes, rotArm_of_refused hrot]
  case stale => rw [exec_rotArm_of_takes htakes, rotArm_of_stale hrot hnow hdone]
  case armed =>
    rw [exec_rotArm_of_takes htakes, rotArm_of_accepted hrot hnow hopen]
    generalize s.get ROTATE_AT_STEP.STEP = n
    have hheld := streamsHeld_holdStreams (s.armedFor n) n
    refine ⟨_, rfl, (hheld.fields _ (by decide)).trans (rotState_armedFor s n), hheld.rotHold, hheld.streams, hheld.entries,
      hheld.kept, hheld.rest, ?_⟩
    exact ((sameFieldsBut_armedFor s n).mono (by simp [statusFields])).trans
      (hheld.fields.mono (by simp [holdFields, statusFields]))
  case disarmed =>
    rw [exec_disarm_of_takes htakes, disarm_of_armed hrot]
    exact ⟨_, rfl, rotState_unarm s, unarm_frame s, sameFieldsBut_unarm s⟩
  case unarmed => rw [exec_disarm_of_takes htakes, disarm_of_not_armed hrot]
  case ready =>
    intro r rs whole n
    have hr : r ∈ rs := mem_readiesWith s r
    rw [exec_ready_of_msgOk hmsg hk]
    refine ⟨fun hmissing => ?_, fun hall hagree => ?_, fun hall hnl => ?_, fun hall hloaded hdiffer => ?_⟩
    · exact congrArg Host.Outcome.next (readyAtLeader_of_missing s r hmissing)
    · exact congrArg Host.Outcome.next (readyAtLeader_of_go s r hall (readyCause_of_agree hagree)
        (leaderStep_of_agree fun x hx => (hagree x hx).1))
    · exact congrArg Host.Outcome.next (readyAtLeader_of_abort s r hall (readyCause_of_notLoaded hr hnl) (by decide))
    · obtain ⟨x, hx, himg⟩ := hdiffer
      exact congrArg Host.Outcome.next (readyAtLeader_of_abort s r hall (readyCause_of_mismatch hloaded hx hr himg) (by decide))

end Sys2Proof.Machine
end

section
/-!
PROOFS. What the units that work for a step leave of the step machine: its registers but STEP_MSB, its counts, its queries,
and both planes (R214, R227, R239, R245 to R275, R467).
-/
namespace Sys2Proof.Machine

/-! ### The frame -/

/-- What the work for a step may change beside records, messages, the scoreboard and the engines. -/
inductive StepPart where
  /-- The Passes in flight, whose events it counts. -/
  | passes
  | field
  | topsoil
  /-- Seedbed and Subsoil. -/
  | tiers

/-- `t` is `s` after work for a step that may change the parts in `may`. -/
structure KeepsStep (may : List StepPart) (s t : State) : Prop where
  planes : t.lit = s.lit ∧ t.dark = s.dark
  sched : t.sched = { s.sched with
    inflight := t.sched.inflight, entries := t.sched.entries, waiting := t.sched.waiting, nextTicket := t.sched.nextTicket
    chargeNext := t.sched.chargeNext, coreIrq := t.sched.coreIrq, lampNotice := t.sched.lampNotice }
  steps : ∀ off, blockOf off = 4 → off ≠ STEP_MSB.USED.reg → t.reg off = s.reg off
  passes : .passes ∉ may → t.sched.inflight = s.sched.inflight
  field : .field ∉ may → t.field = s.field
  topsoil : .topsoil ∉ may → t.topsoil = s.topsoil
  tiers : .tiers ∉ may → t.seedbed = s.seedbed ∧ t.subsoil = s.subsoil

theorem errlog_frame (s : State) (r : ErrRec) : ∃ regs irq notice, s.errlog r =
    { s with regs := regs, sched := { s.sched with coreIrq := irq, lampNotice := notice } } := by
  unfold State.errlog
  split
  · exact ⟨_, _, _, rfl⟩
  · dsimp only
    split
    · exact ⟨_, _, _, rfl⟩
    · exact ⟨_, _, _, rfl⟩

theorem sched_errlog (s : State) (r : ErrRec) : (s.errlog r).sched =
    { s.sched with coreIrq := (s.errlog r).sched.coreIrq, lampNotice := (s.errlog r).sched.lampNotice } := by
  obtain ⟨regs, irq, notice, h⟩ := errlog_frame s r
  rw [h]

/-- The definition as an equation of functions: applied to a state, the kernel would evaluate the address that is read. -/
theorem partReads_eq_fun :
    State.partReads = fun s o n stepBound => ((s.topTouch o n).readErrors (s.gaddr 1 o) n stepBound).1 := rfl

theorem readDesc_eq_fun : State.readDesc = fun s off => ((s.topTouch off 512).readErrors (s.gaddr 1 off) 512 true).1 := rfl

namespace KeepsStep

variable {may : List StepPart} {s t u : State}

/-- Work on the scoreboard, the agents and their messages alone. -/
theorem beside
    (hrest : t = { s with
      regs := t.regs, sched := t.sched, rot := t.rot, moe := t.moe, serve := t.serve, harrow := t.harrow, net := t.net
      ward := t.ward, power := t.power, freeCtr := t.freeCtr })
    (hsched : t.sched = { s.sched with
      entries := t.sched.entries, waiting := t.sched.waiting, nextTicket := t.sched.nextTicket
      chargeNext := t.sched.chargeNext, coreIrq := t.sched.coreIrq, lampNotice := t.sched.lampNotice })
    (hregs : ∀ off, blockOf off = 4 → off ≠ STEP_MSB.USED.reg → t.reg off = s.reg off) : KeepsStep may s t where
  planes := by rw [hrest]; exact ⟨rfl, rfl⟩
  sched := by rw [hsched]
  steps := hregs
  passes _ := by rw [hsched]
  field _ := by rw [hrest]
  topsoil _ := by rw [hrest]
  tiers _ := by rw [hrest]; exact ⟨rfl, rfl⟩

theorem refl (s : State) : KeepsStep may s s := beside rfl rfl fun _ _ _ => rfl

theorem trans (h : KeepsStep may s t) (k : KeepsStep may t u) : KeepsStep may s u where
  planes := ⟨k.planes.1.trans h.planes.1, k.planes.2.trans h.planes.2⟩
  sched := by rw [k.sched, h.sched]
  steps off hblock hoff := (k.steps off hblock hoff).trans (h.steps off hblock hoff)
  passes hmay := (k.passes hmay).trans (h.passes hmay)
  field hmay := (k.field hmay).trans (h.field hmay)
  topsoil hmay := (k.topsoil hmay).trans (h.topsoil hmay)
  tiers hmay := ⟨(k.tiers hmay).1.trans (h.tiers hmay).1, (k.tiers hmay).2.trans (h.tiers hmay).2⟩

theorem get_eq (h : KeepsStep may s t) {f : Fld} (hblock : blockOf f.reg = 4) (hoff : f.reg ≠ STEP_MSB.USED.reg) :
    t.get f = s.get f := by
  rw [State.get, h.steps f.reg hblock hoff]; rfl

theorem each {α : Type} {f : State → α → State} {l : List α} (hf : ∀ s, ∀ x ∈ l, KeepsStep may s (f s x)) (s : State) :
    KeepsStep may s (s.each l f) := by
  induction l generalizing s with
  | nil => exact refl s
  | cons x l ih => exact (hf s x List.mem_cons_self).trans (ih (fun s y hy => hf s y (List.mem_cons_of_mem x hy)) (f s x))

theorem ite {p : Prop} [Decidable p] (ht : KeepsStep may s t) (hu : KeepsStep may s u) : KeepsStep may s (if p then t else u) := by
  split
  · exact ht
  · exact hu

/-! ### Registers, records and messages -/

theorem put (s : State) {f : Fld} (v : Nat) (hf : blockOf f.reg ≠ 4 ∨ f.reg = STEP_MSB.USED.reg) : KeepsStep may s (s.put f v) := by
  refine beside rfl rfl fun off hblock hoff => reg_put_ne s v ?_
  rintro rfl
  exact hf.elim (· hblock) hoff

theorem bump (s : State) {f : Fld} (n : Nat) (hf : blockOf f.reg ≠ 4) : KeepsStep may s (s.bump f n) := put s _ (.inl hf)

theorem errlog (s : State) (r : ErrRec) : KeepsStep may s (s.errlog r) :=
  beside (by rw [errlog_eq_regs_sched]) (by rw [sched_errlog])
    fun off hblock _ => reg_errlog_of_block_ne s r (by rw [hblock]; decide)

theorem withNet (s : State) (n : NetSt) : KeepsStep may s { s with net := n } := beside rfl rfl fun _ _ _ => rfl

theorem post (s : State) (p : Packet) : KeepsStep may s (s.post p) := withNet s _

theorem send (s : State) (vc kind dst : Nat) (bs : List Byte) : KeepsStep may s (s.send vc kind dst bs) := post s _

theorem request (s : State) (vc op dst addr : Nat) (bs : List Byte) (kind : ReqKind) :
    KeepsStep may s (s.request vc op dst addr bs kind) := (post s _).trans (withNet _ _)

theorem charge (s : State) (cause : Nat) : KeepsStep may s (s.charge cause) := by
  unfold State.charge
  dsimp only
  split
  · exact refl s
  · split
    · split
      · exact beside rfl rfl fun _ _ _ => rfl
      · exact send s ..
    · exact beside rfl rfl fun _ _ _ => rfl

theorem stepError (s : State) (r : ErrRec) : KeepsStep may s (s.stepError r) := (errlog s _).trans (charge _ 1)

/-! ### Reads for a step (R311, R341, R467) -/

theorem topTouch (s : State) (o n : Nat) : KeepsStep may s (s.topTouch o n) := by
  unfold State.topTouch
  split
  · exact bump s _ (by simp only [blockOf]; omega)
  · exact errlog s _

theorem wordError (s : State) (w : Nat) : KeepsStep may s (s.wordError w) := by
  unfold State.wordError
  exact stepError s _

theorem lineError (s : State) (sub : Bool) (l : Nat) : KeepsStep may s (s.lineError sub true l) := by
  unfold State.lineError
  rw [if_pos rfl]
  exact stepError s _

theorem readErrors (s : State) (a n : Nat) : KeepsStep may s (s.readErrors a n true).1 := by
  unfold State.readErrors
  split
  · exact each (fun s w _ => wordError s w) s
  · exact each (fun s l _ => lineError s false l) s
  · exact each (fun s l _ => lineError s true l) s
  · exact refl s

theorem partReads (s : State) (o n : Nat) : KeepsStep may s (s.partReads o n true) := by
  rw [partReads_eq_fun]
  exact (topTouch s o n).trans (readErrors _ _ n)

theorem readDesc (s : State) (off : Nat) : KeepsStep may s (s.readDesc off) := by
  rw [readDesc_eq_fun]
  exact (topTouch s off 512).trans (readErrors _ _ 512)

theorem layerReads (s : State) (d : List W64) : KeepsStep may s (s.layerReads d) :=
  ((partReads s _ _).trans (partReads _ _ _)).trans (partReads _ _ _)

/-! ### The memory scoreboard (R227, R228) -/

theorem boardCount (s : State) : KeepsStep may s s.boardCount := (put s _ (.inr rfl)).trans (put _ _ (.inr rfl))

theorem boardTake (s : State) (o : MemOp) : KeepsStep may s (s.boardTake o) :=
  (beside rfl rfl fun _ _ _ => rfl : KeepsStep may s { s with sched := { s.sched with entries := s.sched.entries ++ [o] } }).trans
    (boardCount _)

theorem boardRequest (s : State) (owner : Owner) (order : Nat) (pseq : Option Nat) (write : Bool) (a n : Nat) :
    KeepsStep may s (s.boardRequest owner order pseq write a n) := by
  have hticket : KeepsStep may s { s with sched := { s.sched with nextTicket := s.sched.nextTicket + 1 } } :=
    beside rfl rfl fun _ _ _ => rfl
  unfold State.boardRequest
  dsimp only
  split
  · exact hticket.trans (beside rfl rfl fun _ _ _ => rfl)
  · exact hticket.trans (boardTake _ _)

theorem boardRetire (s : State) (owner : Owner) : KeepsStep may s (s.boardRetire owner) :=
  (beside rfl rfl fun _ _ _ => rfl : KeepsStep may s { s with sched := { s.sched with
    entries := s.sched.entries.filter (fun e => decide (e.owner ≠ owner))
    waiting := s.sched.waiting.filter (fun e => decide (e.owner ≠ owner)) } }).trans (boardCount _)

/-! ### Segments (R256, R267) -/

theorem sendBytes (vc dst : Nat) (kind : ReqKind) (n off : Nat) (bs : List Byte) (s : State) :
    KeepsStep may s (s.sendBytes vc dst kind n off bs) := by
  induction n generalizing off bs s with
  | zero => exact refl s
  | succ n ih => exact (refl s).ite ((request s ..).trans (ih ..))

theorem sendSegment (s : State) (vc i : Nat) (combine mb : Bool) (g : Segment) : KeepsStep may s (s.sendSegment vc i combine mb g) := by
  unfold State.sendSegment
  exact sendBytes ..

theorem segmentTaken (s : State) (p : Packet) : KeepsStep may s (s.segmentTaken p) := by
  have hfree (u : State) (held : Nat) : KeepsStep may u (u.freeBuffer held p) := (refl u).ite (withNet u _)
  have hreply (u : State) (h : Option (Nat × Packet)) :
      KeepsStep may u ((h.elim u fun e => u.freeBuffer e.1 p).reply p 5 []) := by
    cases h with
    | none => exact post u _
    | some e => exact (hfree u e.1).trans (post _ _)
  unfold State.segmentTaken
  exact (withNet s _).trans (hreply _ _)

theorem dropSegments (s : State) : KeepsStep may s s.dropSegments := each (fun u p _ => segmentTaken u p) s

/-! ### The engines (R245 to R275) -/

/-- The engines' own state is no part of the step machine. -/
theorem withMoe (s : State) (m : MoeSt) : KeepsStep may s { s with moe := m } := beside rfl rfl fun _ _ _ => rfl

theorem setSower (s : State) (mb : Bool) (v : Option SowerSt) : KeepsStep may s (s.setSower mb v) :=
  (withMoe s _).ite (withMoe s _)

theorem setGlean (s : State) (mb : Bool) (v : Option GleanSt) : KeepsStep may s (s.setGlean mb v) :=
  (withMoe s _).ite (withMoe s _)

theorem moeStatus (s : State) : KeepsStep may s s.moeStatus := by
  have hput (u : State) {f : Fld} (v : Nat) (hf : blockOf f.reg ≠ 4) : KeepsStep may u (u.put f v) := put u v (.inl hf)
  unfold State.moeStatus
  exact (((((((hput s _ (by decide)).trans (hput _ _ (by decide))).trans (hput _ _ (by decide))).trans
    (hput _ _ (by decide))).trans (hput _ _ (by decide))).trans (hput _ _ (by decide))).trans (hput _ _ (by decide))).trans
    (hput _ _ (by decide))

theorem dispatchSend (s : State) (mb : Bool) (w : SowerSt) : KeepsStep may s (s.dispatchSend mb w) := by
  unfold State.dispatchSend
  exact (each (fun u i _ => (sendSegment u ..).trans (bump _ 1 (by decide))) s).trans (setSower ..)

theorem sowerStart (s : State) (p : PassSt) : KeepsStep may s (s.sowerStart p) := by
  unfold State.sowerStart
  have hstart (u : State) (mb : Bool) (w : SowerSt) (m : MoeSt) : KeepsStep may u
      (State.boardRequest { u.setSower mb (some w) with moe := m } (.sower mb) p.order (some p.pseq) false 0 0) :=
    ((setSower u ..).trans (withMoe _ m)).trans (boardRequest ..)
  exact ite ((hstart ..).trans (dispatchSend ..)) (hstart ..)

theorem combineSend (s : State) (mb : Bool) (g : GleanSt) : KeepsStep may s (s.combineSend mb g) := by
  unfold State.combineSend
  split
  · exact ite ((each (fun u i _ => sendSegment u ..) s).trans (setGlean ..)) (setGlean ..)
  · exact setGlean ..

theorem gleanStart (s : State) (p : PassSt) : KeepsStep may s (s.gleanStart p) := by
  unfold State.gleanStart
  exact (boardRequest s ..).trans (combineSend ..)

/-- The engines take up a Pass at its issue (R250). -/
theorem engineIssue (s : State) (p : PassSt) : KeepsStep may s (s.engineIssue p) := by
  have hreads (u : State) (b : Bool) : KeepsStep may u (if b then u.layerReads p.desc else u) := (layerReads u _).ite (refl u)
  have hsower (u : State) (b c : Bool) (m : MoeSt) :
      KeepsStep may u (if b then u else if c then { u with moe := m } else u.sowerStart p) :=
    (refl u).ite ((withMoe u m).ite (sowerStart u p))
  have hglean (u : State) (b c : Bool) (m : MoeSt) :
      KeepsStep may u (if b then u else if c then { u with moe := m } else u.gleanStart p) :=
    (refl u).ite ((withMoe u m).ite (gleanStart u p))
  unfold State.engineIssue
  exact (((hreads s _).trans (hsower ..)).trans (hglean ..)).trans (moeStatus _)

end KeepsStep
end Sys2Proof.Machine
end

section
/-!
PROOFS. The leader's part of the step boundary: FLUSHED, the decision for COMMIT or ABANDON, and the end of its wait (R238 step 3,
R239, R241, R482).
-/
namespace Sys2Proof.Machine

section Leader

variable {s : State}

/-- The leader holds the FLUSHED of slice chip `k` for step `n`, and waits for the others. -/
def State.withFlushed (s : State) (k n : Nat) : State :=
  { s with sched := { s.sched with flushedFrom := s.sched.flushedFrom.filter (fun e => e.1 != k) ++ [(k, n)], bndWait := true } }

/-- Whether the leader holds FLUSHED of every chip of its slice. -/
def State.allFlushed (s : State) : Bool := (List.range s.sliceSize).all fun i => s.sched.flushedFrom.any fun e => e.1 == i

theorem flushedCheck_of_missing (h : s.allFlushed = false) : s.flushedCheck = s :=
  if_pos (by rw [State.allFlushed] at h; simp [h])

/-- The set is whole, and nothing has been decided yet. -/
theorem flushedCheck_of_whole (habandon : s.sched.abandonMcast = false) (hcommit : s.sched.commitSent = false)
    (hall : s.allFlushed = true) :
    s.flushedCheck = if s.sched.flushedFrom.all fun e => e.2 == s.get STEP_NUM.STEP then
        State.sendAll { s with sched := { s.sched with commitSent := true, bndWait := false } } 0x0203 (stepMsg (s.get STEP_NUM.STEP) [])
      else s.abandonAll (s.get STEP_NUM.STEP) 5 (s.get ROUTE_SELF.INDEX) :=
  if_neg (by rw [State.allFlushed] at hall; simp [hall, habandon, hcommit])

theorem exec_flushed_of_msgOk {h : MsgHdr} {k : Nat} (hmsg : s.msgOk h .toLeader = true) (hk : s.indexOf h.src.toNat = some k)
    (habandon : s.sched.abandonMcast = false) (hcommit : s.sched.commitSent = false) (step : W64) (i : BitVec 6) (passes : BitVec 32) :
    exec (.flushed h step i passes) s = .next (s.withFlushed k step.toNat).flushedCheck := by
  have hwait : (!s.sched.commitSent) = true := by rw [hcommit]; rfl
  refine congrArg Host.Outcome.next ((if_pos hmsg).trans ?_)
  dsimp only
  rw [if_neg (by simp [habandon]), hk, hwait]
  rfl

theorem exec_flushed_of_not_msgOk {h : MsgHdr} (hmsg : s.msgOk h .toLeader = false) (step : W64) (i : BitVec 6) (passes : BitVec 32) :
    exec (.flushed h step i passes) s = .next (s.linkErr 9 0) := congrArg Host.Outcome.next (if_neg (Bool.eq_false_iff.mp hmsg))

theorem exec_bndTimeout_of_waiting (hleads : s.leads = true) (hwait : s.sched.bndWait = true) :
    exec .bndTimeout s = .next (if s.get WARD_STATUS.STATE = 2 then
        (s.abandonAll (s.get STEP_NUM.STEP) 4 (s.get ROUTE_SELF.INDEX)).sendAll 0x0301 (stepMsg s.missingChips [])
      else s.abandonAll (s.get STEP_NUM.STEP) 4 (s.get ROUTE_SELF.INDEX)) := by
  refine congrArg Host.Outcome.next ((if_pos (by simp [hleads, hwait])).trans ?_)
  have hward : (s.abandonAll (s.get STEP_NUM.STEP) 4 (s.get ROUTE_SELF.INDEX)).get WARD_STATUS.STATE = s.get WARD_STATUS.STATE := by
    unfold State.abandonAll State.sendAll
    dsimp only
    split <;> rfl
  dsimp only
  rw [hward]

end Leader

/-- Settles O14: by what the leader's check finds in the FLUSHED that it holds. -/
theorem leaderDecides : Obligations.LeaderDecides := by
  unfold Obligations.LeaderDecides
  intro s h step i passes k l n whole
  refine ⟨fun hmsg hk habandon hcommit => ?flushed, fun hmsg => exec_flushed_of_not_msgOk hmsg step i passes,
    fun hleads hwait => exec_bndTimeout_of_waiting hleads hwait⟩
  case flushed =>
    rw [exec_flushed_of_msgOk hmsg hk habandon hcommit]
    have hcheck (hwhole : whole = true) := flushedCheck_of_whole (s := s.withFlushed k step.toNat) habandon hcommit hwhole
    refine ⟨fun hmissing => ?_, fun hwhole hagree => ?_, fun hwhole hdiffer => ?_⟩
    · exact congrArg Host.Outcome.next (flushedCheck_of_missing hmissing)
    · exact congrArg Host.Outcome.next ((hcheck hwhole).trans (if_pos hagree))
    · exact congrArg Host.Outcome.next ((hcheck hwhole).trans (if_neg (Bool.eq_false_iff.mp hdiffer)))

end Sys2Proof.Machine
end

section
/-!
PROOFS. Abandonment and replay of a step: what stops with it, what it restores, and the messages of the leader (R239, R240, R244).
-/
namespace Sys2Proof.Machine

section Abandoning

variable {s : State} {h : MsgHdr} {step : W64}

/-! ### What stops with a step (R240 steps 1 to 3) -/

namespace KeepsStep

variable {may : List StepPart}

theorem dropEngines (s : State) : KeepsStep may s s.dropEngines :=
  ((withMoe s _).trans (dropSegments _)).trans (moeStatus _)

theorem withHarrow (s : State) (r : HarrowSt) : KeepsStep may s { s with harrow := r } := beside rfl rfl fun _ _ _ => rfl

theorem harrowStatus (s : State) : KeepsStep may s s.harrowStatus :=
  (((put s _ (.inl (by decide))).trans (put _ _ (.inl (by decide)))).trans (put _ _ (.inl (by decide)))).trans
    (put _ _ (.inl (by decide)))

theorem stopStreams0 (s : State) : KeepsStep may s s.stopStreams0 :=
  ((withHarrow s _).trans (put _ _ (.inl (by decide)))).trans (harrowStatus _)

theorem serveDiscard (s : State) : KeepsStep may s s.serveDiscard := beside rfl rfl fun _ _ _ => rfl

theorem withTopsoil (hmay : .topsoil ∈ may) (s : State) (m : Mem) : KeepsStep may s { s with topsoil := m } :=
  ⟨⟨rfl, rfl⟩, rfl, fun _ _ _ => rfl, fun _ => rfl, fun _ => rfl, (absurd hmay ·), fun _ => ⟨rfl, rfl⟩⟩

theorem markRepaired (s : State) (addr : Nat) : KeepsStep may s (s.markRepaired addr) :=
  each (fun u i _ => (put u _ (.inl (by simp only [blockOf]; omega))).ite (refl u)) s

theorem repairAll (hmay : .topsoil ∈ may) (s : State) : KeepsStep may s s.repairAll :=
  each (fun u _ _ => (withTopsoil hmay u _).trans (markRepaired _ _)) s

end KeepsStep

/-- The step machine once its step has stopped: nothing is in flight, no query stands, and no cause waits for a later step. -/
def State.stepCleared (s : State) : State :=
  State.withdrawQueries (State.put { s.flushField with sched := { s.sched with
    inflight := [], flushing := false, chargeNext := none, waiting := s.sched.waiting.filter MemOp.outside } } STEP_STATUS.INFLIGHT 0)

theorem keepsStep_abandonStop (s : State) : KeepsStep [.topsoil] s.stepCleared s.abandonStop :=
  (((KeepsStep.dropEngines _).trans (.stopStreams0 _)).trans (.serveDiscard _)).trans (.repairAll List.mem_cons_self _)

/-! ### The report of an abandonment (R239) -/

/-- While a step runs an ABANDON of it is not kept for a later step. -/
theorem holdsAbandon_eq_false (hrun : s.stepState = stepRunning) (hopen : s.leads = false ∨ s.sched.commitSent = false) (n : Nat) :
    s.holdsAbandon n = false := by
  have hstate : (s.stepState == stepBoundary) = false := by rw [hrun]; rfl
  rw [State.holdsAbandon, hstate]
  rcases hopen with hopen | hopen <;> simp [hopen]

theorem exec_abandon_of_running (hmsg : s.msgOk h .inSlice = true) (hrun : s.stepState = stepRunning)
    (hopen : s.leads = false ∨ s.sched.commitSent = false) (hsrc : s.leads = true ∨ h.src.toNat = s.leaderAt) (c : BitVec 8)
    (i : BitVec 6) :
    exec (.abandon h step c i) s =
      .next (s.abandonTake step.toNat c.toNat i.toNat (decide (h.src.toNat = s.leaderAt))) := by
  refine congrArg Host.Outcome.next ((if_pos hmsg).trans ?_)
  dsimp only
  rw [if_neg (by rcases hsrc with hsrc | hsrc <;> simp [hsrc]), holdsAbandon_eq_false hrun hopen]
  rfl

theorem exec_abandon_of_stranger (hmsg : s.msgOk h .inSlice = true) (hleads : s.leads = false) (hsrc : h.src.toNat ≠ s.leaderAt)
    (c : BitVec 8) (i : BitVec 6) : exec (.abandon h step c i) s = .next (s.linkErr 9 0) :=
  congrArg Host.Outcome.next ((if_pos hmsg).trans (if_pos (by simp [hleads, hsrc])))

/-- The leader's first report of the step in progress goes to every chip. -/
theorem abandonTake_of_leads (hleads : s.leads = true) (habandon : s.sched.abandonMcast = false) (hcommit : s.sched.commitSent = false)
    (c i : Nat) (fromLeader : Bool) :
    s.abandonTake (s.get STEP_NUM.STEP) c i fromLeader = s.abandonAll (s.get STEP_NUM.STEP) c i :=
  (if_pos (by simp [hleads, habandon])).trans (if_neg (by simp [hcommit]))

theorem abandonTake_of_fromLeader (hleads : s.leads = false) (n c i : Nat) : s.abandonTake n c i true = s.abandonLocal n c :=
  (if_neg (by simp [hleads])).trans (if_pos rfl)

/-! ### A chip abandons its step (R240) -/

/-- The registers and counts that say that the step is abandoned for `cause`. -/
def State.abandonMarked (s : State) (cause : Nat) : State :=
  let t := State.bump (((State.put { s with sched := { s.sched with
    abCause := cause, abandons := s.sched.abandons + 1, resetRejoin := false } } STEP_STATUS.STATE stepAbandoning).put
    STEP_ERR.ABANDONED 1).put STEP_ERR.CAUSE cause) STEP_STATUS.REPLAYS 1
  if cause = 5 then t.put STEP_ERR.MISMATCH 1 else t

theorem abandonLocal_of_running (hrun : s.stepState = stepRunning) (c : Nat) :
    s.abandonLocal (s.get STEP_NUM.STEP) c = (s.abandonMarked c).abandonStop := by
  refine if_neg ?_
  simp [hrun]

theorem get_bump_self (s : State) {f : Fld} (n : Nat) (hf : f.lo + f.len ≤ 64) :
    (s.bump f n).get f = min (2 ^ f.len - 1) (s.get f + n) := by
  have hpos := Nat.two_pow_pos f.len
  exact (get_put_self s _ hf).trans (Nat.mod_eq_of_lt (by omega))

/-- Two fields share no bit: the condition of `get_put_ne`. -/
abbrev FieldsApart (f g : Fld) : Prop := f.reg ≠ g.reg ∨ f.lo + f.len ≤ g.lo ∨ g.lo + g.len ≤ f.lo

/-- MISMATCH is the last field that is marked. -/
theorem get_abandonMarked (s : State) (c : Nat) {f : Fld} (hf : FieldsApart f STEP_ERR.MISMATCH) :
    (s.abandonMarked c).get f = (State.bump (((s.put STEP_STATUS.STATE stepAbandoning).put
      STEP_ERR.ABANDONED 1).put STEP_ERR.CAUSE c) STEP_STATUS.REPLAYS 1).get f := by
  unfold State.abandonMarked
  dsimp only
  split
  · exact get_put_ne _ _ hf
  · rfl

theorem abandonMarked_frame (s : State) (c : Nat) : s.abandonMarked c = { s with
    regs := (s.abandonMarked c).regs
    sched := { s.sched with abCause := c, abandons := s.sched.abandons + 1, resetRejoin := false } } := by
  unfold State.abandonMarked
  dsimp only
  split <;> rfl

/-- What a chip shows once it has stopped its step for `c`. -/
structure Abandons (c : Nat) (s t : State) : Prop where
  state : t.stepState = stepAbandoning
  abandoned : t.get STEP_ERR.ABANDONED = 1
  cause : t.get STEP_ERR.CAUSE = c % 2 ^ STEP_ERR.CAUSE.len
  replays : t.get STEP_STATUS.REPLAYS = min 15 (s.get STEP_STATUS.REPLAYS + 1)
  inflight : t.get STEP_STATUS.INFLIGHT = 0
  sched : t.sched.inflight = [] ∧ t.sched.queries = [] ∧ t.sched.abCause = c
  planes : t.lit = s.lit ∧ t.dark = s.dark
  tiers : t.seedbed = s.seedbed ∧ t.subsoil = s.subsoil

theorem get_stepCleared_ne (s : State) {f : Fld} (hf : FieldsApart f STEP_STATUS.INFLIGHT) :
    s.stepCleared.get f = s.get f := get_put_ne _ _ hf

theorem abandons_stepCleared (s : State) (c : Nat) : Abandons c s (s.abandonMarked c).stepCleared := by
  have hframe := abandonMarked_frame s c
  have hother {f : Fld} (hf : FieldsApart f STEP_STATUS.INFLIGHT) := get_stepCleared_ne (s.abandonMarked c) hf
  refine ⟨?state, ?abandoned, ?cause, ?replays, get_put_self _ _ (by decide), ?sched, ?planes, ?tiers⟩
  case state =>
    rw [State.stepState, hother (by decide), get_abandonMarked s c (by decide), State.bump, get_put_ne _ _ (by decide),
      get_put_ne _ _ (by decide), get_put_ne _ _ (by decide), get_put_self _ _ (by decide)]
    rfl
  case abandoned =>
    rw [hother (by decide), get_abandonMarked s c (by decide), State.bump, get_put_ne _ _ (by decide),
      get_put_ne _ _ (by decide), get_put_self _ _ (by decide)]
    rfl
  case cause =>
    rw [hother (by decide), get_abandonMarked s c (by decide), State.bump, get_put_ne _ _ (by decide), get_put_self _ _ (by decide)]
  case replays =>
    rw [hother (by decide), get_abandonMarked s c (by decide), get_bump_self _ _ (by decide), get_put_ne _ _ (by decide),
      get_put_ne _ _ (by decide), get_put_ne _ _ (by decide)]
    rfl
  case sched => exact ⟨rfl, rfl, congrArg (·.sched.abCause) hframe⟩
  case planes =>
    have hlit : (s.abandonMarked c).lit = s.lit := by rw [hframe]
    have hdark : (s.abandonMarked c).dark = s.dark := by rw [hframe]
    exact ⟨hlit, hdark⟩
  case tiers =>
    have hseedbed : (s.abandonMarked c).seedbed = s.seedbed := by rw [hframe]
    have hsubsoil : (s.abandonMarked c).subsoil = s.subsoil := by rw [hframe]
    exact ⟨hseedbed, hsubsoil⟩

theorem Abandons.of_keepsStep {c : Nat} {t u : State} (ht : Abandons c s t) (k : KeepsStep [.topsoil] t u) : Abandons c s u where
  state := (k.get_eq (by decide) (by decide)).trans ht.state
  abandoned := (k.get_eq (by decide) (by decide)).trans ht.abandoned
  cause := (k.get_eq (by decide) (by decide)).trans ht.cause
  replays := (k.get_eq (by decide) (by decide)).trans ht.replays
  inflight := (k.get_eq (by decide) (by decide)).trans ht.inflight
  sched := by
    obtain ⟨hinflight, hqueries, hcause⟩ := ht.sched
    exact ⟨(k.passes (by simp)).trans hinflight, by rw [k.sched]; exact hqueries, by rw [k.sched]; exact hcause⟩
  planes := ⟨k.planes.1.trans ht.planes.1, k.planes.2.trans ht.planes.2⟩
  tiers := ⟨(k.tiers (by simp)).1.trans ht.tiers.1, (k.tiers (by simp)).2.trans ht.tiers.2⟩

theorem abandons_abandonLocal (hrun : s.stepState = stepRunning) (c : Nat) :
    Abandons c s (s.abandonLocal (s.get STEP_NUM.STEP) c) := by
  rw [abandonLocal_of_running hrun]
  exact (abandons_stepCleared s c).of_keepsStep (keepsStep_abandonStop _)

/-! ### The end of an abandonment (R240 steps 4 to 6) -/

theorem SameRegsBut.refl (l : List Nat) (s : State) : SameRegsBut l s s := fun _ _ => rfl

theorem SameRegsBut.get_eq {l : List Nat} {t : State} (h : SameRegsBut l s t) {f : Fld} (hf : f.reg ∉ l) : t.get f = s.get f := by
  rw [State.get, h f.reg hf]; rfl

/-- ISSUE of each queue of `l` returns to its QHEAD. -/
def State.issuesToHead (s : State) (l : List Nat) : State := s.each l fun s q => s.put (STEP_QHEAD.ISSUE q) (s.get (STEP_QHEAD.HEAD q))

theorem issuesToHead_cons (s : State) (q : Nat) (l : List Nat) :
    s.issuesToHead (q :: l) = (s.put (STEP_QHEAD.ISSUE q) (s.get (STEP_QHEAD.HEAD q))).issuesToHead l := rfl

theorem issuesToHead_frame (l : List Nat) (s : State) : s.issuesToHead l = { s with regs := (s.issuesToHead l).regs } := by
  induction l generalizing s with
  | nil => rfl
  | cons q l ih => rw [issuesToHead_cons, ih]; rfl

theorem reg_issuesToHead_ne {off : Nat} (l : List Nat) (hoff : ∀ q ∈ l, off ≠ (STEP_QHEAD.ISSUE q).reg) (s : State) :
    (s.issuesToHead l).reg off = s.reg off := by
  induction l generalizing s with
  | nil => rfl
  | cons q l ih =>
    rw [issuesToHead_cons, ih fun x hx => hoff x (List.mem_cons_of_mem q hx)]
    exact reg_put_ne s _ (hoff q List.mem_cons_self)

theorem get_issuesToHead_issue {q : Nat} (l : List Nat) (hq : q ∈ l) (s : State) :
    (s.issuesToHead l).get (STEP_QHEAD.ISSUE q) = s.get (STEP_QHEAD.HEAD q) := by
  have hhead (s : State) (x : Nat) : (s.put (STEP_QHEAD.ISSUE x) (s.get (STEP_QHEAD.HEAD x))).get (STEP_QHEAD.HEAD q) =
      s.get (STEP_QHEAD.HEAD q) := get_put_ne s _ (.inr (.inl (Nat.le_refl 16)))
  induction l generalizing s with
  | nil => cases hq
  | cons x l ih =>
    rw [issuesToHead_cons]
    by_cases hl : q ∈ l
    · exact (ih hl _).trans (hhead s x)
    · obtain rfl := (List.mem_cons.mp hq).resolve_right hl
      have htail (y : Nat) (hy : y ∈ l) : (STEP_QHEAD.ISSUE q).reg ≠ (STEP_QHEAD.ISSUE y).reg := by
        have hne : y ≠ q := fun hyq => hl (hyq ▸ hy)
        simp only [ne_eq]
        omega
      rw [State.get, reg_issuesToHead_ne l htail]
      exact (get_put_self s _ (show 16 + 16 ≤ 64 by decide)).trans (Nat.mod_eq_of_lt (get_lt s _))

/-- The tag registers and STEP_MSB. -/
def tagRegs : List Nat := [0x40080, 0x40088, 0x40090]

/-- STEP_QHEAD. -/
def headRegs : List Nat := [0x40040, 0x40048, 0x40050, 0x40058]

/-- A whole register is replaced. -/
theorem reg_put_whole (s : State) {f : Fld} (hlo : f.lo = 0) (hlen : f.len = 64) (w : W64) : (s.put f w.toNat).reg f.reg = w := by
  have hget := get_put_self s (f := f) w.toNat (by omega)
  rw [State.get, hlo, hlen, bitsOf, pow_zero, Nat.div_one, Nat.mod_eq_of_lt w.isLt,
    Nat.mod_eq_of_lt ((s.put f w.toNat).reg f.reg).isLt] at hget
  exact BitVec.eq_of_toNat_eq hget

/-- The state before the queues return to their heads: the entries of the step have retired, and the tags are restored. -/
def State.tagsRestored (s : State) : State :=
  ((State.boardCount { s with sched := { s.sched with
    entries := s.sched.entries.filter MemOp.outside, waiting := s.sched.waiting.filter MemOp.outside } }).put
    (STEP_TAGS.TAG 0) s.sched.savedTags0.toNat).put (STEP_TAGS.TAG 1) s.sched.savedTags1.toNat

theorem abandonRestore_eq (s : State) : s.abandonRestore = s.tagsRestored.issuesToHead (List.range 4) := rfl

theorem sameRegsBut_tagsRestored (s : State) : SameRegsBut tagRegs s s.tagsRestored :=
  ((((SameRegsBut.refl tagRegs { s with sched := _ }).put _ (by decide)).put _ (by decide)).put _ (by decide)).put _ (by decide)

/-- What is restored. -/
structure Restores (s t : State) : Prop where
  rest : t = { s with
    regs := t.regs
    sched := { s.sched with entries := s.sched.entries.filter MemOp.outside, waiting := s.sched.waiting.filter MemOp.outside } }
  tags : t.reg 0x40080 = s.sched.savedTags0 ∧ t.reg 0x40088 = s.sched.savedTags1
  issue : ∀ q, q < 4 → t.get (STEP_QHEAD.ISSUE q) = s.get (STEP_QHEAD.HEAD q)
  regs : SameRegsBut (tagRegs ++ headRegs) s t

theorem restores_abandonRestore (s : State) : Restores s s.abandonRestore := by
  have hregs := sameRegsBut_tagsRestored s
  have hheads {off : Nat} (hoff : off ∉ headRegs) :
      (s.tagsRestored.issuesToHead (List.range 4)).reg off = s.tagsRestored.reg off := by
    refine reg_issuesToHead_ne _ (fun q hq => ?_) _
    rintro rfl
    have hlt := List.mem_range.mp hq
    interval_cases q <;> exact hoff (by decide)
  rw [abandonRestore_eq]
  refine ⟨?rest, ⟨?tag0, ?tag1⟩, fun q hq => ?issue, fun off hoff => ?regs⟩
  case rest => rw [issuesToHead_frame]; rfl
  case tag0 =>
    rw [hheads (by decide), State.tagsRestored, reg_put_ne _ _ (by decide)]
    exact reg_put_whole (f := STEP_TAGS.TAG 0) _ rfl rfl _
  case tag1 =>
    rw [hheads (by decide)]
    exact reg_put_whole (f := STEP_TAGS.TAG 1) _ rfl rfl _
  case issue =>
    rw [get_issuesToHead_issue _ (List.mem_range.mpr hq)]
    refine hregs.get_eq ?_
    interval_cases q <;> decide
  case regs =>
    obtain ⟨htag, hhead⟩ := not_or.mp (mt List.mem_append.mpr hoff)
    exact (hheads hhead).trans (hregs off htag)

theorem leaderAt_congr {s t : State} (hself : t.reg ROUTE_SELF.RACK.reg = s.reg ROUTE_SELF.RACK.reg) (hnet : t.net = s.net) :
    t.leaderAt = s.leaderAt := by
  simp only [State.leaderAt, State.chipAt, State.standIn, State.get, hnet, hself, self_congr hself]

/-- ABANDONED, as a chip sends it to the leader (R240 step 5). -/
def State.abandonedReport (s : State) : Packet :=
  s.mkPacket 3 4 s.leaderAt 0x0204 0 (stepMsg (s.get STEP_NUM.STEP) (leBytes 1 (s.get ROUTE_SELF.INDEX)))

/-- The state with `p` sent as its ABANDONED. -/
def State.withReport (s : State) (p : Packet) : State :=
  { s with
    sched := { s.sched with abandonedSent := true, descHalt := false }
    net := { s.net with outbox := s.net.outbox ++ [p] } }

theorem get_withReport (s : State) (p : Packet) (f : Fld) : (s.withReport p).get f = s.get f := rfl

/-- What the end of an abandonment leaves: everything restored, and ABANDONED sent. -/
structure AbandonEnds (s t : State) : Prop where
  tags : t.reg 0x40080 = s.sched.savedTags0 ∧ t.reg 0x40088 = s.sched.savedTags1
  issue : ∀ q, q < 4 → t.get (STEP_QHEAD.ISSUE q) = s.get (STEP_QHEAD.HEAD q)
  sched : t.sched.entries = s.sched.entries.filter MemOp.outside ∧ t.sched.abandonedSent = true
  outbox : t.net.outbox = s.net.outbox ++ [s.abandonedReport]
  rest : t = { s with regs := t.regs, sched := t.sched, net := { s.net with outbox := t.net.outbox } }

theorem abandonedReport_abandonRestore (s : State) : s.abandonRestore.abandonedReport = s.abandonedReport := by
  have h := restores_abandonRestore s
  have hself : s.abandonRestore.reg ROUTE_SELF.RACK.reg = s.reg ROUTE_SELF.RACK.reg := h.regs _ (by decide)
  have hnet : s.abandonRestore.net = s.net := by rw [h.rest]
  rw [State.abandonedReport, mkPacket_congr hself (by rw [hnet]), leaderAt_congr hself hnet,
    h.regs.get_eq (f := STEP_NUM.STEP) (by decide), h.regs.get_eq (f := ROUTE_SELF.INDEX) (by decide)]
  rfl

/-- The state with everything restored and ABANDONED sent. -/
def State.reported (s : State) : State := s.abandonRestore.withReport s.abandonedReport

theorem abandonEnd_of_restored {u : State} (h : s.abandonRestore = u) : s.abandonEnd =
    (if (u.withReport u.abandonedReport).abandonHalts then (u.withReport u.abandonedReport).put STEP_STATUS.STATE stepHalted
     else u.withReport u.abandonedReport).rotationNow := by
  unfold State.abandonEnd
  rw [h]
  rfl

theorem abandonEnd_eq (s : State) : s.abandonEnd =
    (if s.reported.abandonHalts then s.reported.put STEP_STATUS.STATE stepHalted else s.reported).rotationNow := by
  rw [abandonEnd_of_restored rfl, abandonedReport_abandonRestore, ← State.reported]

theorem Restores.withReport {t : State} (h : Restores s t) (p : Packet) : (t.withReport p) = { s with
    regs := t.regs
    sched := { s.sched with
      entries := s.sched.entries.filter MemOp.outside, waiting := s.sched.waiting.filter MemOp.outside
      abandonedSent := true, descHalt := false }
    net := { s.net with outbox := s.net.outbox ++ [p] } } := by
  rw [h.rest]; rfl

theorem abandonEnds_reported (s : State) : AbandonEnds s s.reported := by
  have h := restores_abandonRestore s
  rw [State.reported, h.withReport]
  exact ⟨h.tags, h.issue, ⟨rfl, rfl⟩, rfl, rfl⟩

theorem get_reported (s : State) {f : Fld} (hf : f.reg ∉ tagRegs ++ headRegs) : s.reported.get f = s.get f := by
  rw [State.reported, get_withReport]
  exact (restores_abandonRestore s).regs.get_eq hf

theorem abandonHalts_reported (s : State) : s.reported.abandonHalts = s.abandonHalts := by
  have hsched := congrArg State.sched ((restores_abandonRestore s).withReport s.abandonedReport)
  rw [← State.reported] at hsched
  rw [State.abandonHalts, hsched, get_reported s (by decide)]
  rfl

theorem AbandonEnds.put_state {t : State} (h : AbandonEnds s t) (v : Nat) : AbandonEnds s (t.put STEP_STATUS.STATE v) where
  tags := ⟨(reg_put_ne t v (by decide)).trans h.tags.1, (reg_put_ne t v (by decide)).trans h.tags.2⟩
  issue q hq := by
    rw [get_put_ne t v (.inl ?_)]
    · exact h.issue q hq
    · interval_cases q <;> decide
  sched := h.sched
  outbox := h.outbox
  rest := by rw [h.rest]; rfl

/-- Without a rotation that waits for the end, the abandonment ends in HALTED or waits for RESTART (R240 step 6). -/
theorem abandonEnds_abandonEnd (hstate : s.stepState = stepAbandoning) (hrot : s.rot.now = false) :
    AbandonEnds s s.abandonEnd ∧ s.abandonEnd.stepState = if s.abandonHalts then stepHalted else stepAbandoning := by
  have hends := abandonEnds_reported s
  have hnow {t : State} (ht : AbandonEnds s t) : t.rotationNow = t := rotationNow_of_not_now (by rw [ht.rest]; exact hrot)
  rw [abandonEnd_eq, abandonHalts_reported]
  split
  · rw [hnow (hends.put_state _)]
    exact ⟨hends.put_state _, get_put_self _ _ (by decide)⟩
  · rw [hnow hends]
    exact ⟨hends, (get_reported s (by decide)).trans hstate⟩

theorem exec_abandonEntriesRetired_of_pending (h : s.stepPending = true) : exec .abandonEntriesRetired s = .next s :=
  congrArg Host.Outcome.next (if_neg (by simp [h]))

theorem exec_abandonEntriesRetired_of_retired (hstate : s.stepState = stepAbandoning) (hsent : s.sched.abandonedSent = false)
    (hrejoin : s.sched.resetRejoin = false) (hpending : s.stepPending = false) (hreset : s.get CHIP_STATUS.FIELD_IN_RESET = 0) :
    exec .abandonEntriesRetired s = .next s.abandonEnd :=
  congrArg Host.Outcome.next (if_pos (by simp [hstate, hsent, hrejoin, hpending, State.flag, hreset]))

/-! ### ABANDONED at the leader, and RESTART (R240) -/

theorem exec_abandoned_of_msgOk {k : Nat} (hmsg : s.msgOk h .toLeader = true) (hk : s.indexOf h.src.toNat = some k)
    (hstep : step.toNat = s.get STEP_NUM.STEP) (habandon : s.sched.abandonMcast = true) (i : BitVec 6) :
    let l := s.sched.abandonedFrom.filter (· != k) ++ [k]
    exec (.abandoned h step i) s = .next (
      if (List.range s.sliceSize).all (fun i => l.contains i) = true then
        (if s.abandonHalts then { s with sched := { s.sched with abandonedFrom := l, bndWait := false } }
         else State.sendAll { s with sched := { s.sched with abandonedFrom := l, bndWait := false } } 0x0205 (stepMsg step.toNat []))
      else { s with sched := { s.sched with abandonedFrom := l } }) := by
  refine congrArg Host.Outcome.next ((if_pos hmsg).trans ((if_neg (by simp [hstep, habandon])).trans ?_))
  dsimp only
  rw [hk]
  rfl

/-- The step in progress begins: nothing issued, nothing reported. -/
def State.begun (s : State) (replay : Bool) : State :=
  ((State.put { s with sched := s.sched.fresh replay (s.get STEP_NUM.STEP), moe := { s.moe with stepSlots := [] } }
    STEP_STATUS.STATE stepRunning).put STEP_STATUS.STEP_END_DONE 0)

theorem beginStep_of_nothing_held (hcharge : s.sched.chargeNext = none) (hheld : s.sched.heldAbandon = none) (replay : Bool) :
    s.beginStep replay = s.begun replay := by
  have hsend : (s.begun replay).chargeSend = s.begun replay := by
    unfold State.chargeSend
    rw [show (s.begun replay).sched.chargeNext = none from hcharge]
  show (match (s.begun replay).chargeSend.sched.heldAbandon with
    | none => (s.begun replay).chargeSend
    | some (n, c, i) => _) = _
  rw [hsend, show (s.begun replay).sched.heldAbandon = none from hheld]

theorem exec_restart_of_abandoned (hmsg : s.msgOk h .fromLeader = true) (hstate : s.stepState = stepAbandoning)
    (hsent : s.sched.abandonedSent = true) (hstep : step.toNat = s.get STEP_NUM.STEP) :
    exec (.restart h step) s = .next (s.beginStep true) :=
  congrArg Host.Outcome.next ((if_pos hmsg).trans (if_pos ⟨hstate, hsent, hstep⟩))

theorem sameFieldsBut_begun (s : State) (replay : Bool) :
    SameFieldsBut [STEP_STATUS.STATE, STEP_STATUS.STEP_END_DONE] s (s.begun replay) :=
  (SameFieldsBut.put _ (fun _ _ => rfl) (by simp)).put _ (by simp)

theorem stepState_begun (s : State) (replay : Bool) : (s.begun replay).stepState = stepRunning :=
  (get_put_ne _ _ (by decide)).trans (get_put_self _ _ (by decide))

end Abandoning

/-- Settles O15: the leader's word stops the step (`Abandons`), its end restores what the step had changed (`AbandonEnds`), and
RESTART begins it again. -/
theorem abandonment : Obligations.Abandonment := by
  unfold Obligations.Abandonment
  intro s h step c i
  refine ⟨fun hmsg hleads habandon hcommit hrun hstep => ?first, fun hmsg hleads hsrc hrun hstep => ?word,
    fun hmsg hleads hsrc => exec_abandon_of_stranger hmsg hleads hsrc c i, exec_abandonEntriesRetired_of_pending,
    fun hstate hsent hrejoin hpending hreset hrot => ?retired,
    fun k hmsg hk hstep habandon => exec_abandoned_of_msgOk hmsg hk hstep habandon i,
    fun hmsg hstate hsent hstep hcharge hheld => ?restart⟩
  case first =>
    rw [exec_abandon_of_running hmsg hrun (.inr hcommit) (.inl hleads), hstep, abandonTake_of_leads hleads habandon hcommit]
    rfl
  case word =>
    rw [exec_abandon_of_running hmsg hrun (.inl hleads) (.inr hsrc), decide_eq_true hsrc, hstep, abandonTake_of_fromLeader hleads]
    obtain ⟨hstate, habandoned, hcause, hreplays, hinflight, ⟨hlist, hqueries, habCause⟩, ⟨hlit, hdark⟩,
      ⟨hseedbed, hsubsoil⟩⟩ := abandons_abandonLocal hrun c.toNat
    exact ⟨_, rfl, hstate, habandoned, hcause, hreplays, hinflight, hlist, hqueries, habCause, hlit, hdark, hseedbed,
      hsubsoil⟩
  case retired =>
    rw [exec_abandonEntriesRetired_of_retired hstate hsent hrejoin hpending hreset]
    obtain ⟨⟨⟨htag0, htag1⟩, hissue, ⟨hentries, hreported⟩, houtbox, hrest⟩, hlast⟩ := abandonEnds_abandonEnd hstate hrot
    exact ⟨_, rfl, htag0, htag1, hissue, hentries, hreported, hlast, houtbox, hrest⟩
  case restart =>
    rw [exec_restart_of_abandoned hmsg hstate hsent hstep, beginStep_of_nothing_held hcharge hheld]
    exact ⟨_, rfl, stepState_begun s true, get_put_self _ _ (by decide), rfl, rfl, rfl, rfl, sameFieldsBut_begun s true⟩

end Sys2Proof.Machine
end

section
/-!
PROOFS. Issue of a Pass: the queue that is examined, a refused descriptor, and a Pass that goes in flight (R214, R220, R221, R224,
R250).
-/
namespace Sys2Proof.Machine

section Issue

variable {s t : State} {q : Nat} {r : List W64 × Nat × Nat × Bool}

/-! ### The queue that is examined (R224) -/

theorem issueFrom_skip (h : s.queueOpen q = false) (qs : List Nat) : s.issueFrom (q :: qs) = s.issueFrom qs :=
  if_pos (by simp [h])

theorem issueFrom_append_of_closed {l : List Nat} (h : ∀ p ∈ l, s.queueOpen p = false) (m : List Nat) :
    s.issueFrom (l ++ m) = s.issueFrom m := by
  induction l with
  | nil => rfl
  | cons p l ih =>
    exact (issueFrom_skip (h p List.mem_cons_self) (l ++ m)).trans (ih fun x hx => h x (List.mem_cons_of_mem p hx))

theorem issueFrom_of_closed {l : List Nat} (h : ∀ p ∈ l, s.queueOpen p = false) : s.issueFrom l = s := by
  rw [← List.append_nil l]
  exact issueFrom_append_of_closed h []

/-- The queues are examined in their order, past those with nothing to examine. -/
theorem exec_passIssue_of_first (hq : q < 4) (hopen : s.issueOpen = true) (hfirst : ∀ p, p < q → s.queueOpen p = false) :
    ∃ qs, (∀ p ∈ qs, p < 4 ∧ q < p) ∧ exec .passIssue s = .next (s.issueFrom (q :: qs)) := by
  obtain ⟨qs, hqs, hlater⟩ : ∃ qs, [0, 1, 2, 3] = List.range q ++ q :: qs ∧ ∀ p ∈ qs, p < 4 ∧ q < p := by
    interval_cases q <;> exact ⟨_, rfl, by decide⟩
  refine ⟨qs, hlater, congrArg Host.Outcome.next ((if_pos hopen).trans ?_)⟩
  rw [hqs]
  exact issueFrom_append_of_closed (fun p hp => hfirst p (List.mem_range.mp hp)) _

/-! ### What becomes of its head (R220, R224) -/

/-- The descriptor at the head of queue `q`. -/
def State.headDesc (s : State) (q : Nat) : List W64 := s.descAt q (s.get (STEP_QHEAD.ISSUE q))

/-- Where it lies. -/
def State.headOff (s : State) (q : Nat) : Nat := s.descOff q (s.get (STEP_QHEAD.ISSUE q))

theorem issueFrom_of_refused (hopen : s.queueOpen q = true) (hbad : descRefused s.lit.passes (s.headDesc q) = true) (qs : List Nat) :
    s.issueFrom (q :: qs) =
      (s.readDesc (s.headOff q)).refuseDesc q (s.get (STEP_QHEAD.ISSUE q)) (s.gaddr 1 (s.headOff q)) :=
  (if_neg (by simp [hopen])).trans (if_pos hbad)

/-- The head of queue `q`, which would run as `d`, is refused for its layer entry (R247). -/
def State.layerRefused (s : State) (q : Nat) (d : List W64) : State :=
  let t := s.sowerCapture (passLayer d) (passMb d) 0 1
  ((t.readDesc (s.headOff q)).put SOWER_ERR.LAYER_BAD 1).refuseDesc q (s.get (STEP_QHEAD.ISSUE q)) (t.gaddr 1 (s.headOff q))

theorem issueFrom_of_good (hopen : s.queueOpen q = true) (hgood : descRefused s.lit.passes (s.headDesc q) = false)
    (hrun : s.runOf (s.headDesc q) = some r) (qs : List Nat) :
    s.issueFrom (q :: qs) = if !s.mayIssue r.1 then s.issueFrom qs
      else if s.engineRefuses r.1 then s.layerRefused q r.1 else (s.readDesc (s.headOff q)).issuePass q r := by
  refine (if_neg (by simp [hopen])).trans ((if_neg (Bool.eq_false_iff.mp hgood)).trans ?_)
  unfold State.headDesc at hrun
  dsimp only
  rw [hrun]
  rfl

theorem issueFrom_of_waits (hopen : s.queueOpen q = true) (hgood : descRefused s.lit.passes (s.headDesc q) = false)
    (hrun : s.runOf (s.headDesc q) = some r) (hmay : s.mayIssue r.1 = false) (qs : List Nat) :
    s.issueFrom (q :: qs) = s.issueFrom qs :=
  (issueFrom_of_good hopen hgood hrun qs).trans (if_pos (by simp [hmay]))

theorem issueFrom_of_issues (hopen : s.queueOpen q = true) (hgood : descRefused s.lit.passes (s.headDesc q) = false)
    (hrun : s.runOf (s.headDesc q) = some r) (hmay : s.mayIssue r.1 = true) (hengine : s.engineRefuses r.1 = false) (qs : List Nat) :
    s.issueFrom (q :: qs) = (s.readDesc (s.headOff q)).issuePass q r :=
  (issueFrom_of_good hopen hgood hrun qs).trans ((if_neg (by simp [hmay])).trans (if_neg (Bool.eq_false_iff.mp hengine)))

/-! ### A refused descriptor (R220) -/

/-- The refusal as its registers and its record show it. -/
def State.descRecorded (s : State) (q idx addr : Nat) : State :=
  State.errlog (((s.put STEP_ERR.DESC_BAD 1).put STEP_ERR.DESC_Q q).put STEP_ERR.DESC_IDX idx)
    { cls := 0xB, block := 4, detail := q + 4 * idx, addr := addr }

/-- The step that is abandoned without replay for a refused descriptor. -/
def State.descHalted (s : State) : State :=
  { (s.sendAbandon 6).put STEP_STATUS.STATE stepHalted with sched := { s.sched with descHalt := true } }

theorem get_descHalted_ne (s : State) {f : Fld} (hf : f.reg ≠ STEP_STATUS.STATE.reg) : s.descHalted.get f = s.get f :=
  get_put_ne _ _ (.inl hf)

theorem refuseDesc_of_open {idx addr : Nat} (hrun : (s.descRecorded q idx addr).stepState = stepRunning)
    (hflushed : (s.descRecorded q idx addr).sched.flushedSent = false) :
    s.refuseDesc q idx addr = (s.descRecorded q idx addr).descHalted := by
  unfold State.refuseDesc
  dsimp only
  exact if_pos ⟨.inl hrun, by rw [Bool.not_eq_true', Bool.and_eq_false_iff]; exact .inl hflushed⟩

/-- What the refusal of the head of queue `q` leaves of the state `s` in which it was examined. -/
structure RefusesDesc (q idx : Nat) (s t : State) : Prop where
  state : t.stepState = stepHalted
  bad : t.get STEP_ERR.DESC_BAD = 1
  queue : t.get STEP_ERR.DESC_Q = q
  index : t.get STEP_ERR.DESC_IDX = idx
  inflight : t.sched.inflight = s.sched.inflight
  rest : t.seedbed = s.seedbed ∧ t.lit = s.lit ∧ t.field = s.field

theorem keepsStep_descRecorded (s : State) (q idx addr : Nat) :
    KeepsStep [] (((s.put STEP_ERR.DESC_BAD 1).put STEP_ERR.DESC_Q q).put STEP_ERR.DESC_IDX idx) (s.descRecorded q idx addr) :=
  .errlog _ _

theorem refusesDesc_of_running {idx addr : Nat} (hq : q < 4) (hidx : idx < 65536) (hrun : s.stepState = stepRunning)
    (hflushed : s.sched.flushedSent = false) : RefusesDesc q idx s (s.refuseDesc q idx addr) := by
  have hrec := keepsStep_descRecorded s q idx addr
  have hstate : (s.descRecorded q idx addr).stepState = stepRunning :=
    (hrec.get_eq (by decide) (by decide)).trans ((get_put_ne _ _ (by decide)).trans ((get_put_ne _ _ (by decide)).trans
      ((get_put_ne _ _ (by decide)).trans hrun)))
  have hsent : (s.descRecorded q idx addr).sched.flushedSent = false := by rw [hrec.sched]; exact hflushed
  rw [refuseDesc_of_open hstate hsent]
  refine ⟨get_put_self _ _ (by decide), ?bad, ?queue, ?index, hrec.passes (by simp), (hrec.tiers (by simp)).1, hrec.planes.1,
    hrec.field (by simp)⟩
  case bad =>
    rw [get_descHalted_ne _ (by decide), hrec.get_eq (by decide) (by decide), get_put_ne _ _ (by decide), get_put_ne _ _ (by decide),
      get_put_self _ _ (by decide)]
    rfl
  case queue =>
    rw [get_descHalted_ne _ (by decide), hrec.get_eq (by decide) (by decide), get_put_ne _ _ (by decide), get_put_self _ _ (by decide)]
    exact Nat.mod_eq_of_lt hq
  case index =>
    rw [get_descHalted_ne _ (by decide), hrec.get_eq (by decide) (by decide), get_put_self _ _ (by decide)]
    exact Nat.mod_eq_of_lt hidx

theorem RefusesDesc.of_keepsStep {idx : Nat} {u : State} (h : RefusesDesc q idx t u) (k : KeepsStep [] s t) : RefusesDesc q idx s u where
  state := h.state
  bad := h.bad
  queue := h.queue
  index := h.index
  inflight := h.inflight.trans (k.passes (by simp))
  rest := by
    obtain ⟨htier, hplane, hfield⟩ := h.rest
    exact ⟨htier.trans (k.tiers (by simp)).1, hplane.trans k.planes.1, hfield.trans (k.field (by simp))⟩

/-- The scheduler's read of the descriptor leaves the step running, and the refusal stops it. -/
theorem refusesDesc_of_examined (hq : q < 4) (hrun : s.stepState = stepRunning) (hflushed : s.sched.flushedSent = false)
    (off addr : Nat) : RefusesDesc q (s.get (STEP_QHEAD.ISSUE q)) s ((s.readDesc off).refuseDesc q (s.get (STEP_QHEAD.ISSUE q)) addr) := by
  have hread : KeepsStep [] s (s.readDesc off) := .readDesc s off
  have hsent : (s.readDesc off).sched.flushedSent = false := by rw [hread.sched]; exact hflushed
  exact (refusesDesc_of_running hq (get_lt s _) ((hread.get_eq (by decide) (by decide)).trans hrun) hsent).of_keepsStep hread

/-! ### A Pass in flight (R214, R221) -/

namespace KeepsStep

variable {may : List StepPart}

theorem withField (hmay : .field ∈ may) (s : State) (f : FieldSt) : KeepsStep may s { s with field := f } :=
  ⟨⟨rfl, rfl⟩, rfl, fun _ _ _ => rfl, fun _ => rfl, (absurd hmay ·), fun _ => rfl, fun _ => ⟨rfl, rfl⟩⟩

theorem clearUnits (hmay : .field ∈ may) (s : State) (plots : List Nat) : KeepsStep may s (s.clearUnits plots) := withField hmay s _

theorem startWalks (hmay : .field ∈ may) (s : State) (p : PassSt) : KeepsStep may s (s.startWalks p) :=
  each (fun u _ _ => each (fun v _ _ => withField hmay v _) u) s

theorem withPower (s : State) (p : PowerSt) : KeepsStep may s { s with power := p } := beside rfl rfl fun _ _ _ => rfl

theorem setGlow (s : State) (w : Nat) : KeepsStep may s (s.setGlow w) :=
  ((withPower s _).trans (put _ _ (.inl (by decide)))).trans (put _ _ (.inl (by decide)))

theorem glowRestore (s : State) : KeepsStep may s s.glowRestore := by
  unfold State.glowRestore
  split
  · exact refl s
  · exact (withPower s _).trans (setGlow _ _)

end KeepsStep

/-- The Pass that queue `q` issues as `r`. -/
def State.newPass (s : State) (q : Nat) (r : List W64 × Nat × Nat × Bool) : PassSt :=
  ⟨s.sched.nextPseq % 65536, q, s.get (STEP_QHEAD.ISSUE q), r.1, r.2.1, r.2.2.1, r.2.2.2, s.field.cycle, s.sched.nextOrder, false, .zero⟩

/-- Once a Pass is in flight, what its issue starts leaves the step machine alone. -/
theorem keepsStep_issuePass (s : State) (q : Nat) (r : List W64 × Nat × Nat × Bool) :
    KeepsStep [.field] (s.enterPass (s.newPass q r)) (s.issuePass q r) := by
  have hfield : StepPart.field ∈ [StepPart.field] := List.mem_cons_self
  have hstarted (u : State) (p : PassSt) :
      KeepsStep [.field] u (((u.glowRestore.clearUnits (passPlots p.desc)).startWalks p).engineIssue p) :=
    (((KeepsStep.glowRestore u).trans (.clearUnits hfield _ _)).trans (.startWalks hfield _ _)).trans (.engineIssue _ _)
  exact (KeepsStep.trans (hstarted _ _) (.boardRequest ..)).ite (hstarted _ _)

theorem inflight_lt_of_mayIssue {d : List W64} (h : s.mayIssue d = true) : s.sched.inflight.length < 8 := by
  rw [State.mayIssue, Bool.and_eq_true] at h
  exact of_decide_eq_true h.2

theorem get_enterPass_issue (s : State) (p : PassSt) : (s.enterPass p).get (STEP_QHEAD.ISSUE p.queue) = (p.pos + 1) % 65536 := by
  have hne : (STEP_QHEAD.ISSUE p.queue).reg ≠ STEP_STATUS.INFLIGHT.reg := by simp only [ne_eq]; omega
  exact (get_put_ne _ _ (.inl hne)).trans (get_put_self _ _ (show 16 + 16 ≤ 64 by decide))

theorem get_enterPass_inflight (s : State) (p : PassSt) (h : s.sched.inflight.length < 8) :
    (s.enterPass p).get STEP_STATUS.INFLIGHT = s.sched.inflight.length + 1 := by
  refine (get_put_self _ _ (by decide)).trans ?_
  show (s.sched.inflight ++ [p]).length % 16 = _
  rw [List.length_append, List.length_singleton]
  omega

/-- What the issue of `r` from queue `q` leaves of the state `s` in which it was examined. -/
structure IssuesPass (q : Nat) (r : List W64 × Nat × Nat × Bool) (s t : State) (p : PassSt) : Prop where
  inflight : t.sched.inflight = s.sched.inflight ++ [p]
  run : p.desc = r.1 ∧ p.queue = q ∧ p.pos = s.get (STEP_QHEAD.ISSUE q)
  asVariant : p.template = r.2.1 ∧ p.bucket = r.2.2.1 ∧ p.issueCycle = s.field.cycle
  issue : t.get (STEP_QHEAD.ISSUE q) = (s.get (STEP_QHEAD.ISSUE q) + 1) % 65536
  count : t.get STEP_STATUS.INFLIGHT = s.sched.inflight.length + 1
  planes : t.lit = s.lit ∧ t.dark = s.dark

theorem issuesPass_newPass (hq : q < 4) (h : s.sched.inflight.length < 8) : IssuesPass q r s (s.issuePass q r) (s.newPass q r) := by
  have k := keepsStep_issuePass s q r
  have hhead : blockOf (STEP_QHEAD.ISSUE q).reg = 4 ∧ (STEP_QHEAD.ISSUE q).reg ≠ STEP_MSB.USED.reg := by
    interval_cases q <;> decide
  exact ⟨k.passes (by simp), ⟨rfl, rfl, rfl⟩, ⟨rfl, rfl, rfl⟩, (k.get_eq hhead.1 hhead.2).trans (get_enterPass_issue s (s.newPass q r)),
    (k.get_eq (by decide) (by decide)).trans (get_enterPass_inflight s _ h), k.planes⟩

theorem issuesPass_of_examined (hq : q < 4) (h : s.sched.inflight.length < 8) (off : Nat) :
    ∃ p, IssuesPass q r s ((s.readDesc off).issuePass q r) p := by
  have k : KeepsStep [] s (s.readDesc off) := .readDesc s off
  have hinflight := k.passes (by simp)
  have hfield := k.field (by simp)
  have hhead : (s.readDesc off).get (STEP_QHEAD.ISSUE q) = s.get (STEP_QHEAD.ISSUE q) := by
    interval_cases q <;> exact k.get_eq (by decide) (by decide)
  obtain ⟨hlist, hrun, hvariant, hissue, hcount, hplanes⟩ := issuesPass_newPass (r := r) hq (by rw [hinflight]; exact h)
  rw [hinflight] at hlist hcount
  rw [hhead] at hrun hissue
  rw [hfield] at hvariant
  exact ⟨_, hlist, hrun, hvariant, hissue, hcount, hplanes.1.trans k.planes.1, hplanes.2.trans k.planes.2⟩

end Issue

/-- Settles O10: by what becomes of the descriptor at the head of the first queue that has one to examine. -/
theorem passIssue : Obligations.PassIssue := by
  unfold Obligations.PassIssue
  intro s q hq hopen hqueue hfirst i d
  obtain ⟨qs, hqs, hexec⟩ := exec_passIssue_of_first hq hopen hfirst
  have hrun : s.stepState = stepRunning := by
    rw [State.issueOpen, Bool.and_eq_true, Bool.and_eq_true, decide_eq_true_eq] at hopen
    obtain ⟨⟨⟨hstate, -⟩, -⟩, -⟩ := hopen
    exact hstate
  rw [hexec]
  refine ⟨fun hbad hflushed => ?refused, fun r hgood hvariant hmay hengine => ?issues, fun r hgood hvariant hmay hlater => ?waits⟩
  case refused =>
    rw [issueFrom_of_refused hqueue hbad]
    obtain ⟨hstate, hdesc, hnum, hidx, hinflight, hrest⟩ :=
      refusesDesc_of_examined hq hrun hflushed (s.headOff q) (s.gaddr 1 (s.headOff q))
    exact ⟨_, rfl, hstate, hdesc, hnum, hidx, hinflight, hrest⟩
  case issues =>
    rw [issueFrom_of_issues hqueue hgood hvariant hmay hengine]
    obtain ⟨p, hinflight, ⟨hdesc, hnum, hpos⟩, ⟨htemplate, hbucket, hcycle⟩, hissue, hcount, hplanes⟩ :=
      issuesPass_of_examined (r := r) hq (inflight_lt_of_mayIssue hmay) (s.headOff q)
    exact ⟨_, p, rfl, hinflight, hdesc, hnum, hpos, htemplate, hbucket, hcycle, hissue, hcount, hplanes⟩
  case waits =>
    rw [issueFrom_of_waits hqueue hgood hvariant hmay, issueFrom_of_closed fun p hp => (hqs p hp).elim (hlater p)]

end Sys2Proof.Machine
end

section
/-!
PROOFS. Completion of a Pass, a hang, and the end of a wait for the memory scoreboard (R217, R222, R226 to R228, R236, R429).
-/
namespace Sys2Proof.Machine

section Completion

variable {s t u : State} {p : PassSt} {pseq : Nat}

/-! ### Writes to Topsoil, and the rotation that a Pass's end lets begin (R206, R477) -/

namespace KeepsStep

variable {may : List StepPart}

theorem withWard (s : State) (w : WardSt) : KeepsStep may s { s with ward := w } := beside rfl rfl fun _ _ _ => rfl

theorem sendDelta (s : State) (off k : Nat) (d : Payload) : KeepsStep may s (s.sendDelta off k d) :=
  (((request s ..).trans (withWard _ _)).trans (put _ _ (.inl (by decide)))).trans (bump _ _ (by decide))

theorem deltas (old : Mem) (l n : Nat) (s : State) : KeepsStep may s (s.deltas old l n) := by
  induction n generalizing l s with
  | zero => exact refl s
  | succ n ih =>
    rw [State.deltas]
    refine trans ?_ (ih (l + 1) _)
    split
    · exact (refl s).ite (sendDelta s ..)
    · exact refl s

theorem topWrite (hmay : .topsoil ∈ may) (s : State) (o : Nat) (bs : List Byte) : KeepsStep may s (s.topWrite o bs) := by
  have hstored (m : Mem) : KeepsStep may s (State.topTouch { s with topsoil := m } o bs.length) :=
    (withTopsoil hmay s m).trans (topTouch _ o bs.length)
  unfold State.topWrite
  exact (((hstored _).trans (deltas ..)).ite (hstored _)).ite (topTouch s o bs.length)

theorem setQueue (hmay : .field ∈ may) (s : State) (q : QId) (v : Queue) : KeepsStep may s (s.setQueue q v) := withField hmay s _

theorem withRot (s : State) (r : RotSt) : KeepsStep may s { s with rot := r } := beside rfl rfl fun _ _ _ => rfl

theorem hlCapture (s : State) (plot port slot kind : Nat) : KeepsStep may s (s.hlCapture plot port slot kind) := by
  have hput (u : State) {f : Fld} (v : Nat) (hf : f.reg = 0x200030 + 0x1000 * plot) : KeepsStep may u (u.put f v) :=
    put u v (.inl (by rw [hf]; simp only [blockOf]; omega))
  unfold State.hlCapture
  exact (refl s).ite ((((hput s _ rfl).trans (hput _ _ rfl)).trans (hput _ _ rfl)).trans (hput _ _ rfl))

theorem rotNotEmpty (hmay : .field ∈ may) (s : State) (k : Nat) : KeepsStep may s (s.rotNotEmpty k) := by
  have herr (u : State) : KeepsStep may u (u.put (HL_ERR.ROT_NOT_EMPTY (k / 10)) 1) :=
    put u _ (.inl (by simp only [blockOf]; omega))
  exact (((hlCapture s ..).trans (herr _)).trans (withField hmay _ _)).trans (stepError _ _)

theorem stileNotEmpty (hmay : .field ∈ may) (s : State) (k : Nat) : KeepsStep may s (s.stileNotEmpty k) :=
  (each (fun u _ _ => setQueue hmay u _ _) s).trans (stepError _ _)

theorem rotationPoint (hmay : .field ∈ may) (s : State) (n : Nat) : KeepsStep may s (s.rotationPoint n) :=
  ((((each (fun u k _ => rotNotEmpty hmay u k) s).trans (each (fun u k _ => stileNotEmpty hmay u k) _)).trans (withRot _ _)).trans
    (put _ _ (.inl (by decide)))).trans (send _ ..)

theorem rotationNow (hmay : .field ∈ may) (s : State) : KeepsStep may s s.rotationNow := by
  unfold State.rotationNow
  split
  · exact (rotationPoint hmay s _).ite (refl s)
  · exact refl s

end KeepsStep

/-! ### The other Passes (R217, R222) -/

/-- `t` is `s` for every Pass but `pseq`: the others in flight, the count of those done, the tags, the planes, Seedbed and Subsoil. -/
structure KeepsOthers (pseq : Nat) (s t : State) : Prop where
  inflight : (t.sched.inflight.filter fun x => x.pseq != pseq) = s.sched.inflight.filter fun x => x.pseq != pseq
  passesDone : t.sched.passesDone = s.sched.passesDone
  tags : ∀ j, j < 2 → t.reg (0x40080 + 8 * j) = s.reg (0x40080 + 8 * j)
  planes : t.lit = s.lit ∧ t.dark = s.dark
  tiers : t.seedbed = s.seedbed ∧ t.subsoil = s.subsoil

namespace KeepsOthers

theorem refl (s : State) : KeepsOthers pseq s s := ⟨rfl, rfl, fun _ _ => rfl, ⟨rfl, rfl⟩, ⟨rfl, rfl⟩⟩

theorem trans (h : KeepsOthers pseq s t) (k : KeepsOthers pseq t u) : KeepsOthers pseq s u where
  inflight := k.inflight.trans h.inflight
  passesDone := k.passesDone.trans h.passesDone
  tags j hj := (k.tags j hj).trans (h.tags j hj)
  planes := ⟨k.planes.1.trans h.planes.1, k.planes.2.trans h.planes.2⟩
  tiers := ⟨k.tiers.1.trans h.tiers.1, k.tiers.2.trans h.tiers.2⟩

theorem ite {c : Prop} [Decidable c] (ht : KeepsOthers pseq s t) (hu : KeepsOthers pseq s u) :
    KeepsOthers pseq s (if c then t else u) := by
  split
  · exact ht
  · exact hu

theorem of_keepsStep {may : List StepPart} (k : KeepsStep may s t) (hpasses : .passes ∉ may) (htiers : .tiers ∉ may) :
    KeepsOthers pseq s t where
  inflight := by rw [k.passes hpasses]
  passesDone := by rw [k.sched]
  tags j hj := by interval_cases j <;> exact k.steps _ (by decide) (by decide)
  planes := k.planes
  tiers := k.tiers htiers

theorem put (s : State) {f : Fld} (v : Nat) (hf : ∀ j, j < 2 → 0x40080 + 8 * j ≠ f.reg) : KeepsOthers pseq s (s.put f v) :=
  ⟨rfl, rfl, fun j hj => reg_put_ne s v (hf j hj), ⟨rfl, rfl⟩, ⟨rfl, rfl⟩⟩

theorem countPass (s : State) (f : PassCnt → PassCnt) : KeepsOthers pseq s (s.countPass pseq f) := by
  refine ⟨?_, rfl, fun _ _ => rfl, ⟨rfl, rfl⟩, ⟨rfl, rfl⟩⟩
  show (s.sched.inflight.map _).filter _ = _
  rw [List.filter_map]
  have hsame : ((fun x : PassSt => x.pseq != pseq) ∘ fun p => if p.pseq = pseq then { p with cnt := f p.cnt } else p) =
      fun x => x.pseq != pseq := by
    funext p
    simp only [Function.comp_apply]
    split <;> rfl
  rw [hsame]
  refine (List.map_congr_left fun p hp => if_neg ?_).trans (List.map_id _)
  simpa using (List.mem_filter.mp hp).2

theorem endChecks (s : State) (p : PassSt) : KeepsOthers p.pseq s (s.endChecks p) := by
  have hfield : StepPart.field ∈ [StepPart.field] := List.mem_cons_self
  unfold State.endChecks
  dsimp only
  refine (countPass s _).trans (of_keepsStep (may := [.field]) (.trans (.trans (.trans (.each (fun u q _ => ?queue) _)
    (.each (fun u k _ => ?ring) _)) (.withField hfield _ _)) (.clearUnits hfield _ _)) (by simp) (by simp))
  case queue => exact .setQueue hfield u q _
  case ring => exact .withField hfield u _

theorem completionRecord (s : State) (bs : List Byte) : KeepsOthers pseq s (s.completionRecord bs) := by
  have hwrite (o : Nat) : KeepsOthers pseq s (s.topWrite o bs) :=
    of_keepsStep (may := [.topsoil]) (.topWrite List.mem_cons_self s o bs) (by simp) (by simp)
  unfold State.completionRecord
  exact (put s _ (by decide)).ite ((hwrite _).trans (put _ _ (by decide)))

theorem overrun (s : State) (p : PassSt) (cycles : Nat) : KeepsOthers pseq s (s.overrun p cycles) := by
  have hovr (u : State) {f : Fld} (v : Nat) (hf : f.reg = 0x400D8) : KeepsOthers pseq u (u.put f v) := put u v (by rw [hf]; decide)
  unfold State.overrun
  split
  · exact refl s
  · refine .trans ?_ (put _ 1 (f := STEP_ERR.OVERRUN) (by decide))
    exact (refl s).ite (((hovr s _ rfl).trans (hovr _ _ rfl)).trans (hovr _ _ rfl))

/-- Queries stand apart from the Passes. -/
theorem withQueries (s : State) (n : Nat) (l : List Query) :
    KeepsOthers pseq s { s with sched := { s.sched with nextQid := n, queries := l } } := { refl s with }

theorem raiseQuery (s : State) (d : List W64) (hist n : Nat) : KeepsOthers pseq s (s.raiseQuery d hist n) := by
  have hwrite (o : Nat) (bs : List Byte) : KeepsOthers pseq s (s.topWrite o bs) :=
    of_keepsStep (may := [.topsoil]) (.topWrite List.mem_cons_self s o bs) (by simp) (by simp)
  unfold State.raiseQuery
  dsimp only
  split
  · exact (put s _ (f := STEP_QSTAT.DROPPED) (by decide)).trans (withQueries _ _ _)
  · exact (hwrite _ _).trans (withQueries _ _ _)

end KeepsOthers

/-! ### A Pass completes (R217, R222, R226) -/

theorem reg_passTags (s : State) (d : List W64) {j : Nat} (hj : j < 2) :
    (s.passTags d).reg (0x40080 + 8 * j) = s.reg (0x40080 + 8 * j) &&& ~~~passWord d (6 + j) ||| passWord d (4 + j) := by
  let t := s.setReg 0x40080 ((s.reg 0x40080 &&& ~~~passWord d 6) ||| passWord d 4)
  have htags : s.passTags d = t.setReg 0x40088 ((t.reg 0x40088 &&& ~~~passWord d 7) ||| passWord d 5) := rfl
  rw [htags]
  interval_cases j
  · exact (reg_setReg_ne t _ (by decide)).trans (reg_setReg_self s _ _)
  · exact (reg_setReg_self t _ _).trans (by rw [reg_setReg_ne s _ (by decide)])

/-- A Pass's own count does not change which Pass it is. -/
theorem pseq_getD_find? (l : List PassSt) (p : PassSt) : ((l.find? fun x => x.pseq == p.pseq).getD p).pseq = p.pseq := by
  cases hfind : l.find? fun x => x.pseq == p.pseq with
  | none => rfl
  | some x => exact eq_of_beq (List.find?_some hfind :)

theorem sched_leavePass (s : State) (p : PassSt) : (s.leavePass p).sched = { s.sched with
    inflight := s.sched.inflight.filter (fun x => x.pseq != p.pseq), passesDone := s.sched.passesDone + 1 } := by
  unfold State.leavePass
  dsimp only
  split <;> rfl

theorem leavePass_frame (s : State) (p : PassSt) :
    s.leavePass p = { s with regs := (s.leavePass p).regs, sched := (s.leavePass p).sched } := by
  unfold State.leavePass
  dsimp only
  split <;> rfl

theorem reg_leavePass_ne (s : State) (p : PassSt) {off : Nat} (h : off ≠ STEP_STATUS.INFLIGHT.reg) :
    (s.leavePass p).reg off = s.reg off := by
  unfold State.leavePass
  dsimp only
  split
  · exact (reg_put_ne (f := STEP_STATUS.STEP_END_DONE) _ _ h).trans (reg_put_ne _ _ h)
  · exact reg_put_ne _ _ h

/-- What the completion of `p` leaves. -/
structure PassLeaves (p : PassSt) (s t : State) : Prop where
  inflight : t.sched.inflight = s.sched.inflight.filter fun x => x.pseq != p.pseq
  passesDone : t.sched.passesDone = s.sched.passesDone + 1
  tags : ∀ j, j < 2 → t.reg (0x40080 + 8 * j) = s.reg (0x40080 + 8 * j) &&& ~~~passWord p.desc (6 + j) ||| passWord p.desc (4 + j)
  planes : t.lit = s.lit ∧ t.dark = s.dark
  tiers : t.seedbed = s.seedbed ∧ t.subsoil = s.subsoil

/-- The tags of a Pass that has left no row in its queues. -/
def State.passTagged (s : State) (p : PassSt) : State := (s.endChecks p).passTags p.desc

/-- The Pass with the counts that it ends with. -/
def State.lastCount (s : State) (p : PassSt) : PassSt := (s.sched.inflight.find? fun x => x.pseq == p.pseq).getD p

/-- The records of a Pass that ends as `p`: its completion, an overrun, its query. -/
def State.passRecorded (s : State) (p : PassSt) (cycles : Nat) : State :=
  let t := (s.completionRecord (s.passRecord p cycles)).overrun p cycles
  if passQraise p.desc && !p.queried then t.raiseQuery p.desc 0 0 else t

theorem completePass_eq (s : State) (p : PassSt) : s.completePass p =
    (((s.passTagged p).passRecorded ((s.passTagged p).lastCount p) (s.field.cycle - p.issueCycle)).leavePass
      ((s.passTagged p).lastCount p)).rotationNow := rfl

theorem keepsOthers_passRecorded (s : State) (p : PassSt) (cycles : Nat) : KeepsOthers pseq s (s.passRecorded p cycles) :=
  have hrecord := (KeepsOthers.completionRecord s _).trans (.overrun _ p cycles)
  (hrecord.trans (.raiseQuery ..)).ite hrecord

theorem passLeaves_completePass (s : State) (p : PassSt) : PassLeaves p s (s.completePass p) := by
  have hpseq := pseq_getD_find? (s.passTagged p).sched.inflight p
  rw [completePass_eq, State.lastCount]
  generalize ((s.passTagged p).sched.inflight.find? fun x => x.pseq == p.pseq).getD p = last at hpseq ⊢
  generalize s.field.cycle - p.issueCycle = cycles
  have hends : KeepsOthers p.pseq s (s.endChecks p) := .endChecks s p
  have hrecords : KeepsOthers p.pseq (s.passTagged p) ((s.passTagged p).passRecorded last cycles) := keepsOthers_passRecorded ..
  generalize (s.passTagged p).passRecorded last cycles = u at hrecords ⊢
  have hframe := leavePass_frame u last
  have hsched := sched_leavePass u last
  have hnow : KeepsStep [.field] (u.leavePass last) (u.leavePass last).rotationNow := .rotationNow List.mem_cons_self _
  refine ⟨?inflight, ?done, fun j hj => ?tags, ?planes, ?tiers⟩
  case inflight =>
    rw [hnow.passes (by simp), hsched, hpseq]
    exact hrecords.inflight.trans hends.inflight
  case done =>
    rw [hnow.sched, hsched]
    exact congrArg (· + 1) (hrecords.passesDone.trans hends.passesDone)
  case tags =>
    have hleft : (u.leavePass last).reg (0x40080 + 8 * j) = u.reg (0x40080 + 8 * j) :=
      reg_leavePass_ne u last (by interval_cases j <;> decide)
    have hlast : (u.leavePass last).rotationNow.reg (0x40080 + 8 * j) = (u.leavePass last).reg (0x40080 + 8 * j) := by
      interval_cases j <;> exact hnow.steps _ (by decide) (by decide)
    rw [hlast, hleft, hrecords.tags j hj, State.passTagged, reg_passTags _ _ hj, hends.tags j hj]
  case planes =>
    obtain ⟨hlit, hdark⟩ := hrecords.planes
    rw [hnow.planes.1, hnow.planes.2, hframe]
    exact ⟨hlit.trans hends.planes.1, hdark.trans hends.planes.2⟩
  case tiers =>
    obtain ⟨hseedbed, hsubsoil⟩ := hrecords.tiers
    rw [(hnow.tiers (by simp)).1, (hnow.tiers (by simp)).2, hframe]
    exact ⟨hseedbed.trans hends.tiers.1, hsubsoil.trans hends.tiers.2⟩

/-! ### The commands (R228, R236, R429) -/

theorem clocked_of_running {α : Type} (h : s.get CANDLE_GOV.HOLD = 0) (o : Option α) : s.clocked o = o :=
  if_neg (by simp [State.flag, h])

theorem exec_passComplete_of_done {n : BitVec 16} (hhold : s.get CANDLE_GOV.HOLD = 0)
    (hfind : (s.sched.inflight.find? fun p => p.pseq == n.toNat) = some p) (hdone : s.passDone p.pseq = true) :
    exec (.passComplete n) s = .next (s.completePass p) := by
  show Host.Outcome.next _ = _
  rw [clocked_of_running hhold, hfind]
  exact congrArg Host.Outcome.next (if_pos hdone)

/-- An event of the step in progress, before FLUSHED, goes to the leader at once (R239). -/
theorem charge_of_running (hrun : s.stepState = stepRunning) (hdesc : s.sched.descHalt = false) (hflushed : s.sched.flushedSent = false)
    (c : Nat) : s.charge c = s.sendAbandon c := by
  unfold State.charge
  dsimp only
  rw [if_neg (by rw [hrun, hdesc]; decide), if_pos (.inl hrun), if_neg (by simp [hflushed])]

theorem exec_hangTimeout_of_running {n : BitVec 16} (hfly : (s.sched.inflight.any fun p => p.pseq == n.toNat) = true)
    (hrun : s.stepState = stepRunning) (hdesc : s.sched.descHalt = false) (hflushed : s.sched.flushedSent = false) :
    exec (.hangTimeout n) s = .next ((s.put STEP_ERR.HANG 1).sendAbandon 2) := by
  have hrun' : (s.put STEP_ERR.HANG 1).stepState = stepRunning := (get_put_ne _ _ (by decide)).trans hrun
  exact congrArg Host.Outcome.next ((if_pos hfly).trans (charge_of_running hrun' hdesc hflushed 2))

theorem sendAbandon_put_hang (s : State) (c : Nat) : (s.put STEP_ERR.HANG 1).sendAbandon c = (s.put STEP_ERR.HANG 1).send 3 0x0202
    s.leaderAt (stepMsg (s.get STEP_NUM.STEP) [BitVec.ofNat 8 c, BitVec.ofNat 8 (s.get ROUTE_SELF.INDEX)]) := by
  have hput {f : Fld} (hf : f.reg ≠ STEP_ERR.HANG.reg) : (s.put STEP_ERR.HANG 1).get f = s.get f := get_put_ne _ _ (.inl hf)
  rw [State.sendAbandon, leaderAt_congr (s := s) (reg_put_ne _ _ (by decide)) rfl, hput (by decide), hput (by decide)]

/-- The end of a wait: the entry is taken, the wait counts, and nothing else changes. -/
structure WaitEnds (o : MemOp) (s t : State) : Prop where
  entries : t.sched.entries = s.sched.entries ++ [o]
  waiting : t.sched.waiting = s.sched.waiting.erase o
  used : t.get STEP_MSB.USED = (s.sched.entries.length + 1) % 2 ^ 15
  rest : t = { s with regs := t.regs, sched := { s.sched with
    entries := t.sched.entries, waiting := t.sched.waiting, inflight := t.sched.inflight } }
  fields : SameFieldsBut [STEP_MSB.USED, STEP_MSB.HIGH] s t

theorem waitEnds_taken (s : State) (o : MemOp) :
    WaitEnds o s (State.boardTake { s with sched := { s.sched with waiting := s.sched.waiting.erase o } } o) := by
  refine ⟨rfl, rfl, (get_put_ne _ _ (by decide)).trans ((get_put_self _ _ (by decide)).trans ?_), rfl,
    (SameFieldsBut.put _ (fun _ _ => rfl) (by simp)).put _ (by simp)⟩
  show (s.sched.entries ++ [o]).length % 2 ^ 15 = _
  rw [List.length_append, List.length_singleton]

theorem WaitEnds.countPass {o : MemOp} (h : WaitEnds o s t) (n : Nat) (f : PassCnt → PassCnt) : WaitEnds o s (t.countPass n f) :=
  ⟨h.entries, h.waiting, h.used, by rw [h.rest]; rfl, h.fields.of_regs rfl⟩

theorem waitEnds_waitEnd (s : State) (o : MemOp) : WaitEnds o s (s.waitEnd o) := by
  unfold State.waitEnd
  cases o.pseq with
  | none => exact waitEnds_taken s o
  | some n => exact (waitEnds_taken s o).countPass n _

theorem exec_scoreboardWaitEnd_of_free {n : Nat} {o : MemOp} (hhold : s.get CANDLE_GOV.HOLD = 0)
    (hfind : (s.sched.waiting.find? fun o => o.ticket == n) = some o) (hfree : s.boardBlocks o = false) :
    exec (.scoreboardWaitEnd n) s = .next (s.waitEnd o) := by
  show Host.Outcome.next _ = _
  rw [clocked_of_running hhold, hfind]
  exact congrArg Host.Outcome.next (if_neg (Bool.eq_false_iff.mp hfree))

end Completion

/-- Settles O11: the Pass leaves flight (`PassLeaves`), the hang is an event of the running step, and the wait ends (`WaitEnds`). -/
theorem passCompletion : Obligations.PassCompletion := by
  unfold Obligations.PassCompletion
  intro s
  refine ⟨fun n p hhold hfind hdone => ?complete, fun n hfly hrun hdesc hflushed => ?hang, fun n o hhold hfind hfree => ?wait⟩
  case complete =>
    rw [exec_passComplete_of_done hhold hfind hdone]
    obtain ⟨hinflight, hcount, htags, hplanes, htiers⟩ := passLeaves_completePass s p
    exact ⟨_, rfl, hinflight, hcount, htags, hplanes.1, hplanes.2, htiers.1, htiers.2⟩
  case hang =>
    rw [exec_hangTimeout_of_running hfly hrun hdesc hflushed, sendAbandon_put_hang]
    rfl
  case wait =>
    rw [exec_scoreboardWaitEnd_of_free hhold hfind hfree]
    obtain ⟨hentries, hwaiting, hused, hrest, hfields⟩ := waitEnds_waitEnd s o
    exact ⟨_, rfl, hentries, hwaiting, hused, hrest, hfields⟩

end Sys2Proof.Machine
end

section
/-!
PROOFS. Step queries: dispatch, answers, deadlines and the watchdog, and what the Sower does once a bucket is settled (R231 to R234,
R260 to R264, R473).
-/
namespace Sys2Proof.Machine

section Queries

variable {s t u : State}

/-! ### The Sower's work once its bucket is settled (R251, R260 to R264) -/

namespace KeepsStep

variable {may : List StepPart}

theorem countPass (hmay : .passes ∈ may) (s : State) (n : Nat) (f : PassCnt → PassCnt) : KeepsStep may s (s.countPass n f) :=
  ⟨⟨rfl, rfl⟩, rfl, fun _ _ _ => rfl, (absurd hmay ·), fun _ => rfl, fun _ => rfl, fun _ => ⟨rfl, rfl⟩⟩

theorem withTiers (hmay : .tiers ∈ may) (s : State) (m n : Mem) : KeepsStep may s { s with seedbed := m, subsoil := n } :=
  ⟨⟨rfl, rfl⟩, rfl, fun _ _ _ => rfl, fun _ => rfl, fun _ => rfl, fun _ => rfl, (absurd hmay ·)⟩

theorem subWrite (hmay : .tiers ∈ may) (s : State) (o : Nat) (bs : List Byte) : KeepsStep may s (s.subWrite o bs) := by
  have htouch (u : State) : KeepsStep may u (u.subTouch o bs.length) := (bump u _ (by decide)).ite (errlog u _)
  exact ((withTiers hmay s s.seedbed _).ite (refl s)).trans (htouch _)

theorem topPutWord (hmay : .topsoil ∈ may) (s : State) (o w : Nat) : KeepsStep may s (s.topPutWord o w) := topWrite hmay s o _

theorem pokeAt (htop : .topsoil ∈ may) (htiers : .tiers ∈ may) (s : State) (a : Nat) (bs : List Byte) :
    KeepsStep may s (s.pokeAt a bs) := by
  unfold State.pokeAt
  split
  · exact withTiers htiers s _ s.subsoil
  · exact topWrite htop s _ bs
  · exact subWrite htiers s _ bs
  · exact refl s

theorem foldl_fst {α β : Type} {f : State × β → α → State × β} (hf : ∀ a x, KeepsStep may a.1 (f a x).1) (l : List α) (a : State × β) :
    KeepsStep may a.1 (l.foldl f a).1 := by
  induction l generalizing a with
  | nil => exact refl a.1
  | cons x l ih => exact (hf a x).trans (ih (f a x))

theorem agentPump (hmay : .field ∈ may) (s : State) : KeepsStep may s s.agentPump := by
  have hpush (q : QId) (ts : List Token) (u : State) : KeepsStep may u (u.each ts fun s t => s.push q t) :=
    each (fun v _ _ => setQueue hmay v q _) u
  unfold State.agentPump
  exact (foldl_fst (fun a e => hpush e.1 _ a.1) s.moe.agentOut (s, [])).trans (withMoe _ _)

theorem agentSend (hmay : .field ∈ may) (s : State) (q : Nat) (ts : List Token) : KeepsStep may s (s.agentSend q ts) :=
  (withMoe s _).trans (agentPump hmay _)

theorem engineNext (hmay : .passes ∈ may) (s : State) (gl mb : Bool) : KeepsStep may s (s.engineNext gl mb) := by
  unfold State.engineNext
  split
  · exact refl s
  · dsimp only
    split
    · exact withMoe s _
    · exact ((withMoe s _).trans (countPass hmay _ _ _)).trans ((gleanStart _ _).ite (sowerStart _ _))

theorem sowerRetire (hmay : .passes ∈ may) (s : State) (mb : Bool) : KeepsStep may s (s.sowerRetire mb) := by
  unfold State.sowerRetire
  split
  · exact refl s
  · exact ((((withMoe s _).trans (boardRetire _ _)).trans (engineNext hmay _ _ _)).trans (moeStatus _)).ite (moeStatus s)

theorem fetchRequest (s : State) (mb : Bool) (w : SowerSt) (e : Option ResEntry) (j slot : Nat) :
    KeepsStep may s (s.fetchRequest mb w e j slot) := by
  unfold State.fetchRequest
  refine trans ?_ (boardRequest ..)
  split
  · exact (boardRequest s ..).ite (refl s)
  · exact refl s

theorem domWait (s : State) (d : Nat) : KeepsStep may s (s.domWait d) := (refl s).ite (put s _ (.inl (by decide)))

theorem domRequest (s : State) (d : Nat) : KeepsStep may s (s.domRequest d) := by
  have hdomain (c : Prop) [Decidable c] (u : State) (k : Nat) : KeepsStep may u (if c then u.domWait k else u) :=
    (domWait u k).ite (refl u)
  exact ((hdomain _ s 22).trans (hdomain _ _ 2)).trans (domWait _ d)

theorem fallowWake (s : State) : KeepsStep may s s.fallowWake := (domRequest s 17).ite (refl s)

end KeepsStep

/-- What the Sower's work for a settled bucket may change: it writes its tables, sends on the Field, and may start the next Pass. -/
def sowerParts : List StepPart := [.passes, .field, .topsoil, .tiers]

namespace KeepsStep

theorem sowerTables (s : State) (mb : Bool) (w : SowerSt) : KeepsStep sowerParts s (s.sowerTables mb w) := by
  have hpasses : StepPart.passes ∈ sowerParts := by simp [sowerParts]
  unfold State.sowerTables
  refine ite ((((pokeAt ?_ ?_ s _ _).trans (setSower _ _ _)).trans (agentSend ?_ _ _ _)).trans (sowerRetire hpasses _ mb))
    ((setSower s mb _).trans (sowerRetire hpasses _ mb))
  all_goals simp [sowerParts]

theorem sowerSettle (s : State) (qid bucket : Nat) (orders : List (W64 × W64)) :
    KeepsStep sowerParts s (s.sowerSettle qid bucket orders) := by
  have htop : StepPart.topsoil ∈ sowerParts := by simp [sowerParts]
  unfold State.sowerSettle
  split
  · exact refl s
  split
  · exact refl s
  dsimp only
  refine trans (trans (trans (trans (trans (trans ?counts (withMoe _ _)) (each (fun u e _ => topPutWord htop u _ _) _))
    (each (fun u g _ => fetchRequest u _ _ _ _ _) _)) (sowerTables _ _ _)) (moeStatus _)) (fallowWake _)
  case counts =>
    exact (((bump s _ (by decide)).trans (bump _ _ (by decide))).trans (bump _ _ (by decide))).trans (bump _ _ (by decide))

end KeepsStep

/-- Where no Sower waits for the query, its settlement leaves everything else alone. -/
theorem sowerSettle_of_no_sower {qid : Nat} (h : ∀ mb w, s.sower mb = some w → w.qid ≠ some qid) (bucket : Nat)
    (orders : List (W64 × W64)) : s.sowerSettle qid bucket orders = s := by
  have hnone (mb : Bool) : (s.sowerBusy mb && ((s.sower mb).elim false fun w => w.qid == some qid && w.bucket.isNone)) = false := by
    cases hsower : s.sower mb with
    | none => simp
    | some w => simp [h mb w hsower]
  unfold State.sowerSettle
  rw [List.find?_eq_none.mpr fun mb _ => Bool.eq_false_iff.mp (hnone mb)]

/-! ### Cores and their queries (R233, R234) -/

theorem coreQuery_setCore_self (s : State) (c k : Nat) : (s.setCore c k).coreQuery c = if k = 0 then none else some (k - 1) := by
  have hset : KMap.get (fun _ => 0) (s.setCore c k).sched.coreHolds c = k := KMap.get_set_self _ _ _ _
  unfold State.coreQuery
  rw [hset]

theorem coreQuery_freeCore (s : State) (c : Nat) : (s.freeCore c).coreQuery c = none := coreQuery_setCore_self s c 0

theorem get_freeCore_stuck (s : State) (c : Nat) :
    (s.freeCore c).get WARD_CORE.STUCK = s.get WARD_CORE.STUCK &&& (65535 - 2 ^ c) := by
  refine (get_put_self _ _ (by decide)).trans (Nat.mod_eq_of_lt ?_)
  exact Nat.lt_of_le_of_lt Nat.and_le_left (get_lt s _)

theorem get_freeCore_ne (s : State) (c : Nat) {f : Fld} (hf : f.reg ≠ WARD_CORE.STUCK.reg) : (s.freeCore c).get f = s.get f :=
  get_put_ne _ _ (.inl hf)

theorem sameFieldsBut_freeCore (s : State) (c : Nat) : SameFieldsBut [WARD_CORE.STUCK] s (s.freeCore c) :=
  SameFieldsBut.put _ (fun _ _ => rfl) (by simp)

/-! ### Settled queries (R232) -/

/-- Every query of the QID is settled. -/
theorem settled_of_mem_updQuery {qid b : Nat} {d : Bool} {x : Query}
    (hx : x ∈ (s.updQuery qid fun x => { x with outstanding := false, settled := some (b, d) }).sched.queries) (hqid : x.qid = qid) :
    x.outstanding = false ∧ x.settled = some (b, d) := by
  obtain ⟨y, -, rfl⟩ := List.mem_map.mp hx
  by_cases hy : y.qid = qid
  · rw [if_pos hy]
    exact ⟨rfl, rfl⟩
  · rw [if_neg hy] at hqid
    exact absurd hqid hy

/-- What the settlement of query `qid` on bucket `b` leaves of `s`. -/
structure Settles (qid b : Nat) (d : Bool) (s t : State) : Prop where
  queries : ∀ x ∈ t.sched.queries, x.qid = qid → x.outstanding = false ∧ x.settled = some (b, d)
  counts : t.reg STEP_QSTAT.ONTIME.reg = s.reg STEP_QSTAT.ONTIME.reg
  topsoil : (∀ mb w, s.sower mb = some w → w.qid ≠ some qid) → t.topsoil = s.topsoil
  planes : t.lit = s.lit ∧ t.dark = s.dark

theorem settles_settleQuery (s : State) (qid b : Nat) (d : Bool) (orders : List (W64 × W64)) :
    Settles qid b d s (s.settleQuery qid b d orders) := by
  have k := KeepsStep.sowerSettle (s.updQuery qid fun x => { x with outstanding := false, settled := some (b, d) }) qid b orders
  refine ⟨fun x hx => ?queries, k.steps _ (by decide) (by decide), fun hsower => ?topsoil, k.planes⟩
  case queries =>
    rw [State.settleQuery, k.sched] at hx
    exact settled_of_mem_updQuery hx
  case topsoil =>
    rw [State.settleQuery, sowerSettle_of_no_sower (s := s.updQuery qid _) hsower]
    rfl

theorem Settles.get_eq {qid b : Nat} {d : Bool} (h : Settles qid b d s t) {f : Fld} (hf : f.reg = STEP_QSTAT.ONTIME.reg) :
    t.get f = s.get f := by
  rw [State.get, hf, h.counts, ← hf]; rfl

/-! ### Dispatch (R233) -/

theorem exec_queryDispatch_of_idle {q : Query} {c : Nat} (hq : (s.outstanding.find? fun q => q.core.isNone) = some q)
    (hc : s.idleCore = some c) : exec .queryDispatch s = .next (s.dispatchQuery q c) := by
  show Host.Outcome.next _ = _
  rw [hq, hc]

theorem coreQuery_dispatchQuery (s : State) (q : Query) (c : Nat) : (s.dispatchQuery q c).coreQuery c = some q.qid :=
  (coreQuery_setCore_self (s.updQuery q.qid fun x => { x with core := some c }) c (q.qid + 1)).trans (if_neg (Nat.succ_ne_zero _))

/-! ### Answers (R234) -/

theorem exec_noans_of_takes {i : BitVec 4} {m : Bool} (h : Takes s (.core i m) 0x400B0 1) (n : BitVec 16) :
    exec (.noans (.core i m) n) s = .next (s.freeCore i.toNat) :=
  congrArg Host.Outcome.next (ctlWrite_of_takes h _ _)

theorem exec_qans_of_takes {i : BitVec 4} {m : Bool} (h : Takes s (.core i m) 0x400B0 1) (n : BitVec 16) (b : BitVec 4) (k : BitVec 9) :
    exec (.qans (.core i m) n b k) s = .next (s.answer i.toNat n.toNat b.toNat k.toNat) :=
  congrArg Host.Outcome.next (ctlWrite_of_takes h _ _)

theorem answer_of_idle {c : Nat} (h : s.coreQuery c = none) (n b k : Nat) : s.answer c n b k = s.bump STEP_QSTAT.REFUSED 1 := by
  unfold State.answer
  rw [h]
  rfl

/-- The scheduler's read of a fetch list without an order. -/
theorem partReads_zero (s : State) (o : Nat) (stepBound : Bool) : s.partReads o 0 stepBound = s.bump (TOPSOIL_LINES.LINES (o / 2 ^ 37)) 0 := by
  have htouch : s.topTouch o 0 = s.bump (TOPSOIL_LINES.LINES (o / 2 ^ 37)) 0 := topTouch_of_topRange s rfl
  have herrors (u : State) (a : Nat) : (u.readErrors a 0 stepBound).1 = u := by
    have hbad (m : Mem) (gran o : Nat) : m.badIn gran o 0 = [] := if_pos rfl
    unfold State.readErrors
    split
    · rw [hbad]; rfl
    · rw [hbad]; rfl
    · rw [hbad]; rfl
    · rfl
  rw [partReads_eq_fun]
  exact (herrors _ _).trans htouch

/-- The answer of the core that holds the query, without fetch orders. -/
theorem answer_of_held {c n b : Nat} {q : Query} (hheld : s.coreQuery c = some n)
    (hfind : (s.sched.queries.find? fun q => q.qid == n && q.core == some c) = some q) (hout : q.outstanding = true) (hb : b ≤ q.nbM1) :
    ∃ o, s.answer c n b 0 =
      (((s.bump (TOPSOIL_LINES.LINES (o / 2 ^ 37)) 0).settleQuery n b false []).bump STEP_QSTAT.ONTIME 1).freeCore c := by
  refine ⟨4096 * s.get STEP_QRING.BASE + 0x1000 + 0x1000 * (n % 64), ?_⟩
  unfold State.answer
  rw [hheld]
  dsimp only
  rw [hfind]
  dsimp only
  rw [if_neg (by simp [hout]), if_pos ⟨rfl, hb, by decide⟩, partReads_zero]
  rfl

/-! ### Deadlines and the watchdog (R232, R473) -/

theorem exec_queryDeadline_of_outstanding {n : BitVec 16} {q : Query} (h : (s.outstanding.find? fun q => q.qid == n.toNat) = some q) :
    exec (.queryDeadline n) s = .next ((s.bump STEP_QSTAT.LATE 1).settleQuery n.toNat q.nbM1 true []) := by
  have hqid : q.qid = n.toNat := eq_of_beq (List.find?_some h :)
  show Host.Outcome.next _ = _
  rw [h, ← hqid]

end Queries

/-- Settles O12: a settled bucket changes nothing of the step machine but its query (`Settles`). -/
theorem queries : Obligations.Queries := by
  unfold Obligations.Queries
  intro s
  refine ⟨fun q c hq hc => ?dispatch, fun i m n htakes => ?noans, fun i m n b k htakes hidle => ?refused,
    fun i m n b q htakes hfind hheld hout hb => ?answer, fun n q hq => ?deadline,
    fun i hheld hstuck => congrArg Host.Outcome.next (if_pos ⟨hheld, hstuck⟩)⟩
  case dispatch =>
    rw [exec_queryDispatch_of_idle hq hc]
    exact ⟨_, rfl, coreQuery_dispatchQuery s q c, rfl, rfl, rfl⟩
  case noans =>
    rw [exec_noans_of_takes htakes]
    exact ⟨_, rfl, coreQuery_freeCore s _, get_freeCore_stuck s _, rfl, sameFieldsBut_freeCore s _⟩
  case refused =>
    rw [exec_qans_of_takes htakes, answer_of_idle hidle]
    exact ⟨_, rfl, get_bump_self s 1 (by decide), rfl, (SameFieldsBut.refl _ s).put _ (by simp)⟩
  case answer =>
    obtain ⟨o, hanswer⟩ := answer_of_held hheld hfind hout hb
    have h := settles_settleQuery (s.bump (TOPSOIL_LINES.LINES (o / 2 ^ 37)) 0) n.toNat b.toNat false []
    have hline : (s.bump (TOPSOIL_LINES.LINES (o / 2 ^ 37)) 0).get STEP_QSTAT.ONTIME = s.get STEP_QSTAT.ONTIME :=
      get_put_ne s _ (.inl (by simp only; omega))
    rw [exec_qans_of_takes htakes]
    refine ⟨_, congrArg Host.Outcome.next hanswer, coreQuery_freeCore _ _, ?_, h.queries, h.topsoil, h.planes⟩
    rw [get_freeCore_ne _ _ (by decide), get_bump_self _ 1 (by decide), h.get_eq rfl, hline]
  case deadline =>
    rw [exec_queryDeadline_of_outstanding hq]
    have h := settles_settleQuery (s.bump STEP_QSTAT.LATE 1) n.toNat q.nbM1 true []
    exact ⟨_, rfl, (h.get_eq (f := STEP_QSTAT.LATE) rfl).trans (get_bump_self s 1 (by decide)), h.queries, h.topsoil, h.planes⟩

end Sys2Proof.Machine
end

section
/-!
PROOFS. The Sower between its Passes' beginning and end: score rows, dispatch segments, and fetches that end while others run (R252 to
R261, R264, R273, R318, R353, R467).
-/
namespace Sys2Proof.Machine

section Sower

variable {s t u : State} {mb : Bool} {w : SowerSt} {g : Segment}

/-! ### The engine's state and its status bits (R264, R273) -/

@[simp] theorem sower_setSower_self (s : State) (mb : Bool) (v : Option SowerSt) : (s.setSower mb v).sower mb = v := by
  cases mb <;> rfl

theorem setSower_frame (s : State) (mb : Bool) (v : Option SowerSt) :
    s.setSower mb v = { s with moe := (s.setSower mb v).moe } := by
  cases mb <;> rfl

theorem setSower_withTopsoil (s : State) (m : Mem) (mb : Bool) (v : Option SowerSt) :
    State.setSower { s with topsoil := m } mb v = { s.setSower mb v with topsoil := m } := by
  cases mb <;> rfl

theorem topsoil_setSower (s : State) (mb : Bool) (v : Option SowerSt) : (s.setSower mb v).topsoil = s.topsoil := by
  rw [setSower_frame]

theorem reg_setSower (s : State) (mb : Bool) (v : Option SowerSt) (off : Nat) : (s.setSower mb v).reg off = s.reg off := by
  rw [setSower_frame]; rfl

theorem get_setSower (s : State) (mb : Bool) (v : Option SowerSt) (f : Fld) : (s.setSower mb v).get f = s.get f := by
  rw [State.get, reg_setSower]
  rfl

theorem bump_setSower (s : State) (mb : Bool) (v : Option SowerSt) (f : Fld) (n : Nat) :
    (s.setSower mb v).bump f n = (s.bump f n).setSower mb v := by
  cases mb <;> rfl

theorem sower_congr (h : t.moe = s.moe) (mb : Bool) : t.sower mb = s.sower mb := by
  rw [State.sower, h]; rfl

theorem moeStatus_frame (s : State) : s.moeStatus = { s with regs := s.moeStatus.regs } := rfl

theorem sameRegsBut_moeStatus {l : List Nat} (h : SameRegsBut l s t) (hsower : SOWER_STATUS.BUSY_A.reg ∈ l)
    (hglean : GLEAN_STATUS.BUSY_A.reg ∈ l) : SameRegsBut l s t.moeStatus := by
  have hput {u : State} {f : Fld} (v : Nat) (hf : f.reg ∈ l) (hu : SameRegsBut l s u) : SameRegsBut l s (u.put f v) := hu.put v hf
  unfold State.moeStatus
  exact hput _ hglean (hput _ hglean (hput _ hglean (hput _ hsower (hput _ hsower (hput _ hsower (hput _ hsower
    (hput _ hsower h)))))))

/-- The status bits alone change. -/
theorem reg_moeStatus (s : State) {off : Nat} (hoff : off ∉ [SOWER_STATUS.BUSY_A.reg, GLEAN_STATUS.BUSY_A.reg]) :
    s.moeStatus.reg off = s.reg off :=
  sameRegsBut_moeStatus (SameRegsBut.refl _ s) (by simp) (by simp) off hoff

theorem get_moeStatus (s : State) {f : Fld} (hf : f.reg ∉ [SOWER_STATUS.BUSY_A.reg, GLEAN_STATUS.BUSY_A.reg]) :
    s.moeStatus.get f = s.get f := by
  rw [State.get, reg_moeStatus s hf]
  rfl

/-! The Sower's state replaced, with the status bits that follow from it. -/

theorem sower_withStatus (s : State) (mb : Bool) (v : Option SowerSt) : (s.setSower mb v).moeStatus.sower mb = v :=
  sower_setSower_self s mb v

theorem withStatus_frame (s : State) (mb : Bool) (v : Option SowerSt) : (s.setSower mb v).moeStatus =
    { s with regs := (s.setSower mb v).moeStatus.regs, moe := (s.setSower mb v).moeStatus.moe } := by
  rw [moeStatus_frame, setSower_frame]

theorem get_withStatus (s : State) (mb : Bool) (v : Option SowerSt) {f : Fld}
    (hf : f.reg ∉ [SOWER_STATUS.BUSY_A.reg, GLEAN_STATUS.BUSY_A.reg]) : (s.setSower mb v).moeStatus.get f = s.get f := by
  rw [get_moeStatus _ hf, get_setSower]

theorem sameRegsBut_withStatus {l : List Nat} (h : SameRegsBut l s t) (hsower : SOWER_STATUS.BUSY_A.reg ∈ l)
    (hglean : GLEAN_STATUS.BUSY_A.reg ∈ l) (mb : Bool) (v : Option SowerSt) : SameRegsBut l s (t.setSower mb v).moeStatus :=
  sameRegsBut_moeStatus (fun off hoff => (reg_setSower t mb v off).trans (h off hoff)) hsower hglean

/-- Scores, segments or fetches are still to come: the entry cannot retire (R264). -/
def State.sowerWaits (s : State) (w : SowerSt) : Prop :=
  w.expected ≠ [] ∨ w.received.length ≠ s.sliceSize ∨ w.fetching ≠ []

theorem sowerRetire_of_waits (hw : s.sower mb = some w) (hwaits : s.sowerWaits w) : s.sowerRetire mb = s.moeStatus := by
  unfold State.sowerRetire
  rw [hw]
  refine if_neg fun hdone => ?_
  simp only [Bool.and_eq_true, List.isEmpty_iff, beq_iff_eq] at hdone
  rcases hwaits with h | h | h <;> simp [h] at hdone

theorem sowerRetire_setSower_of_waits (hwaits : s.sowerWaits w) :
    (s.setSower mb (some w)).sowerRetire mb = (s.setSower mb (some w)).moeStatus :=
  sowerRetire_of_waits (sower_setSower_self s mb _) (by cases mb <;> exact hwaits)

/-! ### Score rows (R252 to R255) -/

/-- The scores of a row's unmasked elements, in the layer's score format. -/
def LayerCfg.scores (c : LayerCfg) (row : List Token) : List Num :=
  (row.filter fun t => t.cls == 0).flatMap fun t => (List.range t.vcount).map fun i =>
    decodeElem c.sfmt (beatElem c.sfmt t.payload i)

/-- The gates of a row: none when it does not hold one score for each expert. -/
def LayerCfg.gates (c : LayerCfg) (scores : List Num) : List (Nat × Tallow) :=
  if scores.length = c.e then (rowGates c scores (chooseExperts c.k scores)).1 else []

/-- A row of scores is flagged for its length, or for gates that are NaN. -/
def State.rowFlagged (s : State) (c : LayerCfg) (scores : List Num) : State :=
  if scores.length = c.e then (if (rowGates c scores (chooseExperts c.k scores)).2 then s.put SOWER_ERR.GATE_NAN 1 else s)
  else s.put SOWER_ERR.ROW_LEN 1

/-- A row of scores is flagged and counted. -/
def State.rowCounted (s : State) (c : LayerCfg) (scores : List Num) : State := (s.rowFlagged c scores).bump SOWER_ROWS.ROWS 1

/-- A row sets no flag, or one of SOWER_ERR. -/
theorem rowFlagged_cases (s : State) (c : LayerCfg) (scores : List Num) :
    s.rowFlagged c scores = s ∨ ∃ f : Fld, f.reg = SOWER_ERR.ROW_LEN.reg ∧ s.rowFlagged c scores = s.put f 1 := by
  unfold State.rowFlagged
  split
  · split
    · exact .inr ⟨SOWER_ERR.GATE_NAN, rfl, rfl⟩
    · exact .inl rfl
  · exact .inr ⟨SOWER_ERR.ROW_LEN, rfl, rfl⟩

theorem rowCounted_frame (s : State) (c : LayerCfg) (scores : List Num) :
    s.rowCounted c scores = { s with regs := (s.rowCounted c scores).regs } := by
  rw [State.rowCounted]
  obtain h | ⟨f, -, h⟩ := rowFlagged_cases s c scores <;> rw [h] <;> rfl

theorem sameRegsBut_rowCounted {l : List Nat} (h : SameRegsBut l s t) (hflag : SOWER_ERR.ROW_LEN.reg ∈ l)
    (hrows : SOWER_ROWS.ROWS.reg ∈ l) (c : LayerCfg) (scores : List Num) : SameRegsBut l s (t.rowCounted c scores) := by
  refine SameRegsBut.put ?_ _ hrows
  obtain hnone | ⟨f, hf, hset⟩ := rowFlagged_cases t c scores
  · rwa [hnone]
  · rw [hset]
    exact h.put _ (hf ▸ hflag)

theorem get_rowCounted_rows (s : State) (c : LayerCfg) (scores : List Num) :
    (s.rowCounted c scores).get SOWER_ROWS.ROWS = min (2 ^ 48 - 1) (s.get SOWER_ROWS.ROWS + 1) := by
  refine (get_bump_self _ 1 (by decide)).trans ?_
  obtain hnone | ⟨f, hf, hset⟩ := rowFlagged_cases s c scores
  · rw [hnone]
  · rw [hset, get_put_ne s 1 (.inl (by rw [hf]; decide))]

theorem get_rowCounted_rowLen {c : LayerCfg} {scores : List Num} (h : scores.length ≠ c.e) :
    (s.rowCounted c scores).get SOWER_ERR.ROW_LEN = 1 := by
  rw [State.rowCounted, State.rowFlagged, if_neg h]
  exact (get_put_ne _ _ (.inl (by decide))).trans (get_put_self s 1 (by decide))

theorem exec_scoreRow_of_unexpected {row : List Token} (hw : s.clocked (s.sower mb) = some w)
    (hrow : rowPrefix (s.queue (stileQ w.cfg.stile 8)).toks = some row) (hexp : w.expected = []) :
    exec (.scoreRow mb) s = .next ((s.popN (stileQ w.cfg.stile 8) row.length).put SOWER_ERR.ROW_EXTRA 1) := by
  show execScoreRow mb s = _
  unfold execScoreRow
  rw [hw]
  dsimp only
  rw [hrow]
  dsimp only
  rw [hexp]

/-- The Sower's state once a row of scores is taken. -/
def SowerSt.withRow (w : SowerSt) (r : Nat) (rest : List Nat) (scores : List Num) : SowerSt :=
  { w with expected := rest, routed := w.routed ++ [⟨r, w.cfg.gates scores⟩] }

theorem exec_scoreRow_of_followed {row : List Token} {r : Nat} {rest : List Nat} (hw : s.clocked (s.sower mb) = some w)
    (hrow : rowPrefix (s.queue (stileQ w.cfg.stile 8)).toks = some row) (hexp : w.expected = r :: rest) (hrest : rest ≠ []) :
    exec (.scoreRow mb) s = .next ((((s.popN (stileQ w.cfg.stile 8) row.length).rowCounted w.cfg (w.cfg.scores row)).setSower mb
      (some (w.withRow r rest (w.cfg.scores row)))).moeStatus) := by
  have hmore : rest.isEmpty = false := by simpa using hrest
  rw [← sowerRetire_setSower_of_waits (w := w.withRow r rest (w.cfg.scores row)) (.inl hrest), SowerSt.withRow]
  generalize hscores : w.cfg.scores row = scores
  unfold LayerCfg.scores at hscores
  show execScoreRow mb s = _
  unfold execScoreRow
  rw [hw]
  dsimp only
  rw [hrow]
  dsimp only
  rw [hexp, hscores]
  dsimp only
  rw [hmore, if_neg Bool.false_ne_true, State.rowCounted, State.rowFlagged, LayerCfg.gates]
  by_cases hlen : scores.length = w.cfg.e
  · simp only [hlen, decide_true, if_true, Bool.true_and]
  · simp only [hlen, decide_false, if_false, Bool.false_and, Bool.false_eq_true]

/-! ### Dispatch segments (R257, R258) -/

theorem segStale_of_other_step (hstep : g.step.toNat ≠ s.get STEP_NUM.STEP) : s.segStale g = false := by
  simp [State.segStale, hstep]

theorem segFate_of_other_step (hstep : g.step.toNat ≠ s.get STEP_NUM.STEP) (layer : Nat) (l : List Segment) (bad : Bool) :
    s.segFate g layer l bad = .wait := if_pos hstep

theorem segFate_of_good {layer : Nat} {l : List Segment} (hstep : g.step.toNat = s.get STEP_NUM.STEP)
    (hattempt : g.attempt = s.get STEP_STATUS.REPLAYS) (hlayer : g.layer = layer)
    (hindex : bitsOf g.w0 31 6 = s.get ROUTE_SELF.INDEX) (hnew : l.any (fun h => h.src == g.src) = false) :
    s.segFate g layer l false = .ok := by
  simp [State.segFate, hstep, hattempt, hlayer, hindex, hnew]

theorem exec_dispatchSegment_of_other_step (hkind : bitsOf g.w0 0 4 = 1) (hstep : g.step.toNat ≠ s.get STEP_NUM.STEP) :
    exec (.dispatchSegment g) s = .next s := by
  show execDispatchSegment g s = _
  unfold execDispatchSegment
  rw [if_neg (not_not_intro hkind), segStale_of_other_step hstep, if_neg Bool.false_ne_true]
  cases s.clocked (s.sower g.mb) with
  | none => rfl
  | some w =>
    dsimp only
    rw [segFate_of_other_step hstep]

theorem exec_dispatchSegment_of_stale (hkind : bitsOf g.w0 0 4 = 1) (hstep : g.step.toNat = s.get STEP_NUM.STEP)
    (hattempt : g.attempt < s.get STEP_STATUS.REPLAYS) :
    exec (.dispatchSegment g) s = .next ((s.put SOWER_ERR.STALE_SEG 1).ackSegment 0 g.src g) := by
  show execDispatchSegment g s = _
  unfold execDispatchSegment
  rw [if_neg (not_not_intro hkind)]
  exact if_pos (decide_eq_true ⟨hstep, hattempt⟩)

/-- What makes a dispatch segment one of the Pass that the Sower serves, and of a chip that has not sent one (R257). -/
structure FitsPass (g : Segment) (s : State) (w : SowerSt) : Prop where
  kind : bitsOf g.w0 0 4 = 1
  step : g.step.toNat = s.get STEP_NUM.STEP
  attempt : g.attempt = s.get STEP_STATUS.REPLAYS
  layer : g.layer = w.layer
  index : bitsOf g.w0 31 6 = s.get ROUTE_SELF.INDEX
  length : g.counts.length = w.cfg.ne
  experts : bitsOf g.w0 37 13 = w.cfg.ne
  total : g.total = g.sum
  fresh : w.received.any (fun h => h.src == g.src) = false

/-- The Sower's state once a segment is taken. -/
def SowerSt.withSegment (w : SowerSt) (g : Segment) : SowerSt := { w with received := segInsert g w.received }

theorem exec_dispatchSegment_of_good (hw : s.clocked (s.sower g.mb) = some w) (hfits : FitsPass g s w)
    (hbusy : s.sowerBusy g.mb = true) (hmore : (w.withSegment g).received.length ≠ s.sliceSize) :
    exec (.dispatchSegment g) s =
      .next (((s.bump SOWER_SEGS.RECEIVED 1).setSower g.mb (some (w.withSegment g))).moeStatus) := by
  obtain ⟨hkind, hstep, hattempt, hlayer, hindex, hlength, hexperts, htotal, hfresh⟩ := hfits
  have hstale : s.segStale g = false := by simp [State.segStale, hattempt]
  have hgood : decide (g.counts.length ≠ w.cfg.ne ∨ bitsOf g.w0 37 13 ≠ w.cfg.ne ∨ g.total ≠ g.sum) = false := by
    simp [hlength, hexperts, htotal]
  rw [← sowerRetire_setSower_of_waits (s := s.bump SOWER_SEGS.RECEIVED 1) (.inr (.inl hmore)), ← bump_setSower]
  show execDispatchSegment g s = _
  unfold execDispatchSegment
  rw [if_neg (not_not_intro hkind), hstale, if_neg Bool.false_ne_true, hw]
  dsimp only
  rw [hgood, segFate_of_good hstep hattempt hlayer hindex hfresh, hbusy]
  dsimp only
  have hsize : State.sliceSize ((s.setSower g.mb (some (w.withSegment g))).bump SOWER_SEGS.RECEIVED 1) = s.sliceSize := by
    rw [setSower_frame]; rfl
  exact congrArg (fun t => Host.Outcome.next (State.sowerRetire t g.mb)) (if_neg (hsize ▸ hmore))

/-! ### States that differ in charged errors (R239, R353, R467) -/

theorem reg_bump_zero (s : State) (f : Fld) (off : Nat) : (s.bump f 0).reg off = s.reg off := by
  by_cases hoff : off = f.reg
  · have hlt := get_lt s f
    have hmin : min (2 ^ f.len - 1) (s.get f + 0) = s.get f := by omega
    rw [State.bump, hmin, hoff, State.put, reg_setReg_self]
    refine BitVec.eq_of_getLsbD_eq fun i hi => ?_
    rw [getLsbD_withBits, State.get, testBit_bitsOf]
    by_cases hin : f.lo ≤ i ∧ i < f.lo + f.len
    · have hlen : i - f.lo < f.len := by omega
      simp [hi, hin, hlen]
    · simp [hi, hin]
  · exact reg_bump_ne s 0 hoff

/-- `t` is `s` but for registers other than WARD_STATUS, the scheduler, messages that no answer is awaited for, the records of
the Fallow store, and free values drawn: what a read for a step counts, records and charges. -/
structure SameButCharges (s t : State) : Prop where
  rest : t = { s with regs := t.regs, sched := t.sched, net := t.net, fallow := t.fallow, freeCtr := t.freeCtr }
  requests : t.net.requests = s.net.requests
  ward : t.reg WARD_STATUS.STATE.reg = s.reg WARD_STATUS.STATE.reg

namespace SameButCharges

theorem refl (s : State) : SameButCharges s s := ⟨rfl, rfl, rfl⟩

theorem trans (h : SameButCharges s t) (k : SameButCharges t u) : SameButCharges s u := by
  refine ⟨?_, k.requests.trans h.requests, k.ward.trans h.ward⟩
  rw [k.rest, h.rest]

theorem ite {c : Prop} [Decidable c] (ht : SameButCharges s t) (hu : SameButCharges s u) :
    SameButCharges s (if c then t else u) := by
  split
  · exact ht
  · exact hu

theorem ite_fst {α : Type} {c : Prop} [Decidable c] {x y : State × α} (hx : SameButCharges s x.1) (hy : SameButCharges s y.1) :
    SameButCharges s (if c then x else y).1 := by
  split
  · exact hx
  · exact hy

theorem each {α : Type} {f : State → α → State} (hf : ∀ s x, SameButCharges s (f s x)) (l : List α) (s : State) :
    SameButCharges s (s.each l f) := by
  induction l generalizing s with
  | nil => exact refl s
  | cons x l ih => exact (hf s x).trans (ih (f s x))

theorem moe_eq (h : SameButCharges s t) : t.moe = s.moe := by rw [h.rest]

theorem topsoil_eq (h : SameButCharges s t) : t.topsoil = s.topsoil := by rw [h.rest]

theorem tiers_eq (h : SameButCharges s t) : t.seedbed = s.seedbed ∧ t.subsoil = s.subsoil := by rw [h.rest]; exact ⟨rfl, rfl⟩

theorem planes_eq (h : SameButCharges s t) : t.lit = s.lit ∧ t.dark = s.dark ∧ t.field = s.field := by
  rw [h.rest]; exact ⟨rfl, rfl, rfl⟩

theorem sower_eq (h : SameButCharges s t) (mb : Bool) : t.sower mb = s.sower mb := sower_congr h.moe_eq mb

theorem wardState (h : SameButCharges s t) : t.get WARD_STATUS.STATE = s.get WARD_STATUS.STATE := by
  rw [State.get, h.ward]; rfl

theorem ward_off_of_withTopsoil {m : Mem} (h : SameButCharges { s with topsoil := m } t) (hward : s.get WARD_STATUS.STATE = 0) :
    t.get WARD_STATUS.STATE = 0 := h.wardState.trans hward

theorem ownerPending_eq (h : SameButCharges s t) (o : Owner) : t.ownerPending o = s.ownerPending o := by
  rw [State.ownerPending, h.requests]; rfl

/-- The same Topsoil put into both. -/
theorem withTopsoil (h : SameButCharges s t) (m : Mem) : SameButCharges { s with topsoil := m } { t with topsoil := m } := by
  refine ⟨?_, h.requests, h.ward⟩
  rw [h.rest]

/-- The same Sower state put into both. -/
theorem setSower (h : SameButCharges s t) (mb : Bool) (v : Option SowerSt) :
    SameButCharges (s.setSower mb v) (t.setSower mb v) := by
  have hmoe : (t.setSower mb v).moe = (s.setSower mb v).moe := by
    cases mb
    · exact congrArg (fun m => { m with sowerA := v }) h.moe_eq
    · exact congrArg (fun m => { m with sowerB := v }) h.moe_eq
  rw [setSower_frame s, setSower_frame t, hmoe]
  refine ⟨?_, h.requests, h.ward⟩
  rw [h.rest]

/-! Registers, records and messages -/

theorem put (s : State) {f : Fld} (v : Nat) (hf : WARD_STATUS.STATE.reg ≠ f.reg) : SameButCharges s (s.put f v) :=
  ⟨rfl, rfl, reg_put_ne s v hf⟩

theorem bump (s : State) {f : Fld} (n : Nat) (hf : WARD_STATUS.STATE.reg ≠ f.reg) : SameButCharges s (s.bump f n) := put s _ hf

theorem errlog (s : State) (r : ErrRec) : SameButCharges s (s.errlog r) :=
  ⟨by rw [errlog_eq_regs_sched], by rw [errlog_eq_regs_sched], reg_errlog_of_block_ne s r (by decide)⟩

theorem charge (s : State) (cause : Nat) : SameButCharges s (s.charge cause) := by
  unfold State.charge
  dsimp only
  split
  · exact refl s
  · split
    · split <;> exact ⟨rfl, rfl, rfl⟩
    · exact ⟨rfl, rfl, rfl⟩

theorem stepError (s : State) (r : ErrRec) : SameButCharges s (s.stepError r) := (errlog s _).trans (charge _ 1)

theorem accessRefusal (s : State) : SameButCharges s s.accessRefusal := (put s _ (by decide)).trans (put _ _ (by decide))

theorem stepRefusal (s : State) (block addr : Nat) : SameButCharges s (s.stepRefusal block addr) :=
  (stepError s _).trans (accessRefusal _)

theorem drawn (s : State) : SameButCharges s s.drawn := ⟨rfl, rfl, rfl⟩

theorem moeStatus (s : State) : SameButCharges s s.moeStatus :=
  ⟨by rw [moeStatus_frame], by rw [moeStatus_frame], reg_moeStatus s (by decide)⟩

theorem boardRetire (s : State) (o : Owner) : SameButCharges s (s.boardRetire o) :=
  ⟨rfl, rfl, (reg_put_ne _ _ (by decide)).trans (reg_put_ne _ _ (by decide))⟩

/-! Reads of the tiers (R311, R341, R464 to R467) -/

/-- An access of no byte counts no line, wherever it points. -/
theorem topTouch (s : State) (o n : Nat) : SameButCharges s (s.topTouch o n) := by
  unfold State.topTouch
  split
  case isFalse => exact errlog s _
  case isTrue hrange =>
    rcases Nat.eq_zero_or_pos n with rfl | hpos
    · exact ⟨rfl, rfl, reg_bump_zero s _ _⟩
    · refine bump s _ ?_
      have hin : o / 2 ^ 37 ≤ 3 := by
        simp only [topRange, topOk, Bool.or_eq_true, Bool.and_eq_true, beq_iff_eq, decide_eq_true_eq] at hrange
        omega
      simp only
      omega

theorem subTouch (s : State) (o n : Nat) : SameButCharges s (s.subTouch o n) := (bump s _ (by decide)).ite (errlog s _)

theorem touch (s : State) (a n : Nat) : SameButCharges s (s.touch a n) := by
  unfold State.touch
  split
  · exact topTouch s _ n
  · exact subTouch s _ n
  · exact refl s

theorem wordError (s : State) (k : Nat) : SameButCharges s (s.wordError k) := by
  unfold State.wordError
  exact stepError s _

theorem lineError (s : State) (sub : Bool) (l : Nat) : SameButCharges s (s.lineError sub true l) := by
  unfold State.lineError
  rw [if_pos rfl]
  exact stepError s _

theorem readErrors (s : State) (a n : Nat) : SameButCharges s (s.readErrors a n true).1 := by
  unfold State.readErrors
  split
  · exact each wordError _ s
  · exact each (fun s l => lineError s false l) _ s
  · exact each (fun s l => lineError s true l) _ s
  · exact refl s

theorem countCe (s : State) (a : Nat) : SameButCharges s (s.countCe a) := by
  unfold State.countCe
  split
  · next o hloc =>
    obtain ⟨-, -, -, rfl⟩ := locate_eq_top_iff.mp hloc
    exact bump s _ (by simp only; omega)
  · exact bump s _ (by decide)
  · exact refl s

/-! Reads of the Fallow store (R352, R353) -/

theorem withFallow (s : State) (f : FallowSt) : SameButCharges s { s with fallow := f } := ⟨rfl, rfl, rfl⟩

theorem queueRepair (s : State) (num : Nat) (copy1 : Bool) : SameButCharges s (s.queueRepair num copy1) :=
  (refl s).ite (withFallow s _)

theorem falLost (s : State) (num : Nat) : SameButCharges s (s.falLost num) := (put s _ (by decide)).trans (errlog _ _)

theorem falDoubt (s : State) (o : FalObj) (d0 d1 : List Byte) : SameButCharges s (s.falDoubt o d0 d1).1 := by
  have hslot (b c : Bool) (v : FalSlot) : SameButCharges s ((if c then s else s.put FALLOW_ERR.MANIFEST 1).setFalSlot b v) :=
    ((refl s).ite (put s _ (by decide))).trans (withFallow _ _)
  unfold State.falDoubt
  exact ite_fst ((put s _ (by decide)).trans (put _ _ (by decide))) (ite_fst ((hslot ..).trans (queueRepair ..))
    (ite_fst ((hslot ..).trans (queueRepair ..)) ((hslot ..).trans (falLost ..))))

theorem falRead (s : State) (num len : Nat) (bad0 bad1 : List Nat) : SameButCharges s (s.falRead num len bad0 bad1).1 := by
  have hue (c : Bool) : SameButCharges s (if c then s else s.put FALLOW_ERR.ECC_UE 1) := (refl s).ite (put s _ (by decide))
  unfold State.falRead
  split
  · exact refl s
  · split
    · exact refl s
    · dsimp only
      split
      · exact refl s
      · split
        · split
          · exact hue _
          · split
            · exact ((hue _).trans (put _ _ (by decide))).trans (queueRepair _ _ _)
            · exact (hue _).trans (falDoubt _ _ _ _)
        · exact hue _

end SameButCharges

/-! ### Reads and writes of a fetch (R261, R353, R464 to R467, R477) -/

/-- A read of this chip's own tiers: the outcome of its code may mark a codeword, and what it meets is recorded and charged. -/
theorem readChecked_marks (s : State) (a n : Nat) (code : CodeResult) : ∃ seedbed topsoil subsoil,
    SameButCharges { s with seedbed := seedbed, topsoil := topsoil, subsoil := subsoil } (s.readChecked a n code true).1 := by
  have hread (v : State) : SameButCharges v ((v.touch a n).readErrors a n true).1 :=
    (SameButCharges.touch v a n).trans (SameButCharges.readErrors _ a n)
  have hspoil : ∃ seedbed topsoil subsoil, s.spoil a = { s with seedbed := seedbed, topsoil := topsoil, subsoil := subsoil } := by
    unfold State.spoil
    split <;> exact ⟨_, _, _, rfl⟩
  unfold State.readChecked
  cases code with
  | clean => exact ⟨_, _, _, hread s⟩
  | one b => exact ⟨_, _, _, (SameButCharges.countCe s a).trans (hread _)⟩
  | two => exact ⟨_, _, _, (SameButCharges.countCe s a).trans (hread _)⟩
  | ue =>
    obtain ⟨m0, m1, m2, h⟩ := hspoil
    exact ⟨m0, m1, m2, h ▸ hread _⟩
  | miscorrected => exact ⟨_, _, _, (SameButCharges.drawn s).trans (hread _)⟩

theorem readAny_of_not_commons {a : Nat} (h : ∀ d k o, s.locate a ≠ .commons d k o) (owner : Option Owner) (n : Nat)
    (code : CodeResult) (stepBound : Bool) (remote : List Byte) :
    s.readAny owner a n code stepBound remote = s.readChecked a n code stepBound := by
  unfold State.readAny
  split
  · exact absurd ‹_› (h _ _ _)
  · rfl

/-- With the Ward off a write stores its bytes and counts its lines, and no line sends a delta (R477). -/
theorem sameButCharges_topWrite {o : Nat} {bs : List Byte} (hward : s.get WARD_STATUS.STATE = 0)
    (hrange : topRange o bs.length = true) :
    SameButCharges { s with topsoil := s.topsoil.write 64 o bs } (s.topWrite o bs) := by
  have htouch := SameButCharges.topTouch { s with topsoil := s.topsoil.write 64 o bs } o bs.length
  rw [State.topWrite, if_pos hrange]
  dsimp only
  rw [wardOn_eq_false (htouch.ward_off_of_withTopsoil hward), if_neg Bool.false_ne_true]
  exact htouch

theorem sameButCharges_topZero {o n : Nat} (hward : s.get WARD_STATUS.STATE = 0) (hrange : topRange o n = true) :
    SameButCharges { s with topsoil := s.topsoil.zeroed 64 o n } (s.topZero o n) := by
  have htouch := SameButCharges.topTouch { s with topsoil := s.topsoil.zeroed 64 o n } o n
  rw [State.topZero, if_pos hrange]
  dsimp only
  rw [wardOn_eq_false (htouch.ward_off_of_withTopsoil hward), if_neg Bool.false_ne_true]
  exact htouch

/-! ### How a fetch ends while others run (R261, R264, R353) -/

section Fetches

variable {j slot : Nat} {e : ResEntry} {bs : List Byte}

/-- The Sower's state once fetch `j` has ended. -/
def SowerSt.fetched (w : SowerSt) (j : Nat) : SowerSt := { w with fetching := w.fetching.erase j }

/-- Topsoil with the expert's bytes in their slot, and its residence entry HOT in that slot (R261). -/
def SowerSt.landed (w : SowerSt) (m : Mem) (j slot : Nat) (e : ResEntry) (bs : List Byte) : Mem :=
  (m.write 64 (w.cfg.wslot + slot * w.cfg.wslotBytes) bs).write 64 (w.cfg.res + 16 * j)
    (leBytes 8 (withBits (withBits e.w0 12 1 1) 16 16 slot).toNat)

theorem sowerTables_of_fetching (h : w.fetching ≠ []) : s.sowerTables mb w = (s.setSower mb (some w)).moeStatus := by
  have hfetching : (w.fetching.isEmpty && !w.tableDone) = false := by simp [h]
  unfold State.sowerTables
  rw [hfetching, if_neg Bool.false_ne_true]
  exact sowerRetire_setSower_of_waits (.inr (.inr h))

theorem sameButCharges_fetchLand (hmore : (w.fetched j).fetching ≠ []) (hward : s.get WARD_STATUS.STATE = 0)
    (hslot : topRange (w.cfg.wslot + slot * w.cfg.wslotBytes) bs.length = true) (hres : topRange (w.cfg.res + 16 * j) 8 = true) :
    SameButCharges ({ s with topsoil := w.landed s.topsoil j slot e bs }.setSower mb (some (w.fetched j)))
      (s.fetchLand mb w j slot e bs) := by
  have hbytes := sameButCharges_topWrite hward hslot
  have hword := sameButCharges_topWrite (o := w.cfg.res + 16 * j)
    (bs := leBytes 8 (withBits (withBits e.w0 12 1 1) 16 16 slot).toNat) (hbytes.ward_off_of_withTopsoil hward)
    (by rwa [length_leBytes])
  rw [hbytes.topsoil_eq] at hword
  have hstored := ((hbytes.withTopsoil _).trans hword).setSower mb (some (w.fetched j))
  unfold State.fetchLand
  dsimp only
  rw [← SowerSt.fetched, sowerTables_of_fetching hmore]
  exact (hstored.trans (.moeStatus _)).trans (.moeStatus _)

theorem get_boardRetire (s : State) (o : Owner) {f : Fld} (hf : f.reg ≠ STEP_MSB.USED.reg) : (s.boardRetire o).get f = s.get f := by
  have hsched (x : SchedSt) : State.get { s with sched := x } f = s.get f := rfl
  unfold State.boardRetire State.boardCount
  rw [get_put_ne (f := STEP_MSB.HIGH) _ _ (.inl hf), get_put_ne (f := STEP_MSB.USED) _ _ (.inl hf), hsched]

theorem ownerDone_fetch (h : s.ownerPending (.fetch mb j) = false) : s.ownerDone (.fetch mb j) = s.boardRetire (.fetch mb j) := by
  unfold State.ownerDone
  rw [h]
  rfl

/-- Fetch `j` has ended in `t`, which came from `u`: the Sower knows, its scoreboard entries are gone, and Topsoil is `m`. -/
structure FetchEnds (mb : Bool) (w : SowerSt) (j : Nat) (m : Mem) (u t : State) : Prop where
  sower : t.sower mb = some (w.fetched j)
  held : t.boardHeld (.fetch mb j) = false
  topsoil : t.topsoil = m
  tiers : t.seedbed = u.seedbed ∧ t.subsoil = u.subsoil
  planes : t.lit = u.lit ∧ t.dark = u.dark ∧ t.field = u.field

theorem fetchEnds_ownerDone {m : Mem} (h : SameButCharges ({ u with topsoil := m }.setSower mb (some (w.fetched j))) t)
    (hpending : u.ownerPending (.fetch mb j) = false) : FetchEnds mb w j m u (t.ownerDone (.fetch mb j)) := by
  have hframe := setSower_frame { u with topsoil := m } mb (some (w.fetched j))
  rw [ownerDone_fetch ((h.ownerPending_eq _).trans (by rw [hframe]; exact hpending))]
  have hend := h.trans (.boardRetire t (.fetch mb j))
  have hsower := hend.sower_eq mb
  have htopsoil := hend.topsoil_eq
  have htiers := hend.tiers_eq
  have hplanes := hend.planes_eq
  rw [sower_setSower_self] at hsower
  rw [hframe] at htopsoil htiers hplanes
  exact ⟨hsower, boardHeld_boardRetire t _, htopsoil, htiers, hplanes⟩

theorem fetchEnds_fetchLand (hmore : (w.fetched j).fetching ≠ []) (hward : u.get WARD_STATUS.STATE = 0)
    (hpending : u.ownerPending (.fetch mb j) = false)
    (hslot : topRange (w.cfg.wslot + slot * w.cfg.wslotBytes) bs.length = true) (hres : topRange (w.cfg.res + 16 * j) 8 = true) :
    FetchEnds mb w j (w.landed u.topsoil j slot e bs) u ((u.fetchLand mb w j slot e bs).ownerDone (.fetch mb j)) :=
  fetchEnds_ownerDone (sameButCharges_fetchLand hmore hward hslot hres) hpending

/-- A fetch that fails: `act` zeroes its slot, or leaves the tiers alone, and charges the step. -/
theorem fetchEnds_fetchFail {m : Mem} {act : State → State} (hpending : u.ownerPending (.fetch mb j) = false)
    (hact : SameButCharges ({ u with topsoil := m }.setSower mb (some (w.fetched j))) (act (u.setSower mb (some (w.fetched j))))) :
    FetchEnds mb w j m u ((u.fetchFail mb w j act).ownerDone (.fetch mb j)) :=
  fetchEnds_ownerDone (hact.trans (.moeStatus _)) hpending

/-! ### The commands -/

theorem exec_fetchComplete_of_memory {k : BitVec 12} {f : FetchRead} (hof : s.fetchOf mb k.toNat = some (w, slot, e))
    (hwait : s.writeWaits (s.gaddr 1 (w.cfg.wslot + slot * w.cfg.wslotBytes)) w.cfg.expBytes = false) (hsrc : e.src = 0) :
    exec (.fetchComplete mb k f) s =
      .next ((s.fetchMemory mb k.toNat w slot e f.code f.remote).ownerDone (.fetch mb k.toNat)) := by
  show Host.Outcome.next _ = _
  rw [hof]
  dsimp only
  rw [hwait, if_neg Bool.false_ne_true, if_pos hsrc]

theorem exec_fetchComplete_of_fallow {k : BitVec 12} {f : FetchRead} (hof : s.fetchOf mb k.toNat = some (w, slot, e))
    (hwait : s.writeWaits (s.gaddr 1 (w.cfg.wslot + slot * w.cfg.wslotBytes)) w.cfg.expBytes = false) (hsrc : e.src ≠ 0)
    (hready : s.get FALLOW_STATUS.READY = 1) :
    exec (.fetchComplete mb k f) s =
      .next ((s.fetchFallow mb k.toNat w slot e f.bad0 f.bad1 f.corrected).ownerDone (.fetch mb k.toNat)) := by
  have hflag : s.flag FALLOW_STATUS.READY = true := by simp [State.flag, hready]
  show Host.Outcome.next _ = _
  rw [hof]
  dsimp only
  rw [hwait, if_neg Bool.false_ne_true, if_neg hsrc, hflag, Bool.not_true, if_neg Bool.false_ne_true]

theorem exec_fetchComplete_of_not_ready {k : BitVec 12} {f : FetchRead} (hof : s.fetchOf mb k.toNat = some (w, slot, e))
    (hwait : s.writeWaits (s.gaddr 1 (w.cfg.wslot + slot * w.cfg.wslotBytes)) w.cfg.expBytes = false) (hsrc : e.src ≠ 0)
    (hready : s.get FALLOW_STATUS.READY = 0) : exec (.fetchComplete mb k f) s = .next s := by
  have hflag : s.flag FALLOW_STATUS.READY = false := by simp [State.flag, hready]
  show Host.Outcome.next _ = _
  rw [hof]
  dsimp only
  rw [hwait, if_neg Bool.false_ne_true, if_neg hsrc, hflag, Bool.not_false, if_pos rfl]

/-- The range list or a tier's bounds refuse the copy of a fetch from a memory tier (R318). -/
def State.fetchRefused (s : State) (w : SowerSt) (slot : Nat) (e : ResEntry) : Bool :=
  s.accessRefused false e.source w.cfg.expBytes ||
    s.rangeRefuses true (s.gaddr 1 (w.cfg.wslot + slot * w.cfg.wslotBytes)) w.cfg.expBytes

theorem fetchMemory_of_refused (h : s.fetchRefused w slot e = true) (code : CodeResult) (remote : List Byte) :
    s.fetchMemory mb j w slot e code remote = s.fetchFail mb w j fun s => s.stepRefusal 6 e.source := if_pos h

theorem fetchMemory_of_read (h : s.fetchRefused w slot e = false) (hcommons : ∀ d k o, s.locate e.source ≠ .commons d k o)
    (code : CodeResult) (remote : List Byte) : s.fetchMemory mb j w slot e code remote =
      (s.readChecked e.source w.cfg.expBytes code true).1.fetchLand mb w j slot e
        (s.readChecked e.source w.cfg.expBytes code true).2.1 := by
  refine (if_neg (Bool.eq_false_iff.mp h)).trans ?_
  rw [readAny_of_not_commons hcommons]

/-- What a fetch reads from the Fallow store. -/
def State.fallowRead (s : State) (w : SowerSt) (e : ResEntry) (bad0 bad1 : List Nat) (corrected : Nat) : State × ReadOut :=
  (s.bump FALLOW_CE.CE corrected).falRead (e.source % 2 ^ 32) w.cfg.expBytes bad0 bad1

theorem fetchFallow_of_given {bad0 bad1 : List Nat} {corrected : Nat} (h : (s.fallowRead w e bad0 bad1 corrected).2.1 = 0) :
    s.fetchFallow mb j w slot e bad0 bad1 corrected = (s.fallowRead w e bad0 bad1 corrected).1.fetchLand mb w j slot e
      (s.fallowRead w e bad0 bad1 corrected).2.2 := if_pos h

theorem fetchFallow_of_not_given {bad0 bad1 : List Nat} {corrected : Nat} (h : (s.fallowRead w e bad0 bad1 corrected).2.1 ≠ 0) :
    s.fetchFallow mb j w slot e bad0 bad1 corrected = (s.fallowRead w e bad0 bad1 corrected).1.fetchFail mb w j fun s =>
      (s.topZero (w.cfg.wslot + slot * w.cfg.wslotBytes) w.cfg.expBytes).stepError { cls := 8, block := 6 } := if_neg h

/-- The Fallow read of a fetch, with the codewords that it corrected counted. -/
theorem sameButCharges_fallowRead (s : State) (w : SowerSt) (e : ResEntry) (bad0 bad1 : List Nat) (corrected : Nat) :
    SameButCharges s (s.fallowRead w e bad0 bad1 corrected).1 :=
  (SameButCharges.bump s _ (by decide)).trans (SameButCharges.falRead _ _ _ _ _)

theorem get_accessRefusal (s : State) : s.accessRefusal.get TIER_ERR.ACCESS = 1 ∧ s.accessRefusal.get HARROW_ERR.ADDR = 1 :=
  ⟨get_put_self _ 1 (by decide), (get_put_ne _ _ (.inl (by decide))).trans (get_put_self _ 1 (by decide))⟩

/-- A failed fetch ends with the error registers as `act` left them. -/
theorem get_fetchFail {act : State → State} {f : Fld} (hpending : (u.fetchFail mb w j act).ownerPending (.fetch mb j) = false)
    (hf : f.reg ∉ [SOWER_STATUS.BUSY_A.reg, GLEAN_STATUS.BUSY_A.reg]) (hmsb : f.reg ≠ STEP_MSB.USED.reg) :
    ((u.fetchFail mb w j act).ownerDone (.fetch mb j)).get f = (act (u.setSower mb (some (w.fetched j)))).get f := by
  rw [ownerDone_fetch hpending, get_boardRetire _ _ hmsb, State.fetchFail, get_moeStatus _ hf]
  rfl

/-- A fetch that lands: its slot and its residence entry are written, and the rest of memory is as its read left it (R261). -/
theorem fetch_landed {c : Instr} {m0 m1 m2 : Mem} (hread : SameButCharges { s with seedbed := m0, topsoil := m1, subsoil := m2 } u)
    (hexec : exec c s = .next ((u.fetchLand mb w j slot e bs).ownerDone (.fetch mb j))) (hmore : w.fetching.erase j ≠ [])
    (hpending : s.ownerPending (.fetch mb j) = false) (hward : s.get WARD_STATUS.STATE = 0)
    (hslot : topRange (w.cfg.wslot + slot * w.cfg.wslotBytes) bs.length = true) (hres : topRange (w.cfg.res + 16 * j) 8 = true) :
    ∃ t, exec c s = .next t ∧ t.sower mb = some { w with fetching := w.fetching.erase j } ∧ t.boardHeld (.fetch mb j) = false ∧
      t.topsoil = (u.topsoil.write 64 (w.cfg.wslot + slot * w.cfg.wslotBytes) bs).write 64 (w.cfg.res + 16 * j)
        (leBytes 8 (withBits (withBits e.w0 12 1 1) 16 16 slot).toNat) ∧
      t.seedbed = u.seedbed ∧ t.subsoil = u.subsoil ∧ t.lit = s.lit ∧ t.dark = s.dark ∧ t.field = s.field := by
  obtain ⟨hsower, hheld, htopsoil, ⟨hseedbed, hsubsoil⟩, hplanes⟩ :=
    fetchEnds_fetchLand (e := e) hmore (hread.wardState.trans hward) ((hread.ownerPending_eq _).trans hpending) hslot hres
  obtain ⟨hlit, hdark, hfield⟩ := hread.planes_eq
  rw [SowerSt.landed] at htopsoil
  exact ⟨_, hexec, hsower, hheld, htopsoil, hseedbed, hsubsoil, hplanes.1.trans hlit, hplanes.2.1.trans hdark,
    hplanes.2.2.trans hfield⟩

/-- A refused fetch: the step is charged, and the refusal leaves its marks (R318). -/
theorem fetch_refused {c : Instr} {addr : Nat}
    (hexec : exec c s = .next ((s.fetchFail mb w j fun s => s.stepRefusal 6 addr).ownerDone (.fetch mb j)))
    (hpending : s.ownerPending (.fetch mb j) = false) :
    ∃ t, exec c s = .next t ∧ t.sower mb = some { w with fetching := w.fetching.erase j } ∧ t.boardHeld (.fetch mb j) = false ∧
      t.get TIER_ERR.ACCESS = 1 ∧ t.get HARROW_ERR.ADDR = 1 ∧ SameMemory s t ∧
      t.lit = s.lit ∧ t.dark = s.dark ∧ t.field = s.field := by
  have hact := SameButCharges.stepRefusal (s.setSower mb (some (w.fetched j))) 6 addr
  obtain ⟨hsower, hheld, htopsoil, ⟨hseedbed, hsubsoil⟩, hlit, hdark, hfield⟩ :=
    fetchEnds_fetchFail (m := s.topsoil) (act := fun s => s.stepRefusal 6 addr) hpending hact
  have hmarks := get_accessRefusal ((s.setSower mb (some (w.fetched j))).stepError { cls := 8, block := 6, addr := addr })
  have hpending' : (s.fetchFail mb w j fun s => s.stepRefusal 6 addr).ownerPending (.fetch mb j) = false := by
    refine ((hact.trans (.moeStatus _)).ownerPending_eq _).trans ?_
    rw [setSower_frame]
    exact hpending
  refine ⟨_, hexec, hsower, hheld, ?_, ?_, fun a => ⟨fun _ => ?_, fun _ => ?_, fun _ => ?_⟩, hlit, hdark, hfield⟩
  · exact (get_fetchFail hpending' (by decide) (by decide)).trans hmarks.1
  · exact (get_fetchFail hpending' (by decide) (by decide)).trans hmarks.2
  · rw [hseedbed]
  · rw [htopsoil]
  · rw [hsubsoil]

/-- A fetch that Fallow cannot give: its slot is zeroed, and the step is charged (R353). -/
theorem fetch_zeroed {c : Instr} {r : ErrRec} {o n : Nat} (hread : SameButCharges s u)
    (hexec : exec c s = .next ((u.fetchFail mb w j fun s => (s.topZero o n).stepError r).ownerDone (.fetch mb j)))
    (hpending : s.ownerPending (.fetch mb j) = false) (hward : s.get WARD_STATUS.STATE = 0) (hslot : topRange o n = true) :
    ∃ t, exec c s = .next t ∧ t.sower mb = some { w with fetching := w.fetching.erase j } ∧ t.boardHeld (.fetch mb j) = false ∧
      t.topsoil = u.topsoil.zeroed 64 o n ∧ t.seedbed = s.seedbed ∧ t.lit = s.lit ∧ t.dark = s.dark ∧ t.field = s.field := by
  have hact : SameButCharges ({ u with topsoil := u.topsoil.zeroed 64 o n }.setSower mb (some (w.fetched j)))
      (((u.setSower mb (some (w.fetched j))).topZero o n).stepError r) := by
    rw [setSower_withTopsoil]
    have hzero : SameButCharges { u.setSower mb (some (w.fetched j)) with topsoil := u.topsoil.zeroed 64 o n }
        ((u.setSower mb (some (w.fetched j))).topZero o n) := by
      rw [← topsoil_setSower u mb (some (w.fetched j))]
      exact sameButCharges_topZero ((get_setSower ..).trans (hread.wardState.trans hward)) hslot
    exact hzero.trans (.stepError _ r)
  obtain ⟨hsower, hheld, htopsoil, ⟨hseedbed, -⟩, hlit, hdark, hfield⟩ :=
    fetchEnds_fetchFail (act := fun s => (s.topZero o n).stepError r) ((hread.ownerPending_eq _).trans hpending) hact
  obtain ⟨hlit', hdark', hfield'⟩ := hread.planes_eq
  exact ⟨_, hexec, hsower, hheld, htopsoil, hseedbed.trans hread.tiers_eq.1, hlit.trans hlit', hdark.trans hdark',
    hfield.trans hfield'⟩

end Fetches

end Sower

/-- Settles O19: a row and a segment leave the Sower waiting for more (`sowerWaits`), and so does a fetch that ends while others
run, whatever its read records and charges (`SameButCharges`, `FetchEnds`). -/
theorem sowerAndFetches : Obligations.SowerAndFetches := by
  unfold Obligations.SowerAndFetches
  refine ⟨fun s mb w hw => ⟨fun row hrow hexp => exec_scoreRow_of_unexpected hw hrow hexp,
      fun row r rest hrow hexp hrest => ?row, fun g hmb hkind =>
        ⟨fun hstep => exec_dispatchSegment_of_other_step hkind hstep,
          fun hstep hattempt hlayer hindex hlength hexperts htotal hfresh hbusy hmore => ?segment⟩⟩,
    fun s g hkind hstep hattempt => exec_dispatchSegment_of_stale hkind hstep hattempt,
    fun s mb j bad0 bad1 corrected code remote w slot e hof hmore hwait hpending => ?fetch⟩
  case row =>
    intro scores gates
    have hpop : SameRegsBut [0x60008, 0x60020, 0x60030, 0x70008] s (s.popN (stileQ w.cfg.stile 8) row.length) := by
      rw [popN_frame]; exact SameRegsBut.refl _ s
    refine ⟨_, exec_scoreRow_of_followed hw hrow hexp hrest, sower_withStatus .., ?_, fun hlen => ?_, ?_,
      sameRegsBut_withStatus (sameRegsBut_rowCounted hpop (by decide) (by decide) _ _) (by decide) (by decide) _ _⟩
    · rw [get_withStatus _ _ _ (by decide), get_rowCounted_rows, popN_frame]
      rfl
    · exact (get_withStatus _ _ _ (by decide)).trans (get_rowCounted_rowLen hlen)
    · rw [withStatus_frame, rowCounted_frame, popN_frame]
  case segment =>
    subst hmb
    have hfits : FitsPass g s w := ⟨hkind, hstep, hattempt, hlayer, hindex, hlength, hexperts, htotal, hfresh⟩
    refine ⟨_, exec_dispatchSegment_of_good hw hfits hbusy hmore, sower_withStatus .., ?_, withStatus_frame ..,
      sameRegsBut_withStatus ((SameRegsBut.refl _ s).put _ (by decide)) (by decide) (by decide) _ _⟩
    exact (get_withStatus _ _ _ (by decide)).trans (get_bump_self s 1 (by decide))
  case fetch =>
    intro bytesOf done c refused r
    have hmemory := exec_fetchComplete_of_memory (f := ⟨bad0, bad1, corrected, code, remote⟩) hof hwait
    have hfallow := exec_fetchComplete_of_fallow (f := ⟨bad0, bad1, corrected, code, remote⟩) hof hwait
    have hread := sameButCharges_fallowRead s w e bad0 bad1 corrected
    refine ⟨fun hsrc hrefused hcommons => ?read, fun hsrc hrefused => ?refused, fun hsrc hready hgiven => ?given,
      fun hsrc hready hfailed hward hslot => ?failed, fun hsrc hready => exec_fetchComplete_of_not_ready hof hwait hsrc hready⟩
    case read =>
      intro r hward hslot hres
      obtain ⟨m0, m1, m2, hread⟩ := readChecked_marks s e.source w.cfg.expBytes code
      have hexec := hmemory hsrc
      rw [fetchMemory_of_read hrefused hcommons] at hexec
      exact fetch_landed hread hexec hmore hpending hward hslot hres
    case refused =>
      have hexec := hmemory hsrc
      rw [fetchMemory_of_refused hrefused] at hexec
      exact fetch_refused hexec hpending
    case given =>
      intro hward hslot hres
      have hexec := hfallow hsrc hready
      rw [fetchFallow_of_given hgiven] at hexec
      exact fetch_landed hread hexec hmore hpending hward hslot hres
    case failed =>
      have hexec := hfallow hsrc hready
      rw [fetchFallow_of_not_given hfailed] at hexec
      exact fetch_zeroed hread hexec hpending hward hslot

end Sys2Proof.Machine
end

section
/-!
PROOFS. What the work of SERVE leaves of the rest of the machine: its reads and writes of the SERVE area, its charges, and the
slots and plans that they keep (R277, R278, R281, R291, R311, R320, R477).
-/
namespace Sys2Proof.Machine

section ServeWork

variable {s t u : State}

/-! ### What the step machine keeps -/

namespace KeepsStep

variable {may : List StepPart}

theorem lineError_outside (hmay : .topsoil ∈ may) (s : State) (sub : Bool) (l : Nat) : KeepsStep may s (s.lineError sub false l) := by
  unfold State.lineError
  rw [if_neg (by decide)]
  exact ((withTopsoil hmay s _).trans (errlog (s.repairLine l) _)).ite (errlog s _)

theorem readErrors_outside (hmay : .topsoil ∈ may) (s : State) (a n : Nat) : KeepsStep may s (s.readErrors a n false).1 := by
  unfold State.readErrors
  split
  · exact each (fun u w _ => wordError u w) s
  · exact each (fun u l _ => lineError_outside hmay u false l) s
  · exact each (fun u l _ => lineError_outside hmay u true l) s
  · exact refl s

theorem partReads_outside (hmay : .topsoil ∈ may) (s : State) (o n : Nat) : KeepsStep may s (s.partReads o n false) := by
  rw [partReads_eq_fun]
  exact (topTouch s o n).trans (readErrors_outside hmay _ _ n)

theorem subTouch (s : State) (o n : Nat) : KeepsStep may s (s.subTouch o n) := (bump s _ (by decide)).ite (errlog s _)

theorem subZero (hmay : .tiers ∈ may) (s : State) (o n : Nat) : KeepsStep may s (s.subZero o n) :=
  ((withTiers hmay s _ _).ite (refl s)).trans (subTouch _ o n)

theorem withServe (s : State) (v : ServeSt) : KeepsStep may s { s with serve := v } := beside rfl rfl fun _ _ _ => rfl

theorem setSlot (hmay : .topsoil ∈ may) (s : State) (i : Nat) (v : SlotSt) : KeepsStep may s (s.setSlot i v) :=
  (withServe s _).trans (topWrite hmay _ _ _)

theorem setPlanNew (hmay : .topsoil ∈ may) (s : State) (p : List PlanEntry) : KeepsStep may s (s.setPlanNew p) :=
  (withServe s _).trans (topWrite hmay _ _ _)

theorem setResult (s : State) (o : Nat) (src : Source) (w : W64) : KeepsStep may s (s.setResult o src w) where
  planes := ⟨rfl, rfl⟩
  sched := rfl
  steps _ _ _ := rfl
  passes _ := rfl
  field _ := rfl
  topsoil _ := rfl
  tiers _ := ⟨rfl, rfl⟩

theorem serveResult (s : State) (src : Source) (outcome reason paused : Nat) :
    KeepsStep may s (s.serveResult src outcome reason paused) := by
  unfold State.serveResult
  exact setResult s ..

theorem planStep_eq (h : KeepsStep may s t) : t.planStep = s.planStep :=
  congrArg (· + 2) (h.get_eq (f := STEP_NUM.STEP) (by decide) (by decide))

end KeepsStep

/-- The quota registers are none of the step machine's. -/
theorem quotaClass_block_ne (top : Bool) (c : Nat) : blockOf (quotaClass top c).2.reg ≠ 4 := by
  cases top with
  | false => exact ne_of_gt (show 4 < (0x90180 + 8 * c) / 65536 by omega)
  | true => exact ne_of_gt (show 4 < (0x90100 + 8 * c) / 65536 by omega)

theorem quotaJob_block_ne (top : Bool) : blockOf (quotaJob top).2.reg ≠ 4 := by
  cases top <;> decide

namespace KeepsStep

variable {may : List StepPart}

theorem chargeAdd (s : State) (top : Bool) (c n : Nat) : KeepsStep may s (s.chargeAdd top c n) :=
  (put s _ (.inl (quotaClass_block_ne top c))).trans (put _ _ (.inl (quotaJob_block_ne top)))

theorem chargeSub (s : State) (top : Bool) (c n : Nat) : KeepsStep may s (s.chargeSub top c n) :=
  (put s _ (.inl (quotaClass_block_ne top c))).trans (put _ _ (.inl (quotaJob_block_ne top)))

end KeepsStep

/-! ### What SERVE keeps of its own state -/

@[simp] theorem serve_topWrite (s : State) (o : Nat) (bs : List Byte) : (s.topWrite o bs).serve = s.serve := by
  rw [(SameRotation.topWrite s o bs).rest]

@[simp] theorem serve_topPutWord (s : State) (o w : Nat) : (s.topPutWord o w).serve = s.serve := serve_topWrite s o _

@[simp] theorem serve_subZero (s : State) (o n : Nat) : (s.subZero o n).serve = s.serve := by
  unfold State.subZero
  rw [(SameRotation.subTouch _ o n).rest]
  split <;> rfl

@[simp] theorem serve_setSlot (s : State) (i : Nat) (v : SlotSt) : (s.setSlot i v).serve = (s.knowSlot i v).serve :=
  serve_topWrite (s.knowSlot i v) _ _

@[simp] theorem serve_setPlanNew (s : State) (p : List PlanEntry) : (s.setPlanNew p).serve = { s.serve with planNew := p } :=
  serve_topWrite { s with serve := { s.serve with planNew := p } } _ _

theorem serve_setResult (s : State) (o : Nat) (src : Source) (w : W64) : (s.setResult o src w).serve = s.serve := rfl

@[simp] theorem serve_serveResult (s : State) (src : Source) (outcome reason paused : Nat) :
    (s.serveResult src outcome reason paused).serve = s.serve := by
  unfold State.serveResult
  exact serve_setResult s ..

/-- A slot's request words lie in Topsoil's tier or, past its end, in Subsoil's: their read is no read of Seedbed. -/
theorem locate_requestWords_ne_seedbed (s : State) {i : Nat} (hi : i < 1024) (t : State) (o : Nat) :
    t.locate (s.gaddr 1 (s.areaOff (64 * i + 32))) ≠ .seedbed o := by
  have hbase : s.get SERVE_AREA.BASE < 2 ^ 30 := get_lt s SERVE_AREA.BASE
  refine locate_ne_seedbed_of_tier ?_ o
  unfold State.gaddr State.areaOff
  omega

theorem SameRotation.readRequest (s : State) {i : Nat} (hi : i < 1024) : SameRotation s (s.readRequest i) := by
  unfold State.readRequest
  rw [partReads_eq_fun]
  exact (SameRotation.topTouch s _ 32).trans (.readErrors (fun o => locate_requestWords_ne_seedbed s hi _ o) 32)

theorem serve_readRequest (s : State) {i : Nat} (hi : i < 1024) : (s.readRequest i).serve = s.serve := by
  rw [(SameRotation.readRequest s hi).rest]

/-! ### Slots -/

theorem slot_congr (h : t.serve.slots = s.serve.slots) (i : Nat) : t.slot i = s.slot i := by rw [State.slot, h]; rfl

@[simp] theorem slot_knowSlot_self (s : State) (i : Nat) (v : SlotSt) : (s.knowSlot i v).slot i = v := KMap.get_set_self _ _ _ _

theorem slot_knowSlot_ne (s : State) {i j : Nat} (v : SlotSt) (h : j ≠ i) : (s.knowSlot i v).slot j = s.slot j :=
  KMap.get_set_ne _ _ _ h

@[simp] theorem slot_setSlot_self (s : State) (i : Nat) (v : SlotSt) : (s.setSlot i v).slot i = v := by
  rw [slot_congr (congrArg ServeSt.slots (serve_setSlot s i v)), slot_knowSlot_self]

theorem slot_setSlot_ne (s : State) {i j : Nat} (v : SlotSt) (h : j ≠ i) : (s.setSlot i v).slot j = s.slot j := by
  rw [slot_congr (congrArg ServeSt.slots (serve_setSlot s i v)), slot_knowSlot_ne s v h]

@[simp] theorem slot_serveResult (s : State) (src : Source) (outcome reason paused i : Nat) :
    (s.serveResult src outcome reason paused).slot i = s.slot i :=
  slot_congr (congrArg ServeSt.slots (serve_serveResult s ..)) i

/-! ### SERVE_CMDRES of an accepted command (R307) -/

theorem result_accepted (s : State) (src : Source) : (s.serveResult src 0 0 0).result 0x100058 src =
    BitVec.ofNat 64 (1 + s.planStep % 2 ^ 32 * 2 ^ 32) := by
  unfold State.serveResult
  rw [result_setResult_self]
  simp only [Nat.zero_mul, Nat.add_zero]

/-! ### Commands that are taken (R282) -/

variable {src : Source} {slot : BitVec 10} {arg : BitVec 14}

/-- The slot commands of a source, each with what SERVE takes. -/
def slotCommands (src : Source) (slot : BitVec 10) (arg : BitVec 14) : List (Instr × ServeCmd) :=
  [(.admitSlot src slot true, ⟨src, 1, slot.toNat, true, 0⟩), (.admitSlot src slot false, ⟨src, 1, slot.toNat, false, 0⟩),
    (.cancel src slot, ⟨src, 2, slot.toNat, false, 0⟩), (.pause src slot, ⟨src, 3, slot.toNat, false, 0⟩),
    (.resume src slot, ⟨src, 4, slot.toNat, false, 0⟩), (.setpos src slot arg, ⟨src, 5, slot.toNat, false, arg.toNat⟩),
    (.release src slot, ⟨src, 6, slot.toNat, false, 0⟩)]

/-- Each is a write of SERVE_CMD. -/
theorem exec_slotCommand {e : Instr × ServeCmd} (he : e ∈ slotCommands src slot arg) (s : State) :
    exec e.1 s = .next (s.serveCmd e.2) ∧ e.2.src = src := by
  simp only [slotCommands, List.mem_cons, List.not_mem_nil, or_false] at he
  rcases he with rfl | rfl | rfl | rfl | rfl | rfl | rfl
  all_goals exact ⟨rfl, rfl⟩

theorem exec_slotCommand_of_takes {e : Instr × ServeCmd} (he : e ∈ slotCommands src slot arg) (h : Takes s src 0x100050 1) :
    exec e.1 s = .next (s.serveTake e.2) := by
  obtain ⟨hexec, rfl⟩ := exec_slotCommand he s
  rw [hexec]
  exact congrArg Host.Outcome.next (ctlWrite_of_takes h _ _)

theorem serveTake_of_off (hen : s.get SERVE_CTRL.EN = 0) (c : ServeCmd) : s.serveTake c = s := by
  simp [State.serveTake, State.flag, hen]

theorem serveTake_of_boundaryWork (hen : s.get SERVE_CTRL.EN = 1) (hwork : s.boundaryWork = true) (c : ServeCmd) :
    s.serveTake c = State.setResult { s with serve := { s.serve with held := s.serve.held ++ [c] } } 0x100058 c.src 0 := by
  simp [State.serveTake, State.flag, hen, hwork]

theorem serveTake_of_no_work (hen : s.get SERVE_CTRL.EN = 1) (hwork : s.boundaryWork = false) (c : ServeCmd) :
    s.serveTake c = s.serveRun c := by
  simp [State.serveTake, State.flag, hen, hwork]

theorem exec_slotCommand_runs {e : Instr × ServeCmd} (he : e ∈ slotCommands src slot arg) (h : Takes s src 0x100050 1)
    (hen : s.get SERVE_CTRL.EN = 1) (hwork : s.boundaryWork = false) : exec e.1 s = .next (s.serveRun e.2) := by
  rw [exec_slotCommand_of_takes he h, serveTake_of_no_work hen hwork]

end ServeWork

end Sys2Proof.Machine
end

section
/-!
PROOFS. ADMIT (R283, R284, R286): the slot that the request words make, and its place in the open plan.
-/
namespace Sys2Proof.Machine

section Admission

variable {s : State} {src : Source} {i r : Nat} {mp : Bool}

/-! ### The request that ADMIT takes up (R278) -/

/-- The slot that an ADMIT makes of its request words. -/
def State.requested (s : State) (i : Nat) : SlotSt := { s.requestOf i with cmdSeq := s.serve.nextCmd }

/-- The state in which its tests are made: the slot is known, and the command has its place in the order of commands. -/
def State.requestTaken (s : State) (i : Nat) : State :=
  { s.knowSlot i (s.requested i) with serve := { (s.knowSlot i (s.requested i)).serve with nextCmd := s.serve.nextCmd + 1 } }

theorem slot_requestTaken (s : State) (i : Nat) : (s.requestTaken i).slot i = s.requested i := slot_knowSlot_self s i _

theorem serve_requestTaken (s : State) (i : Nat) : (s.requestTaken i).serve =
    { s.serve with slots := (s.requestTaken i).serve.slots, nextCmd := s.serve.nextCmd + 1 } := rfl

/-! ### A place in the open plan (R284) -/

/-- Slot `i` as it stands in row `r` of the open plan. -/
def State.placed (s : State) (i r : Nat) : SlotSt :=
  { s.slot i with
    admSeq := s.serve.nextAdm, st := slotActive, mb := chooseMb s.serve.planNew (s.slot i).mbForce, row := r, leaving := false }

/-- The open plan with slot `i` in row `r`. -/
def State.planJoined (s : State) (i r : Nat) : List PlanEntry :=
  s.serve.planNew ++ [⟨i, chooseMb s.serve.planNew (s.slot i).mbForce, r, (s.slot i).stepPos, false, false⟩]

/-- Slot `i` has joined the open plan in row `r` with the next ADM_SEQ. -/
def State.admitted (s : State) (i r : Nat) : State :=
  let t := ((s.knowSlot i { s.slot i with admSeq := s.serve.nextAdm }).setPlanNew (s.planJoined i r)).setSlot i (s.placed i r)
  { t with serve := { t.serve with nextAdm := s.serve.nextAdm + 1 } }

/-- A slot is accepted where a row is free. -/
theorem acceptAdm_eq (s : State) (i : Nat) (fail : State) : s.acceptAdm i fail =
    (freeRow s.serve.planNew (chooseMb s.serve.planNew (s.slot i).mbForce)).elim (fail, false) fun r => (s.admitted i r, true) := by
  have hplan : (s.knowSlot i { s.slot i with admSeq := s.serve.nextAdm }).serve.planNew = s.serve.planNew := rfl
  unfold State.acceptAdm State.join
  dsimp only
  rw [slot_knowSlot_self, hplan]
  cases freeRow s.serve.planNew (chooseMb s.serve.planNew (s.slot i).mbForce) with
  | none => rfl
  | some r => rfl

theorem slot_admitted (s : State) (i r : Nat) : (s.admitted i r).slot i = s.placed i r := slot_setSlot_self _ i _

theorem serve_admitted (s : State) (i r : Nat) : (s.admitted i r).serve = { s.serve with
    slots := (s.admitted i r).serve.slots, planNew := s.planJoined i r, nextAdm := s.serve.nextAdm + 1 } := by
  unfold State.admitted
  dsimp only
  rw [serve_setSlot]
  unfold State.knowSlot
  rw [serve_setPlanNew]

theorem keepsStep_admitted (s : State) (i r : Nat) : KeepsStep [.topsoil] s (s.admitted i r) :=
  (((KeepsStep.withServe s _).trans (.setPlanNew List.mem_cons_self _ _)).trans (.setSlot List.mem_cons_self _ _ _)).trans
    (.withServe _ _)

/-- A free slot `i` of `s`, whose request is `v`, has joined the open plan in row `r` of micro-batch `mb`. -/
structure Admits (s : State) (i : Nat) (v : SlotSt) (mb : Bool) (r : Nat) (t : State) : Prop where
  step : KeepsStep [.topsoil] s t
  slot : t.slot i = { v with admSeq := s.serve.nextAdm, st := slotActive, mb := mb, row := r, leaving := false }
  planNew : t.serve.planNew = s.serve.planNew ++ [⟨i, mb, r, v.stepPos, false, false⟩]
  nextAdm : t.serve.nextAdm = s.serve.nextAdm + 1
  plans : t.serve.planNow = s.serve.planNow ∧ t.serve.planNext = s.serve.planNext

theorem admits_admitted (s : State) (i r : Nat) :
    Admits s i (s.requested i) (chooseMb s.serve.planNew (s.requested i).mbForce) r ((s.requestTaken i).admitted i r) where
  step := (KeepsStep.withServe s _).trans (keepsStep_admitted _ i r)
  slot := by rw [slot_admitted, State.placed, slot_requestTaken]; rfl
  planNew := by rw [serve_admitted, State.planJoined, slot_requestTaken]; rfl
  nextAdm := by rw [serve_admitted]; rfl
  plans := by rw [serve_admitted]; exact ⟨rfl, rfl⟩

theorem Admits.of_read {v : SlotSt} {mb : Bool} {t u : State} (h : Admits u i v mb r t) (k : KeepsStep [.topsoil] s u)
    (hserve : u.serve = s.serve) : Admits s i v mb r t where
  step := k.trans h.step
  slot := by rw [h.slot, hserve]
  planNew := by rw [h.planNew, hserve]
  nextAdm := by rw [h.nextAdm, hserve]
  plans := by rw [← hserve]; exact h.plans

theorem Admits.serveResult {v : SlotSt} {mb : Bool} {t : State} (h : Admits s i v mb r t) (src : Source) (outcome reason paused : Nat) :
    Admits s i v mb r (t.serveResult src outcome reason paused) where
  step := h.step.trans (.serveResult ..)
  slot := by rw [slot_serveResult, h.slot]
  planNew := by rw [serve_serveResult, h.planNew]
  nextAdm := by rw [serve_serveResult, h.nextAdm]
  plans := by rw [serve_serveResult]; exact h.plans

/-! ### The answers (R283, R286) -/

theorem admitSlot_of_not_free (h : (s.slot i).st ≠ slotFree) : s.admitSlot src i mp = s.serveResult src 3 0 0 := if_pos h

theorem admitSlot_of_free (h : (s.slot i).st = slotFree) : s.admitSlot src i mp = (s.readRequest i).admitFree src i mp :=
  if_neg (not_not_intro h)

theorem admitFree_of_bad (h : s.requestBad i = true) : s.admitFree src i mp = s.serveResult src 2 reasonLimit 0 := if_pos h

/-- A request that passes R286 joins the plan, or waits for a row. -/
theorem admitFree_of_passes (hgood : s.requestBad i = false) (hreason : (s.requestTaken i).admitReason i = none) :
    s.admitFree src i mp = (let a := (s.requestTaken i).acceptAdm i (s.requestTaken i)
      if a.2 then a.1.serveResult src 0 0 0
      else ((s.requestTaken i).setSlot i { s.requested i with st := slotQueued }).serveResult src 1 reasonRow 0) := by
  unfold State.admitFree
  rw [if_neg (by simp [hgood])]
  unfold State.requestTaken State.requested at hreason ⊢
  dsimp only at hreason ⊢
  rw [hreason]

/-- The open plan is as it was when the request is taken up. -/
theorem rowFor_requestTaken (s : State) (i : Nat) :
    freeRow (s.requestTaken i).serve.planNew (chooseMb (s.requestTaken i).serve.planNew ((s.requestTaken i).slot i).mbForce) =
      freeRow s.serve.planNew (chooseMb s.serve.planNew (s.requested i).mbForce) := by
  rw [slot_requestTaken]
  rfl

theorem admitFree_of_freeRow (hgood : s.requestBad i = false) (hreason : (s.requestTaken i).admitReason i = none)
    (hrow : freeRow s.serve.planNew (chooseMb s.serve.planNew (s.requested i).mbForce) = some r) :
    s.admitFree src i mp = ((s.requestTaken i).admitted i r).serveResult src 0 0 0 := by
  rw [admitFree_of_passes hgood hreason, acceptAdm_eq, rowFor_requestTaken, hrow]
  rfl

theorem admitFree_of_full (hgood : s.requestBad i = false) (hreason : (s.requestTaken i).admitReason i = none)
    (hrow : freeRow s.serve.planNew (chooseMb s.serve.planNew (s.requested i).mbForce) = none) :
    s.admitFree src i mp =
      ((s.requestTaken i).setSlot i { s.requested i with st := slotQueued }).serveResult src 1 reasonRow 0 := by
  rw [admitFree_of_passes hgood hreason, acceptAdm_eq, rowFor_requestTaken, hrow]
  rfl

end Admission

/-- Settles O29: a request that passes is taken up (`requestTaken`) and placed in the open plan (`admitted`); reading its words
leaves SERVE as it was (`serve_readRequest`). -/
theorem serveAdmit : Obligations.ServeAdmit := by
  unfold Obligations.ServeAdmit
  intro s src slot mp htakes hen hwork i u v k mb
  have hexec : exec (.admitSlot src slot mp) s = .next (s.admitSlot src i mp) :=
    exec_slotCommand_runs (e := (.admitSlot src slot mp, ⟨src, 1, i, mp, 0⟩)) (slot := slot) (arg := 0)
      (by cases mp <;> simp [slotCommands, i]) htakes hen hwork
  have hfree (h : (s.slot i).st = slotFree) : s.admitSlot src i mp = u.admitFree src i mp := admitSlot_of_free h
  have hread : KeepsStep [.topsoil] s u := .partReads_outside List.mem_cons_self s _ _
  have hserve : u.serve = s.serve := serve_readRequest s slot.isLt
  clear_value u
  have hv : v = u.requested i := by simp only [v, State.requested, hserve]
  have hk : k = u.requestTaken i := by simp only [k, State.requestTaken, ← hv, hserve]
  have hrow (o : Option Nat) (h : freeRow s.serve.planNew mb = o) :
      freeRow u.serve.planNew (chooseMb u.serve.planNew (u.requested i).mbForce) = o := by rw [hserve, ← hv]; exact h
  rw [hexec]
  refine ⟨fun hbusy => congrArg _ (admitSlot_of_not_free hbusy), fun h hbad => ?bad, fun h hgood hreason => ?good⟩
  case bad => rw [hfree h, admitFree_of_bad hbad]
  case good =>
    rw [hk] at hreason
    rw [hfree h]
    refine ⟨fun r hr => ?joins, fun hfull => ?queues⟩
    case queues => rw [admitFree_of_full hgood hreason (hrow _ hfull), hk, hv]
    case joins =>
      have hadmits : Admits s i v mb r ((u.requestTaken i).admitted i r) := by
        have h := (admits_admitted u i r).of_read hread hserve
        rwa [hserve, ← hv] at h
      obtain ⟨hstep, hslot, hplanNew, hnextAdm, hplanNow, hplanNext⟩ := hadmits.serveResult src 0 0 0
      refine ⟨_, congrArg _ (admitFree_of_freeRow hgood hreason (hrow _ hr)), hslot, hplanNew, hnextAdm, hplanNow, hplanNext, ?_,
        (hstep.tiers (by simp)).1, (hstep.tiers (by simp)).2, hstep.planes.1, hstep.planes.2, hstep.field (by simp)⟩
      rw [result_accepted, hadmits.step.planStep_eq]

end Sys2Proof.Machine
end

section
/-!
PROOFS. What the pages and charges of SERVE let happen now (R283, R291, R294, R295): a slot that stays in its plans is left
alone, a PAUSING one is PAUSING or PAUSED after, and an ENDED one has at most its pages freed.
-/
namespace Sys2Proof.Machine

section Pump

variable {s t u : State}

/-! ### Pages (R291) -/

/-- `t` is `s` after work on pages: the slots and the open plan are as they were. -/
structure PageWork (s t : State) : Prop where
  step : KeepsStep [.topsoil, .tiers] s t
  slots : t.serve.slots = s.serve.slots
  planNew : t.serve.planNew = s.serve.planNew

namespace PageWork

/-- Work outside SERVE's own state. -/
theorem beside (h : KeepsStep [.topsoil, .tiers] s t) (hserve : t.serve = s.serve) : PageWork s t :=
  ⟨h, congrArg ServeSt.slots hserve, congrArg ServeSt.planNew hserve⟩

theorem refl (s : State) : PageWork s s := ⟨.refl s, rfl, rfl⟩

theorem trans (h : PageWork s t) (k : PageWork t u) : PageWork s u :=
  ⟨h.step.trans k.step, k.slots.trans h.slots, k.planNew.trans h.planNew⟩

theorem each {α : Type} {f : State → α → State} {l : List α} (hf : ∀ s x, PageWork s (f s x)) (s : State) :
    PageWork s (s.each l f) := by
  induction l generalizing s with
  | nil => exact refl s
  | cons x l ih => exact (hf s x).trans (ih (f s x))

theorem ite {c : Prop} [Decidable c] (ht : PageWork s t) (hu : PageWork s u) : PageWork s (if c then t else u) := by
  split
  · exact ht
  · exact hu

theorem put (s : State) {f : Fld} (v : Nat) (hf : blockOf f.reg ≠ 4) : PageWork s (s.put f v) := beside (.put s v (.inl hf)) rfl

theorem topPutWord (s : State) (o w : Nat) : PageWork s (s.topPutWord o w) := beside (.topPutWord (by simp) s o w) (by simp)

theorem subZero (s : State) (o n : Nat) : PageWork s (s.subZero o n) := beside (.subZero (by simp) s o n) (by simp)

theorem chargeAdd (s : State) (top : Bool) (c n : Nat) : PageWork s (s.chargeAdd top c n) := beside (.chargeAdd s top c n) rfl

theorem chargeSub (s : State) (top : Bool) (c n : Nat) : PageWork s (s.chargeSub top c n) := beside (.chargeSub s top c n) rfl

theorem addRange (s : State) (k : RangeKind) (a n : Nat) : PageWork s (s.addRange k a n) := beside (.withHarrow s _) rfl

theorem harrowStatus (s : State) : PageWork s s.harrowStatus := beside (.harrowStatus s) rfl

theorem poolCount (s : State) : PageWork s s.poolCount := put s _ (by decide)

/-- The pools of pages, as the free, dirty and used ones stand. -/
theorem withPools (s : State) (free dirty used : List Nat) :
    PageWork s { s with serve := { s.serve with poolFree := free, poolDirty := dirty, subUsed := used } } :=
  ⟨.withServe s _, rfl, rfl⟩

theorem slot_eq (h : PageWork s t) (i : Nat) : t.slot i = s.slot i := slot_congr h.slots i

theorem pageFree (s : State) (i k : Nat) : PageWork s (s.pageFree i k) := by
  have hcleared (top : Bool) (c : Nat) : PageWork s ((s.topPutWord (s.ptabOff i k) 0).chargeSub top c s.pageUnits) :=
    (topPutWord s _ 0).trans (chargeSub _ top c _)
  unfold State.pageFree
  dsimp only
  exact (refl s).ite (((hcleared _ _).trans (withPools _ _ _ _)).ite ((hcleared _ _).trans (withPools _ _ _ _)))

theorem pageAlloc (n i : Nat) (s : State) : PageWork s (s.pageAlloc i n) := by
  induction n generalizing s with
  | zero => exact refl s
  | succ n ih =>
    unfold State.pageAlloc
    dsimp only
    split
    · exact refl s
    · exact (refl s).ite ((put s 1 (by decide)).ite
        ((((withPools s _ _ _).trans (chargeAdd _ _ _ _)).trans (topPutWord _ _ _)).trans (ih _)))

end PageWork

/-! ### Slots -/

/-- What the pump may make of a slot: nothing of one whose pages neither move nor are freed, PAUSED of a PAUSING one, and of an
ENDED one that awaits its RELEASE only the news that its pages are free. -/
structure SlotPumped (v w : SlotSt) : Prop where
  rests : v.st ≠ slotPausing → v.st ≠ slotResuming → v.st ≠ slotEnded → w = v
  pauses : v.st = slotPausing → w.st = slotPausing ∨ w.st = slotPaused
  ends : v.st = slotEnded → v.releasing = false → w.st = slotEnded ∧ w.ending = v.ending ∧ w.releasing = false

namespace SlotPumped

variable {v w x : SlotSt}

theorem refl (v : SlotSt) : SlotPumped v v := ⟨fun _ _ _ => rfl, .inl, fun hst hrel => ⟨hst, rfl, hrel⟩⟩

theorem trans (h : SlotPumped v w) (k : SlotPumped w x) : SlotPumped v x where
  rests hp hr he := by
    obtain rfl := h.rests hp hr he
    exact k.rests hp hr he
  pauses hst := by
    rcases h.pauses hst with hw | hw
    · exact k.pauses hw
    · have hx : x = w := k.rests (by rw [hw]; decide) (by rw [hw]; decide) (by rw [hw]; decide)
      exact .inr (by rw [hx, hw])
  ends hst hrel := by
    obtain ⟨hw, hend, hwrel⟩ := h.ends hst hrel
    obtain ⟨hx, hxend, hxrel⟩ := k.ends hw hwrel
    exact ⟨hx, hxend.trans hend, hxrel⟩

theorem paused (h : v.st = slotPausing) : SlotPumped v { v with st := slotPaused } where
  rests hp := absurd h hp
  pauses _ := .inr rfl
  ends he := absurd (h.symm.trans he) (by decide)

theorem moving (h : v.st = slotPausing ∨ v.st = slotResuming) (m : Option PageMove) : SlotPumped v { v with move := m } where
  rests hp hr := (h.elim hp hr).elim
  pauses := .inl
  ends he := by rcases h with h | h <;> exact absurd (h.symm.trans he) (by decide)

theorem freed (h : v.st = slotEnded) : SlotPumped v (if v.releasing then SlotSt.free else { v with freeIn := none }) where
  rests _ _ he := absurd h he
  pauses hp := absurd (h.symm.trans hp) (by decide)
  ends _ hrel := by rw [if_neg (by rw [hrel]; decide)]; exact ⟨h, rfl, hrel⟩

end SlotPumped

/-! ### The pump -/

/-- `t` is `s` after work of the pump. -/
structure Pumps (s t : State) : Prop where
  step : KeepsStep [.topsoil, .tiers] s t
  slots : ∀ i, SlotPumped (s.slot i) (t.slot i)
  planNew : t.serve.planNew = s.serve.planNew

theorem PageWork.pumps (h : PageWork s t) : Pumps s t := ⟨h.step, fun i => h.slot_eq i ▸ SlotPumped.refl _, h.planNew⟩

namespace Pumps

theorem refl (s : State) : Pumps s s := (PageWork.refl s).pumps

theorem trans (h : Pumps s t) (k : Pumps t u) : Pumps s u :=
  ⟨h.step.trans k.step, fun i => (h.slots i).trans (k.slots i), k.planNew.trans h.planNew⟩

theorem each {α : Type} {f : State → α → State} {l : List α} (hf : ∀ s x, Pumps s (f s x)) (s : State) : Pumps s (s.each l f) := by
  induction l generalizing s with
  | nil => exact refl s
  | cons x l ih => exact (hf s x).trans (ih (f s x))

theorem setSlot {i : Nat} {v : SlotSt} (h : SlotPumped (s.slot i) v) : Pumps s (s.setSlot i v) where
  step := .setSlot (by simp) s i v
  slots j := by
    by_cases hj : j = i
    · rw [hj, slot_setSlot_self]
      exact h
    · rw [slot_setSlot_ne s v hj]
      exact .refl _
  planNew := by rw [serve_setSlot]; rfl

/-- Work on pages, then the slot that it was done for. -/
theorem setSlot_after {i : Nat} {v : SlotSt} (h : PageWork s t) (hv : SlotPumped (s.slot i) v) : Pumps s (t.setSlot i v) :=
  h.pumps.trans (setSlot (by rw [h.slot_eq]; exact hv))

theorem pageMoveStart (s : State) (i : Nat) : Pumps s (s.pageMoveStart i) := by
  have hquota : Pumps s (s.put TIER_ERR.QUOTA 1) := (PageWork.put s 1 (by decide)).pumps
  unfold State.pageMoveStart
  dsimp only
  split
  · exact refl s
  split
  · next hpausing =>
    split
    · split
      · exact setSlot_after ((((PageWork.chargeAdd s _ _ _).trans (.subZero _ _ _)).trans (.withPools _ _ _ _)).trans
          (.addRange _ _ _ _)) (.moving (.inl hpausing) _)
      · exact hquota
    · exact refl s
  split
  · next hresuming =>
    split
    · split
      · exact setSlot_after (((PageWork.chargeAdd s _ _ _).trans (.withPools _ _ _ _)).trans (.addRange _ _ _ _))
          (.moving (.inr hresuming) _)
      · exact hquota
    · exact refl s
  · exact refl s

theorem slotRelease (s : State) (i : Nat) : Pumps s (s.slotRelease i) := by
  unfold State.slotRelease
  dsimp only
  split
  · next h =>
    obtain ⟨hended, -, -⟩ := h
    exact setSlot_after (.each (fun u k => .pageFree u i k) s) (.freed hended)
  · exact refl s

theorem pagePump (s : State) : Pumps s s.pagePump := by
  have hmoves (u : State) (i : Nat) : Pumps u (if (u.slot i).st = slotPausing ∧ (u.slot i).move.isNone ∧ (u.pagesIn i 1).isEmpty
      then u.setSlot i { u.slot i with st := slotPaused } else u.pageMoveStart i) := by
    split
    · next h => exact setSlot (.paused h.1)
    · exact pageMoveStart u i
  have hrecords (u : State) (i : Nat) : Pumps u (u.setSlot i (u.slot i)) := setSlot (.refl _)
  unfold State.pagePump
  exact ((((PageWork.each (fun u i => .pageAlloc _ i u) s).pumps.trans (each hmoves _)).trans (each slotRelease _)).trans
    (each hrecords _)).trans ((PageWork.poolCount _).trans (.harrowStatus _)).pumps

end Pumps

end Pump

end Sys2Proof.Machine
end

section
/-!
PROOFS. CANCEL, PAUSE, RESUME, SETPOS and RELEASE by the state of their slot (R283, R294 to R296).
-/
namespace Sys2Proof.Machine

section SlotCommands

variable {s : State} {src : Source} {i arg : Nat}

theorem ne_of_eq_or_eq {n a b c : Nat} (h : n = a ∨ n = b) (ha : a ≠ c) (hb : b ≠ c) : n ≠ c := by
  rcases h with rfl | rfl
  · exact ha
  · exact hb

/-! ### CANCEL -/

theorem cancel_of_queued (h : (s.slot i).st = slotQueued) :
    s.cancel src i = (s.setSlot i SlotSt.free).serveResult src 0 0 0 := if_pos h

theorem cancel_of_planned (h : (s.slot i).st = slotActive ∨ (s.slot i).st = slotResuming) :
    s.cancel src i = (s.setSlot i { s.slot i with cancelled := true }).serveResult src 0 0 0 := by
  have hqueued : (s.slot i).st ≠ slotQueued := ne_of_eq_or_eq h (by decide) (by decide)
  exact (if_neg hqueued).trans (if_pos h)

theorem cancel_of_paused (h : (s.slot i).st = slotPausing ∨ (s.slot i).st = slotPaused) :
    s.cancel src i = (s.setSlot i { s.slot i with
      st := slotEnded, ending := 3, resumePend := false, freeIn := some 0 }).pagePump.serveResult src 0 0 0 := by
  have hne {st : Nat} (hpausing : slotPausing ≠ st) (hpaused : slotPaused ≠ st) : (s.slot i).st ≠ st :=
    ne_of_eq_or_eq h hpausing hpaused
  exact (if_neg (hne (by decide) (by decide))).trans
    ((if_neg (not_or.mpr ⟨hne (by decide) (by decide), hne (by decide) (by decide)⟩)).trans (if_pos h))

theorem cancel_of_free_or_ended (h : (s.slot i).st = slotFree ∨ (s.slot i).st = slotEnded) :
    s.cancel src i = s.serveResult src 3 0 0 := by
  have hne {st : Nat} (hfree : slotFree ≠ st) (hended : slotEnded ≠ st) : (s.slot i).st ≠ st := ne_of_eq_or_eq h hfree hended
  exact (if_neg (hne (by decide) (by decide))).trans
    ((if_neg (not_or.mpr ⟨hne (by decide) (by decide), hne (by decide) (by decide)⟩)).trans
      (if_neg (not_or.mpr ⟨hne (by decide) (by decide), hne (by decide) (by decide)⟩)))

/-! ### PAUSE -/

theorem pause_of_fits (hst : (s.slot i).st = slotActive) (hprio : 2 ≤ (s.slot i).prio) (hfits : s.pauseFits i = true) :
    s.pause src i = (s.leave i).pagePump.serveResult src 0 0 0 := (if_pos ⟨hst, hprio⟩).trans (if_pos hfits)

theorem pause_of_no_quota (hst : (s.slot i).st = slotActive) (hprio : 2 ≤ (s.slot i).prio) (hfits : s.pauseFits i = false) :
    s.pause src i = s.serveResult src 2 reasonQuota 0 := (if_pos ⟨hst, hprio⟩).trans (if_neg (by simp [hfits]))

theorem pause_of_wrong_state (h : (s.slot i).st ≠ slotActive ∨ (s.slot i).prio < 2) : s.pause src i = s.serveResult src 3 0 0 :=
  if_neg fun ⟨hst, hprio⟩ => h.elim (· hst) (Nat.not_lt.mpr hprio)

theorem slot_leave (s : State) (i : Nat) : (s.leave i).slot i =
    if s.planned i then { s.slot i with leaving := true } else ({ s.slot i with leaving := true } : SlotSt).left :=
  slot_setSlot_self _ i _

theorem planNew_leave (s : State) (i : Nat) : (s.leave i).serve.planNew = s.serve.planNew.filter fun e => e.slot != i := by
  unfold State.leave
  dsimp only
  rw [serve_setSlot]
  unfold State.knowSlot
  rw [serve_setPlanNew]

theorem keepsStep_leave (s : State) (i : Nat) : KeepsStep [.topsoil, .tiers] s (s.leave i) :=
  (KeepsStep.setPlanNew (by simp) s _).trans (.setSlot (by simp) _ _ _)

/-- A slot that a PAUSE has taken out of the open plan, once the pages have done what they can. -/
structure Pauses (s : State) (i : Nat) (t : State) : Prop where
  step : KeepsStep [.topsoil, .tiers] s t
  planNew : t.serve.planNew = s.serve.planNew.filter fun e => e.slot != i
  planned : s.planned i = true → t.slot i = { s.slot i with leaving := true }
  unplanned : s.planned i = false → (s.slot i).cancelled = false → (t.slot i).st = slotPausing ∨ (t.slot i).st = slotPaused
  cancelled : s.planned i = false → (s.slot i).cancelled = true → (t.slot i).st = slotEnded ∧ (t.slot i).ending = 3

theorem pauses_leave_pagePump (hst : (s.slot i).st = slotActive) (hrel : (s.slot i).releasing = false) :
    Pauses s i (s.leave i).pagePump := by
  obtain ⟨hstep, hslots, hplan⟩ := Pumps.pagePump (s.leave i)
  have hslot := hslots i
  rw [slot_leave] at hslot
  refine ⟨(keepsStep_leave s i).trans hstep, hplan.trans (planNew_leave s i), fun h => ?planned, fun h hc => ?unplanned,
    fun h hc => ?cancelled⟩
  case planned =>
    rw [if_pos h] at hslot
    exact hslot.rests (by rw [hst]; decide) (by rw [hst]; decide) (by rw [hst]; decide)
  case unplanned =>
    rw [if_neg (by simp [h]), SlotSt.left, if_neg (by simp [hc])] at hslot
    exact hslot.pauses rfl
  case cancelled =>
    rw [if_neg (by simp [h]), SlotSt.left, if_pos hc] at hslot
    obtain ⟨hended, hending, -⟩ := hslot.ends rfl hrel
    exact ⟨hended, hending⟩

theorem Pauses.serveResult {t : State} (h : Pauses s i t) (src : Source) (outcome reason paused : Nat) :
    Pauses s i (t.serveResult src outcome reason paused) where
  step := h.step.trans (.serveResult ..)
  planNew := by rw [serve_serveResult, h.planNew]
  planned := by rw [slot_serveResult]; exact h.planned
  unplanned := by rw [slot_serveResult]; exact h.unplanned
  cancelled := by rw [slot_serveResult]; exact h.cancelled

/-! ### RESUME -/

/-- The state in which a RESUME acts: the command has its place in the order of commands. -/
def State.commandCounted (s : State) : State := { s with serve := { s.serve with nextCmd := s.serve.nextCmd + 1 } }

theorem resume_of_fits (h : (s.slot i).st = slotPausing ∨ (s.slot i).st = slotPaused) (hfits : s.resumeFits i = true) :
    s.resume src i = (s.commandCounted.setSlot i { s.slot i with
      cmdSeq := s.serve.nextCmd, st := slotResuming, resumePend := false }).pagePump.serveResult src 0 0 0 :=
  (if_pos h).trans (if_pos hfits)

theorem resume_of_no_quota (h : (s.slot i).st = slotPausing ∨ (s.slot i).st = slotPaused) (hfits : s.resumeFits i = false) :
    s.resume src i = (s.commandCounted.setSlot i { s.slot i with
      cmdSeq := s.serve.nextCmd, resumePend := true }).serveResult src 1 reasonQuota 0 :=
  (if_pos h).trans (if_neg (by simp [hfits]))

theorem resume_of_wrong_state (hpausing : (s.slot i).st ≠ slotPausing) (hpaused : (s.slot i).st ≠ slotPaused) :
    s.resume src i = s.serveResult src 3 0 0 := if_neg (not_or.mpr ⟨hpausing, hpaused⟩)

/-! ### SETPOS -/

/-- The open plan with a new STEP_POS of slot `i`. -/
def State.planWithPos (s : State) (i arg : Nat) : List PlanEntry :=
  s.serve.planNew.map fun e => if e.slot = i then { e with stepPos := arg } else e

/-- Slot `i` has its new STEP_POS, in its record and in the open plan. -/
def State.posSet (s : State) (i arg : Nat) : State := (s.setPlanNew (s.planWithPos i arg)).setSlot i { s.slot i with stepPos := arg }

theorem setpos_of_wrong_state (h : (s.slot i).st ≠ slotActive) : s.setpos src i arg = s.serveResult src 3 0 0 := if_pos h

theorem setpos_of_limit (hst : (s.slot i).st = slotActive) (h : arg = 0 ∨ 8192 < arg ∨ (s.slot i).limit < arg) :
    s.setpos src i arg = s.serveResult src 2 reasonLimit 0 := (if_neg (not_not_intro hst)).trans (if_pos h)

/-- An ARG that the slot may have (R283). -/
structure PosAllowed (s : State) (i arg : Nat) : Prop where
  active : (s.slot i).st = slotActive
  pos : 1 ≤ arg
  most : arg ≤ 8192
  limit : arg ≤ (s.slot i).limit

theorem setpos_of_allowed (h : PosAllowed s i arg) : s.setpos src i arg =
    (if arg ≤ (s.slot i).stepPos then (s.posSet i arg).serveResult src 0 0 0
      else if !(s.knowSlot i { s.slot i with stepPos := arg }).quotaOk (s.planWithPos i arg) i then s.serveResult src 2 reasonQuota 0
      else if !(s.knowSlot i { s.slot i with stepPos := arg }).timeOk (s.planWithPos i arg) then s.serveResult src 2 reasonTime 0
      else (s.posSet i arg).serveResult src 0 0 0) := by
  obtain ⟨hst, hpos, hmost, hlimit⟩ := h
  exact (if_neg (not_not_intro hst)).trans (if_neg (by omega))

theorem setpos_of_not_raised (h : PosAllowed s i arg) (hle : arg ≤ (s.slot i).stepPos) :
    s.setpos src i arg = (s.posSet i arg).serveResult src 0 0 0 := (setpos_of_allowed h).trans (if_pos hle)

section Raised

variable (h : PosAllowed s i arg) (hlt : (s.slot i).stepPos < arg)

include h hlt

theorem setpos_of_no_quota (hquota : (s.knowSlot i { s.slot i with stepPos := arg }).quotaOk (s.planWithPos i arg) i = false) :
    s.setpos src i arg = s.serveResult src 2 reasonQuota 0 := by
  rw [setpos_of_allowed h, if_neg (Nat.not_le.mpr hlt), hquota]
  rfl

theorem setpos_of_no_time (hquota : (s.knowSlot i { s.slot i with stepPos := arg }).quotaOk (s.planWithPos i arg) i = true)
    (htime : (s.knowSlot i { s.slot i with stepPos := arg }).timeOk (s.planWithPos i arg) = false) :
    s.setpos src i arg = s.serveResult src 2 reasonTime 0 := by
  rw [setpos_of_allowed h, if_neg (Nat.not_le.mpr hlt), hquota, htime]
  rfl

theorem setpos_of_passes (hquota : (s.knowSlot i { s.slot i with stepPos := arg }).quotaOk (s.planWithPos i arg) i = true)
    (htime : (s.knowSlot i { s.slot i with stepPos := arg }).timeOk (s.planWithPos i arg) = true) :
    s.setpos src i arg = (s.posSet i arg).serveResult src 0 0 0 := by
  rw [setpos_of_allowed h, if_neg (Nat.not_le.mpr hlt), hquota, htime]
  rfl

end Raised

theorem slot_posSet (s : State) (i arg : Nat) : (s.posSet i arg).slot i = { s.slot i with stepPos := arg } := slot_setSlot_self _ i _

theorem serve_posSet (s : State) (i arg : Nat) : (s.posSet i arg).serve =
    { s.serve with slots := (s.posSet i arg).serve.slots, planNew := s.planWithPos i arg } := by
  unfold State.posSet
  rw [serve_setSlot]
  unfold State.knowSlot
  rw [serve_setPlanNew]

theorem keepsStep_posSet (s : State) (i arg : Nat) : KeepsStep [.topsoil] s (s.posSet i arg) :=
  (KeepsStep.setPlanNew List.mem_cons_self s _).trans (.setSlot List.mem_cons_self _ _ _)

/-! ### RELEASE -/

theorem release_of_wrong_state (h : (s.slot i).st ≠ slotEnded) : s.release src i = s.serveResult src 3 0 0 := if_pos h

theorem release_of_freed (hst : (s.slot i).st = slotEnded) (hfree : (s.slot i).freeIn = none) :
    s.release src i = (s.setSlot i SlotSt.free).serveResult src 0 0 0 := by
  unfold State.release
  rw [if_neg (not_not_intro hst), hfree]

theorem release_of_pages (hst : (s.slot i).st = slotEnded) (hpages : (s.slot i).freeIn ≠ none) :
    s.release src i = (s.setSlot i { s.slot i with releasing := true }).pagePump.serveResult src 0 0 0 := by
  unfold State.release
  rw [if_neg (not_not_intro hst)]
  split
  · next hfree => exact absurd hfree hpages
  · rfl

end SlotCommands

/-- Settles O30: SERVE takes the command or ignores it (`exec_slotCommand_of_takes`), and it acts by the state of its slot; what
the pages do after a PAUSE leaves the slot where the PAUSE has put it (`pauses_leave_pagePump`). -/
theorem serveSlotCommands : Obligations.ServeSlotCommands := by
  unfold Obligations.ServeSlotCommands
  intro s src slot arg htakes i v
  refine ⟨fun hen c hc => ?off, fun hen hwork e he => ?waits, fun hen hwork => ?runs⟩
  case off =>
    obtain ⟨e, he, rfl⟩ : ∃ e ∈ slotCommands src slot arg, e.1 = c := List.mem_map.mp hc
    rw [exec_slotCommand_of_takes he htakes, serveTake_of_off hen]
  case waits =>
    rw [exec_slotCommand_of_takes he htakes, serveTake_of_boundaryWork hen hwork, (exec_slotCommand he s).2]
  case runs =>
    have hruns {e : Instr × ServeCmd} (he : e ∈ slotCommands src slot arg) : exec e.1 s = .next (s.serveRun e.2) :=
      exec_slotCommand_runs he htakes hen hwork
    have hcancel : exec (.cancel src slot) s = .next (s.cancel src i) :=
      hruns (e := (.cancel src slot, ⟨src, 2, i, false, 0⟩)) (by simp [slotCommands, i])
    have hpause : exec (.pause src slot) s = .next (s.pause src i) :=
      hruns (e := (.pause src slot, ⟨src, 3, i, false, 0⟩)) (by simp [slotCommands, i])
    have hresume : exec (.resume src slot) s = .next (s.resume src i) :=
      hruns (e := (.resume src slot, ⟨src, 4, i, false, 0⟩)) (by simp [slotCommands, i])
    have hsetpos : exec (.setpos src slot arg) s = .next (s.setpos src i arg.toNat) :=
      hruns (e := (.setpos src slot arg, ⟨src, 5, i, false, arg.toNat⟩)) (by simp [slotCommands, i])
    have hrelease : exec (.release src slot) s = .next (s.release src i) :=
      hruns (e := (.release src slot, ⟨src, 6, i, false, 0⟩)) (by simp [slotCommands, i])
    rw [hcancel, hpause, hresume, hsetpos, hrelease]
    clear_value i
    refine ⟨fun h => congrArg _ (cancel_of_queued h), fun h => congrArg _ (cancel_of_planned h),
      fun h => congrArg _ (cancel_of_paused h), fun h => congrArg _ (cancel_of_free_or_ended h),
      fun hst hprio hfits hrel => ?paused, fun hst hprio hfits => congrArg _ (pause_of_no_quota hst hprio hfits),
      fun h => congrArg _ (pause_of_wrong_state h), fun h hfits => congrArg _ (resume_of_fits h hfits),
      fun h hfits => congrArg _ (resume_of_no_quota h hfits),
      fun hpausing hpaused => congrArg _ (resume_of_wrong_state hpausing hpaused),
      fun hst hpos hle hmost hlimit => ?lowered, fun hst h => congrArg _ (setpos_of_limit hst h),
      fun h => congrArg _ (setpos_of_wrong_state h), fun hst hlt hmost hlimit => ?raised,
      fun hst hfree => congrArg _ (release_of_freed hst hfree), fun hst hpages => congrArg _ (release_of_pages hst hpages),
      fun h => congrArg _ (release_of_wrong_state h)⟩
    case paused =>
      have hpauses := pauses_leave_pagePump hst hrel
      obtain ⟨hstep, hplanNew, hplanned, hunplanned, hcancelled⟩ := hpauses.serveResult src 0 0 0
      refine ⟨_, congrArg _ (pause_of_fits hst hprio hfits), hplanNew, hplanned, hunplanned, hcancelled, ?_, hstep.planes.1,
        hstep.field (by simp)⟩
      rw [result_accepted, hpauses.step.planStep_eq]
    case lowered =>
      have hstep := (keepsStep_posSet s i arg.toNat).trans (.serveResult _ src 0 0 0)
      have hserve := (serve_serveResult (s.posSet i arg.toNat) src 0 0 0).trans (serve_posSet s i arg.toNat)
      refine ⟨_, congrArg _ (setpos_of_not_raised ⟨hst, hpos, hmost, hlimit⟩ hle), ?_, ?_, ?_, ?_, hstep.planes.1,
        hstep.field (by simp)⟩
      · rw [slot_serveResult, slot_posSet]
      · rw [hserve]; rfl
      · rw [hserve]
      · rw [hserve]
    case raised =>
      have hallowed : PosAllowed s i arg.toNat := ⟨hst, by omega, hmost, hlimit⟩
      exact ⟨fun hquota => congrArg _ (setpos_of_no_quota hallowed hlt hquota),
        fun hquota htime => congrArg _ (setpos_of_no_time hallowed hlt hquota htime),
        fun hquota htime => congrArg _ (setpos_of_passes hallowed hlt hquota htime)⟩

end Sys2Proof.Machine
end

section
/-!
PROOFS. Upkeep: counters that are cleared, SUBSOIL_CFG, the patrol of Topsoil and the scrub of the planes (R202, R273, R274, R339,
R341, R465, R468, R572).
-/
namespace Sys2Proof.Machine

section Upkeep

variable {s t : State}

/-! ### Counters that are cleared -/

theorem SameRegsBut.mono {l m : List Nat} (h : SameRegsBut l s t) (hlm : ∀ off ∈ l, off ∈ m) : SameRegsBut m s t :=
  fun off hoff => h off fun hmem => hoff (hlm off hmem)

/-- A field that reads zero still does so once zero is written anywhere. -/
theorem bitsOf_withBits_zero {n : Nat} {w : BitVec n} {lo len : Nat} (h : bitsOf w lo len = 0) (lo' len' : Nat) :
    bitsOf (withBits w lo' len' 0) lo len = 0 := by
  refine Nat.eq_of_testBit_eq fun i => ?_
  have hi := congrArg (Nat.testBit · i) h
  simp only [testBit_bitsOf, getLsbD_withBits, Nat.zero_testBit, Bool.and_eq_false_iff] at hi ⊢
  split
  · exact .inr (.inr rfl)
  · exact hi.imp_right .inr

theorem get_put_zero_of_zero {f : Fld} (h : s.get f = 0) (g : Fld) : (s.put g 0).get f = 0 := by
  by_cases hreg : f.reg = g.reg
  · rw [State.get, State.put, hreg, reg_setReg_self, ← hreg]
    exact bitsOf_withBits_zero h _ _
  · rw [get_put_ne s 0 (.inl hreg), h]

/-- Every field of `l` is cleared. -/
def State.fieldsCleared (s : State) (l : List Fld) : State := s.each l fun s f => s.put f 0

theorem fieldsCleared_cons (s : State) (f : Fld) (l : List Fld) : s.fieldsCleared (f :: l) = (s.put f 0).fieldsCleared l := rfl

theorem fieldsCleared_frame (s : State) (l : List Fld) : s.fieldsCleared l = { s with regs := (s.fieldsCleared l).regs } := by
  induction l generalizing s with
  | nil => rfl
  | cons f l ih => rw [fieldsCleared_cons, ih]; rfl

theorem get_fieldsCleared_of_zero {f : Fld} (h : s.get f = 0) (l : List Fld) : (s.fieldsCleared l).get f = 0 := by
  induction l generalizing s with
  | nil => exact h
  | cons g l ih => exact ih (get_put_zero_of_zero h g)

theorem get_fieldsCleared {f : Fld} {l : List Fld} (hf : f ∈ l) (hlen : f.lo + f.len ≤ 64) (s : State) :
    (s.fieldsCleared l).get f = 0 := by
  induction l generalizing s with
  | nil => cases hf
  | cons g l ih =>
    rw [fieldsCleared_cons]
    rcases List.mem_cons.mp hf with rfl | hf
    · exact get_fieldsCleared_of_zero ((get_put_self s 0 hlen).trans (Nat.zero_mod _)) l
    · exact ih hf _

theorem sameFieldsBut_fieldsCleared {l m : List Fld} (hlm : ∀ f ∈ l, f ∈ m) (s : State) : SameFieldsBut m s (s.fieldsCleared l) := by
  induction l generalizing s with
  | nil => exact .refl m s
  | cons f l ih =>
    exact ((SameFieldsBut.refl m s).put 0 (hlm f List.mem_cons_self)).trans (ih (fun g hg => hlm g (List.mem_cons_of_mem f hg)) _)

theorem sameRegsBut_fieldsCleared {l : List Fld} {m : List Nat} (hlm : ∀ f ∈ l, f.reg ∈ m) (s : State) :
    SameRegsBut m s (s.fieldsCleared l) := by
  induction l generalizing s with
  | nil => exact .refl m s
  | cons f l ih =>
    exact fun off hoff => (ih (fun g hg => hlm g (List.mem_cons_of_mem f hg)) _ off hoff).trans
      ((SameRegsBut.refl m s).put 0 (hlm f List.mem_cons_self) off hoff)

/-- Every register of `l` is cleared. -/
def State.regsCleared (s : State) (l : List Nat) : State := s.each l fun s off => s.setReg off 0

theorem regsCleared_cons (s : State) (off : Nat) (l : List Nat) : s.regsCleared (off :: l) = (s.setReg off 0).regsCleared l := rfl

theorem regsCleared_frame (s : State) (l : List Nat) : s.regsCleared l = { s with regs := (s.regsCleared l).regs } := by
  induction l generalizing s with
  | nil => rfl
  | cons off l ih => rw [regsCleared_cons, ih]; rfl

theorem reg_regsCleared (s : State) (l : List Nat) (off : Nat) : (s.regsCleared l).reg off = if off ∈ l then 0 else s.reg off := by
  induction l generalizing s with
  | nil => rfl
  | cons o l ih =>
    rw [regsCleared_cons, ih]
    by_cases ho : off = o
    · simp [ho]
    · rw [reg_setReg_ne s 0 ho]
      simp [ho]

theorem sameRegsBut_regsCleared (s : State) (l : List Nat) : SameRegsBut l s (s.regsCleared l) :=
  fun off hoff => (reg_regsCleared s l off).trans (if_neg hoff)

/-! ### CNT_CLR of each block -/

section Clears

variable {src : Source}

theorem exec_sowerCntClr_of_takes (h : Takes s src 0x60000 1) :
    exec (.sowerCntClr src) s = .next (s.regsCleared [0x60030, 0x60038, 0x60040]) := congrArg Host.Outcome.next (ctlWrite_of_takes h _ _)

theorem exec_gleanCntClr_of_takes (h : Takes s src 0x70000 1) :
    exec (.gleanCntClr src) s = .next (s.regsCleared [0x70020, 0x70028]) := congrArg Host.Outcome.next (ctlWrite_of_takes h _ _)

/-- The counters of Topsoil, stack by stack (R341). -/
def topsoilCounters : List Fld :=
  [TOPSOIL_CE.CE 0, TOPSOIL_LINES.LINES 0, TOPSOIL_CE.CE 1, TOPSOIL_LINES.LINES 1, TOPSOIL_CE.CE 2, TOPSOIL_LINES.LINES 2,
    TOPSOIL_CE.CE 3, TOPSOIL_LINES.LINES 3]

theorem exec_topsoilCntClr_of_takes (h : Takes s src 0xA0008 1) :
    exec (.topsoilCntClr src) s = .next (s.fieldsCleared topsoilCounters) := congrArg Host.Outcome.next (ctlWrite_of_takes h _ _)

theorem exec_subsoilCntClr_of_takes (h : Takes s src 0xB0010 1) :
    exec (.subsoilCntClr src) s = .next (s.fieldsCleared [SUBSOIL_CE.CE, SUBSOIL_LINES.LINES]) :=
  congrArg Host.Outcome.next (ctlWrite_of_takes h _ _)

theorem exec_harrowCntClr_of_takes (h : Takes s src 0x80000 1) :
    exec (.harrowCntClr src) s = .next (s.fieldsCleared [HARROW_LATE.LATE, HARROW_BYTES.BYTES]) :=
  congrArg Host.Outcome.next (ctlWrite_of_takes h _ _)

theorem exec_plotCntClr_of_takes {p : BitVec 9} (h : Takes s src (0x200018 + 0x1000 * p.toNat) 1) :
    exec (.plotCntClr src p) s = .next (s.fieldsCleared ((List.range 10).map (HL_TOK_CNT.COUNT p.toNat) ++ [HL_ECC_CNT.CE_COUNT p.toNat])) :=
  congrArg Host.Outcome.next (ctlWrite_of_takes h _ _)

/-- Clearing registers drives them alone. -/
theorem clears_regs {c : Instr} {l : List Nat} (h : exec c s = .next (s.regsCleared l)) :
    ∃ t, exec c s = .next t ∧ (∀ off ∈ l, t.reg off = 0) ∧ t = { s with regs := t.regs } ∧ SameRegsBut l s t :=
  ⟨_, h, fun off hoff => (reg_regsCleared s l off).trans (if_pos hoff), regsCleared_frame s l, sameRegsBut_regsCleared s l⟩

/-- Clearing counters drives them alone. -/
theorem clears_fields {c : Instr} {l : List Fld} (h : exec c s = .next (s.fieldsCleared l)) (hlen : ∀ f ∈ l, f.lo + f.len ≤ 64) :
    ∃ t, exec c s = .next t ∧ (∀ f ∈ l, t.get f = 0) ∧ t = { s with regs := t.regs } ∧ SameFieldsBut l s t ∧
      SameRegsBut (l.map Fld.reg) s t :=
  ⟨_, h, fun f hf => get_fieldsCleared hf (hlen f hf) s, fieldsCleared_frame s l, sameFieldsBut_fieldsCleared (fun _ hf => hf) s,
    sameRegsBut_fieldsCleared (fun _ hf => List.mem_map_of_mem hf) s⟩

end Clears

/-! ### SUBSOIL_CFG (R341, R572) -/

theorem exec_subsoilCfgWrite_of_takes {src : Source} {val : W64} (h : Takes s src 0xB0000 1) :
    exec (.subsoilCfgWrite src val) s = .next (s.subsoilCfg val) := congrArg Host.Outcome.next (ctlWrite_of_takes h val _)

/-- SUBSOIL_CFG holds the fields of `val`. -/
def State.subsoilConfigured (s : State) (val : W64) : State :=
  (((s.put SUBSOIL_CFG.STRIPE (bitsOf val 0 2)).put SUBSOIL_CFG.NCH (bitsOf val 2 1)).put SUBSOIL_CFG.CH_GB (bitsOf val 8 6)).put
    SUBSOIL_CFG.RATE (bitsOf val 16 2)

theorem subsoilCfg_of_legal {val : W64} (hready : s.get SUBSOIL_STATUS.READY = 0) (hstripe : bitsOf val 0 2 ≠ 3)
    (hrate : bitsOf val 16 2 ≠ 3) (hmin : 1 ≤ bitsOf val 8 6) (hmax : bitsOf val 8 6 ≤ 32) : s.subsoilCfg val = s.subsoilConfigured val := by
  refine if_neg ?_
  simp only [State.flag, hready, hstripe, hrate, ne_eq, not_true_eq_false, decide_false, Bool.false_eq_true, false_or]
  omega

theorem subsoilCfg_of_illegal {val : W64} (h : s.get SUBSOIL_STATUS.READY = 1 ∨ bitsOf val 0 2 = 3 ∨ bitsOf val 16 2 = 3 ∨
    bitsOf val 8 6 = 0 ∨ 32 < bitsOf val 8 6) : s.subsoilCfg val = s := by
  refine if_pos (h.imp_left fun hready => ?_)
  simp [State.flag, hready]

theorem get_subsoilConfigured (s : State) (val : W64) :
    (s.subsoilConfigured val).get SUBSOIL_CFG.STRIPE = bitsOf val 0 2 ∧ (s.subsoilConfigured val).get SUBSOIL_CFG.NCH = bitsOf val 2 1 ∧
      (s.subsoilConfigured val).get SUBSOIL_CFG.CH_GB = bitsOf val 8 6 ∧
      (s.subsoilConfigured val).get SUBSOIL_CFG.RATE = bitsOf val 16 2 := by
  simp (disch := decide) only [State.subsoilConfigured, get_put_self, get_put_ne, bitsOf, Nat.mod_mod, and_self]

theorem sameRegsBut_subsoilConfigured (s : State) (val : W64) : SameRegsBut [0xB0000] s (s.subsoilConfigured val) :=
  ((((SameRegsBut.refl _ s).put _ (by simp)).put _ (by simp)).put _ (by simp)).put _ (by simp)

/-! ### The patrol of Topsoil (R465, R468) -/

section Patrol

theorem Mem.isBad_mark_self (m : Mem) (g : Nat) (b : Bool) : (m.mark g b).isBad g = b := KMap.get_set_self _ _ _ _

theorem Mem.isBad_mark_ne (m : Mem) {g k : Nat} (b : Bool) (h : k ≠ g) : (m.mark g b).isBad k = m.isBad k := KMap.get_set_ne _ _ _ h

variable {a l o : Nat}

theorem countCe_of_top (hloc : s.locate a = .top o) : s.countCe a = s.bump (TOPSOIL_CE.CE (o / 2 ^ 37)) 1 := by
  rw [State.countCe, hloc]

theorem spoil_of_top (hloc : s.locate a = .top o) : s.spoil a = { s with topsoil := s.topsoil.mark (o / 64) true } := by
  rw [State.spoil, hloc]

/-- While the Ward is not ON no stripe gives a line's value: its error is recorded and the line left (R469). -/
theorem lineError_of_ward_not_on (hward : s.get WARD_STATUS.STATE ≠ 2) (l : Nat) : s.lineError false false l =
    s.errlog { cls := 5, block := 0xA, addr := s.gaddr 1 (64 * l), nbits := 7, unrecovered := true } := by
  have hprotected : s.lineProtected l = false := by simp [State.lineProtected, hward]
  unfold State.lineError
  rw [if_neg Bool.false_ne_true, if_neg (by simp [hprotected])]
  simp

variable (hl : l * 64 < 2 ^ 42) (hloc : s.locate (s.lineAddr .topsoil l) = .top o)

include hl hloc

omit hl hloc in
theorem exec_patrolRead_eq (tier : Tier) (code : CodeResult) (w : Bool) :
    exec (.patrolRead tier l code w) s = execPatrolRead tier l code w s := rfl

theorem exec_patrolRead_of_top (code : CodeResult) (w : Bool) : exec (.patrolRead .topsoil l code w) s =
    .next (match code with
      | .one _ => s.countCe (s.lineAddr .topsoil l)
      | .two => s.countCe (s.lineAddr .topsoil l)
      | .ue => if w then s else (s.spoil (s.lineAddr .topsoil l)).lineError false false l
      | _ => s) := by
  have hinside : ¬ ((!true || decide (l * 64 ≥ 2 ^ 42)) = true) := by simpa using hl
  rw [exec_patrolRead_eq]
  unfold execPatrolRead
  generalize s.lineAddr .topsoil l = a at hloc ⊢
  simp only [hloc]
  rw [if_neg hinside]
  cases code with
  | ue => simp
  | _ => rfl

theorem patrol_corrects (b : BitVec 6) (w : Bool) : ∃ t, exec (.patrolRead .topsoil l (.one b) w) s = .next t ∧
    t.get (TOPSOIL_CE.CE (o / 2 ^ 37)) = min (2 ^ 32 - 1) (s.get (TOPSOIL_CE.CE (o / 2 ^ 37)) + 1) ∧ t = { s with regs := t.regs } ∧
    SameFieldsBut [TOPSOIL_CE.CE (o / 2 ^ 37)] s t :=
  ⟨_, (exec_patrolRead_of_top hl hloc (.one b) w).trans (congrArg Host.Outcome.next (countCe_of_top hloc)), get_bump_self s 1 (Nat.le_of_ble_eq_true rfl),
    rfl, (SameFieldsBut.refl _ s).put _ List.mem_cons_self⟩

theorem patrol_marks (hward : s.get WARD_STATUS.STATE ≠ 2) : ∃ t, exec (.patrolRead .topsoil l .ue false) s = .next t ∧
    t.topsoil.isBad (o / 64) = true ∧ (∀ g, g ≠ o / 64 → t.topsoil.isBad g = s.topsoil.isBad g) ∧
    t.topsoil.cells = s.topsoil.cells ∧ t.seedbed = s.seedbed ∧ t.subsoil = s.subsoil ∧ t.lit = s.lit ∧ t.dark = s.dark := by
  have hspoiled : (s.spoil (s.lineAddr .topsoil l)).get WARD_STATUS.STATE ≠ 2 := by rw [spoil_of_top hloc]; exact hward
  refine ⟨_, (exec_patrolRead_of_top hl hloc .ue false).trans
    (congrArg Host.Outcome.next ((if_neg Bool.false_ne_true).trans (lineError_of_ward_not_on hspoiled l))), ?_⟩
  have hlog (r : ErrRec) : KeepsStep [] (s.spoil (s.lineAddr .topsoil l)) _ := .errlog _ r
  rw [spoil_of_top hloc] at hlog ⊢
  obtain ⟨hseedbed, hsubsoil⟩ := (hlog _).tiers (by simp)
  obtain ⟨hlit, hdark⟩ := (hlog _).planes
  rw [(hlog _).topsoil (by simp)]
  exact ⟨Mem.isBad_mark_self _ _ _, fun g hg => Mem.isBad_mark_ne _ _ hg, rfl, hseedbed, hsubsoil, hlit, hdark⟩

end Patrol

/-! ### The scrub of the planes (R202) -/

theorem scrub_corrects (s : State) (dark : Bool) (p : BitVec 9) (b : BitVec 6) : ∃ t, exec (.planeScrubRead dark p (.one b)) s = .next t ∧
    t.get ROTATE_PLANE_CE.CE_COUNT = min (2 ^ 32 - 1) (s.get ROTATE_PLANE_CE.CE_COUNT + 1) ∧ t = { s with regs := t.regs } ∧
    SameFieldsBut [ROTATE_PLANE_CE.CE_COUNT] s t :=
  ⟨_, rfl, get_bump_self s 1 (by decide), rfl, (SameFieldsBut.refl _ s).put _ List.mem_cons_self⟩

theorem get_planeUe_dark (s : State) (p : Nat) : (s.planeUe true p).get ROTATE_ERR.DARK_UE = 1 ∧
    (s.planeUe true p).get ROTATE_STATUS.DARK_VALID = 0 ∧ (s.planeUe true p).get ROTATE_DARK_ID.IMAGE_ID = 0 := by
  simp (disch := decide) only [State.planeUe, State.darkInvalid, if_true, get_put_self, get_put_ne, Nat.zero_mod, Nat.reducePow,
    Nat.reduceMod, and_self]

theorem sameRegsBut_planeUe_dark (s : State) (p : Nat) : SameRegsBut [0x50008, 0x50038, 0x50040, 0x50050] s (s.planeUe true p) := by
  have hmarked (r : RotSt) : SameRegsBut [0x50008, 0x50038, 0x50040, 0x50050] s { s with rot := r } := fun _ _ => rfl
  exact ((((((hmarked _).put 0 (by simp)).put 0 (by simp)).put 0 (by simp)).put 0 (by simp)).put 0 (by simp)).put 1 (by simp)

end Upkeep

/-- Settles O26: each counter, field and line by the lemma about the command that drives it. -/
theorem upkeep : Obligations.Upkeep := by
  unfold Obligations.Upkeep
  refine ⟨fun s => ⟨fun src val htakes hready hstripe hrate hmin hmax => ?legal, fun src val htakes h => ?illegal,
    fun l o b w hl hloc => ⟨patrol_corrects hl hloc b w, exec_patrolRead_of_top hl hloc .ue true, patrol_marks hl hloc⟩⟩,
    fun s dark p => ⟨scrub_corrects s dark p, ?darkUe, rfl, rfl⟩, fun s src => ⟨fun htakes => ?sower, fun htakes => ?glean,
    fun htakes => ?topsoil, fun htakes => ?subsoil, fun htakes => ?harrow, fun p htakes => ?plot⟩⟩
  case legal =>
    obtain ⟨hS, hN, hG, hR⟩ := get_subsoilConfigured s val
    exact ⟨_, (exec_subsoilCfgWrite_of_takes htakes).trans (congrArg _ (subsoilCfg_of_legal hready hstripe hrate hmin hmax)),
      hS, hN, hG, hR, rfl, sameRegsBut_subsoilConfigured s val⟩
  case illegal => exact (exec_subsoilCfgWrite_of_takes htakes).trans (congrArg _ (subsoilCfg_of_illegal h))
  case darkUe =>
    obtain ⟨hue, hvalid, hid⟩ := get_planeUe_dark s p.toNat
    exact ⟨_, rfl, hue, hvalid, hid, rfl, rfl, sameRegsBut_planeUe_dark s p.toNat⟩
  case sower =>
    obtain ⟨t, hexec, hzero, hframe, hregs⟩ := clears_regs (exec_sowerCntClr_of_takes htakes)
    exact ⟨t, hexec, hzero _ (by simp), hzero _ (by simp), hzero _ (by simp), hframe, hregs⟩
  case glean =>
    obtain ⟨t, hexec, hzero, hframe, hregs⟩ := clears_regs (exec_gleanCntClr_of_takes htakes)
    exact ⟨t, hexec, hzero _ (by simp), hzero _ (by simp), hframe, hregs⟩
  case topsoil =>
    obtain ⟨t, hexec, hzero, hframe, -, hregs⟩ := clears_fields (exec_topsoilCntClr_of_takes htakes) (by decide)
    refine ⟨t, hexec, fun k hk => ⟨hzero _ ?_, hzero _ ?_⟩, hframe, hregs.mono (by decide)⟩
    all_goals interval_cases k <;> simp [topsoilCounters]
  case subsoil =>
    obtain ⟨t, hexec, hzero, hframe, hfields, -⟩ := clears_fields (exec_subsoilCntClr_of_takes htakes) (by decide)
    exact ⟨t, hexec, hzero _ (by simp), hzero _ (by simp), hframe, hfields⟩
  case harrow =>
    obtain ⟨t, hexec, hzero, hframe, hfields, -⟩ := clears_fields (exec_harrowCntClr_of_takes htakes) (by decide)
    exact ⟨t, hexec, hzero _ (by simp), hzero _ (by simp), hframe, hfields⟩
  case plot =>
    obtain ⟨t, hexec, hzero, hframe, hfields, -⟩ := clears_fields (exec_plotCntClr_of_takes htakes)
      (by simp only [List.mem_append, List.mem_map, List.mem_singleton]; rintro f (⟨o, -, rfl⟩ | rfl) <;> simp only <;> decide)
    exact ⟨t, hexec, fun o ho => hzero _ (by simp [ho]), hzero _ (by simp), hframe, hfields.mono fun f hf => by simpa [or_comm] using hf⟩

end Sys2Proof.Machine
end

section
/-!
PROOFS. What work on the tiers leaves of the Harrow: its own state, its registers, the quotas and grants of the tiers, and the chip's
position; and what the home table reads as (R9, R311, R314, R320, R322, R341, R477).
-/
namespace Sys2Proof.Machine

section HarrowLayer

variable {s t u : State}

/-! ### The frame -/

/-- The blocks of registers that the Harrow goes by: its own, that of the tiers with their quotas and grants, and that of ROUTE_SELF. -/
def harrowBlocks : List Nat := [8, 9, 0xF]

/-- `t` is `s` after work on the tiers: the Harrow's state is as it was, and so are the registers of its blocks but those of `l`. -/
structure TierWork (may : List StepPart) (l : List Nat) (s t : State) : Prop where
  step : KeepsStep may s t
  harrow : t.harrow = s.harrow
  regs : ∀ off, blockOf off ∈ harrowBlocks → off ∉ l → t.reg off = s.reg off

namespace TierWork

variable {may : List StepPart} {l : List Nat}

theorem refl (s : State) : TierWork may l s s := ⟨.refl s, rfl, fun _ _ _ => rfl⟩

theorem trans (h : TierWork may l s t) (k : TierWork may l t u) : TierWork may l s u :=
  ⟨h.step.trans k.step, k.harrow.trans h.harrow, fun off hoff hl => (k.regs off hoff hl).trans (h.regs off hoff hl)⟩

theorem ite {c : Prop} [Decidable c] (ht : TierWork may l s t) (hu : TierWork may l s u) : TierWork may l s (if c then t else u) := by
  split
  · exact ht
  · exact hu

theorem each {α : Type} {f : State → α → State} {xs : List α} (hf : ∀ s, ∀ x ∈ xs, TierWork may l s (f s x)) (s : State) :
    TierWork may l s (s.each xs f) := by
  induction xs generalizing s with
  | nil => exact refl s
  | cons x xs ih => exact (hf s x List.mem_cons_self).trans (ih (fun s y hy => hf s y (List.mem_cons_of_mem x hy)) (f s x))

theorem get_eq (h : TierWork may l s t) {f : Fld} (hblock : blockOf f.reg ∈ harrowBlocks) (hl : f.reg ∉ l) : t.get f = s.get f := by
  rw [State.get, h.regs f.reg hblock hl]; rfl

theorem position (h : TierWork may [] s t) : t.reg ROUTE_SELF.RACK.reg = s.reg ROUTE_SELF.RACK.reg := h.regs _ (by decide) (by simp)

/-! Registers, records and messages -/

/-- Work outside the registers of the Harrow's blocks. -/
theorem beside (h : KeepsStep may s t) (hharrow : t.harrow = s.harrow) (hregs : t.regs = s.regs) : TierWork may l s t :=
  ⟨h, hharrow, fun off _ _ => by rw [State.reg, hregs]; rfl⟩

theorem put (s : State) {f : Fld} (v : Nat) (hstep : blockOf f.reg ≠ 4) (hf : blockOf f.reg ∉ harrowBlocks ∨ f.reg ∈ l) :
    TierWork may l s (s.put f v) :=
  ⟨.put s v (.inl hstep), rfl, fun off hoff hl => reg_put_ne s v (by rintro rfl; exact hf.elim (· hoff) hl)⟩

theorem bump (s : State) {f : Fld} (n : Nat) (hstep : blockOf f.reg ≠ 4) (hf : blockOf f.reg ∉ harrowBlocks ∨ f.reg ∈ l) :
    TierWork may l s (s.bump f n) := put s _ hstep hf

theorem errlog (s : State) (r : ErrRec) : TierWork may l s (s.errlog r) := by
  refine ⟨.errlog s r, by rw [errlog_eq_regs_sched], fun off hoff _ => reg_errlog_of_block_ne s r fun hblock => ?_⟩
  rw [hblock] at hoff
  exact absurd hoff (by decide)

theorem withNet (s : State) (n : NetSt) : TierWork may l s { s with net := n } := beside (.withNet s n) rfl rfl

theorem send (s : State) (vc kind dst : Nat) (bs : List Byte) : TierWork may l s (s.send vc kind dst bs) := withNet s _

theorem request (s : State) (vc op dst addr : Nat) (bs : List Byte) (kind : ReqKind) :
    TierWork may l s (s.request vc op dst addr bs kind) := beside (.request s ..) rfl rfl

theorem charge (s : State) (cause : Nat) : TierWork may l s (s.charge cause) := by
  refine beside (.charge s cause) ?_ ?_
  all_goals
    unfold State.charge
    dsimp only
    split
    · rfl
    · split
      · split <;> rfl
      · rfl

theorem stepError (s : State) (r : ErrRec) : TierWork may l s (s.stepError r) := (errlog s _).trans (charge _ 1)

/-! The memory scoreboard (R227, R228) -/

theorem putBoard (s : State) {f : Fld} (v : Nat) (hf : f.reg = STEP_MSB.USED.reg) : TierWork may l s (s.put f v) :=
  ⟨.put s v (.inr hf), rfl, fun off hoff _ => reg_put_ne s v (by rintro rfl; rw [hf] at hoff; exact absurd hoff (by decide))⟩

theorem boardCount (s : State) : TierWork may l s s.boardCount := (putBoard s _ rfl).trans (putBoard _ _ rfl)

theorem withBoard (s : State) (entries waiting : List MemOp) (ticket : Nat) :
    TierWork may l s { s with sched := { s.sched with entries := entries, waiting := waiting, nextTicket := ticket } } :=
  beside (.beside rfl rfl fun _ _ _ => rfl) rfl rfl

theorem boardRequest (s : State) (owner : Owner) (order : Nat) (pseq : Option Nat) (write : Bool) (a n : Nat) :
    TierWork may l s (s.boardRequest owner order pseq write a n) :=
  ite (withBoard s s.sched.entries _ _) ((withBoard s _ s.sched.waiting _).trans (boardCount _))

/-! Reads and writes of the tiers (R311, R312, R341, R466 to R469, R477) -/

/-- An access of no byte counts no line, wherever it points. -/
theorem topTouch (s : State) (o n : Nat) : TierWork may l s (s.topTouch o n) := by
  have hstep : blockOf (TOPSOIL_LINES.LINES (o / 2 ^ 37)).reg ≠ 4 := by simp only [blockOf]; omega
  unfold State.topTouch
  split
  case isFalse => exact errlog s _
  case isTrue hrange =>
    rcases Nat.eq_zero_or_pos n with rfl | hpos
    · exact ⟨.bump s _ hstep, rfl, fun off _ _ => reg_bump_zero s _ off⟩
    · refine bump s _ hstep (.inl ?_)
      have hin : o / 2 ^ 37 ≤ 3 := by
        simp only [topRange, topOk, Bool.or_eq_true, Bool.and_eq_true, beq_iff_eq, decide_eq_true_eq] at hrange
        omega
      simp only [blockOf, harrowBlocks, List.mem_cons, List.not_mem_nil, or_false]
      omega

theorem subTouch (s : State) (o n : Nat) : TierWork may l s (s.subTouch o n) :=
  (bump s _ (by decide) (.inl (by decide))).ite (errlog s _)

theorem withTopsoil (hmay : .topsoil ∈ may) (s : State) (m : Mem) : TierWork may l s { s with topsoil := m } :=
  beside (.withTopsoil hmay s m) rfl rfl

theorem withTiers (hmay : .tiers ∈ may) (s : State) (m n : Mem) : TierWork may l s { s with seedbed := m, subsoil := n } :=
  beside (.withTiers hmay s m n) rfl rfl

theorem wordError (s : State) (w : Nat) : TierWork may l s (s.wordError w) := by
  unfold State.wordError
  exact stepError s _

theorem lineError (hmay : .topsoil ∈ may) (s : State) (sub : Bool) (k : Nat) : TierWork may l s (s.lineError sub false k) := by
  unfold State.lineError
  rw [if_neg (by decide)]
  exact ((withTopsoil hmay s _).trans (errlog (s.repairLine k) _)).ite (errlog s _)

theorem partReads (hmay : .topsoil ∈ may) (s : State) (o n : Nat) : TierWork may l s (s.partReads o n false) := by
  have herrors (u : State) (a : Nat) : TierWork may l u (u.readErrors a n false).1 := by
    unfold State.readErrors
    split
    · exact each (fun v w _ => wordError v w) u
    · exact each (fun v k _ => lineError hmay v false k) u
    · exact each (fun v k _ => lineError hmay v true k) u
    · exact refl u
  rw [partReads_eq_fun]
  exact (topTouch s o n).trans (herrors _ _)

theorem sendDelta (s : State) (off k : Nat) (d : Payload) : TierWork may l s (s.sendDelta off k d) := by
  refine ⟨.sendDelta s off k d, rfl, fun x hx _ => ?_⟩
  unfold State.sendDelta
  have hpend : x ≠ WARD_PEND.UNACKED.reg := by rintro rfl; exact absurd hx (by decide)
  have hbytes : x ≠ WARD_BYTES.BYTES.reg := by rintro rfl; exact absurd hx (by decide)
  exact (reg_put_ne _ _ hbytes).trans (reg_put_ne _ _ hpend)

theorem deltas (old : Mem) (k n : Nat) (s : State) : TierWork may l s (s.deltas old k n) := by
  induction n generalizing k s with
  | zero => exact refl s
  | succ n ih =>
    rw [State.deltas]
    refine trans ?_ (ih (k + 1) _)
    split
    · exact (refl s).ite (sendDelta s _ _ _)
    · exact refl s

theorem topWrite (hmay : .topsoil ∈ may) (s : State) (o : Nat) (bs : List Byte) : TierWork may l s (s.topWrite o bs) := by
  have hstored := (withTopsoil hmay s (s.topsoil.write 64 o bs)).trans (topTouch (l := l) _ o bs.length)
  exact (ite (hstored.trans (deltas _ _ _ _)) hstored).ite (topTouch s o bs.length)

theorem topPutWord (hmay : .topsoil ∈ may) (s : State) (o w : Nat) : TierWork may l s (s.topPutWord o w) := topWrite hmay s o _

theorem homeFlag (hmay : .topsoil ∈ may) (s : State) (i b v : Nat) : TierWork may l s (s.homeFlag i b v) := topPutWord hmay s _ _

theorem topZero (hmay : .topsoil ∈ may) (s : State) (o n : Nat) : TierWork may l s (s.topZero o n) := by
  have hstored := (withTopsoil hmay s (s.topsoil.zeroed 64 o n)).trans (topTouch (l := l) _ o n)
  exact (ite (hstored.trans (deltas _ _ _ _)) hstored).ite (topTouch s o n)

theorem subWrite (hmay : .tiers ∈ may) (s : State) (o : Nat) (bs : List Byte) : TierWork may l s (s.subWrite o bs) :=
  ((withTiers hmay s s.seedbed _).ite (refl s)).trans (subTouch _ o _)

theorem subZero (hmay : .tiers ∈ may) (s : State) (o n : Nat) : TierWork may l s (s.subZero o n) :=
  ((withTiers hmay s s.seedbed _).ite (refl s)).trans (subTouch _ o n)

theorem chargeAdd (s : State) (top : Bool) (c n : Nat) :
    TierWork may [(quotaClass top c).2.reg, (quotaJob top).2.reg] s (s.chargeAdd top c n) :=
  (put s _ (quotaClass_block_ne top c) (.inr (by simp))).trans (put _ _ (quotaJob_block_ne top) (.inr (by simp)))

theorem chargeSub (s : State) (top : Bool) (c n : Nat) :
    TierWork may [(quotaClass top c).2.reg, (quotaJob top).2.reg] s (s.chargeSub top c n) :=
  (put s _ (quotaClass_block_ne top c) (.inr (by simp))).trans (put _ _ (quotaJob_block_ne top) (.inr (by simp)))

end TierWork

/-! ### Quotas (R320) -/

theorem quota_regs_ne (top : Bool) (c : Nat) : (quotaClass top c).2.reg ≠ (quotaJob top).2.reg := by
  cases top <;> simp only [quotaClass, quotaJob] <;> simp only [if_true, if_false, Bool.false_eq_true] <;> omega

/-- The high half of a quota register counts the units that are charged. -/
theorem quota_used (top : Bool) (c : Nat) : (quotaClass top c).2.lo = 32 ∧ (quotaClass top c).2.len = 32 ∧
    (quotaJob top).2.lo = 32 ∧ (quotaJob top).2.len = 32 := by
  cases top <;> exact ⟨rfl, rfl, rfl, rfl⟩

/-- The quota registers of the 16 classes lie between those of the Harrow and the grants. -/
theorem quotaClass_reg_bounds (top : Bool) {c : Nat} (hc : c < 16) :
    0x90100 ≤ (quotaClass top c).2.reg ∧ (quotaClass top c).2.reg < 0x90200 := by
  cases top <;> simp only [quotaClass] <;> simp only [if_true, if_false, Bool.false_eq_true] <;> omega

theorem quotaJob_reg_bounds (top : Bool) : 0x90028 ≤ (quotaJob top).2.reg ∧ (quotaJob top).2.reg < 0x90038 := by
  cases top <;> decide

/-- Units put into both counts of a charge are what the counts read as. -/
theorem get_quota_put_put (s : State) (top : Bool) (c : Nat) {m n : Nat} (hm : m < 2 ^ 32) (hn : n < 2 ^ 32) :
    ((s.put (quotaClass top c).2 m).put (quotaJob top).2 n).get (quotaClass top c).2 = m ∧
      ((s.put (quotaClass top c).2 m).put (quotaJob top).2 n).get (quotaJob top).2 = n := by
  obtain ⟨hlo, hlen, hjlo, hjlen⟩ := quota_used top c
  constructor
  · rw [get_put_ne _ _ (.inl (quota_regs_ne top c)), get_put_self _ _ (by omega), hlen, Nat.mod_eq_of_lt hm]
  · rw [get_put_self _ _ (by omega), hjlen, Nat.mod_eq_of_lt hn]

/-- Both counts of a charge lie in quota registers: a field below or above them is kept. -/
theorem get_quota_put_put_ne (s : State) (top : Bool) {c : Nat} (hc : c < 16) (m n : Nat) {f : Fld}
    (hf : f.reg < 0x90028 ∨ 0x90200 ≤ f.reg) :
    ((s.put (quotaClass top c).2 m).put (quotaJob top).2 n).get f = s.get f := by
  have hclass := quotaClass_reg_bounds top hc
  have hjob := quotaJob_reg_bounds top
  rw [get_put_ne _ _ (.inl (by omega)), get_put_ne _ _ (.inl (by omega))]

/-- The registers that a charge counts in. -/
def quotaRegs (top : Bool) (c : Nat) : List Nat := [(quotaClass top c).2.reg, (quotaJob top).2.reg]

theorem quotaRegs_bounds {top : Bool} {c off : Nat} (hc : c < 16) (hoff : off ∈ quotaRegs top c) : 0x90028 ≤ off ∧ off < 0x90200 := by
  have hclass := quotaClass_reg_bounds top hc
  have hjob := quotaJob_reg_bounds top
  simp only [quotaRegs, List.mem_cons, List.not_mem_nil, or_false] at hoff
  omega

theorem get_chargeAdd_ne (s : State) (top : Bool) {c : Nat} (hc : c < 16) (u : Nat) {f : Fld}
    (hf : f.reg < 0x90028 ∨ 0x90200 ≤ f.reg) : (s.chargeAdd top c u).get f = s.get f := get_quota_put_put_ne s top hc _ _ hf

theorem chargeFits_iff {top : Bool} {c u : Nat} : s.chargeFits top c u = true ↔
    s.get (quotaClass top c).2 + u ≤ s.get (quotaClass top c).1 ∧ s.get (quotaJob top).2 + u ≤ s.get (quotaJob top).1 := by
  rw [State.chargeFits, decide_eq_true_eq]

/-- A charge that succeeds is below its limits, so that both counts hold it. -/
theorem get_chargeAdd {top : Bool} {c u : Nat} (h : s.chargeFits top c u = true) :
    (s.chargeAdd top c u).get (quotaClass top c).2 = s.get (quotaClass top c).2 + u ∧
      (s.chargeAdd top c u).get (quotaJob top).2 = s.get (quotaJob top).2 + u := by
  obtain ⟨hclass, hjob⟩ := chargeFits_iff.mp h
  have hlimit : s.get (quotaClass top c).1 < 2 ^ 32 ∧ s.get (quotaJob top).1 < 2 ^ 32 := by
    cases top <;> exact ⟨get_lt s _, get_lt s _⟩
  exact get_quota_put_put s top c (by omega) (by omega)

theorem get_chargeSub (s : State) (top : Bool) (c u : Nat) :
    (s.chargeSub top c u).get (quotaClass top c).2 = s.get (quotaClass top c).2 - u ∧
      (s.chargeSub top c u).get (quotaJob top).2 = s.get (quotaJob top).2 - u := by
  obtain ⟨-, hlen, -, hjlen⟩ := quota_used top c
  have hclass := get_lt s (quotaClass top c).2
  have hjob := get_lt s (quotaJob top).2
  rw [hlen] at hclass
  rw [hjlen] at hjob
  exact get_quota_put_put s top c (by omega) (by omega)

/-! ### What the home table reads as (R314) -/

theorem topWord_congr (h : t.topsoil = s.topsoil) (o : Nat) : t.topWord o = s.topWord o := by
  rw [State.topWord, State.topNat, State.topPeek, h]; rfl

/-- The home table of `t` is that of `s`. -/
structure SameHomes (s t : State) : Prop where
  table : t.reg TIER_HOME.BASE.reg = s.reg TIER_HOME.BASE.reg
  topsoil : t.topsoil = s.topsoil

theorem TierWork.sameHomes {may : List StepPart} {l : List Nat} (h : TierWork may l s t) (htop : .topsoil ∉ may)
    (hl : TIER_HOME.BASE.reg ∉ l) : SameHomes s t := ⟨h.regs _ (by decide) hl, h.step.topsoil htop⟩

namespace SameHomes

variable (h : SameHomes s t)

include h

theorem trans (k : SameHomes t u) : SameHomes s u := ⟨k.table.trans h.table, k.topsoil.trans h.topsoil⟩

theorem count : t.homeCount = s.homeCount := by simp only [State.homeCount, State.get, h.table]

theorem off (i : Nat) : t.homeOff i = s.homeOff i := by simp only [State.homeOff, State.get, h.table]

theorem word (i k : Nat) : t.homeWord i k = s.homeWord i k := by rw [State.homeWord, h.off, topWord_congr h.topsoil]; rfl

theorem v (i : Nat) : t.homeV i = s.homeV i := congrArg (bitOf · 0) (h.word i 0)

theorem moving (i : Nat) : t.homeMoving i = s.homeMoving i := congrArg (bitOf · 1) (h.word i 0)

theorem lost (i : Nat) : t.homeLost i = s.homeLost i := congrArg (bitOf · 2) (h.word i 0)

theorem cls (i : Nat) : t.homeClass i = s.homeClass i := congrArg (bitsOf · 3 4) (h.word i 0)

theorem addr (i : Nat) : t.homeAddr i = s.homeAddr i := congrArg BitVec.toNat (h.word i 1)

theorem len (i : Nat) : t.homeLen i = s.homeLen i := congrArg (bitsOf · 0 40) (h.word i 2)

end SameHomes

theorem sameHomes_chargeAdd (s : State) (top : Bool) {c : Nat} (hc : c < 16) (n : Nat) : SameHomes s (s.chargeAdd top c n) :=
  (TierWork.chargeAdd (may := []) s top c n).sameHomes (by simp) fun h => absurd (quotaRegs_bounds hc h).1 (by decide)

theorem homeClass_lt (s : State) (i : Nat) : s.homeClass i < 16 := Nat.mod_lt _ (by decide)

/-! ### What a write to Topsoil stores (R311, R477) -/

theorem topsoil_topWrite (s : State) (o : Nat) (bs : List Byte) :
    (s.topWrite o bs).topsoil = if topRange o bs.length then s.topsoil.write 64 o bs else s.topsoil := by
  have htouch (u : State) : (u.topTouch o bs.length).topsoil = u.topsoil := (KeepsStep.topTouch (may := []) u o _).topsoil (by simp)
  have hdeltas (old : Mem) (k n : Nat) (u : State) : (u.deltas old k n).topsoil = u.topsoil :=
    (KeepsStep.deltas (may := []) old k n u).topsoil (by simp)
  unfold State.topWrite
  split
  · dsimp only
    split
    · rw [hdeltas, htouch]
    · rw [htouch]
  · rw [htouch]

theorem topsoil_topWrite_congr (h : t.topsoil = s.topsoil) (o : Nat) (bs : List Byte) :
    (t.topWrite o bs).topsoil = (s.topWrite o bs).topsoil := by rw [topsoil_topWrite, topsoil_topWrite, h]

theorem SameHomes.homeFlag (h : SameHomes s t) (i b v : Nat) : (t.homeFlag i b v).topsoil = (s.homeFlag i b v).topsoil := by
  rw [State.homeFlag, State.homeFlag, h.off, h.word]
  exact topsoil_topWrite_congr h.topsoil ..

/-- Topsoil with a flag of word 0 of entry `i` written. -/
def State.flagStored (s : State) (i b v : Nat) : Mem :=
  s.topsoil.write 64 (s.homeOff i) (leBytes 8 (withBits (s.homeWord i 0) b 1 v).toNat)

/-- With the Ward off a flag of a home entry is a word stored, and its line counted. -/
theorem homeFlag_of_ward_off {i : Nat} (hrange : topRange (s.homeOff i) 8 = true) (hward : s.get WARD_STATUS.STATE = 0) (b v : Nat) :
    s.homeFlag i b v = State.bump { s with topsoil := s.flagStored i b v } (TOPSOIL_LINES.LINES (s.homeOff i / 2 ^ 37))
      (lineCount (s.homeOff i) 8) := by
  have hlen := length_leBytes 8 (withBits (s.homeWord i 0) b 1 v).toNat
  have hoff : s.homeOff i % 2 ^ 42 = s.homeOff i := by
    refine Nat.mod_eq_of_lt ?_
    simp only [topRange, topOk, Bool.or_eq_true, Bool.and_eq_true, beq_iff_eq, decide_eq_true_eq] at hrange
    omega
  have hwrite := topWrite_of_ward_off (a := s.homeOff i) (bs := leBytes 8 (withBits (s.homeWord i 0) b 1 v).toNat)
    (by rw [hoff, hlen]; exact hrange) hward
  rwa [hoff, hlen] at hwrite

/-- Topsoil stored and a counter raised: nothing else changes. -/
theorem bump_withTopsoil_frame (s : State) (m : Mem) (f : Fld) (n : Nat) : State.bump { s with topsoil := m } f n =
    { s with regs := (State.bump { s with topsoil := m } f n).regs, topsoil := m } := rfl

theorem sameFieldsBut_bump_withTopsoil (s : State) (m : Mem) (f : Fld) (n : Nat) :
    SameFieldsBut [f] s (State.bump { s with topsoil := m } f n) :=
  SameFieldsBut.put _ (fun _ _ => rfl : SameFieldsBut [f] s { s with topsoil := m }) List.mem_cons_self

theorem homeFlag_frame {i : Nat} (hrange : topRange (s.homeOff i) 8 = true) (hward : s.get WARD_STATUS.STATE = 0) (b v : Nat) :
    s.homeFlag i b v = { s with regs := (s.homeFlag i b v).regs, topsoil := s.flagStored i b v } := by
  rw [homeFlag_of_ward_off hrange hward]
  exact bump_withTopsoil_frame ..

theorem sameFieldsBut_homeFlag {i : Nat} (hrange : topRange (s.homeOff i) 8 = true) (hward : s.get WARD_STATUS.STATE = 0) (b v : Nat) :
    SameFieldsBut [TOPSOIL_LINES.LINES (s.homeOff i / 2 ^ 37)] s (s.homeFlag i b v) := by
  rw [homeFlag_of_ward_off hrange hward]
  exact sameFieldsBut_bump_withTopsoil _ _ _ _

end HarrowLayer
end Sys2Proof.Machine
end

section
/-!
PROOFS. CLAIM and DROP (R314, R315, R320): the read of the home entry, its charges, and the flag that is set or cleared.
-/
namespace Sys2Proof.Machine

section HomeCommands

variable {s t u r : State} {src : Source} {i : Nat}

/-! ### What the read of an entry repairs (R468, R469) -/

/-- Topsoil of `t` is that of `s` with marks cleared: what is stored stays, and no line becomes uncorrectable. -/
structure Mends (s t : State) : Prop where
  stored : ∀ a, t.topsoil.stored a = s.topsoil.stored a
  sound : ∀ g, s.topsoil.isBad g = false → t.topsoil.isBad g = false

namespace Mends

theorem refl (s : State) : Mends s s := ⟨fun _ => rfl, fun _ => id⟩

theorem trans (h : Mends s t) (k : Mends t u) : Mends s u :=
  ⟨fun a => (k.stored a).trans (h.stored a), fun g hg => k.sound g (h.sound g hg)⟩

theorem of_eq (h : t.topsoil = s.topsoil) : Mends s t := ⟨fun _ => by rw [h], fun _ hg => by rwa [h]⟩

theorem repairLine (s : State) (l : Nat) : Mends s (s.repairLine l) := by
  refine ⟨fun _ => rfl, fun g hg => ?_⟩
  rw [State.repairLine]
  by_cases hgl : g = l
  · rw [hgl, Mem.isBad_mark_self]
  · rw [Mem.isBad_mark_ne _ _ hgl, hg]

theorem each {α : Type} {f : State → α → State} (hf : ∀ s x, Mends s (f s x)) (l : List α) (s : State) : Mends s (s.each l f) := by
  induction l generalizing s with
  | nil => exact refl s
  | cons x l ih => exact (hf s x).trans (ih (f s x))

theorem errlog (s : State) (e : ErrRec) : Mends s (s.errlog e) := of_eq ((KeepsStep.errlog (may := []) s e).topsoil (by simp))

theorem lineError (s : State) (sub : Bool) (l : Nat) : Mends s (s.lineError sub false l) := by
  unfold State.lineError
  rw [if_neg (by decide)]
  split
  · exact (repairLine s l).trans (errlog _ _)
  · exact errlog s _

theorem readErrors (s : State) (a n : Nat) : Mends s (s.readErrors a n false).1 := by
  unfold State.readErrors
  split
  · exact each (fun u w => of_eq ((KeepsStep.wordError (may := []) u w).topsoil (by simp))) _ s
  · exact each (fun u l => lineError u false l) _ s
  · exact each (fun u l => lineError u true l) _ s
  · exact refl s

theorem partReads (s : State) (o n : Nat) : Mends s (s.partReads o n false) := by
  rw [partReads_eq_fun]
  exact (of_eq ((KeepsStep.topTouch (may := []) s o n).topsoil (by simp))).trans (readErrors _ _ n)

end Mends

theorem leNat_replicate_zero (n : Nat) : leNat (List.replicate n 0) = 0 := by
  induction n with
  | zero => rfl
  | succ n ih => rw [List.replicate_succ, leNat, ih]; rfl

/-- The eight bytes of an aligned word lie in one line. -/
theorem word_line {o k : Nat} (ho : o % 8 = 0) (hk : k < 8) : (o + k) / 64 = o / 64 := by omega

/-- A word of an uncorrectable line reads as zero (R466). -/
theorem topWord_of_bad {o : Nat} (ho : o % 8 = 0) (hbad : s.topsoil.isBad (o / 64) = true) : s.topWord o = 0 := by
  have hread : s.topsoil.read 64 o 8 = List.replicate 8 0 := by
    refine List.eq_replicate_iff.mpr ⟨by simp [Mem.read], fun b hb => ?_⟩
    obtain ⟨k, hk, rfl⟩ := List.mem_map.mp hb
    rw [Mem.byte, word_line ho (List.mem_range.mp hk), if_pos hbad]
  have hpeek : s.topPeek o 8 = List.replicate 8 0 := by
    rw [State.topPeek, hread, ite_self]
  rw [State.topWord, State.topNat, hpeek, leNat_replicate_zero]
  rfl

theorem topWord_of_sound {o : Nat} (h : Mends s t) (ho : o % 8 = 0) (hsound : s.topsoil.isBad (o / 64) = false) :
    t.topWord o = s.topWord o := by
  have hread : t.topsoil.read 64 o 8 = s.topsoil.read 64 o 8 := by
    refine List.map_congr_left fun k hk => ?_
    rw [Mem.byte, Mem.byte, word_line ho (List.mem_range.mp hk), h.sound _ hsound, hsound, h.stored]
  rw [State.topWord, State.topNat, State.topPeek, hread]
  rfl

/-! ### The entry before and after its read -/

/-- No home lies at address 0: it is no address of Topsoil, Subsoil or the Commons. -/
theorem homeRefused_zero (s : State) (n : Nat) : s.homeRefused 0 n = true := by
  have htop (o : Nat) : s.locate 0 ≠ .top o := fun h => by have := (locate_eq_top_iff.mp h).2.1; omega
  have hsub (o : Nat) : s.locate 0 ≠ .sub o := fun h => by have := (tier_of_locate_eq_sub h).1; omega
  have hcommons (d : Nat) (k : Bool) (o : Nat) : s.locate 0 ≠ .commons d k o := by
    have htier : 0 / 2 ^ 42 % 4 = 0 := rfl
    simp only [State.locate, htier]
    split_ifs <;> simp
  unfold State.homeRefused
  split
  · exact absurd ‹_› (htop _)
  · exact absurd ‹_› (hsub _)
  · exact absurd ‹_› (hcommons _ _ _)
  · rfl

/-- The read of entry `i` by a command. -/
def State.homeRead (s : State) (i : Nat) : State := s.partReads (s.homeOff i) 32 false

theorem tierWork_homeRead (s : State) (i : Nat) : TierWork [.topsoil] [] s (s.homeRead i) := .partReads (by simp) s _ _

/-- An entry that names a home stands in a sound line: the read of it leaves its class as it was. -/
theorem homeClass_homeRead {n : Nat} (h : u.homeRefused (s.homeAddr i) n = false) : (s.homeRead i).homeClass i = s.homeClass i := by
  have hoff : (s.homeRead i).homeOff i = s.homeOff i := by
    simp only [State.homeOff, State.get, (tierWork_homeRead s i).regs TIER_HOME.BASE.reg (by decide) (by simp)]
  have haddr : s.homeWord i 1 ≠ 0 := by
    intro hzero
    rw [State.homeAddr, hzero] at h
    exact absurd ((homeRefused_zero u n).symm.trans h) (by decide)
  have hsound : s.topsoil.isBad ((s.homeOff i + 8 * 0) / 64) = false := by
    have hline : (s.homeOff i + 8 * 1) / 64 = (s.homeOff i + 8 * 0) / 64 := by unfold State.homeOff; omega
    refine Bool.eq_false_iff.mpr fun hbad => haddr (topWord_of_bad ?_ (hline ▸ hbad))
    unfold State.homeOff
    omega
  have hword : (s.homeRead i).homeWord i 0 = s.homeWord i 0 := by
    rw [State.homeWord, hoff]
    exact topWord_of_sound (Mends.partReads s _ _) (by unfold State.homeOff; omega) hsound
  rw [State.homeClass, hword]
  rfl

theorem chargedTop_homeRead (s : State) (i a : Nat) : (s.homeRead i).chargedTop a = s.chargedTop a := by
  rw [State.chargedTop, self_congr (tierWork_homeRead s i).position]
  rfl

/-! ### CLAIM -/

theorem exec_claim_of_takes {index : BitVec 20} (h : Takes s src 0x90008 1) : exec (.claim src index) s = .next (s.claim src index.toNat) :=
  congrArg Host.Outcome.next (ctlWrite_of_takes h _ _)

theorem claim_of_past (h : s.homeCount ≤ i) : s.claim src i = s.setResult 0x90010 src (tierResult 2 0) := if_pos h

section Claim

variable (hi : i < s.homeCount)

include hi

theorem claim_of_inReclaim (h : (s.homeRead i).inReclaim (s.homeAddr i) = true) :
    s.claim src i = (s.homeRead i).setResult 0x90010 src (tierResult 1 4) := (if_neg (Nat.not_le.mpr hi)).trans (if_pos h)

variable (hreclaim : (s.homeRead i).inReclaim (s.homeAddr i) = false)

include hreclaim

theorem claim_of_refused (h : (s.homeRead i).homeRefused (s.homeAddr i) (s.homeLen i) = true) :
    s.claim src i = (s.homeRead i).setResult 0x90010 src (tierResult 1 2) :=
  (if_neg (Nat.not_le.mpr hi)).trans ((if_neg (Bool.eq_false_iff.mp hreclaim)).trans (if_pos h))

variable (hplace : (s.homeRead i).homeRefused (s.homeAddr i) (s.homeLen i) = false)

include hplace

theorem claim_of_placed : s.claim src i =
    if !(s.homeRead i).chargeFits (s.chargedTop (s.homeAddr i)) (s.homeClass i) (units (s.homeLen i)) then
      ((s.homeRead i).put TIER_ERR.QUOTA 1).setResult 0x90010 src (tierResult 1 1)
    else
      (((s.homeRead i).chargeAdd (s.chargedTop (s.homeAddr i)) (s.homeClass i) (units (s.homeLen i))).homeFlag i 0 1).setResult 0x90010 src
        (tierResult 0 0) := by
  rw [← chargedTop_homeRead s i, ← homeClass_homeRead hplace]
  exact (if_neg (Nat.not_le.mpr hi)).trans ((if_neg (Bool.eq_false_iff.mp hreclaim)).trans (if_neg (Bool.eq_false_iff.mp hplace)))

end Claim

theorem quota_ne_lines (top : Bool) {c : Nat} (hc : c < 16) (k : Nat) :
    (quotaClass top c).2.reg ≠ (TOPSOIL_LINES.LINES k).reg ∧ (quotaJob top).2.reg ≠ (TOPSOIL_LINES.LINES k).reg := by
  have hclass := quotaClass_reg_bounds top hc
  have hjob := quotaJob_reg_bounds top
  simp only
  omega

/-- The fields that a charge and a flag of entry `i` drive: both counts, and the line count of the entry's stack. -/
def chargeFields (r : State) (i : Nat) (top : Bool) (c : Nat) : List Fld :=
  [(quotaClass top c).2, (quotaJob top).2, TOPSOIL_LINES.LINES (r.homeOff i / 2 ^ 37)]

theorem sameFieldsBut_chargeAdd (r : State) (i : Nat) (top : Bool) (c n : Nat) :
    SameFieldsBut (chargeFields r i top c) r (r.chargeAdd top c n) :=
  ((SameFieldsBut.refl _ r).put _ (by simp [chargeFields])).put _ (by simp [chargeFields])

/-- What a command that is accepted leaves: both counts of a charge hold `m` and `n`, Topsoil is
`top`, and the result is DONE. -/
structure HomeDone (src : Source) (top : Bool) (c m n : Nat) (mem : Mem) (t : State) : Prop where
  result : t.result 0x90010 src = tierResult 0 0
  cls : t.get (quotaClass top c).2 = m
  job : t.get (quotaJob top).2 = n
  topsoil : t.topsoil = mem

/-- A result over a state that differs from `r` in registers, Topsoil and the Harrow differs from `r` in these and in results. -/
theorem setResult_frame {regs : KMap W64} {mem : Mem} {hs : HarrowSt}
    (h : u = { r with regs := regs, topsoil := mem, harrow := hs }) (off : Nat) (src : Source) (v : W64) :
    (u.setResult off src v).topsoil = mem ∧ u.setResult off src v =
      { r with regs := (u.setResult off src v).regs, results := (u.setResult off src v).results,
               topsoil := (u.setResult off src v).topsoil, harrow := hs } := by
  subst h
  exact ⟨rfl, rfl⟩

/-- `s` with range `z` among those to be zeroed before they are free. -/
def State.addZeroing (s : State) (z : Range) : State :=
  { s with harrow := { s.harrow with zeroing := s.harrow.zeroing ++ [z] } }

theorem addZeroing_chargeSub_frame {regs : KMap W64} {mem : Mem} (h : u = { r with regs := regs, topsoil := mem })
    (top : Bool) (c n : Nat) (z : Range) : (u.chargeSub top c n).addZeroing z =
      { r with regs := (u.chargeSub top c n).regs, topsoil := mem,
               harrow := { r.harrow with zeroing := r.harrow.zeroing ++ [z] } } := by
  subst h
  rfl

section Accepted

variable {top : Bool} {c n : Nat} (hc : c < 16) (hrange : topRange (r.homeOff i) 8 = true) (hward : r.get WARD_STATUS.STATE = 0)

include hc hrange hward

theorem get_quota_homeFlag (b v : Nat) : (r.homeFlag i b v).get (quotaClass top c).2 = r.get (quotaClass top c).2 ∧
    (r.homeFlag i b v).get (quotaJob top).2 = r.get (quotaJob top).2 := by
  obtain ⟨hlines, hjlines⟩ := quota_ne_lines top hc (r.homeOff i / 2 ^ 37)
  have hflag := sameFieldsBut_homeFlag hrange hward b v
  exact ⟨hflag _ (by simpa using .inl hlines), hflag _ (by simpa using .inl hjlines)⟩

theorem claim_accepted (hfits : r.chargeFits top c n = true) {t : State}
    (ht : t = ((r.chargeAdd top c n).homeFlag i 0 1).setResult 0x90010 src (tierResult 0 0)) :
    HomeDone src top c (r.get (quotaClass top c).2 + n) (r.get (quotaJob top).2 + n) (r.flagStored i 0 1) t ∧
      t = { r with regs := t.regs, results := t.results, topsoil := t.topsoil } ∧ SameFieldsBut (chargeFields r i top c) r t := by
  have hhomes := sameHomes_chargeAdd r top hc n
  have hstored : (r.chargeAdd top c n).flagStored i 0 1 = r.flagStored i 0 1 := by
    rw [State.flagStored, hhomes.off, hhomes.word]; rfl
  have hward' : (r.chargeAdd top c n).get WARD_STATUS.STATE = 0 := (get_chargeAdd_ne r top hc n (.inr (by decide))).trans hward
  have hrange' : topRange ((r.chargeAdd top c n).homeOff i) 8 = true :=
    (congrArg (topRange · 8) (hhomes.off i)).trans hrange
  have hframe := homeFlag_frame hrange' hward' 0 1
  have hfields := sameFieldsBut_homeFlag hrange' hward' 0 1
  rw [hstored] at hframe
  rw [hhomes.off] at hfields
  obtain ⟨hcls, hjob⟩ := get_chargeAdd hfits
  obtain ⟨hcls', hjob'⟩ := get_quota_homeFlag (top := top) hc hrange' hward' 0 1
  have hcharged : r.chargeAdd top c n = { r with regs := (r.chargeAdd top c n).regs } := rfl
  rw [hcharged] at hframe
  obtain ⟨htop, hresult⟩ := setResult_frame (r := r) hframe 0x90010 src (tierResult 0 0)
  subst ht
  refine ⟨⟨result_setResult_self .., hcls'.trans hcls, hjob'.trans hjob, htop⟩, hresult, ?_⟩
  exact (sameFieldsBut_chargeAdd r i top c n).trans ((hfields.mono (by simp [chargeFields])).of_regs rfl)

theorem drop_accepted {z : Range} {t : State}
    (ht : t = (((r.homeFlag i 0 0).chargeSub top c n).addZeroing z).setResult 0x90010 src (tierResult 0 0)) :
    HomeDone src top c (r.get (quotaClass top c).2 - n) (r.get (quotaJob top).2 - n) (r.flagStored i 0 0) t ∧
      t = { r with regs := t.regs, results := t.results, topsoil := t.topsoil,
                   harrow := { r.harrow with zeroing := r.harrow.zeroing ++ [z] } } := by
  have hframe := homeFlag_frame hrange hward 0 0
  obtain ⟨hcls, hjob⟩ := get_chargeSub (r.homeFlag i 0 0) top c n
  obtain ⟨hcls', hjob'⟩ := get_quota_homeFlag (top := top) hc hrange hward 0 0
  obtain ⟨htop, hresult⟩ := setResult_frame (addZeroing_chargeSub_frame hframe top c n z) 0x90010 src (tierResult 0 0)
  subst ht
  exact ⟨⟨result_setResult_self .., hcls.trans (congrArg (· - n) hcls'), hjob.trans (congrArg (· - n) hjob'), htop⟩, hresult⟩

end Accepted

/-! ### DROP -/

theorem exec_drop_of_takes {index : BitVec 20} (h : Takes s src 0x90008 1) : exec (.drop src index) s = .next (s.dropHome src index.toNat) :=
  congrArg Host.Outcome.next (ctlWrite_of_takes h _ _)

theorem dropHome_of_past (h : s.homeCount ≤ i) : s.dropHome src i = s.setResult 0x90010 src (tierResult 2 0) := if_pos h

theorem dropHome_of_moving (hi : i < s.homeCount) (h : s.homeMoving i = true) :
    s.dropHome src i = (s.homeRead i).setResult 0x90010 src (tierResult 1 3) := (if_neg (Nat.not_le.mpr hi)).trans (if_pos h)

theorem dropHome_of_unclaimed (hi : i < s.homeCount) (hmoving : s.homeMoving i = false) (h : s.homeV i = false) :
    s.dropHome src i = (s.homeRead i).setResult 0x90010 src (tierResult 0 0) :=
  (if_neg (Nat.not_le.mpr hi)).trans ((if_neg (Bool.eq_false_iff.mp hmoving)).trans (if_pos (by rw [h]; rfl)))

theorem dropHome_of_claimed (hi : i < s.homeCount) (hmoving : s.homeMoving i = false) (h : s.homeV i = true) (hr : s.homeRead i = r) :
    s.dropHome src i = ((((r.homeFlag i 0 0).chargeSub (r.chargedTop (r.homeAddr i)) (r.homeClass i) (units (r.homeLen i))).addZeroing
      ⟨.vacated, r.homeAddr i, r.homeLen i⟩).setResult 0x90010 src (tierResult 0 0)) := by
  have hclaimed : ¬ ((!s.homeV i) = true) := by rw [h]; decide
  subst hr
  unfold State.dropHome State.addZeroing State.homeRead
  rw [hmoving]
  exact (if_neg (Nat.not_le.mpr hi)).trans ((if_neg (by decide)).trans (if_neg hclaimed))

end HomeCommands

/-- Settles O21: by the branch that a command takes after the read of its entry. -/
theorem homeCommands : Obligations.HomeCommands := by
  unfold Obligations.HomeCommands
  intro s src index htakes i r
  rw [exec_claim_of_takes htakes, exec_drop_of_takes htakes]
  have hr : s.homeRead i = r := rfl
  refine ⟨fun hi => ⟨congrArg _ (claim_of_past hi), congrArg _ (dropHome_of_past hi)⟩, fun hi => ?claim,
    fun hi hmoving => congrArg _ (dropHome_of_moving hi hmoving),
    fun hi hmoving hv => congrArg _ (dropHome_of_unclaimed hi hmoving hv), fun hi hmoving hv hrange hward => ?drop⟩
  case claim =>
    intro a n c top
    refine ⟨fun h => congrArg _ (claim_of_inReclaim hi h), fun hreclaim h => congrArg _ (claim_of_refused hi hreclaim h),
      fun hreclaim hplace hfits => ?_, fun hreclaim hplace hfits hrange hward => ?_⟩
    · exact congrArg _ ((claim_of_placed hi hreclaim hplace).trans (if_pos (by rw [hr, hfits]; rfl)))
    · obtain ⟨⟨hresult, hcls, hjob, htop⟩, hframe, hfields⟩ := claim_accepted (src := src) (homeClass_lt s i) hrange hward hfits rfl
      exact ⟨_, congrArg _ ((claim_of_placed hi hreclaim hplace).trans (if_neg (by rw [hr, hfits]; decide))), hresult, hcls, hjob,
        htop, hframe, hfields⟩
  case drop =>
    intro a n c top
    obtain ⟨⟨hresult, hcls, hjob, htop⟩, hframe⟩ := drop_accepted (src := src) (homeClass_lt r i) hrange hward (top := top) (n := units n)
      (z := ⟨.vacated, a, n⟩) rfl
    exact ⟨_, congrArg _ (dropHome_of_claimed hi hmoving hv hr), hresult, hcls, hjob, htop, hframe⟩

end Sys2Proof.Machine
end

section
/-!
PROOFS. What the Harrow's own work leaves: its streams, the range list, reclaim moves and grants (R317 to R326, R331, R335).
-/
namespace Sys2Proof.Machine

section HarrowOwn

variable {s t u : State} {may : List StepPart} {l : List Nat}

/-! ### The frame of the Harrow's own work -/

/-- `t` is `s` after work of the Harrow: a tier's, but for the Harrow's own state. -/
structure HarrowWork (may : List StepPart) (l : List Nat) (s t : State) : Prop where
  step : KeepsStep may s t
  regs : ∀ off, blockOf off ∈ harrowBlocks → off ∉ l → t.reg off = s.reg off

theorem TierWork.work (h : TierWork may l s t) : HarrowWork may l s t := ⟨h.step, h.regs⟩

namespace HarrowWork

theorem refl (s : State) : HarrowWork may l s s := ⟨.refl s, fun _ _ _ => rfl⟩

theorem trans (h : HarrowWork may l s t) (k : HarrowWork may l t u) : HarrowWork may l s u :=
  ⟨h.step.trans k.step, fun off hoff hl => (k.regs off hoff hl).trans (h.regs off hoff hl)⟩

theorem ite {c : Prop} [Decidable c] (ht : HarrowWork may l s t) (hu : HarrowWork may l s u) :
    HarrowWork may l s (if c then t else u) := by
  split
  · exact ht
  · exact hu

theorem each {α : Type} {f : State → α → State} {xs : List α} (hf : ∀ s, ∀ x ∈ xs, HarrowWork may l s (f s x)) (s : State) :
    HarrowWork may l s (s.each xs f) := by
  induction xs generalizing s with
  | nil => exact refl s
  | cons x xs ih => exact (hf s x List.mem_cons_self).trans (ih (fun s y hy => hf s y (List.mem_cons_of_mem x hy)) (f s x))

theorem mono {m : List Nat} (h : HarrowWork may l s t) (hlm : ∀ off ∈ l, off ∈ m) : HarrowWork may m s t :=
  ⟨h.step, fun off hoff hm => h.regs off hoff fun hmem => hm (hlm off hmem)⟩

theorem get_eq (h : HarrowWork may l s t) {f : Fld} (hblock : blockOf f.reg ∈ harrowBlocks) (hl : f.reg ∉ l) : t.get f = s.get f := by
  rw [State.get, h.regs f.reg hblock hl]; rfl

/-- Work that changes no part may stand where some may change. -/
theorem weaken (h : HarrowWork [] l s t) : HarrowWork may l s t :=
  ⟨⟨h.step.planes, h.step.sched, h.step.steps, fun _ => h.step.passes (by simp), fun _ => h.step.field (by simp),
    fun _ => h.step.topsoil (by simp), fun _ => h.step.tiers (by simp)⟩, h.regs⟩

theorem withHarrow (s : State) (r : HarrowSt) : HarrowWork may l s { s with harrow := r } := ⟨.withHarrow s r, fun _ _ _ => rfl⟩

end HarrowWork

/-- Each element leaves the state as it is. -/
theorem each_eq_self {α : Type} {f : State → α → State} {xs : List α} (hf : ∀ x ∈ xs, f s x = s) : s.each xs f = s := by
  induction xs with
  | nil => rfl
  | cons x xs ih =>
    have hx : s.each (x :: xs) f = (f s x).each xs f := rfl
    rw [hx, hf x List.mem_cons_self, ih fun y hy => hf y (List.mem_cons_of_mem x hy)]

/-! ### HARROW_STATUS and the lists -/

/-- The register of HARROW_STATUS. -/
def statusReg : Nat := HARROW_STATUS.ACTIVE.reg

theorem TierWork.putStatus (s : State) (lo len v : Nat) (hl : statusReg ∈ l) : TierWork may l s (s.put ⟨statusReg, lo, len⟩ v) :=
  put s v (by decide : blockOf statusReg ≠ 4) (.inr hl)

theorem TierWork.harrowStatus (s : State) (hl : statusReg ∈ l) : TierWork may l s s.harrowStatus := by
  unfold State.harrowStatus
  exact (((putStatus s _ _ _ hl).trans (putStatus _ _ _ _ hl)).trans (putStatus _ _ _ _ hl)).trans (putStatus _ _ _ _ hl)

theorem HarrowWork.updStream (s : State) (x : StreamSt) : HarrowWork may l s (s.updStream x) := withHarrow s _

theorem HarrowWork.addRange (s : State) (k : RangeKind) (a n : Nat) : HarrowWork may l s (s.addRange k a n) := withHarrow s _

theorem HarrowWork.dropRange (s : State) (k : RangeKind) (a : Nat) : HarrowWork may l s (s.dropRange k a) := withHarrow s _

theorem TierWork.chunkRequest (s : State) (x : StreamSt) : TierWork may l s (s.chunkRequest x) := (refl s).ite (boardRequest s ..)

/-! ### Streams by their position (R331) -/

theorem stream_eq_some {q : Bool} {p : Nat} {x : StreamSt} (h : s.stream q p = some x) : x.queue1 = q ∧ x.pos = p := by
  have hfound := List.find?_some h
  simpa using hfound

theorem stream_updStream {q : Bool} {p : Nat} {x y : StreamSt} (h : s.stream q p = some x) (hq : y.queue1 = q) (hp : y.pos = p) :
    (s.updStream y).stream q p = some y := by
  have hsame : ((fun x : StreamSt => x.queue1 == q && x.pos == p) ∘
      fun x : StreamSt => if x.queue1 == y.queue1 && x.pos == y.pos then y else x) = fun x => x.queue1 == q && x.pos == p := by
    funext z
    dsimp only [Function.comp]
    split
    · next hz => rw [hq, hp] at hz; simp [hq, hp, hz]
    · rfl
  obtain ⟨hxq, hxp⟩ := stream_eq_some h
  show (s.harrow.streams.map _).find? _ = _
  rw [List.find?_map, hsame, show s.harrow.streams.find? (fun x => x.queue1 == q && x.pos == p) = some x from h]
  simp [hq, hp, hxq, hxp]

theorem stream_congr (h : t.harrow = s.harrow) (q : Bool) (p : Nat) : t.stream q p = s.stream q p := by rw [State.stream, h]; rfl

/-! ### Grants (R322) -/

/-- `t` stands where `s` does, and its grants are those of `s`. -/
structure SameGrants (s t : State) : Prop where
  position : t.reg ROUTE_SELF.RACK.reg = s.reg ROUTE_SELF.RACK.reg
  a : ∀ k, k < 8 → t.reg (0x90200 + 0x10 * k) = s.reg (0x90200 + 0x10 * k)
  b : ∀ k, k < 8 → t.reg (0x90208 + 0x10 * k) = s.reg (0x90208 + 0x10 * k)

theorem HarrowWork.sameGrants (h : HarrowWork may l s t) (hl : ∀ off ∈ l, off < 0x90200) : SameGrants s t := by
  have hreg (off : Nat) (hblock : blockOf off ∈ harrowBlocks) (hoff : 0x90200 ≤ off) : t.reg off = s.reg off :=
    h.regs off hblock fun hmem => by have := hl off hmem; omega
  have hblock {off : Nat} (hlo : 0x90200 ≤ off) (hhi : off < 0x90300) : blockOf off ∈ harrowBlocks := by
    have : blockOf off = 9 := by simp only [blockOf]; omega
    rw [this]; decide
  exact ⟨hreg _ (by decide) (by decide), fun k _ => hreg _ (hblock (by omega) (by omega)) (by omega),
    fun k _ => hreg _ (hblock (by omega) (by omega)) (by omega)⟩

namespace SameGrants

theorem trans (h : SameGrants s t) (k : SameGrants t u) : SameGrants s u :=
  ⟨k.position.trans h.position, fun i hi => (k.a i hi).trans (h.a i hi), fun i hi => (k.b i hi).trans (h.b i hi)⟩

variable (h : SameGrants s t) {k : Nat} (hk : k < 8)

include h

theorem chipAt (d : Nat) : t.chipAt d = s.chipAt d := by simp only [State.chipAt, State.get, h.position]

include hk

theorem get_a (lo len : Nat) : t.get ⟨0x90200 + 0x10 * k, lo, len⟩ = s.get ⟨0x90200 + 0x10 * k, lo, len⟩ := by
  simp only [State.get, h.a k hk]

theorem get_b (lo len : Nat) : t.get ⟨0x90208 + 0x10 * k, lo, len⟩ = s.get ⟨0x90208 + 0x10 * k, lo, len⟩ := by
  simp only [State.get, h.b k hk]

theorem isBorrower : t.isBorrower k = s.isBorrower k := by simp only [State.isBorrower, State.flag, h.get_a hk]

theorem isLender : t.isLender k = s.isLender k := by simp only [State.isLender, State.flag, h.get_a hk]

theorem grantAddr (chip : Nat) : t.grantAddr k chip = s.grantAddr k chip := by
  simp only [State.grantAddr, State.flag, h.get_a hk, h.get_b hk]
  rfl

theorem grantLen : t.grantLen k = s.grantLen k := by simp only [State.grantLen, h.get_a hk]

theorem grantPeer : t.grantPeer k = s.grantPeer k := by simp only [State.grantPeer, h.get_a hk, h.chipAt]

theorem inGrant (x : Nat) : t.inGrant k x = s.inGrant k x := by
  simp only [State.inGrant, h.grantAddr hk, h.grantLen hk, h.grantPeer hk]

omit hk

theorem reclaiming : t.reclaiming = s.reclaiming := by
  refine List.filter_congr fun k hk => ?_
  rw [h.isBorrower (List.mem_range.mp hk), h.get_a (List.mem_range.mp hk)]

theorem inReclaim (x : Nat) : t.inReclaim x = s.inReclaim x := by
  rw [Bool.eq_iff_iff]
  simp only [State.inReclaim, List.any_eq_true, List.mem_range]
  refine exists_congr fun k => and_congr_right fun hk => ?_
  rw [h.isBorrower hk, h.get_a hk, h.inGrant hk]

theorem borrowed (dst : Nat) (sub : Bool) (o n : Nat) : t.borrowed dst sub o n = s.borrowed dst sub o n := by
  refine List.find?_congr fun k hk => ?_
  simp only [State.flag, h.get_a (List.mem_range.mp hk), h.get_b (List.mem_range.mp hk)]

end SameGrants

/-! ### Addresses of another state at the same position -/

theorem locate_congr (hpos : t.reg ROUTE_SELF.RACK.reg = s.reg ROUTE_SELF.RACK.reg) (hsize : t.subSize = s.subSize) (a : Nat) :
    t.locate a = s.locate a := by
  simp only [State.locate, State.subRange, self_congr hpos, hsize, State.get, hpos]
  rfl

theorem SameGrants.homeRefused (h : SameGrants s t) (hsize : t.subSize = s.subSize) (a n : Nat) :
    t.homeRefused a n = s.homeRefused a n := by
  unfold State.homeRefused
  rw [locate_congr h.position hsize]
  simp only [State.subRange, hsize, h.borrowed]

theorem chargedTop_congr (hpos : t.reg ROUTE_SELF.RACK.reg = s.reg ROUTE_SELF.RACK.reg) (a : Nat) : t.chargedTop a = s.chargedTop a := by
  rw [State.chargedTop, self_congr hpos]; rfl

/-! ### Reads of sound lines -/

/-- A read of sound lines of tier 1 records nothing, whether its address leads to this chip's Topsoil or not. -/
theorem readErrors_of_sound {a n : Nat} (htier : a / 2 ^ 42 % 4 = 1) (hbad : s.topsoil.badIn 64 (a % 2 ^ 42) n = []) (stepBound : Bool) :
    (s.readErrors a n stepBound).1 = s := by
  unfold State.readErrors
  split
  · next hloc => exact absurd hloc (locate_ne_seedbed_of_tier (by omega) _)
  · next hloc =>
    rw [(locate_eq_top_iff.mp hloc).2.2.2, hbad]
    rfl
  · next hloc => have := (tier_of_locate_eq_sub hloc).1; omega
  · rfl

theorem gaddr_topsoil (s : State) {o : Nat} (ho : o < 2 ^ 42) : s.gaddr 1 o / 2 ^ 42 % 4 = 1 ∧ s.gaddr 1 o % 2 ^ 42 = o := by
  simp only [State.gaddr]
  omega

theorem partReads_of_sound {o n : Nat} (ho : o < 2 ^ 42) (hbad : s.topsoil.badIn 64 o n = []) (stepBound : Bool) :
    s.partReads o n stepBound = s.topTouch o n := by
  obtain ⟨htier, hoff⟩ := gaddr_topsoil s ho
  have htop : (s.topTouch o n).topsoil = s.topsoil := (KeepsStep.topTouch (may := []) s o n).topsoil (by simp)
  rw [partReads_eq_fun]
  exact readErrors_of_sound htier (by rw [htop, hoff]; exact hbad) stepBound

theorem lt_of_topRange {o n : Nat} (h : topRange o n = true) (hn : 0 < n) : o + n ≤ 2 ^ 39 := by
  simp only [topRange, topOk, Bool.or_eq_true, Bool.and_eq_true, beq_iff_eq, decide_eq_true_eq] at h
  omega

/-! ### Reclaim moves and the release of grants (R324) -/

/-- A reclaim move lists its source, once there is room and no other move brings its object. -/
def State.startReclaim (s : State) (m : ReclaimMove) : State :=
  if m.started || decide (64 ≤ s.harrow.ranges.length) || s.homeMoving m.index then s
  else
    let s := (s.homeFlag m.index 1 1).addRange .moving (s.homeAddr m.index) (s.homeLen m.index)
    { s with harrow := { s.harrow with
      reclaims := s.harrow.reclaims.map fun x => if x.index = m.index then { x with started := true } else x } }

/-- The reclaim moves that the grants still need are known. -/
def State.withReclaims (s : State) : State :=
  { s with harrow := { s.harrow with reclaims := s.reclaiming.flatMap fun k => s.reclaimsOf k } }

theorem reclaimPump_eq (s : State) : s.reclaimPump =
    (s.withReclaims.each (s.reclaiming.flatMap fun k => s.reclaimsOf k) State.startReclaim).harrowStatus := rfl

theorem HarrowWork.startReclaim (hmay : .topsoil ∈ may) (s : State) (m : ReclaimMove) : HarrowWork may l s (s.startReclaim m) :=
  (refl s).ite (((TierWork.homeFlag hmay s _ _ _).work.trans (addRange _ ..)).trans (withHarrow _ _))

theorem HarrowWork.reclaimPump (hmay : .topsoil ∈ may) (s : State) (hl : statusReg ∈ l) : HarrowWork may l s s.reclaimPump := by
  rw [reclaimPump_eq]
  exact ((withHarrow s _).trans (each (fun u m _ => startReclaim hmay u m) _)).trans (TierWork.harrowStatus _ hl).work

/-- No object must leave a grant. -/
def State.noReclaims (s : State) : State := { s with harrow := { s.harrow with reclaims := [] } }

theorem reclaimPump_of_none (h : s.reclaiming = []) : s.reclaimPump = s.noReclaims.harrowStatus := by
  rw [reclaimPump_eq, State.withReclaims, h]
  rfl

/-- A pump adds ranges to the list and takes none from it. -/
theorem mem_ranges_reclaimPump {r : Range} (h : r ∈ s.harrow.ranges) : r ∈ s.reclaimPump.harrow.ranges := by
  have heach (ms : List ReclaimMove) (u : State) (hu : r ∈ u.harrow.ranges) : r ∈ (u.each ms State.startReclaim).harrow.ranges := by
    induction ms generalizing u with
    | nil => exact hu
    | cons m ms ih =>
      refine ih _ ?_
      unfold State.startReclaim
      split
      · exact hu
      · have hflag := (TierWork.homeFlag (may := [.topsoil]) (l := []) (by simp) u m.index 1 1).harrow
        exact List.mem_append_left _ (by rw [hflag]; exact hu)
  rw [reclaimPump_eq, (TierWork.harrowStatus (may := []) (l := [statusReg]) _ (by simp)).harrow]
  exact heach _ _ h

/-- The register that shows the state of grant `k`. -/
abbrev grantReg (k : Nat) : Nat := 0x90200 + 0x10 * k

/-- The registers that show the states of the grants. -/
def grantRegs : List Nat := (List.range 8).map grantReg

theorem grantReg_mem {k : Nat} (hk : k < 8) : grantReg k ∈ grantRegs := List.mem_map.mpr ⟨k, List.mem_range.mpr hk, rfl⟩

theorem grantReg_block {k : Nat} (hk : k < 8) : blockOf (grantReg k) ∈ harrowBlocks := by
  have hblock : blockOf (grantReg k) = 9 := by simp only [blockOf, grantReg]; omega
  rw [hblock]
  decide

theorem TierWork.putGrant (s : State) {k : Nat} (hk : k < 8) (lo len v : Nat) (hl : grantReg k ∈ l) :
    TierWork may l s (s.put ⟨grantReg k, lo, len⟩ v) :=
  put s v (by simp only [blockOf, grantReg]; omega) (.inr hl)

/-- Grant `k` is released, if it is reclaimed and nothing uses it any more. -/
def State.releaseGrant (s : State) (k : Nat) : State :=
  if s.isBorrower k && s.get (TIER_GNT_A.STATE k) == 2 && !(s.harrow.reclaims.any fun m => m.grant == k) &&
      !(s.harrow.streams.any fun t => t.started && s.inGrant k (t.desc.getD 2 0).toNat && t.cause == 0 && !t.cancelled) &&
      !(s.net.requests.any fun r => r.vc == 7 && s.inGrant k r.addr) then
    ((s.send 3 0x0402 (s.grantPeer k) (s.grantMsg k)).put (TIER_GNT_A.EN k) 0).put (TIER_GNT_A.STATE k) 0
  else s

theorem grantsRelease_eq (s : State) : s.grantsRelease = s.each (List.range 8) State.releaseGrant := rfl

theorem TierWork.releaseGrant (s : State) {k : Nat} (hk : k < 8) (hl : grantReg k ∈ l) : TierWork may l s (s.releaseGrant k) :=
  ite (((send s ..).trans (putGrant _ hk _ _ _ hl)).trans (putGrant _ hk _ _ _ hl)) (refl s)

theorem TierWork.grantsRelease (s : State) (hl : ∀ off ∈ grantRegs, off ∈ l) : TierWork may l s s.grantsRelease := by
  rw [grantsRelease_eq]
  exact each (fun u _ hk => releaseGrant u (List.mem_range.mp hk) (hl _ (grantReg_mem (List.mem_range.mp hk)))) s

theorem grantsRelease_of_none (h : s.reclaiming = []) : s.grantsRelease = s := by
  refine each_eq_self fun k hk => if_neg fun hcond => ?_
  have hmem : k ∈ s.reclaiming := by
    refine List.mem_filter.mpr ⟨hk, ?_⟩
    simp only [Bool.and_eq_true] at hcond ⊢
    exact hcond.1.1.1
  rw [h] at hmem
  exact absurd hmem List.not_mem_nil

end HarrowOwn
end Sys2Proof.Machine
end

section
/-!
PROOFS. MOVE: its start, the flip of a move and of a reclaim move, and the zeroing of the vacated range (R317 to R319, R324).
-/
namespace Sys2Proof.Machine

section HarrowMove

variable {s t u r : State} {x y : StreamSt} {i : Nat}

/-! ### The start of a MOVE (R317 steps 1 and 2) -/

/-- The next place in the issue order is taken. -/
def State.orderTaken (s : State) : State := { s with sched := { s.sched with nextOrder := s.sched.nextOrder + 1 } }

/-- The destination of a move of `n` bytes is charged, and entry `i` is MOVING. -/
def State.moveMarked (s : State) (i : Nat) (top : Bool) (n : Nat) : State :=
  (s.chargeAdd top (s.homeClass i) (units n)).homeFlag i 1 1

/-- The source of move `y` is listed, and its first chunk asks for its entry. -/
def State.moveListed (s : State) (y : StreamSt) (a n : Nat) : State :=
  ((((s.addRange .moving a n).updStream y).chunkRequest y)).harrowStatus

/-- A state that has counted lines of Topsoil only: it reads as before where a move looks. -/
structure LinesCounted (s r : State) : Prop where
  homes : SameHomes s r
  grants : SameGrants s r
  size : r.subSize = s.subSize
  quota : ∀ off, 0x90000 ≤ off → off < 0x90200 → r.reg off = s.reg off
  rest : r = { s with regs := r.regs }

theorem linesCounted_partReads {o n : Nat} (hrange : topRange o n = true) (hn : 0 < n) (hbad : s.topsoil.badIn 64 o n = []) :
    LinesCounted s (s.partReads o n false) := by
  have ho := lt_of_topRange hrange hn
  have hwork : TierWork [] [] s (s.topTouch o n) := .topTouch s o n
  rw [partReads_of_sound (by omega) hbad false]
  have hreg (off : Nat) (hoff : blockOf off = 0xB) : (s.topTouch o n).reg off = s.reg off := by
    rw [topTouch_of_topRange s hrange]
    refine reg_bump_ne s _ ?_
    simp only [blockOf] at hoff ⊢
    omega
  refine ⟨hwork.sameHomes (by simp) (by simp), hwork.work.sameGrants (by simp), ?_, fun off hlo hhi => hwork.regs off ?_ (by simp),
    topTouch_frame s hrange⟩
  · simp only [State.subSize, State.subChannels, State.flag, State.get, hreg _ (by decide : blockOf SUBSOIL_CFG.NCH.reg = 0xB)]
    rfl
  · have : blockOf off = 9 := by simp only [blockOf]; omega
    rw [this]; decide

theorem LinesCounted.chargeFits (h : LinesCounted s r) (top : Bool) {c : Nat} (hc : c < 16) (n : Nat) :
    r.chargeFits top c n = s.chargeFits top c n := by
  have hget {f : Fld} (hlo : 0x90000 ≤ f.reg) (hhi : f.reg < 0x90200) : r.get f = s.get f := by
    rw [State.get, h.quota _ hlo hhi]; rfl
  cases top
  all_goals
    simp only [State.chargeFits, quotaClass, quotaJob, if_true, if_false, Bool.false_eq_true]
    rw [hget (by simp only; omega) (by simp only; omega), hget (by simp only; omega) (by simp only; omega), hget (by decide) (by decide),
      hget (by decide) (by decide)]

theorem LinesCounted.get_quotaJob (h : LinesCounted s r) (top : Bool) : r.get (quotaJob top).2 = s.get (quotaJob top).2 := by
  have hbounds := quotaJob_reg_bounds top
  rw [State.get, h.quota _ (by omega) (by omega)]
  rfl

/-- What a MOVE finds when it starts: a claimed entry that stays, and a destination with room that may be charged. -/
structure MayMove (s : State) (x : StreamSt) (i d : Nat) : Prop where
  index : i < s.homeCount
  claimed : s.homeV i = true
  stays : s.homeMoving i = false
  length : s.homeLen i = streamLen x.desc
  held : s.homeLost i = false
  free : s.inReclaim d = false
  placed : s.homeRefused d (s.homeLen i) = false
  room : s.harrow.ranges.length < 64
  fits : s.chargeFits (s.chargedTop d) (s.homeClass i) (units (s.homeLen i)) = true

theorem MayMove.read {d : Nat} (h : MayMove s x i d) (k : LinesCounted s r) : MayMove r x i d where
  index := k.homes.count ▸ h.index
  claimed := (k.homes.v i).trans h.claimed
  stays := (k.homes.moving i).trans h.stays
  length := (k.homes.len i).trans h.length
  held := (k.homes.lost i).trans h.held
  free := (k.grants.inReclaim d).trans h.free
  placed := by rw [k.grants.homeRefused k.size, k.homes.len]; exact h.placed
  room := by rw [k.rest]; exact h.room
  fits := by rw [chargedTop_congr k.grants.position, k.homes.cls, k.homes.len, k.chargeFits _ (homeClass_lt s i)]; exact h.fits

theorem moveStart_of_mayMove (hr : s.partReads (s.homeOff (streamHome x.desc)) 32 false = r)
    (h : MayMove r x (streamHome x.desc) (streamDst x.desc)) (hlen : s.homeLen (streamHome x.desc) = r.homeLen (streamHome x.desc)) :
    s.moveStart x = (r.orderTaken.moveMarked (streamHome x.desc) (r.chargedTop (streamDst x.desc))
      (s.homeLen (streamHome x.desc))).moveListed { x with started := true, order := r.sched.nextOrder }
      (s.homeAddr (streamHome x.desc)) (s.homeLen (streamHome x.desc)) := by
  have hentry : ¬ (r.homeCount ≤ streamHome x.desc ∨ (!r.homeV (streamHome x.desc)) = true ∨ r.homeMoving (streamHome x.desc) = true ∨
      s.homeLen (streamHome x.desc) ≠ streamLen x.desc) := by
    simp [h.claimed, h.stays, hlen, h.length, h.index]
  have hdest : ¬ ((r.inReclaim (streamDst x.desc) || r.homeRefused (streamDst x.desc) (s.homeLen (streamHome x.desc))) = true) := by
    simp [h.free, hlen, h.placed]
  have hfits : ¬ ((!r.chargeFits (r.chargedTop (streamDst x.desc)) (r.homeClass (streamHome x.desc))
      (units (s.homeLen (streamHome x.desc)))) = true) := by simp [hlen, h.fits]
  unfold State.moveStart
  dsimp only
  rw [hr]
  exact (if_neg hentry).trans ((if_neg (Bool.eq_false_iff.mp h.held)).trans ((if_neg hdest).trans
    ((if_neg (Nat.not_le.mpr h.room)).trans (if_neg hfits))))

theorem exec_streamMove_of_waiting {pos : BitVec 16} {code : CodeResult} {remote : List Byte} (hhold : s.get CANDLE_GOV.HOLD = 0)
    (hx : s.stream true pos.toNat = some x) (hop : streamOp x.desc = 2) (hcause : x.cause = 0) (hcancel : x.cancelled = false)
    (hwait : x.started = false) : exec (.streamMove pos code remote) s = .next (s.moveStart x) := by
  show execStreamMove pos code remote s = _
  unfold execStreamMove
  rw [clocked_of_running hhold, hx]
  exact (if_neg (by simp [hop, hcause, hcancel])).trans (if_pos (by simp [hwait]))

theorem tierWork_moveMarked (s : State) (i : Nat) (top : Bool) (n : Nat) :
    TierWork [.topsoil] (quotaRegs top (s.homeClass i)) s (s.moveMarked i top n) :=
  (TierWork.chargeAdd s top (s.homeClass i) (units n)).trans (.homeFlag (by simp) _ i 1 1)

theorem topsoil_moveMarked (h : SameHomes s r) (i : Nat) (top : Bool) (n : Nat) :
    (r.moveMarked i top n).topsoil = (s.homeFlag i 1 1).topsoil :=
  (h.trans (sameHomes_chargeAdd r top (homeClass_lt r i) (units n))).homeFlag i 1 1

theorem get_moveMarked {top : Bool} {n : Nat} (hfits : s.chargeFits top (s.homeClass i) (units n) = true) :
    (s.moveMarked i top n).get (quotaJob top).2 = s.get (quotaJob top).2 + units n := by
  have hflag : TierWork [.topsoil] [] (s.chargeAdd top (s.homeClass i) (units n)) (s.moveMarked i top n) := .homeFlag (by simp) _ i 1 1
  have hblock : blockOf (quotaJob top).2.reg ∈ harrowBlocks := by cases top <;> decide
  rw [hflag.get_eq hblock (by simp)]
  exact (get_chargeAdd hfits).2

theorem tierWork_moveListed (s : State) (y : StreamSt) (a n : Nat) :
    TierWork [] [statusReg] ((s.addRange .moving a n).updStream y) (s.moveListed y a n) :=
  (TierWork.chunkRequest _ y).trans (.harrowStatus _ (by simp))

theorem harrowWork_moveListed (s : State) (y : StreamSt) (a n : Nat) : HarrowWork [] [statusReg] s (s.moveListed y a n) :=
  ((HarrowWork.addRange s .moving a n).trans (.updStream _ y)).trans (tierWork_moveListed s y a n).work

/-- What the start of a MOVE leaves. -/
structure MoveStarted (s : State) (q : Bool) (p : Nat) (x : StreamSt) (i : Nat) (top : Bool) (t : State) : Prop where
  charge : t.get (quotaJob top).2 = s.get (quotaJob top).2 + units (s.homeLen i)
  topsoil : t.topsoil = (s.homeFlag i 1 1).topsoil
  ranges : t.harrow.ranges = s.harrow.ranges ++ [⟨.moving, s.homeAddr i, s.homeLen i⟩]
  stream : t.stream q p = some { x with started := true, order := s.sched.nextOrder }
  order : t.sched.nextOrder = s.sched.nextOrder + 1
  planes : t.lit = s.lit ∧ t.dark = s.dark
  seedbed : t.seedbed = s.seedbed

theorem moveStarted_of_counted {y : StreamSt} {q : Bool} {p : Nat} {top : Bool} (hr : LinesCounted s r) (hx : s.stream q p = some x)
    (hfits : r.chargeFits top (r.homeClass i) (units (s.homeLen i)) = true)
    (hy : y = { x with started := true, order := r.sched.nextOrder })
    (ht : t = (r.orderTaken.moveMarked i top (s.homeLen i)).moveListed y (s.homeAddr i) (s.homeLen i)) :
    MoveStarted s q p x i top t := by
  obtain ⟨hqueue, hpos⟩ := stream_eq_some hx
  have hhomes : SameHomes s r.orderTaken := hr.homes.trans ⟨rfl, rfl⟩
  have hjob := get_moveMarked (s := r.orderTaken) (n := s.homeLen i) hfits
  have htop := topsoil_moveMarked hhomes i top (s.homeLen i)
  have hmark := tierWork_moveMarked r.orderTaken i top (s.homeLen i)
  generalize r.orderTaken.moveMarked i top (s.homeLen i) = u at hjob htop hmark ht
  have hlist := tierWork_moveListed u y (s.homeAddr i) (s.homeLen i)
  have hwork := harrowWork_moveListed u y (s.homeAddr i) (s.homeLen i)
  rw [← ht] at hlist hwork
  have hjobReg : (quotaJob top).2.reg ∉ [statusReg] ∧ blockOf (quotaJob top).2.reg ∈ harrowBlocks := by cases top <;> decide
  have hharrow : u.harrow = s.harrow := hmark.harrow.trans (by rw [State.orderTaken, hr.rest])
  have hquota : r.orderTaken.get (quotaJob top).2 = s.get (quotaJob top).2 := hr.get_quotaJob top
  have hsched : r.sched = s.sched := by rw [hr.rest]
  have hustream : (u.addRange .moving (s.homeAddr i) (s.homeLen i)).stream q p = some x := by
    rw [← hx, State.stream, State.addRange, hharrow]
    rfl
  refine ⟨(hwork.get_eq hjobReg.2 hjobReg.1).trans (hjob.trans (congrArg (· + _) hquota)), (hwork.step.topsoil (by simp)).trans htop,
    ?_, ?_, ?_, ?_, ?_⟩
  · rw [hlist.harrow, ← hharrow]
    rfl
  · rw [stream_congr hlist.harrow, stream_updStream hustream (by rw [hy]; exact hqueue) (by rw [hy]; exact hpos), hy, hsched]
  · rw [hwork.step.sched, hmark.step.sched]
    show r.sched.nextOrder + 1 = _
    rw [hsched]
  · obtain ⟨hlit, hdark⟩ := hwork.step.planes
    obtain ⟨hlit', hdark'⟩ := hmark.step.planes
    obtain ⟨hlit'', hdark''⟩ : r.lit = s.lit ∧ r.dark = s.dark := by rw [hr.rest]; exact ⟨rfl, rfl⟩
    exact ⟨hlit.trans (hlit'.trans hlit''), hdark.trans (hdark'.trans hdark'')⟩
  · have hseed : r.seedbed = s.seedbed := by rw [hr.rest]
    exact (hwork.step.tiers (by simp)).1.trans ((hmark.step.tiers (by simp)).1.trans hseed)

/-! ### Flips (R317, R318, R324) -/

/-- Word 1 of entry `i` names the home at `dst`, and MOVING is clear. -/
def State.renamed (s : State) (i dst : Nat) : State := (s.topPutWord (s.homeOff i + 8) dst).homeFlag i 1 0

/-- A range that was moving is vacated. -/
def State.vacated (s : State) (a n : Nat) : State := ((s.dropRange .moving a).addRange .vacated a n).harrowStatus

/-- The range list `l` once the range at `a` is vacated. -/
def rangesVacated (l : List Range) (a n : Nat) : List Range :=
  (l.filter fun r => !(decide (r.kind = .moving) && r.addr == a)) ++ [⟨.vacated, a, n⟩]

/-- The charge of `n` bytes at `a` is released, where the move frees it. -/
def State.freedCharge (s : State) (freed : Bool) (a c n : Nat) : State :=
  if freed then s.chargeSub (s.chargedTop a) c (units n) else s

theorem flip_eq (s : State) (i dst : Nat) (freed : Bool) : s.flip i dst freed =
    ((s.renamed i dst).freedCharge freed (s.homeAddr i) (s.homeClass i) (s.homeLen i)).vacated (s.homeAddr i) (s.homeLen i) := rfl

theorem tierWork_renamed (s : State) (i dst : Nat) : TierWork [.topsoil] [] s (s.renamed i dst) :=
  (TierWork.topPutWord (by simp) s _ dst).trans (.homeFlag (by simp) _ i 1 0)

theorem topsoil_renamed (h : SameHomes s t) (i dst : Nat) : (t.renamed i dst).topsoil = (s.renamed i dst).topsoil := by
  refine SameHomes.homeFlag (s := s.topPutWord (s.homeOff i + 8) dst) ⟨?_, ?_⟩ i 1 0
  · have hs : TierWork [.topsoil] [] s (s.topPutWord (s.homeOff i + 8) dst) := .topPutWord (by simp) s _ dst
    have ht : TierWork [.topsoil] [] t (t.topPutWord (t.homeOff i + 8) dst) := .topPutWord (by simp) t _ dst
    rw [hs.regs _ (by decide) (by simp), ht.regs _ (by decide) (by simp), h.table]
  · rw [h.off]
    exact topsoil_topWrite_congr h.topsoil ..

theorem harrowWork_vacated (s : State) (a n : Nat) : HarrowWork [] [statusReg] s (s.vacated a n) :=
  ((HarrowWork.dropRange s .moving a).trans (.addRange _ .vacated a n)).trans (TierWork.harrowStatus _ (by simp)).work

theorem ranges_vacated (s : State) (a n : Nat) : (s.vacated a n).harrow.ranges = rangesVacated s.harrow.ranges a n := by
  rw [State.vacated, (TierWork.harrowStatus (may := []) (l := [statusReg]) _ (by simp)).harrow]
  rfl

theorem tierWork_freedCharge (s : State) (freed : Bool) (a c n : Nat) :
    TierWork [] (quotaRegs (s.chargedTop a) c) s (s.freedCharge freed a c n) := (TierWork.chargeSub s _ c _).ite (.refl s)

/-- `t` is `s` once a move of entry `i` to `dst` has flipped. -/
structure Flipped (s : State) (i dst : Nat) (t : State) : Prop where
  parts : KeepsStep [.topsoil] s t
  regs : ∀ off, blockOf off ∈ harrowBlocks → off ≠ statusReg → off < 0x90028 ∨ 0x90200 ≤ off → t.reg off = s.reg off
  topsoil : t.topsoil = (s.renamed i dst).topsoil
  ranges : t.harrow.ranges = rangesVacated s.harrow.ranges (s.homeAddr i) (s.homeLen i)

theorem flipped_flip (s : State) (i dst : Nat) (freed : Bool) : Flipped s i dst (s.flip i dst freed) := by
  have hclass := homeClass_lt s i
  have hname := tierWork_renamed s i dst
  rw [flip_eq]
  generalize s.homeClass i = c at hclass
  have hfree := tierWork_freedCharge (s.renamed i dst) freed (s.homeAddr i) c (s.homeLen i)
  generalize State.freedCharge _ _ _ _ _ = u at hfree
  have hvac := harrowWork_vacated u (s.homeAddr i) (s.homeLen i)
  have hranges := ranges_vacated u (s.homeAddr i) (s.homeLen i)
  generalize u.vacated (s.homeAddr i) (s.homeLen i) = t at hvac hranges
  refine ⟨(hname.step.trans hfree.work.weaken.step).trans hvac.weaken.step, fun off hblock hstatus hquota => ?_, ?_, ?_⟩
  · have hoff : off ∉ quotaRegs ((s.renamed i dst).chargedTop (s.homeAddr i)) c := fun h => by
      have := quotaRegs_bounds hclass h
      omega
    rw [hvac.regs off hblock (by simpa using hstatus), hfree.regs off hblock hoff, hname.regs off hblock (by simp)]
  · rw [hvac.step.topsoil (by simp), hfree.step.topsoil (by simp)]
  · rw [hranges, hfree.harrow, hname.harrow]

namespace Flipped

variable {dst : Nat} (h : Flipped s i dst t)

include h

theorem sameGrants : SameGrants s t := by
  have hreg {off : Nat} (hblock : blockOf off = 9 ∨ blockOf off = 0xF) (hoff : 0x90200 ≤ off) : t.reg off = s.reg off := by
    refine h.regs off (by rcases hblock with h | h <;> rw [h] <;> decide) ?_ (.inr hoff)
    rintro rfl
    exact absurd hoff (by decide)
  exact ⟨hreg (.inr (by decide)) (by decide), fun k hk => hreg (.inl (by simp only [blockOf]; omega)) (by omega),
    fun k hk => hreg (.inl (by simp only [blockOf]; omega)) (by omega)⟩

theorem get_late : t.get HARROW_LATE.LATE = s.get HARROW_LATE.LATE := by
  rw [State.get, h.regs _ (by decide) (by decide) (.inl (by decide))]
  rfl

end Flipped

/-- A move flips where no grant is being reclaimed: no move starts, and no grant is released. -/
theorem exec_moveFlip_of_move {index : BitVec 20} {read : MoveRead} (hx : s.moveOf index.toNat = some x) (hnone : s.reclaiming = [])
    (hflip : (s.updStream { x with flipped := true }).flip index.toNat (streamDst x.desc) true = t) (hsame : SameGrants s t) :
    exec (.moveFlip index read) s = .next t.noReclaims.harrowStatus := by
  have hstatus : TierWork [] [statusReg] t.noReclaims t.noReclaims.harrowStatus := .harrowStatus _ (by simp)
  have hgrants : SameGrants t t.noReclaims := (HarrowWork.withHarrow (may := []) (l := []) t _).sameGrants (by simp)
  have hreclaims : t.noReclaims.harrowStatus.reclaiming = [] :=
    (((hsame.trans hgrants).trans (hstatus.work.sameGrants (by decide))).reclaiming).trans hnone
  show execMoveFlip index read s = _
  unfold execMoveFlip
  dsimp only
  rw [hx]
  dsimp only
  rw [hflip, reclaimPump_of_none (hsame.reclaiming.trans hnone), grantsRelease_of_none hreclaims]

/-- What the flip of a move leaves. -/
structure MoveFlipped (s : State) (i dst : Nat) (t : State) : Prop where
  topsoil : t.topsoil = (s.renamed i dst).topsoil
  ranges : t.harrow.ranges = rangesVacated s.harrow.ranges (s.homeAddr i) (s.homeLen i)
  parts : KeepsStep [.topsoil] s t

theorem moveFlipped_of_flipped {dst : Nat} {y : StreamSt} (h : Flipped (s.updStream y) i dst t) :
    MoveFlipped s i dst t.noReclaims.harrowStatus := by
  have hhomes : SameHomes s (s.updStream y) := ⟨rfl, rfl⟩
  have hranges : (s.updStream y).harrow.ranges = s.harrow.ranges := rfl
  have hupd : HarrowWork [.topsoil] [] s (s.updStream y) := .updStream s y
  have hstatus : TierWork [] [statusReg] t.noReclaims t.noReclaims.harrowStatus := .harrowStatus _ (by simp)
  have hnone : HarrowWork [.topsoil] [] t t.noReclaims := .withHarrow t _
  refine ⟨(hstatus.step.topsoil (by simp)).trans (h.topsoil.trans (topsoil_renamed hhomes i dst)), ?_,
    ((hupd.step.trans h.parts).trans hnone.step).trans hstatus.work.weaken.step⟩
  rw [hstatus.harrow, ← hhomes.addr, ← hhomes.len, ← hranges]
  exact h.ranges

/-! ### The flip of a reclaim move (R324) -/

theorem TierWork.readAny_of_commons {may : List StepPart} {l : List Nat} {a n d o : Nat} {k : Bool} (h : s.locate a = .commons d k o)
    (owner : Option Owner) (code : CodeResult) (b : Bool) (remote : List Byte) :
    TierWork may l s (s.readAny owner a n code b remote).1 := by
  unfold State.readAny
  rw [h]
  exact each (fun u j _ => request u ..) s

theorem TierWork.pokeAt_of_subsoil {may : List StepPart} {l : List Nat} (hmay : .tiers ∈ may) {a : Nat} (h : a / 2 ^ 42 % 4 = 2)
    (s : State) (bs : List Byte) : TierWork may l s (s.pokeAt a bs) := by
  unfold State.pokeAt
  split
  · next hloc => exact absurd hloc (locate_ne_seedbed_of_tier (by omega) _)
  · next hloc => have := (locate_eq_top_iff.mp hloc).2.1; omega
  · exact subWrite hmay s _ bs
  · exact refl s

/-- The bytes of entry `i` stand at the destination of its reclaim move `m`. -/
def State.reclaimPoked (s : State) (i : Nat) (m : ReclaimMove) (remote : List Byte) : State :=
  (s.readAny none (s.homeAddr i) (s.homeLen i) .clean false remote).1.pokeAt m.dst
    (s.readAny none (s.homeAddr i) (s.homeLen i) .clean false remote).2.1

/-- A late move counts. -/
def State.lateCounted (s : State) (late : Bool) : State := if late then s.bump HARROW_LATE.LATE 1 else s

/-- The reclaim moves of entry `i` are gone. -/
def State.reclaimDropped (s : State) (i : Nat) : State :=
  { s with harrow := { s.harrow with reclaims := s.harrow.reclaims.filter fun x => x.index != i } }

theorem exec_moveFlip_of_reclaim {index : BitVec 20} {m : ReclaimMove} (remote : List Byte) (late : Bool)
    (hnone : s.moveOf index.toNat = none)
    (hm : (s.harrow.reclaims.find? fun m => m.index == index.toNat && m.started) = some m) :
    exec (.moveFlip index ⟨remote, late⟩) s = .next ((((((s.reclaimPoked index.toNat m remote).lateCounted late).reclaimDropped
      index.toNat).flip index.toNat m.dst false).reclaimPump).grantsRelease) := by
  show execMoveFlip index ⟨remote, late⟩ s = _
  unfold execMoveFlip
  dsimp only
  rw [hnone]
  dsimp only
  rw [hm]
  rfl

theorem tierWork_reclaimPoked {m : ReclaimMove} {d o o' : Nat} {k : Bool} (hsrc : s.locate (s.homeAddr i) = .commons d k o)
    (hdst : s.locate m.dst = .sub o') (remote : List Byte) : TierWork [.tiers] [] s (s.reclaimPoked i m remote) :=
  (TierWork.readAny_of_commons hsrc _ _ _ _).trans (.pokeAt_of_subsoil (by simp) (tier_of_locate_eq_sub hdst).1 _ _)

theorem tierWork_lateCounted (s : State) (late : Bool) : TierWork [] [HARROW_LATE.LATE.reg] s (s.lateCounted late) :=
  (TierWork.bump s 1 (by decide) (.inr (by simp))).ite (.refl s)

theorem get_lateCounted (s : State) : (s.lateCounted true).get HARROW_LATE.LATE = min (2 ^ 32 - 1) (s.get HARROW_LATE.LATE + 1) :=
  get_bump_self s 1 (by decide)

/-- What the flip of a reclaim move leaves. -/
structure ReclaimFlipped (s : State) (i : Nat) (late : Bool) (t : State) : Prop where
  vacated : (⟨.vacated, s.homeAddr i, s.homeLen i⟩ : Range) ∈ t.harrow.ranges
  late : late = true → t.get HARROW_LATE.LATE = min (2 ^ 32 - 1) (s.get HARROW_LATE.LATE + 1)
  planes : t.lit = s.lit ∧ t.dark = s.dark

theorem reclaimFlipped_of_flipped {late : Bool} {dst : Nat} (hpoke : TierWork [.tiers] [] s u)
    (h : Flipped ((u.lateCounted late).reclaimDropped i) i dst t) : ReclaimFlipped s i late t.reclaimPump.grantsRelease := by
  have hlate := tierWork_lateCounted u late
  have hdrop : HarrowWork [] [] (u.lateCounted late) ((u.lateCounted late).reclaimDropped i) := .withHarrow _ _
  have hhomes : SameHomes s ((u.lateCounted late).reclaimDropped i) :=
    ((hpoke.sameHomes (by simp) (by simp)).trans (hlate.sameHomes (by simp) (by decide))).trans ⟨rfl, rfl⟩
  have hpump : HarrowWork [.topsoil] [statusReg] t t.reclaimPump := .reclaimPump (by simp) t (by simp)
  have hrelease : TierWork [] grantRegs t.reclaimPump t.reclaimPump.grantsRelease := .grantsRelease _ fun _ => id
  refine ⟨?_, ?_, ?_⟩
  · rw [hrelease.harrow, ← hhomes.addr, ← hhomes.len]
    refine mem_ranges_reclaimPump ?_
    rw [h.ranges]
    exact List.mem_append_right _ (List.mem_singleton.mpr rfl)
  · rintro rfl
    rw [hrelease.get_eq (by decide) (by decide), hpump.get_eq (by decide) (by decide), h.get_late, hdrop.get_eq (by decide) (by simp),
      get_lateCounted, hpoke.get_eq (by decide) (by simp)]
  · obtain ⟨hlit, hdark⟩ := hrelease.step.planes
    obtain ⟨hlit₁, hdark₁⟩ := hpump.step.planes
    obtain ⟨hlit₂, hdark₂⟩ := h.parts.planes
    obtain ⟨hlit₃, hdark₃⟩ := (hlate.work.trans (hdrop.mono (by simp))).step.planes
    obtain ⟨hlit₄, hdark₄⟩ := hpoke.step.planes
    exact ⟨by rw [hlit, hlit₁, hlit₂, hlit₃, hlit₄], by rw [hdark, hdark₁, hdark₂, hdark₃, hdark₄]⟩

/-! ### The vacated range (R318) -/

/-- With the Ward off a range of Topsoil is zeroed, and its lines counted. -/
theorem topZero_of_ward_off {o n : Nat} (ho : o < 2 ^ 42) (hrange : topRange o n = true) (hward : s.get WARD_STATUS.STATE = 0) :
    s.topZero o n = State.bump { s with topsoil := s.topsoil.zeroed 64 o n } (TOPSOIL_LINES.LINES (o / 2 ^ 37)) (lineCount o n) := by
  have hreg : WARD_STATUS.STATE.reg ≠ (TOPSOIL_LINES.LINES (o / 2 ^ 37)).reg := by simp only; omega
  have hoff : State.wardOn (State.bump { s with topsoil := s.topsoil.zeroed 64 o n }
      (TOPSOIL_LINES.LINES (o / 2 ^ 37)) (lineCount o n)) = false :=
    wardOn_eq_false ((get_put_ne _ _ (.inl hreg)).trans hward)
  rw [State.topZero, if_pos hrange]
  dsimp only
  rw [topTouch_of_topRange _ hrange, hoff]
  rfl

theorem zeroAt_of_top {a o n : Nat} (hloc : s.locate a = .top o) (hrange : topRange o n = true) (hward : s.get WARD_STATUS.STATE = 0) :
    s.zeroAt a n = State.bump { s with topsoil := s.topsoil.zeroed 64 o n } (TOPSOIL_LINES.LINES (o / 2 ^ 37)) (lineCount o n) := by
  have ho : o < 2 ^ 42 := by
    rw [(locate_eq_top_iff.mp hloc).2.2.2]
    exact Nat.mod_lt _ (by decide)
  unfold State.zeroAt
  rw [hloc]
  exact topZero_of_ward_off ho hrange hward

theorem zeroAny_of_top {a o n : Nat} (hloc : s.locate a = .top o) : s.zeroAny a n = s.zeroAt a n := by
  unfold State.zeroAny
  rw [hloc]

theorem exec_vacatedZeroed_of_vacated {addr : W64} {x : Range}
    (hx : (s.harrow.ranges.find? fun r => decide (r.kind = .vacated) && r.addr == addr.toNat) = some x)
    (hwait : s.writeWaits x.addr x.len = false) :
    exec (.vacatedZeroed addr) s = .next (((s.zeroAny x.addr x.len).dropRange .vacated x.addr).reclaimPump) := by
  show execVacatedZeroed addr s = _
  unfold execVacatedZeroed
  rw [hx]
  exact congrArg Host.Outcome.next (if_neg (by rw [hwait]; decide))

/-- What the zeroing of the vacated range at `a` leaves: Topsoil is `mem`, and the range has left the list. -/
structure VacatedZeroed (s : State) (a : Nat) (mem : Mem) (t : State) : Prop where
  topsoil : t.topsoil = mem
  ranges : t.harrow.ranges = s.harrow.ranges.filter fun x => !(decide (x.kind = .vacated) && x.addr == a)
  rest : t = { s with regs := t.regs, topsoil := t.topsoil, harrow := { s.harrow with ranges := t.harrow.ranges } }

theorem vacatedZeroed_of_frame {regs : KMap W64} {mem : Mem} (h : u = { s with regs := regs, topsoil := mem })
    (hnone : s.harrow.reclaims = []) (a : Nat) : VacatedZeroed s a mem (u.dropRange .vacated a).noReclaims.harrowStatus := by
  have hharrow : (u.dropRange .vacated a).noReclaims.harrow = { s.harrow with
      ranges := s.harrow.ranges.filter fun x => !(decide (x.kind = .vacated) && x.addr == a) } := by
    subst h
    exact congrArg (fun l => { s.harrow with
      ranges := s.harrow.ranges.filter fun x => !(decide (x.kind = RangeKind.vacated) && x.addr == a), reclaims := l }) hnone.symm
  have hstatus : (u.dropRange .vacated a).noReclaims.harrowStatus =
      { s with regs := (u.dropRange .vacated a).noReclaims.harrowStatus.regs, topsoil := mem,
               harrow := (u.dropRange .vacated a).noReclaims.harrow } := by
    subst h
    rfl
  generalize (u.dropRange .vacated a).noReclaims.harrowStatus = t at hstatus
  rw [hharrow] at hstatus
  refine ⟨?_, ?_, ?_⟩
  all_goals
    rw [hstatus]

/-- With no grant being reclaimed, the range list is all that the pump shows. -/
theorem reclaimPump_of_zeroed {a n o : Nat} (hloc : s.locate a = .top o) (hnone : s.reclaiming = []) :
    ((s.zeroAny a n).dropRange .vacated a).reclaimPump = ((s.zeroAny a n).dropRange .vacated a).noReclaims.harrowStatus := by
  have hzero : TierWork [.topsoil] [] s (s.zeroAny a n) := by
    rw [zeroAny_of_top hloc, State.zeroAt, hloc]
    exact .topZero (by simp) s o n
  have hdrop : HarrowWork [.topsoil] [] s ((s.zeroAny a n).dropRange .vacated a) := hzero.work.trans (.dropRange _ _ _)
  exact reclaimPump_of_none ((hdrop.sameGrants (by simp)).reclaiming.trans hnone)

end HarrowMove

/-- Settles O23: by the branch that each command takes, and what the steps of that branch leave. -/
theorem harrowMove : Obligations.HarrowMove := by
  unfold Obligations.HarrowMove
  intro s
  refine ⟨?start, ?flip, ?reclaim, ?vacated⟩
  case start =>
    intro pos x code hhold hx hop hcause hcancel hwait i d top hi hv hmoving hlen hlost hfree hplace hroom hrange hbad hfits
    have hread := linesCounted_partReads hrange (by decide) hbad
    have hmay : MayMove s x i d := ⟨hi, hv, hmoving, hlen, hlost, hfree, hplace, hroom, hfits⟩
    have hstart := moveStart_of_mayMove rfl (hmay.read hread) (hread.homes.len _).symm
    have htop : (s.partReads (s.homeOff i) 32 false).chargedTop d = top := chargedTop_congr hread.grants.position d
    have hfits' := (hmay.read hread).fits
    rw [htop, hread.homes.len] at hfits'
    rw [htop] at hstart
    obtain ⟨hcharge, htopsoil, hranges, hstream, horder, ⟨hlit, hdark⟩, hseed⟩ :=
      moveStarted_of_counted hread hx hfits' rfl hstart
    exact ⟨_, exec_streamMove_of_waiting hhold hx hop hcause hcancel hwait, hcharge, htopsoil, hranges, hstream, horder, hlit, hdark, hseed⟩
  case flip =>
    intro index x remote late i hx hnone
    have hflip := flipped_flip (s.updStream { x with flipped := true }) i (streamDst x.desc) true
    have hupd : SameGrants s (s.updStream { x with flipped := true }) :=
      (HarrowWork.updStream (may := []) (l := []) s _).sameGrants (by simp)
    obtain ⟨htopsoil, hranges, hparts⟩ := moveFlipped_of_flipped hflip
    obtain ⟨hlit, hdark⟩ := hparts.planes
    obtain ⟨hseed, hsub⟩ := hparts.tiers (by simp)
    exact ⟨_, exec_moveFlip_of_move hx hnone rfl (hupd.trans hflip.sameGrants), htopsoil, hranges, hlit, hdark, hseed, hsub⟩
  case reclaim =>
    intro index m remote late d k o o' i hnone hsrc hdst hm _ _
    obtain ⟨hvacated, hlate, hlit, hdark⟩ := reclaimFlipped_of_flipped (late := late) (tierWork_reclaimPoked hsrc hdst remote)
      (flipped_flip _ i m.dst false)
    exact ⟨_, exec_moveFlip_of_reclaim remote late hnone hm, hvacated, hlate, hlit, hdark⟩
  case vacated =>
    intro addr x o hx hloc hrange hward hreclaims hnone
    have hzero := (zeroAny_of_top hloc).trans (zeroAt_of_top hloc hrange hward)
    have hframe := hzero.trans (bump_withTopsoil_frame s _ _ _)
    obtain ⟨htopsoil, hranges, hrest⟩ := vacatedZeroed_of_frame hframe hreclaims x.addr
    refine ⟨_, (exec_vacatedZeroed_of_vacated hx (writeWaits_of_ward_off hward _)).trans ?_, htopsoil, hranges, hrest⟩
    rw [reclaimPump_of_zeroed hloc hnone]

end Sys2Proof.Machine
end

section
/-!
PROOFS. The end of a stream and HARROW_CANCEL (R331, R335, R336): the record in its descriptor, the scoreboard, and what shows that
it has left.
-/
namespace Sys2Proof.Machine

section StreamEnds

variable {s t u : State} {l : List Nat} {q late : Bool} {p : Nat} {x : StreamSt}

/-! ### Work on registers and messages alone -/

/-- `t` is `s` but for registers of `l` and packets in the outbox. -/
structure PostsOnly (l : List Nat) (s t : State) : Prop where
  rest : ∃ regs box, t = { s with regs := regs, net := { s.net with outbox := box } }
  regs : SameRegsBut l s t

namespace PostsOnly

theorem refl (s : State) : PostsOnly l s s := ⟨⟨s.regs, s.net.outbox, rfl⟩, .refl l s⟩

theorem trans (h : PostsOnly l s t) (k : PostsOnly l t u) : PostsOnly l s u := by
  refine ⟨?_, fun off hoff => (k.regs off hoff).trans (h.regs off hoff)⟩
  obtain ⟨_, _, rfl⟩ := h.rest
  obtain ⟨_, _, rfl⟩ := k.rest
  exact ⟨_, _, rfl⟩

theorem ite {c : Prop} [Decidable c] (ht : PostsOnly l s t) (hu : PostsOnly l s u) : PostsOnly l s (if c then t else u) := by
  split
  · exact ht
  · exact hu

theorem each {α : Type} {f : State → α → State} {xs : List α} (hf : ∀ s, ∀ x ∈ xs, PostsOnly l s (f s x)) (s : State) :
    PostsOnly l s (s.each xs f) := by
  induction xs generalizing s with
  | nil => exact refl s
  | cons x xs ih => exact (hf s x List.mem_cons_self).trans (ih (fun s y hy => hf s y (List.mem_cons_of_mem x hy)) (f s x))

theorem put (s : State) {f : Fld} (v : Nat) (hf : f.reg ∈ l) : PostsOnly l s (s.put f v) :=
  ⟨⟨_, s.net.outbox, rfl⟩, (SameRegsBut.refl l s).put v hf⟩

theorem send (s : State) (vc kind dst : Nat) (bs : List Byte) : PostsOnly l s (s.send vc kind dst bs) :=
  ⟨⟨s.regs, _, rfl⟩, fun _ _ => rfl⟩

theorem putStatus (s : State) (lo len v : Nat) (hl : statusReg ∈ l) : PostsOnly l s (s.put ⟨statusReg, lo, len⟩ v) := put s v hl

theorem harrowStatus (s : State) (hl : statusReg ∈ l) : PostsOnly l s s.harrowStatus := by
  unfold State.harrowStatus
  exact (((putStatus s _ _ _ hl).trans (putStatus _ _ _ _ hl)).trans (putStatus _ _ _ _ hl)).trans (putStatus _ _ _ _ hl)

theorem advanceHead1 (n : Nat) (s : State) (hl : (HARROW_QPTR.HEAD 1).reg ∈ l) : PostsOnly l s (s.advanceHead1 n) := by
  induction n generalizing s with
  | zero => exact refl s
  | succ n ih => exact (refl s).ite ((put s _ hl).trans (ih _))

theorem releaseGrant (s : State) {k : Nat} (hl : grantReg k ∈ l) : PostsOnly l s (s.releaseGrant k) :=
  ite (((send s ..).trans (put _ _ hl)).trans (put _ _ hl)) (refl s)

theorem grantsRelease (s : State) (hl : ∀ off ∈ grantRegs, off ∈ l) : PostsOnly l s s.grantsRelease := by
  rw [grantsRelease_eq]
  exact each (fun u _ hk => releaseGrant u (hl _ (grantReg_mem (List.mem_range.mp hk)))) s

end PostsOnly

/-! ### What an agent tells (R49, R50) -/

/-- `t` is `s` but for the Field, the tokens that wait for it, and free values drawn. -/
def TellsOnly (s t : State) : Prop := ∃ field moe free, t = { s with field := field, moe := moe, freeCtr := free }

namespace TellsOnly

theorem refl (s : State) : TellsOnly s s := ⟨s.field, s.moe, s.freeCtr, rfl⟩

theorem trans (h : TellsOnly s t) (k : TellsOnly t u) : TellsOnly s u := by
  obtain ⟨_, _, _, rfl⟩ := h
  obtain ⟨_, _, _, rfl⟩ := k
  exact ⟨_, _, _, rfl⟩

theorem each {α : Type} {f : State → α → State} (hf : ∀ s x, TellsOnly s (f s x)) (xs : List α) (s : State) :
    TellsOnly s (s.each xs f) := by
  induction xs generalizing s with
  | nil => exact refl s
  | cons x xs ih => exact (hf s x).trans (ih (f s x))

theorem foldl_fst {α β : Type} {f : State × β → α → State × β} (hf : ∀ a x, TellsOnly a.1 (f a x).1) (xs : List α) (a : State × β) :
    TellsOnly a.1 (xs.foldl f a).1 := by
  induction xs generalizing a with
  | nil => exact refl a.1
  | cons x xs ih => exact (hf a x).trans (ih (f a x))

theorem push (s : State) (k : QId) (tok : Token) : TellsOnly s (s.push k tok) := ⟨_, s.moe, s.freeCtr, rfl⟩

theorem withMoe (s : State) (m : MoeSt) : TellsOnly s { s with moe := m } := ⟨s.field, m, s.freeCtr, rfl⟩

theorem agentPump (s : State) : TellsOnly s s.agentPump := by
  have hpush (k : QId) (ts : List Token) (u : State) : TellsOnly u (u.each ts fun s tok => s.push k tok) :=
    each (fun v tok => push v k tok) ts u
  unfold State.agentPump
  exact (foldl_fst (fun a e => hpush e.1 _ a.1) s.moe.agentOut (s, [])).trans (withMoe _ _)

theorem agentTell (s : State) (a : Nat) : TellsOnly s (s.agentTell a) := by
  have hdrawn (u : State) : TellsOnly u u.drawn := ⟨u.field, u.moe, _, rfl⟩
  unfold State.agentTell
  dsimp only
  split
  · exact refl s
  · exact (each (fun u k => (withMoe u _).trans (agentPump _)) _ s).trans (hdrawn _)

end TellsOnly

/-! ### The end of a stream (R336) -/

/-- A late stream counts. -/
def State.lateStream (s : State) (x : StreamSt) (late : Bool) : State :=
  if late && streamDl x.desc != 2 ^ 48 - 1 then s.bump HARROW_LATE.LATE 1 else s

/-- The streams without `x`, which was at a position of queue `q`. -/
def streamsWithout (xs : List StreamSt) (q : Bool) (x : StreamSt) : List StreamSt :=
  xs.filter fun y => !(y.queue1 == q && y.pos == x.pos)

/-- Stream `x` of queue `q` is over: neither the streams nor the scoreboard hold it. -/
def State.streamOver (s : State) (q : Bool) (x : StreamSt) : State :=
  State.boardRetire { s with harrow := { s.harrow with streams := streamsWithout s.harrow.streams q x } } (.stream q x.pos)

/-- What is told of streams that are over: the head of queue 1, HARROW_STATUS, the grants that they held, and the agent's report. -/
def State.streamsTold (s : State) (n : Nat) : State := (((s.advanceHead1 n).harrowStatus).grantsRelease).agentTell 2

/-- A stream that ends well and names a tag sets it. -/
def State.streamTagged (s : State) (x : StreamSt) : State :=
  if streamSt x = 1 ∧ bitOf (x.desc.getD 0 0) 15 then s.setTag (bitsOf (x.desc.getD 0 0) 16 7) else s

theorem exec_harrowStreamComplete_of_ended {pos : BitVec 16} (hx : s.stream q pos.toNat = some x) (hended : s.streamEnded x = true) :
    exec (.harrowStreamComplete q pos late) s =
      .next (((((s.topPutWord (s.streamOff (bit q) x.pos + 56) (streamSt x)).streamTagged x).lateStream x late).streamOver q x).streamsTold
        65536) := by
  have hgo : ¬ ((!s.streamEnded x) = true) := by rw [hended]; decide
  show execHarrowStreamComplete q pos late s = _
  unfold execHarrowStreamComplete
  rw [hx]
  exact if_neg hgo

theorem streamTagged_of_none (s : State) (htag : bitOf (x.desc.getD 0 0) 15 = false) : s.streamTagged x = s := by
  refine if_neg fun h => ?_
  rw [htag] at h
  exact absurd h.2 (by decide)

theorem exec_harrowStreamComplete_of_open {pos : BitVec 16} (hx : s.stream q pos.toNat = some x) (hopen : s.streamEnded x = false) :
    exec (.harrowStreamComplete q pos late) s = .next s := by
  show execHarrowStreamComplete q pos late s = _
  unfold execHarrowStreamComplete
  rw [hx]
  exact if_pos (by simp [hopen])

/-- The registers that show streams that are over. -/
def toldRegs : List Nat := (HARROW_QPTR.HEAD 1).reg :: statusReg :: grantRegs

theorem streamsTold_frame (s : State) (n : Nat) : SameRegsBut toldRegs s (s.streamsTold n) ∧
    ∃ regs box field moe free, s.streamsTold n =
      { s with regs := regs, net := { s.net with outbox := box }, field := field, moe := moe, freeCtr := free } := by
  have hposts : PostsOnly toldRegs s ((s.advanceHead1 n).harrowStatus).grantsRelease :=
    ((PostsOnly.advanceHead1 n s (by simp [toldRegs])).trans (.harrowStatus _ (by simp [toldRegs]))).trans
      (.grantsRelease _ fun off hoff => by simp [toldRegs, hoff])
  have htells := TellsOnly.agentTell ((s.advanceHead1 n).harrowStatus).grantsRelease 2
  rw [State.streamsTold]
  generalize ((s.advanceHead1 n).harrowStatus).grantsRelease = t at hposts htells
  obtain ⟨field, moe, free, htells⟩ := htells
  obtain ⟨regs, box, hrest⟩ := hposts.rest
  rw [htells]
  refine ⟨hposts.regs, regs, box, field, moe, free, ?_⟩
  rw [hrest]

theorem streamOver_frame (s : State) (q : Bool) (x : StreamSt) : s.streamOver q x =
    { s with regs := (s.streamOver q x).regs, sched := (s.streamOver q x).sched,
             harrow := { s.harrow with streams := streamsWithout s.harrow.streams q x } } :=
  boardRetire_frame { s with harrow := { s.harrow with streams := streamsWithout s.harrow.streams q x } } _

theorem lateStream_frame (s : State) (x : StreamSt) (late : Bool) : s.lateStream x late = { s with regs := (s.lateStream x late).regs } := by
  unfold State.lateStream
  split <;> rfl

theorem get_lateStream (s : State) (x : StreamSt) (late : Bool) : (s.lateStream x late).get HARROW_LATE.LATE =
    if late = true ∧ streamDl x.desc ≠ 2 ^ 48 - 1 then min (2 ^ 32 - 1) (s.get HARROW_LATE.LATE + 1) else s.get HARROW_LATE.LATE := by
  unfold State.lateStream
  by_cases h : late = true ∧ streamDl x.desc ≠ 2 ^ 48 - 1
  · rw [if_pos h, if_pos (by simpa using h)]
    exact get_bump_self s 1 (by decide)
  · rw [if_neg h, if_neg (by simpa using h)]

theorem get_streamOver (s : State) (q : Bool) (x : StreamSt) : (s.streamOver q x).get HARROW_LATE.LATE = s.get HARROW_LATE.LATE :=
  get_boardRetire _ _ (by decide)

/-- What the end of stream `x` of queue `q` leaves, its record being written in `s`. -/
structure StreamClosed (s : State) (q late : Bool) (x : StreamSt) (t : State) : Prop where
  harrow : t.harrow = { s.harrow with streams := streamsWithout s.harrow.streams q x }
  late : t.get HARROW_LATE.LATE =
    if late = true ∧ streamDl x.desc ≠ 2 ^ 48 - 1 then min (2 ^ 32 - 1) (s.get HARROW_LATE.LATE + 1) else s.get HARROW_LATE.LATE
  held : t.boardHeld (.stream q x.pos) = false
  memory : t.topsoil = s.topsoil ∧ t.lit = s.lit ∧ t.dark = s.dark ∧ t.seedbed = s.seedbed ∧ t.subsoil = s.subsoil

theorem streamClosed_of_told (s : State) (q late : Bool) (x : StreamSt) (n : Nat) :
    StreamClosed s q late x (((s.lateStream x late).streamOver q x).streamsTold n) := by
  have hlate := get_lateStream s x late
  have hframe := lateStream_frame s x late
  generalize s.lateStream x late = u at hlate hframe
  have hover := get_streamOver u q x
  have hoverFrame := streamOver_frame u q x
  have hheld : (u.streamOver q x).boardHeld (.stream q x.pos) = false := boardHeld_boardRetire _ _
  generalize u.streamOver q x = v at hover hoverFrame hheld
  obtain ⟨htold, regs, box, field, moe, free, htoldFrame⟩ := streamsTold_frame v n
  generalize v.streamsTold n = t at htold htoldFrame
  refine ⟨?_, (htold.get_eq (by decide)).trans (hover.trans hlate), ?_, ?_⟩
  · rw [htoldFrame, hoverFrame, hframe]
  · rw [htoldFrame]
    exact hheld
  · rw [htoldFrame, hoverFrame, hframe]
    exact ⟨rfl, rfl, rfl, rfl, rfl⟩

/-! ### HARROW_CANCEL (R335) -/

theorem exec_harrowCancel_of_takes {src : Source} {pos : BitVec 16} (h : Takes s src 0x80000 1) :
    exec (.harrowCancel src pos) s = .next (s.harrowCancel pos.toNat) := congrArg Host.Outcome.next (ctlWrite_of_takes h _ _)

theorem harrowCancel_of_none (h : s.stream true p = none) : s.harrowCancel p =
    if posIn (s.get (HARROW_QPTR.ISSUE 1)) (s.get (HARROW_QPTR.TAIL 1)) p then s.topPutWord (s.streamOff 1 p + 56) 2 else s := by
  unfold State.harrowCancel
  rw [h]

/-- Stream `y` is cancelled: its scoreboard entry retires. -/
def State.streamStopped (s : State) (y : StreamSt) (p : Nat) : State := ((s.updStream y).boardRetire (.stream true p)).harrowStatus

theorem harrowCancel_of_issued (h : s.stream true p = some x) (hcause : x.cause = 0) (hflip : x.flipped = false)
    (hcancel : x.cancelled = false) (hop : streamOp x.desc ≠ 2) :
    s.harrowCancel p = s.streamStopped { x with cancelled := true } p := by
  have hopen : ¬ (x.cause ≠ 0 ∨ x.flipped = true ∨ x.cancelled = true) := by simp [hcause, hflip, hcancel]
  unfold State.harrowCancel
  rw [h]
  dsimp only
  rw [if_neg hopen, if_neg hop]
  rfl

theorem harrowStatus_frame (s : State) : ∃ regs, s.harrowStatus = { s with regs := regs } := ⟨_, rfl⟩

theorem streamStopped_frame (s : State) (y : StreamSt) (p : Nat) : s.streamStopped y p =
    { s with regs := (s.streamStopped y p).regs, sched := (s.streamStopped y p).sched,
             harrow := { s.harrow with streams := (s.streamStopped y p).harrow.streams } } := by
  have hretire := boardRetire_frame (s.updStream y) (.stream true p)
  obtain ⟨regs, hstatus⟩ := harrowStatus_frame ((s.updStream y).boardRetire (.stream true p))
  unfold State.streamStopped
  rw [hstatus]
  generalize (s.updStream y).boardRetire (.stream true p) = u at hretire
  rw [hretire]
  rfl

theorem stream_streamStopped (s : State) (y : StreamSt) (p : Nat) : (s.streamStopped y p).stream q p = (s.updStream y).stream q p := by
  obtain ⟨regs, hstatus⟩ := harrowStatus_frame ((s.updStream y).boardRetire (.stream true p))
  rw [State.streamStopped, hstatus, boardRetire_frame]
  rfl

theorem boardHeld_streamStopped (s : State) (y : StreamSt) (p : Nat) : (s.streamStopped y p).boardHeld (.stream true p) = false := by
  obtain ⟨regs, hstatus⟩ := harrowStatus_frame ((s.updStream y).boardRetire (.stream true p))
  rw [State.streamStopped, hstatus]
  exact boardHeld_boardRetire (s.updStream y) (.stream true p)

end StreamEnds

/-- Settles O24: by whether the stream has ended, and by where the cancelled position lies. -/
theorem streamEnds : Obligations.StreamEnds := by
  unfold Obligations.StreamEnds
  intro s pos
  refine ⟨fun q late x hx hended htag => ?ended, fun q late x hx hopen => exec_harrowStreamComplete_of_open hx hopen,
    fun src htakes hnone => ?waiting, fun src x htakes hx hcause hflip hcancel hop => ?issued⟩
  case ended =>
    have hword : TierWork [.topsoil] [] s (s.topPutWord (s.streamOff (bit q) x.pos + 56) (streamSt x)) := .topPutWord (by simp) s _ _
    have hexec := exec_harrowStreamComplete_of_ended (late := late) hx hended
    rw [streamTagged_of_none _ htag] at hexec
    generalize s.topPutWord (s.streamOff (bit q) x.pos + 56) (streamSt x) = w at hword hexec
    obtain ⟨hharrow, hlate, hheld, htop, hlit, hdark, hseed, hsub⟩ := streamClosed_of_told w q late x 65536
    obtain ⟨hlit', hdark'⟩ := hword.step.planes
    obtain ⟨hseed', hsub'⟩ := hword.step.tiers (by simp)
    rw [hword.harrow] at hharrow
    rw [hword.get_eq (by decide) (by simp)] at hlate
    exact ⟨_, hexec, htop, hharrow, hlate, hheld, hlit.trans hlit', hdark.trans hdark', hseed.trans hseed', hsub.trans hsub'⟩
  case waiting =>
    rw [exec_harrowCancel_of_takes htakes, harrowCancel_of_none hnone]
    exact ⟨fun hin => congrArg Host.Outcome.next (if_pos hin),
      fun hout => congrArg Host.Outcome.next (if_neg (Bool.eq_false_iff.mp hout))⟩
  case issued =>
    obtain ⟨hqueue, hpos⟩ := stream_eq_some hx
    rw [exec_harrowCancel_of_takes htakes, harrowCancel_of_issued hx hcause hflip hcancel hop]
    refine ⟨_, rfl, ?_, ?_, streamStopped_frame s _ _⟩
    · exact (stream_streamStopped s _ _).trans (stream_updStream hx hqueue hpos)
    · rw [hpos]
      exact boardHeld_streamStopped s _ _

end Sys2Proof.Machine
end

section
/-!
PROOFS. Commons grants: what a zeroed range reads as, the messages of START, reclaim at the borrower, and the end of a grant on either
side (R322 to R326).
-/
namespace Sys2Proof.Machine

/-! ### Zeroed ranges (R466) -/

/-- A zero stored in a sound granule stays there while zeros are stored after it. -/
theorem Mem.stored_pokes_zeros (gran j : Nat) (n : Nat) :
    ∀ (m : Mem) (a : Nat), m.isBad (j / gran) = false → a ≤ j → j < a + n → (m.pokes gran a (List.replicate n 0)).stored j = 0 := by
  induction n with
  | zero => intro m a _ _ _; omega
  | succ n ih =>
    intro m a hsound hlo hhi
    rw [List.replicate_succ, Mem.pokes]
    rcases Nat.eq_or_lt_of_le hlo with rfl | hlt
    · rw [if_neg (Bool.eq_false_iff.mp hsound), Mem.stored_pokes_out _ _ _ _ _ (.inl (by omega)), Mem.stored_poke_self]
    · refine ih _ (a + 1) ?_ hlt (by omega)
      split
      · exact hsound
      · exact (Mem.isBad_poke m a 0 _).trans hsound

theorem Mem.byte_zeroed_in (m : Mem) {gran a n j : Nat} (hlo : a ≤ j) (hhi : j < a + n) : (m.zeroed gran a n).byte gran j = 0 := by
  unfold Mem.zeroed
  split
  · next hepoch =>
    have hstored : Mem.stored { (m.heal gran a n) with cells := KMap.clear m.cells a n } j = 0 := by
      rw [Mem.stored, KMap.get_clear, if_pos ⟨hlo, hhi⟩]
      exact if_pos ((Mem.epoch_heal m gran a n).trans hepoch)
    rw [Mem.byte, hstored, ite_self]
  · rw [Mem.byte, Mem.write, Mem.isBad_pokes, List.length_replicate]
    split
    · rfl
    · next hsound => exact Mem.stored_pokes_zeros gran j n _ a (Bool.eq_false_iff.mpr hsound) hlo hhi

theorem Mem.byte_zeroed_out (m : Mem) {gran a n j : Nat} (hgran : 0 < gran) (h : j < a ∨ a + n ≤ j) :
    (m.zeroed gran a n).byte gran j = m.byte gran j := by
  unfold Mem.zeroed
  split
  · have hbad := (Mem.healFold_out gran a n j (List.range (n / gran + 2)) h hgran m).2
    rw [← Mem.heal_eq] at hbad
    have hstored : Mem.stored { (m.heal gran a n) with cells := KMap.clear m.cells a n } j = m.stored j := by
      rw [Mem.stored, Mem.stored, KMap.get_clear, if_neg (by omega), Mem.epoch_heal]
    rw [Mem.byte, Mem.byte, hstored]
    exact congrArg (fun b => if b = true then 0 else m.stored j) hbad
  · exact Mem.byte_write_out m hgran a j _ (by rwa [List.length_replicate])

section Grants

variable {s t u : State} {may : List StepPart} {l : List Nat} {k j : Nat}

/-! ### One grant's registers -/

theorem grantReg_injective (h : grantReg j = grantReg k) : j = k := by
  unfold grantReg at h
  omega

/-- A grant found for a message is one of the eight. -/
theorem grantOf_eq_some {lender : Bool} {h : MsgHdr} {base len : W64} {lt : Bool} (hk : s.grantOf lender h base len lt = some k) :
    k < 8 ∧ (lender = false → s.isBorrower k = true) := by
  refine ⟨List.mem_range.mp (List.mem_of_find?_eq_some hk), ?_⟩
  rintro rfl
  have hfound := List.find?_some hk
  simp only [Bool.and_eq_true] at hfound
  exact hfound.1.1

theorem isBorrower_putState (s : State) (k v : Nat) : (s.put (TIER_GNT_A.STATE k) v).isBorrower k = s.isBorrower k := by
  have hget (lo len : Nat) (h : lo + len ≤ 3) : (s.put (TIER_GNT_A.STATE k) v).get ⟨grantReg k, lo, len⟩ = s.get ⟨grantReg k, lo, len⟩ :=
    get_put_ne _ _ (.inr (.inl h))
  simp only [State.isBorrower, State.flag, hget 0 1 (by omega), hget 1 1 (by omega)]

theorem inGrant_putState (s : State) (k v x : Nat) : (s.put (TIER_GNT_A.STATE k) v).inGrant k x = s.inGrant k x := by
  have hltier : (s.put (TIER_GNT_A.STATE k) v).get (TIER_GNT_A.LTIER k) = s.get (TIER_GNT_A.LTIER k) := get_put_ne _ _ (by simp)
  have hpeer : (s.put (TIER_GNT_A.STATE k) v).get (TIER_GNT_A.PEER k) = s.get (TIER_GNT_A.PEER k) := get_put_ne _ _ (by simp)
  have hlen : (s.put (TIER_GNT_A.STATE k) v).get (TIER_GNT_A.LEN k) = s.get (TIER_GNT_A.LEN k) := get_put_ne _ _ (by simp)
  have hbase : (s.put (TIER_GNT_A.STATE k) v).get (TIER_GNT_B.BASE k) = s.get (TIER_GNT_B.BASE k) :=
    get_put_ne _ _ (.inl (by simp only; omega))
  have hrack : (s.put (TIER_GNT_A.STATE k) v).get ROUTE_SELF.RACK = s.get ROUTE_SELF.RACK :=
    get_put_ne _ _ (.inl (by simp only; omega))
  simp only [State.inGrant, State.grantAddr, State.grantLen, State.grantPeer, State.chipAt, State.flag, hltier, hpeer, hlen, hbase, hrack]
  rfl

/-! ### START (R324) -/

/-- The active lender grants. -/
def State.activeLenders (s : State) : List Nat := (List.range 8).filter fun k => s.isLender k && s.get (TIER_GNT_A.STATE k) == 1

/-- The borrower of lender grant `k` is asked for its range. -/
def State.askBack (s : State) (k : Nat) : State := (s.put (TIER_GNT_A.STATE k) 2).send 3 0x0401 (s.grantPeer k) (s.grantMsg k)

/-- A reclaim of the grants `ks` runs. -/
def State.reclaimBusy (s : State) (ks : List Nat) : State := if ks.isEmpty then s else s.put TIER_RECLAIM.BUSY 1

theorem reclaimWrite_of_start {val : W64} (hval : bitOf val 0 = true) : s.reclaimWrite val =
    ((s.store 0x90018 val).reclaimBusy (s.store 0x90018 val).activeLenders).each (s.store 0x90018 val).activeLenders State.askBack :=
  if_neg (by rw [hval]; decide)

theorem exec_reclaimStart_of_takes {src : Source} {val : W64} (h : Takes s src 0x90018 2) :
    exec (.reclaimStart src val) s = .next (s.reclaimWrite val) := congrArg Host.Outcome.next (ctlWrite_of_takes h _ _)

theorem postsOnly_store (s : State) (off : Nat) (val : W64) : PostsOnly [off] s (s.store off val) := by
  unfold State.store State.storeFields
  split
  · exact .refl s
  · exact ⟨⟨_, s.net.outbox, rfl⟩, fun j hj => reg_setReg_ne s _ (by simpa using hj)⟩

theorem PostsOnly.sameGrants (h : PostsOnly l s t) (hl : ∀ off ∈ l, off < 0x90200) : SameGrants s t := by
  have hreg (off : Nat) (hoff : 0x90200 ≤ off) : t.reg off = s.reg off :=
    h.regs off fun hmem => by have := hl off hmem; omega
  exact ⟨hreg _ (by decide), fun k _ => hreg _ (by omega), fun k _ => hreg _ (by omega)⟩

theorem PostsOnly.mono {m : List Nat} (h : PostsOnly l s t) (hlm : ∀ off ∈ l, off ∈ m) : PostsOnly m s t :=
  ⟨h.rest, h.regs.mono hlm⟩

theorem postsOnly_askBack (s : State) (k : Nat) : PostsOnly [grantReg k] s (s.askBack k) :=
  (PostsOnly.put s 2 (by simp)).trans (.send _ ..)

/-- What asking for the ranges of `ks` leaves. -/
structure AskedBack (ks : List Nat) (s t : State) : Prop where
  posts : PostsOnly (ks.map grantReg) s t
  asked : ∀ k ∈ ks, t.get (TIER_GNT_A.STATE k) = 2
  messages : t.net.outbox.length = s.net.outbox.length + ks.length

theorem askedBack_each (ks : List Nat) (s : State) : AskedBack ks s (s.each ks State.askBack) := by
  induction ks generalizing s with
  | nil => exact ⟨.refl s, fun _ hk => absurd hk List.not_mem_nil, rfl⟩
  | cons k ks ih =>
    obtain ⟨hposts, hasked, hmessages⟩ := ih (s.askBack k)
    refine ⟨((postsOnly_askBack s k).mono (by simp)).trans (hposts.mono (by simp +contextual)), fun j hj => ?_, hmessages.trans ?_⟩
    · by_cases hlater : j ∈ ks
      · exact hasked j hlater
      · obtain rfl : j = k := (List.mem_cons.mp hj).resolve_right hlater
        have hkept : grantReg j ∉ ks.map grantReg := fun h => by
          obtain ⟨x, hx, hreg⟩ := List.mem_map.mp h
          exact hlater (grantReg_injective hreg ▸ hx)
        exact (hposts.regs.get_eq (f := TIER_GNT_A.STATE j) hkept).trans (get_put_self s 2 (by decide : 3 + 2 ≤ 64))
    · have hone : (s.askBack k).net.outbox.length = s.net.outbox.length + 1 := List.length_append
      rw [hone, List.length_cons]
      omega

theorem postsOnly_reclaimBusy (s : State) (ks : List Nat) : PostsOnly [TIER_RECLAIM.BUSY.reg] s (s.reclaimBusy ks) :=
  (PostsOnly.refl s).ite (.put s 1 (by simp))

theorem net_store (s : State) (off : Nat) (val : W64) : (s.store off val).net = s.net := by
  unfold State.store State.storeFields
  split
  · rfl
  · rfl

theorem net_reclaimBusy (s : State) (ks : List Nat) : (s.reclaimBusy ks).net = s.net := by
  unfold State.reclaimBusy
  split
  · rfl
  · rfl

/-- What START leaves (R324). -/
structure ReclaimStarted (s t : State) : Prop where
  asked : ∀ j, j < 8 → s.isLender j = true → s.get (TIER_GNT_A.STATE j) = 1 →
    t.get (TIER_GNT_A.STATE j) = 2 ∧ t.get TIER_RECLAIM.BUSY = 1
  others : ∀ j, j < 8 → ¬ (s.isLender j = true ∧ s.get (TIER_GNT_A.STATE j) = 1) → t.reg (grantReg j) = s.reg (grantReg j)
  messages : t.net.outbox.length = s.net.outbox.length + s.activeLenders.length
  rest : t = { s with regs := t.regs, net := { s.net with outbox := t.net.outbox } }

theorem mem_activeLenders : k ∈ s.activeLenders ↔ k < 8 ∧ s.isLender k = true ∧ s.get (TIER_GNT_A.STATE k) = 1 := by
  simp [State.activeLenders]

theorem SameGrants.activeLenders (h : SameGrants s t) : t.activeLenders = s.activeLenders := by
  refine List.filter_congr fun k hk => ?_
  rw [h.isLender (List.mem_range.mp hk), h.get_a (List.mem_range.mp hk)]

theorem busy_not_grantReg (ks : List Nat) : TIER_RECLAIM.BUSY.reg ∉ ks.map grantReg := fun h => by
  obtain ⟨x, -, hreg⟩ := List.mem_map.mp h
  simp only [grantReg] at hreg
  omega

theorem reclaimStarted_reclaimWrite {val : W64} (hval : bitOf val 0 = true) : ReclaimStarted s (s.reclaimWrite val) := by
  have hstore := postsOnly_store s 0x90018 val
  have hactive := (hstore.sameGrants (by simp)).activeLenders
  have hbusy := postsOnly_reclaimBusy (s.store 0x90018 val) s.activeLenders
  rw [reclaimWrite_of_start hval, hactive]
  have hset (h : s.activeLenders ≠ []) : ((s.store 0x90018 val).reclaimBusy s.activeLenders).get TIER_RECLAIM.BUSY = 1 := by
    rw [State.reclaimBusy, if_neg (by simpa using h)]
    exact get_put_self _ 1 (by decide)
  have hbefore : PostsOnly [0x90018] s ((s.store 0x90018 val).reclaimBusy s.activeLenders) := hstore.trans hbusy
  have hbox : ((s.store 0x90018 val).reclaimBusy s.activeLenders).net.outbox = s.net.outbox := by
    rw [net_reclaimBusy, net_store]
  generalize (s.store 0x90018 val).reclaimBusy s.activeLenders = u at hset hbefore hbox
  obtain ⟨hposts, hasked, hmessages⟩ := askedBack_each s.activeLenders u
  refine ⟨fun j hj hlender hstate => ?_, fun j hj hother => ?_, hmessages.trans (by rw [hbox]), ?_⟩
  · have hmem : j ∈ s.activeLenders := mem_activeLenders.mpr ⟨hj, hlender, hstate⟩
    exact ⟨hasked j hmem, (hposts.regs.get_eq (busy_not_grantReg _)).trans (hset (List.ne_nil_of_mem hmem))⟩
  · have hkept : grantReg j ∉ s.activeLenders.map grantReg := fun h => by
      obtain ⟨x, hx, hreg⟩ := List.mem_map.mp h
      exact hother (mem_activeLenders.mp (grantReg_injective hreg ▸ hx)).2
    exact (hposts.regs _ hkept).trans (hbefore.regs _ (by simp only [List.mem_singleton, grantReg]; omega))
  · obtain ⟨regs, box, hrest⟩ := (hbefore.mono (m := 0x90018 :: s.activeLenders.map grantReg) (by simp)).trans
      (hposts.mono (by simp +contextual)) |>.rest
    rw [hrest]

/-! ### RECLAIM at the borrower (R324) -/

/-- A move of entry `i` out of grant `k` is needed. -/
def State.MustMove (s : State) (i k : Nat) : Prop := ∃ m ∈ s.harrow.reclaims, m.index = i ∧ m.grant = k

theorem mustMove_congr {i : Nat} (h : t.harrow = s.harrow) (hm : s.MustMove i k) : t.MustMove i k := by
  obtain ⟨m, hmem, hindex, hgrant⟩ := hm
  exact ⟨m, by rw [h]; exact hmem, hindex, hgrant⟩

/-- An object that lies in a grant that is reclaimed must move. -/
theorem mustMove_withReclaims {i : Nat} (hk : k ∈ s.reclaiming) (hi : i ∈ s.homesIn k) : s.withReclaims.MustMove i k := by
  have hmove : ∃ m ∈ s.reclaimsOf k, m.index = i ∧ m.grant = k := by
    unfold State.reclaimsOf
    by_cases hbegun : (s.harrow.reclaims.filter fun m => m.grant == k && m.started).any (fun m => m.index == i) = true
    · obtain ⟨m, hm, hindex⟩ := List.any_eq_true.mp hbegun
      have hgrant := (List.mem_filter.mp hm).2
      simp only [Bool.and_eq_true, beq_iff_eq] at hgrant hindex
      exact ⟨m, List.mem_append_left _ hm, hindex, hgrant.1⟩
    · refine ⟨_, List.mem_append_right _ (List.mem_map.mpr ⟨i, List.mem_filter.mpr ⟨hi, ?_⟩, rfl⟩), rfl, rfl⟩
      simpa using hbegun
  obtain ⟨m, hm, hindex, hgrant⟩ := hmove
  exact ⟨m, List.mem_flatMap.mpr ⟨k, hk, hm⟩, hindex, hgrant⟩

theorem mustMove_startReclaim {i : Nat} (m : ReclaimMove) (h : s.MustMove i k) : (s.startReclaim m).MustMove i k := by
  unfold State.startReclaim
  split
  · exact h
  · have hflag := (TierWork.homeFlag (may := [.topsoil]) (l := []) (by simp) s m.index 1 1).harrow
    obtain ⟨x, hx, hindex, hgrant⟩ := mustMove_congr hflag h
    refine ⟨_, List.mem_map.mpr ⟨x, hx, rfl⟩, ?_, ?_⟩
    · split <;> exact hindex
    · split <;> exact hgrant

theorem mustMove_reclaimPump {i : Nat} (hk : k ∈ s.reclaiming) (hi : i ∈ s.homesIn k) : s.reclaimPump.MustMove i k := by
  have heach (ms : List ReclaimMove) (u : State) (hu : u.MustMove i k) : (u.each ms State.startReclaim).MustMove i k := by
    induction ms generalizing u with
    | nil => exact hu
    | cons m ms ih => exact ih _ (mustMove_startReclaim m hu)
  rw [reclaimPump_eq]
  exact mustMove_congr (TierWork.harrowStatus (may := []) (l := [statusReg]) _ (by simp)).harrow (heach _ _ (mustMove_withReclaims hk hi))

/-- A grant out of which an object must still move is not released. -/
theorem releaseGrant_of_mustMove {i : Nat} (h : s.MustMove i k) : s.releaseGrant k = s := by
  obtain ⟨m, hm, -, hgrant⟩ := h
  refine if_neg fun hcond => ?_
  simp only [Bool.and_eq_true] at hcond
  obtain ⟨⟨⟨-, hnone⟩, -⟩, -⟩ := hcond
  have hany : (s.harrow.reclaims.any fun m => m.grant == k) = true := List.any_eq_true.mpr ⟨m, hm, by simp [hgrant]⟩
  rw [hany] at hnone
  exact absurd hnone (by decide)

theorem reg_grantsRelease_of_mustMove {i : Nat} (h : s.MustMove i k) : s.grantsRelease.reg (grantReg k) = s.reg (grantReg k) := by
  have heach (ks : List Nat) (hks : ∀ j ∈ ks, j < 8) (u : State) (hu : u.MustMove i k) :
      (u.each ks State.releaseGrant).reg (grantReg k) = u.reg (grantReg k) := by
    induction ks generalizing u with
    | nil => rfl
    | cons j ks ih =>
      have hj : j < 8 := hks j List.mem_cons_self
      have hwork : TierWork [] [grantReg j] u (u.releaseGrant j) := .releaseGrant u hj (by simp)
      refine (ih (fun x hx => hks x (List.mem_cons_of_mem j hx)) _ (mustMove_congr hwork.harrow hu)).trans ?_
      by_cases hjk : j = k
      · rw [hjk, releaseGrant_of_mustMove hu]
      · have hposts : PostsOnly [grantReg j] u (u.releaseGrant j) := .releaseGrant u (by simp)
        exact hposts.regs _ fun hmem => hjk (grantReg_injective (List.mem_singleton.mp hmem)).symm
  rw [grantsRelease_eq]
  exact heach _ (fun j hj => List.mem_range.mp hj) s h

/-- Grant `k` is being reclaimed, and that is recorded. -/
def State.reclaimAsked (s : State) (k : Nat) : State := (s.put (TIER_GNT_A.STATE k) 2).put TIER_ERR.RECLAIM 1

/-- The home table is read whole. -/
def State.homesRead (s : State) : State := s.partReads (s.homeOff 0) (32 * s.homeCount) false

theorem exec_reclaim_of_active {h : MsgHdr} {base len : W64} {lt : Bool} (hk : s.grantOf false h base len lt = some k)
    (hstate : s.get (TIER_GNT_A.STATE k) = 1) : exec (.reclaim h base len lt) s =
      .next (((s.reclaimAsked k).homesRead.reclaimPump).grantsRelease) := by
  show execReclaim h base len lt s = _
  unfold execReclaim
  rw [hk]
  exact if_neg (by simp [hstate])

/-- What RECLAIM leaves of grant `k`, entry `i` lying in it. -/
structure Reclaimed (s : State) (i k : Nat) (t : State) : Prop where
  state : t.get (TIER_GNT_A.STATE k) = 2
  recorded : t.get TIER_ERR.RECLAIM = 1
  move : t.MustMove i k
  memory : t.lit = s.lit ∧ t.dark = s.dark ∧ t.seedbed = s.seedbed

theorem reclaimed_of_active {i : Nat} (hk : k < 8) (hborrower : s.isBorrower k = true)
    (hbad : s.topsoil.badIn 64 (s.homeOff 0) (32 * s.homeCount) = []) (hi : i ∈ s.homesIn k) :
    Reclaimed s i k (((s.reclaimAsked k).homesRead.reclaimPump).grantsRelease) := by
  have hput : TierWork [] [grantReg k] s (s.put (TIER_GNT_A.STATE k) 2) := .putGrant s hk _ _ _ (by simp)
  have hrecord : TierWork [] [0x90020] (s.put (TIER_GNT_A.STATE k) 2) (s.reclaimAsked k) := .put _ 1 (by decide) (.inr (by simp))
  have hstate : (s.reclaimAsked k).get (TIER_GNT_A.STATE k) = 2 :=
    (get_put_ne _ _ (.inl (by simp only; omega))).trans (get_put_self s 2 (by decide : 3 + 2 ≤ 64))
  have hrecorded : (s.reclaimAsked k).get TIER_ERR.RECLAIM = 1 := get_put_self _ 1 (by decide)
  have hgrants : SameGrants (s.put (TIER_GNT_A.STATE k) 2) (s.reclaimAsked k) := hrecord.work.sameGrants (by simp)
  have hborrower' : (s.reclaimAsked k).isBorrower k = true :=
    (hgrants.isBorrower hk).trans ((isBorrower_putState s k 2).trans hborrower)
  have hin (x : Nat) : (s.reclaimAsked k).inGrant k x = s.inGrant k x := (hgrants.inGrant hk x).trans (inGrant_putState s k 2 x)
  have hhomes : SameHomes s (s.reclaimAsked k) :=
    (hput.sameHomes (by simp) (by simp only [List.mem_singleton, grantReg]; omega)).trans (hrecord.sameHomes (by simp) (by decide))
  have hwork : HarrowWork [] [grantReg k, 0x90020] s (s.reclaimAsked k) :=
    (hput.work.mono (by simp)).trans (hrecord.work.mono (by simp))
  generalize s.reclaimAsked k = u at hstate hrecorded hborrower' hin hhomes hwork
  have hoff : u.homeOff 0 < 2 ^ 42 := by
    have hbase : u.get TIER_HOME.BASE < 2 ^ 30 := get_lt u _
    simp only [State.homeOff]
    omega
  rw [State.homesRead, partReads_of_sound hoff (by rw [hhomes.off, hhomes.count, hhomes.topsoil]; exact hbad) false]
  have htouch : TierWork [] [] u (u.topTouch (u.homeOff 0) (32 * u.homeCount)) := .topTouch u _ _
  generalize u.topTouch (u.homeOff 0) (32 * u.homeCount) = r at htouch
  have hsame : SameGrants u r := htouch.work.sameGrants (by simp)
  have hread : SameHomes s r := hhomes.trans (htouch.sameHomes (by simp) (by simp))
  have hreclaiming : k ∈ r.reclaiming := by
    refine List.mem_filter.mpr ⟨List.mem_range.mpr hk, ?_⟩
    rw [hsame.isBorrower hk, hsame.get_a hk, hborrower', hstate]
    rfl
  have hentry : i ∈ r.homesIn k := by
    simp only [State.homesIn, State.homes, List.mem_filter, List.mem_range, Bool.and_eq_true] at hi ⊢
    rw [hread.count, hread.v, hread.addr, hread.lost, hsame.inGrant hk, hin]
    exact hi
  have hmove := mustMove_reclaimPump hreclaiming hentry
  have hpump : HarrowWork [.topsoil] [statusReg] r r.reclaimPump := .reclaimPump (by simp) r (by simp)
  have hrelease : TierWork [] grantRegs r.reclaimPump r.reclaimPump.grantsRelease := .grantsRelease _ fun _ => id
  have hkept := reg_grantsRelease_of_mustMove hmove
  have hblock := grantReg_block hk
  have hstatus : grantReg k ∉ [statusReg] := by
    simp only [List.mem_singleton, grantReg, statusReg]
    omega
  refine ⟨?_, ?_, mustMove_congr hrelease.harrow hmove, ?_⟩
  · rw [← hstate, State.get, State.get, hkept, hpump.regs _ hblock hstatus, htouch.regs _ hblock (by simp)]
  · rw [hrelease.get_eq (by decide) (by decide), hpump.get_eq (by decide) (by decide), htouch.get_eq (by decide) (by simp), hrecorded]
  · have hall : KeepsStep [.topsoil] s r.reclaimPump.grantsRelease :=
      ((hwork.weaken.step.trans htouch.work.weaken.step).trans hpump.step).trans hrelease.work.weaken.step
    exact ⟨hall.planes.1, hall.planes.2, (hall.tiers (by simp)).1⟩

/-! ### The end of a lender grant (R324) -/

theorem TierWork.zeroAt (htop : .topsoil ∈ may) (htiers : .tiers ∈ may) {a : Nat} (ha : a / 2 ^ 42 % 4 ≠ 0) (s : State) (n : Nat) :
    TierWork may l s (s.zeroAt a n) := by
  unfold State.zeroAt
  split
  · next hloc => exact absurd hloc (locate_ne_seedbed_of_tier ha _)
  · exact topZero htop s _ n
  · exact subZero htiers s _ n
  · exact refl s

theorem seedbed_zeroAt {a : Nat} (ha : a / 2 ^ 42 % 4 ≠ 0) (s : State) (n : Nat) : (s.zeroAt a n).seedbed = s.seedbed := by
  unfold State.zeroAt
  split
  · next hloc => exact absurd hloc (locate_ne_seedbed_of_tier ha _)
  · exact ((TierWork.topZero (may := [.topsoil]) (l := []) (by simp) s _ n).step.tiers (by simp)).1
  · next o hloc =>
    have hstored : (if s.subRange o n then { s with subsoil := s.subsoil.zeroed 64 o n } else s).seedbed = s.seedbed := by
      split <;> rfl
    exact ((TierWork.subTouch (may := []) (l := []) _ o n).step.tiers (by simp)).1.trans hstored
  · rfl

/-- A lender's range lies in its own Topsoil or Subsoil. -/
theorem grantAddr_tier (s : State) (k chip : Nat) : s.grantAddr k chip / 2 ^ 42 % 4 ≠ 0 := by
  have hbase : s.get (TIER_GNT_B.BASE k) < 2 ^ 26 := get_lt s _
  unfold State.grantAddr
  split
  · omega
  · omega

/-- Lender grant `k` is revoked, and its range is zeroed. -/
def State.grantZeroed (s : State) (k : Nat) : State := (s.put (TIER_GNT_A.STATE k) 3).zeroAt (s.grantAddr k s.self) (s.grantLen k)

/-- No reclaim runs once every lender grant is revoked. -/
def State.reclaimSettled (s : State) : State :=
  if (List.range 8).any fun j => s.isLender j && s.get (TIER_GNT_A.STATE j) != 3 then s else s.put TIER_RECLAIM.BUSY 0

theorem grantRevoke_eq (s : State) (k : Nat) : s.grantRevoke k = (s.grantZeroed k).reclaimSettled := rfl

theorem tierWork_grantZeroed (s : State) (hk : k < 8) : TierWork [.topsoil, .tiers] [grantReg k] s (s.grantZeroed k) :=
  (TierWork.putGrant s hk _ _ 3 (by simp)).trans (.zeroAt (by simp) (by simp) (grantAddr_tier s k _) _ _)

theorem get_state_grantZeroed (s : State) (hk : k < 8) : (s.grantZeroed k).get (TIER_GNT_A.STATE k) = 3 := by
  have hzero : TierWork [.topsoil, .tiers] [] (s.put (TIER_GNT_A.STATE k) 3) (s.grantZeroed k) :=
    .zeroAt (by simp) (by simp) (grantAddr_tier s k _) _ _
  exact (hzero.get_eq (grantReg_block hk) (by simp)).trans (get_put_self s 3 (by decide : 3 + 2 ≤ 64))

theorem reclaimSettled_frame (s : State) : ∃ regs, s.reclaimSettled = { s with regs := regs } := by
  unfold State.reclaimSettled
  split
  · exact ⟨_, rfl⟩
  · exact ⟨_, rfl⟩

theorem tierWork_reclaimSettled (s : State) : TierWork [] [TIER_RECLAIM.BUSY.reg] s s.reclaimSettled :=
  (TierWork.refl s).ite (.put s 0 (by decide) (.inr (by simp)))

theorem get_state_reclaimSettled (s : State) (hk : k < 8) : s.reclaimSettled.get (TIER_GNT_A.STATE k) = s.get (TIER_GNT_A.STATE k) :=
  ((tierWork_reclaimSettled s).work.sameGrants (by simp)).get_a hk 3 2

/-- The range of grant `k` in the lender's Topsoil is zero in `m`, which is `s`'s elsewhere. -/
structure RangeZeroed (s : State) (k : Nat) (m : Mem) : Prop where
  inside : ∀ a, 65536 * s.get (TIER_GNT_B.BASE k) ≤ a → a < 65536 * s.get (TIER_GNT_B.BASE k) + s.grantLen k → m.byte 64 a = 0
  outside : ∀ a, a < 65536 * s.get (TIER_GNT_B.BASE k) ∨ 65536 * s.get (TIER_GNT_B.BASE k) + s.grantLen k ≤ a →
    m.byte 64 a = s.topsoil.byte 64 a

theorem locate_grantAddr (hltier : s.get (TIER_GNT_A.LTIER k) = 0) (hself : t.self = s.self) : t.locate (s.grantAddr k s.self) =
    if topOk (65536 * s.get (TIER_GNT_B.BASE k)) then .top (65536 * s.get (TIER_GNT_B.BASE k)) else .refused := by
  have hbase : s.get (TIER_GNT_B.BASE k) < 2 ^ 26 := get_lt s _
  have hpos := self_lt s
  have haddr : s.grantAddr k s.self = s.self * 2 ^ 44 + 1 * 2 ^ 42 + 65536 * s.get (TIER_GNT_B.BASE k) := by
    simp [State.grantAddr, State.flag, hltier]
  have hoff : s.grantAddr k s.self % 2 ^ 42 = 65536 * s.get (TIER_GNT_B.BASE k) := by omega
  rw [locate_own_top (by omega) (by omega), hoff]

theorem zeroAt_frame_of_top {a o n : Nat} (hloc : s.locate a = .top o) (hrange : topRange o n = true)
    (hward : s.get WARD_STATUS.STATE = 0) :
    s.zeroAt a n = { s with regs := (s.zeroAt a n).regs, topsoil := s.topsoil.zeroed 64 o n } := by
  rw [zeroAt_of_top hloc hrange hward]
  exact bump_withTopsoil_frame ..

theorem zeroAt_of_refused {a : Nat} (hloc : s.locate a = .refused) (n : Nat) : s.zeroAt a n = s := by
  unfold State.zeroAt
  rw [hloc]

theorem length_of_topRange {o n : Nat} (hok : ¬ topOk o = true) (hrange : topRange o n = true) : n = 0 := by
  simpa [topRange, hok] using hrange

theorem grantZeroed_of_topsoil (hk : k < 8) (hltier : s.get (TIER_GNT_A.LTIER k) = 0) (hward : s.get WARD_STATUS.STATE = 0)
    (hrange : topRange (65536 * s.get (TIER_GNT_B.BASE k)) (s.grantLen k) = true) :
    ∃ regs mem, s.grantZeroed k = { s with regs := regs, topsoil := mem } ∧ RangeZeroed s k mem := by
  have hrack : ROUTE_SELF.RACK.reg ≠ (TIER_GNT_A.STATE k).reg := by simp only; omega
  have hstate : WARD_STATUS.STATE.reg ≠ (TIER_GNT_A.STATE k).reg := by simp only; omega
  have hward' : (s.put (TIER_GNT_A.STATE k) 3).get WARD_STATUS.STATE = 0 := (get_put_ne s 3 (.inl hstate)).trans hward
  have hloc := locate_grantAddr hltier (self_congr (reg_put_ne s 3 hrack))
  have hput : s.put (TIER_GNT_A.STATE k) 3 = { s with regs := (s.put (TIER_GNT_A.STATE k) 3).regs } := rfl
  unfold State.grantZeroed
  generalize s.put (TIER_GNT_A.STATE k) 3 = u at hward' hloc hput
  generalize s.grantAddr k s.self = a at hloc
  by_cases hok : topOk (65536 * s.get (TIER_GNT_B.BASE k)) = true
  · rw [if_pos hok] at hloc
    have hframe := zeroAt_frame_of_top hloc hrange hward'
    generalize u.zeroAt a (s.grantLen k) = t at hframe
    refine ⟨t.regs, s.topsoil.zeroed 64 (65536 * s.get (TIER_GNT_B.BASE k)) (s.grantLen k), ?_,
      fun a hlo hhi => Mem.byte_zeroed_in _ hlo hhi, fun a hout => Mem.byte_zeroed_out _ (by decide) hout⟩
    rw [hput] at hframe
    exact hframe
  · rw [if_neg hok] at hloc
    have hempty := length_of_topRange hok hrange
    exact ⟨u.regs, s.topsoil, (zeroAt_of_refused hloc _).trans hput, fun a hlo hhi => by omega, fun a _ => rfl⟩

theorem exec_released_of_granted {h : MsgHdr} {base len : W64} {lt : Bool} (hk : s.grantOf true h base len lt = some k)
    (hstate : s.get (TIER_GNT_A.STATE k) ≠ 3) : exec (.released h base len lt) s = .next (s.grantRevoke k) := by
  show execReleased h base len lt s = _
  unfold execReleased
  rw [hk]
  exact congrArg Host.Outcome.next (if_neg hstate)

/-! ### The timeout of a reclaim (R326) -/

/-- The borrower of lender grant `k` is told that it is revoked. -/
def State.revokeTold (s : State) (k : Nat) : State := (s.send 3 0x0403 (s.grantPeer k) (s.grantMsg k)).grantRevoke k

/-- The lender grants that are not revoked. -/
def State.openLenders (s : State) : List Nat := (List.range 8).filter fun k => s.isLender k && s.get (TIER_GNT_A.STATE k) != 3

theorem exec_reclaimTimeout_of_idle (h : s.get TIER_RECLAIM.BUSY = 0) : exec .reclaimTimeout s = .next s := if_pos (by simp [State.flag, h])

theorem exec_reclaimTimeout_of_busy (h : s.get TIER_RECLAIM.BUSY = 1) :
    exec .reclaimTimeout s = .next ((s.each s.openLenders State.revokeTold).put TIER_RECLAIM.BUSY 0) := if_neg (by simp [State.flag, h])

/-- What the revocation of lender grants leaves: those of `ks` are revoked, the others as they were. -/
structure Revoked (ks : List Nat) (s t : State) : Prop where
  revoked : ∀ k ∈ ks, t.get (TIER_GNT_A.STATE k) = 3
  kept : ∀ k, k < 8 → k ∉ ks → t.get (TIER_GNT_A.STATE k) = s.get (TIER_GNT_A.STATE k)
  planes : t.lit = s.lit ∧ t.dark = s.dark
  seedbed : t.seedbed = s.seedbed

theorem revoked_revokeTold (s : State) (hk : k < 8) : Revoked [k] s (s.revokeTold k) := by
  have hsend : TierWork [] [] s (s.send 3 0x0403 (s.grantPeer k) (s.grantMsg k)) := .send s ..
  unfold State.revokeTold
  generalize s.send 3 0x0403 (s.grantPeer k) (s.grantMsg k) = u at hsend
  have hzero := tierWork_grantZeroed u hk
  have hstate := get_state_grantZeroed u hk
  have hseed : (u.grantZeroed k).seedbed = u.seedbed := seedbed_zeroAt (grantAddr_tier u k _) _ _
  rw [grantRevoke_eq]
  generalize u.grantZeroed k = v at hzero hstate hseed
  have hsettle := tierWork_reclaimSettled v
  refine ⟨fun j hj => ?_, fun j hj hjk => ?_, ?_, ?_⟩
  · obtain rfl := List.mem_singleton.mp hj
    exact (get_state_reclaimSettled v hk).trans hstate
  · have hblock := grantReg_block hj
    have hother : (TIER_GNT_A.STATE j).reg ∉ [grantReg k] := fun h =>
      hjk (List.mem_singleton.mpr (grantReg_injective (List.mem_singleton.mp h)))
    rw [get_state_reclaimSettled v hj, hzero.get_eq hblock hother, hsend.get_eq hblock (by simp)]
  · obtain ⟨hlit, hdark⟩ := hsettle.step.planes
    obtain ⟨hlit', hdark'⟩ := hzero.step.planes
    obtain ⟨hlit'', hdark''⟩ := hsend.step.planes
    exact ⟨hlit.trans (hlit'.trans hlit''), hdark.trans (hdark'.trans hdark'')⟩
  · exact (hsettle.step.tiers (by simp)).1.trans (hseed.trans (hsend.step.tiers (by simp)).1)

theorem revoked_each (ks : List Nat) (hks : ∀ k ∈ ks, k < 8) (s : State) : Revoked ks s (s.each ks State.revokeTold) := by
  induction ks generalizing s with
  | nil => exact ⟨fun _ hk => absurd hk List.not_mem_nil, fun _ _ _ => rfl, ⟨rfl, rfl⟩, rfl⟩
  | cons k ks ih =>
    have hk := hks k List.mem_cons_self
    obtain ⟨hone, hothers, ⟨hlit, hdark⟩, hseed⟩ := revoked_revokeTold s hk
    obtain ⟨hall, hkept, ⟨hlit', hdark'⟩, hseed'⟩ := ih (fun j hj => hks j (List.mem_cons_of_mem k hj)) (s.revokeTold k)
    refine ⟨fun j hj => ?_, fun j hj hjk => ?_, ⟨hlit'.trans hlit, hdark'.trans hdark⟩, hseed'.trans hseed⟩
    · by_cases hlater : j ∈ ks
      · exact hall j hlater
      · obtain rfl : j = k := (List.mem_cons.mp hj).resolve_right hlater
        exact (hkept j hk hlater).trans (hone j (by simp))
    · rw [List.mem_cons, not_or] at hjk
      exact (hkept j hj hjk.2).trans (hothers j hj (by simpa using hjk.1))

/-! ### REVOKED at the borrower (R326) -/

namespace KeepsStep

theorem commonsSend (kind : ReqKind) (dst n a : Nat) (bs : List Byte) (s : State) : KeepsStep may s (s.commonsSend kind dst n a bs) := by
  induction n generalizing a bs s with
  | zero => exact refl s
  | succ n ih => exact (refl s).ite ((request s ..).trans (ih ..))

theorem streamFail (s : State) (x : StreamSt) (cause cls addr : Nat) : KeepsStep may s (s.streamFail x cause cls addr) :=
  ite ((withHarrow s _).trans (boardRetire _ _)) (((withHarrow s _).trans (boardRetire _ _)).trans (stepError _ _))

variable (htop : .topsoil ∈ may) (htiers : .tiers ∈ may)

include htop htiers

theorem zeroAt (s : State) (a n : Nat) : KeepsStep may s (s.zeroAt a n) := by
  unfold State.zeroAt
  split
  · exact withTiers htiers s _ s.subsoil
  · exact (TierWork.topZero (l := []) htop s _ n).step
  · exact (TierWork.subZero (l := []) htiers s _ n).step
  · exact refl s

theorem zeroAny (s : State) (a n : Nat) : KeepsStep may s (s.zeroAny a n) := by
  unfold State.zeroAny
  split
  · exact (commonsSend ..).ite (refl s)
  · exact zeroAt htop htiers s a n

theorem moveUndo (s : State) (x : StreamSt) : KeepsStep may s (s.moveUndo x) :=
  (refl s).ite (((((TierWork.homeFlag (l := []) htop s _ 1 0).step.trans (withHarrow _ _)).trans (TierWork.chargeSub _ ..).step)).trans
    (zeroAny htop htiers _ _ _))

end KeepsStep

/-- The moves out of grant `k` are gone. -/
def State.reclaimsLost (s : State) (k : Nat) : State :=
  { s with harrow := { s.harrow with reclaims := s.harrow.reclaims.filter fun m => m.grant != k } }

/-- The homes of `is` are LOST. -/
def State.homesLost (s : State) (is : List Nat) : State := s.each is fun s i => s.homeFlag i 2 1

/-- Grant `k` is shown as revoked. -/
def State.grantGone (s : State) (k : Nat) : State := ((s.put (TIER_GNT_A.STATE k) 3).put TIER_ERR.LOST 1).harrowStatus

/-- The moves of grant `k` end first; then its homes are lost, and the grant. -/
theorem grantLost_eq (s : State) (k : Nat) : ∃ u, KeepsStep [.topsoil, .tiers] s u ∧
    s.grantLost k = (((u.reclaimsLost k).homesLost (s.homes fun i => s.inGrant k (s.homeAddr i))).grantGone k) := by
  have hunlist (v : State) (m : ReclaimMove) : KeepsStep [.topsoil, .tiers] v
      (if m.started then (v.homeFlag m.index 1 0).dropRange .moving (v.homeAddr m.index) else v) :=
    .ite ((TierWork.homeFlag (l := []) (by simp) v _ 1 0).step.trans (.withHarrow _ _)) (.refl v)
  refine ⟨_, ?_, rfl⟩
  exact ((TierWork.partReads (l := []) (by simp) s _ _).step.trans
    (.each (fun v x _ => (KeepsStep.moveUndo (by simp) (by simp) v x).trans (.streamFail _ x 5 8 _)) _)).trans
    (.each (fun v m _ => hunlist v m) _)

theorem tierWork_homesLost (s : State) (is : List Nat) : TierWork [.topsoil, .tiers] [] s (s.homesLost is) :=
  .each (fun u i _ => .homeFlag (by simp) u i 2 1) s

theorem tierWork_grantGone (s : State) (hk : k < 8) : TierWork [] [grantReg k, 0x90020, statusReg] s (s.grantGone k) :=
  ((TierWork.putGrant s hk _ _ 3 (by simp)).trans (.put _ 1 (by decide) (.inr (by simp)))).trans (.harrowStatus _ (by simp))

theorem get_grantGone (s : State) (hk : k < 8) : (s.grantGone k).get (TIER_GNT_A.STATE k) = 3 ∧ (s.grantGone k).get TIER_ERR.LOST = 1 := by
  have hstatus : TierWork [] [statusReg] ((s.put (TIER_GNT_A.STATE k) 3).put TIER_ERR.LOST 1) (s.grantGone k) := .harrowStatus _ (by simp)
  have hother : (TIER_GNT_A.STATE k).reg ≠ TIER_ERR.LOST.reg := by simp only; omega
  constructor
  · rw [(hstatus.work.sameGrants (by decide)).get_a hk, get_put_ne _ _ (.inl hother)]
    exact get_put_self s 3 (by decide : 3 + 2 ≤ 64)
  · rw [hstatus.get_eq (by decide) (by decide)]
    exact get_put_self _ 1 (by decide)

/-- What REVOKED leaves of borrower grant `k`. -/
structure GrantLost (s : State) (k : Nat) (t : State) : Prop where
  state : t.get (TIER_GNT_A.STATE k) = 3
  recorded : t.get TIER_ERR.LOST = 1
  moves : ∀ m ∈ t.harrow.reclaims, m.grant ≠ k
  kept : t.lit = s.lit ∧ t.dark = s.dark ∧ t.field = s.field

theorem grantLost_grantLost (s : State) (hk : k < 8) : GrantLost s k (s.grantLost k) := by
  obtain ⟨u, hends, heq⟩ := grantLost_eq s k
  have hlost := tierWork_homesLost (u.reclaimsLost k) (s.homes fun i => s.inGrant k (s.homeAddr i))
  have hmoves : ∀ m ∈ (u.reclaimsLost k).harrow.reclaims, m.grant ≠ k := fun m hm => by
    have hgrant := (List.mem_filter.mp hm).2
    simpa using hgrant
  have hdrop : KeepsStep [.topsoil, .tiers] u (u.reclaimsLost k) := .withHarrow u _
  rw [heq]
  generalize (u.reclaimsLost k).homesLost (s.homes fun i => s.inGrant k (s.homeAddr i)) = v at hlost
  have hgone := tierWork_grantGone v hk
  obtain ⟨hstate, hrecorded⟩ := get_grantGone v hk
  have hall : KeepsStep [.topsoil, .tiers] s (v.grantGone k) :=
    ((hends.trans hdrop).trans hlost.step).trans hgone.work.weaken.step
  refine ⟨hstate, hrecorded, ?_, hall.planes.1, hall.planes.2, hall.field (by simp)⟩
  rw [hgone.harrow, hlost.harrow]
  exact hmoves

theorem exec_revoked_of_granted {h : MsgHdr} {base len : W64} {lt : Bool} (hk : s.grantOf false h base len lt = some k) :
    exec (.revoked h base len lt) s = .next (s.grantLost k) := by
  show execRevoked h base len lt s = _
  unfold execRevoked
  rw [hk]

end Grants

/-- Settles O25: each message finds its grant, and each grant changes its own registers, messages and range. -/
theorem commonsGrants : Obligations.CommonsGrants := by
  unfold Obligations.CommonsGrants
  intro s h base len lt k
  refine ⟨fun src val htakes hval => ?start, fun hk hstate hbad i hi => ?reclaim, fun hk hstate hltier hward hrange => ?released,
    exec_reclaimTimeout_of_idle, fun hbusy => ?timeout, fun hk => ?revoked⟩
  case start =>
    obtain ⟨hasked, hothers, hmessages, hrest⟩ := reclaimStarted_reclaimWrite (s := s) hval
    exact ⟨_, exec_reclaimStart_of_takes htakes, hasked, hothers, hmessages, hrest⟩
  case reclaim =>
    obtain ⟨hlt, hborrower⟩ := grantOf_eq_some hk
    obtain ⟨hreclaiming, hrecorded, hmove, hlit, hdark, hseed⟩ := reclaimed_of_active hlt (hborrower rfl) hbad hi
    exact ⟨_, exec_reclaim_of_active hk hstate, hreclaiming, hrecorded, hmove, hlit, hdark, hseed⟩
  case released =>
    obtain ⟨hlt, -⟩ := grantOf_eq_some hk
    obtain ⟨regs, mem, hframe, hinside, houtside⟩ := grantZeroed_of_topsoil hlt hltier hward hrange
    obtain ⟨regs', hsettled⟩ := reclaimSettled_frame (s.grantZeroed k)
    have hrevoked : (s.grantRevoke k).get (TIER_GNT_A.STATE k) = 3 :=
      (get_state_reclaimSettled _ hlt).trans (get_state_grantZeroed s hlt)
    have hrest : s.grantRevoke k = { s with regs := regs', topsoil := mem } := by
      rw [grantRevoke_eq, hsettled, hframe]
    have htopsoil : (s.grantRevoke k).topsoil = mem := by rw [hrest]
    refine ⟨_, exec_released_of_granted hk hstate, hrevoked, ?_, ?_, ?_⟩
    · rw [htopsoil]
      exact hinside
    · rw [htopsoil]
      exact houtside
    · rw [hrest]
  case timeout =>
    obtain ⟨hrevoked, hkept, ⟨hlit, hdark⟩, hseed⟩ :=
      revoked_each s.openLenders (fun j hj => List.mem_range.mp (List.mem_filter.mp hj).1) s
    refine ⟨_, exec_reclaimTimeout_of_busy hbusy, get_put_self _ 0 (by decide), fun j hj hlender => ?_, hlit, hdark, hseed⟩
    have hother : (TIER_GNT_A.STATE j).reg ≠ TIER_RECLAIM.BUSY.reg := by simp only; omega
    rw [get_put_ne _ _ (.inl hother)]
    by_cases hopen : j ∈ s.openLenders
    · exact hrevoked j hopen
    · rw [hkept j hj hopen]
      simpa [State.openLenders, hj, hlender] using hopen
  case revoked =>
    obtain ⟨hstate, hrecorded, hmoves, hlit, hdark, hfield⟩ := grantLost_grantLost s (grantOf_eq_some hk).1
    exact ⟨_, exec_revoked_of_granted hk, hstate, hrecorded, hmoves, hlit, hdark, hfield⟩

end Sys2Proof.Machine
end

section
/-!
PROOFS. Work on the memory tiers as the Fallow store and the Drill meet it: which registers it writes, what it leaves of the rest of
the state, and that it sends nothing while the Ward is off; and the request to power D17 up (R311, R312, R341, R411, R464 to R469,
R477).
-/
namespace Sys2Proof.Machine

section TierTraffic

variable {s t u : State}

theorem subSize_congr (h : t.reg SUBSOIL_CFG.NCH.reg = s.reg SUBSOIL_CFG.NCH.reg) : t.subSize = s.subSize := by
  simp only [State.subSize, State.subChannels, State.flag, State.get, h]
  rfl

/-! ### The frame -/

/-- The registers that work on the tiers writes: the block of Topsoil, ERRLOG, and the counters of Subsoil and of Ward deltas. -/
def trafficReg (off : Nat) : Bool :=
  blockOf off == 0xA || blockOf off == 0x12 || off == SUBSOIL_LINES.LINES.reg || off == WARD_PEND.UNACKED.reg ||
    off == WARD_BYTES.BYTES.reg

/-- `t` is `s` after work on the tiers. While the Ward is off the work sends no message. -/
structure TierTraffic (s t : State) : Prop where
  rest : t = { s with
    regs := t.regs, seedbed := t.seedbed, topsoil := t.topsoil, subsoil := t.subsoil, sched := t.sched, ward := t.ward
    net := { s.net with outbox := t.net.outbox, nextTag := t.net.nextTag, requests := t.net.requests }, freeCtr := t.freeCtr }
  regs : ∀ off, trafficReg off = false → t.reg off = s.reg off
  quiet : s.get WARD_STATUS.STATE = 0 → t.net = s.net

namespace TierTraffic

theorem refl (s : State) : TierTraffic s s := ⟨rfl, fun _ _ => rfl, fun _ => rfl⟩

theorem get_eq (h : TierTraffic s t) {f : Fld} (hf : trafficReg f.reg = false) : t.get f = s.get f := by
  rw [State.get, h.regs f.reg hf]; rfl

theorem ward_off (h : TierTraffic s t) (hward : s.get WARD_STATUS.STATE = 0) : t.get WARD_STATUS.STATE = 0 :=
  (h.get_eq rfl).trans hward

theorem trans (h : TierTraffic s t) (k : TierTraffic t u) : TierTraffic s u := by
  refine ⟨?_, fun off hoff => (k.regs off hoff).trans (h.regs off hoff),
    fun hward => (k.quiet (h.ward_off hward)).trans (h.quiet hward)⟩
  rw [k.rest, h.rest]

theorem ite {c : Prop} [Decidable c] (ht : TierTraffic s t) (hu : TierTraffic s u) : TierTraffic s (if c then t else u) := by
  split
  · exact ht
  · exact hu

theorem each {α : Type} {f : State → α → State} (hf : ∀ s x, TierTraffic s (f s x)) (l : List α) (s : State) :
    TierTraffic s (s.each l f) := by
  induction l generalizing s with
  | nil => exact refl s
  | cons x l ih => exact (hf s x).trans (ih (f s x))

theorem fallow (h : TierTraffic s t) : t.fallow = s.fallow := by rw [h.rest]

theorem drill (h : TierTraffic s t) : t.drill = s.drill := by rw [h.rest]

theorem planes (h : TierTraffic s t) : t.lit = s.lit ∧ t.dark = s.dark ∧ t.field = s.field := by rw [h.rest]; exact ⟨rfl, rfl, rfl⟩

theorem position (h : TierTraffic s t) : t.reg ROUTE_SELF.RACK.reg = s.reg ROUTE_SELF.RACK.reg := h.regs _ rfl

theorem plan (h : TierTraffic s t) : t.net.plan = s.net.plan := by rw [h.rest]

theorem subSize (h : TierTraffic s t) : t.subSize = s.subSize := subSize_congr (h.regs _ rfl)

theorem locate (h : TierTraffic s t) (a : Nat) : t.locate a = s.locate a := locate_congr h.position h.subSize a

/-! Memories, counters and records -/

theorem withTiers (s : State) (m n k : Mem) : TierTraffic s { s with seedbed := m, topsoil := n, subsoil := k } :=
  ⟨rfl, fun _ _ => rfl, fun _ => rfl⟩

theorem bump (s : State) {f : Fld} (n : Nat) (hf : trafficReg f.reg = true) : TierTraffic s (s.bump f n) :=
  ⟨rfl, fun off hoff => reg_bump_ne s n (by rintro rfl; rw [hf] at hoff; cases hoff), fun _ => rfl⟩

theorem drawn (s : State) : TierTraffic s s.drawn := ⟨rfl, fun _ _ => rfl, fun _ => rfl⟩

theorem errlog (s : State) (r : ErrRec) : TierTraffic s (s.errlog r) := by
  refine ⟨by rw [errlog_eq_regs_sched], fun off hoff => reg_errlog_of_block_ne s r fun hblock => ?_,
    fun _ => by rw [errlog_eq_regs_sched]⟩
  rw [trafficReg, hblock] at hoff
  cases hoff

/-- An access of no byte counts no line, wherever it points. -/
theorem topTouch (s : State) (o n : Nat) : TierTraffic s (s.topTouch o n) := by
  unfold State.topTouch
  split
  case isFalse => exact errlog s _
  case isTrue hrange =>
    rcases Nat.eq_zero_or_pos n with rfl | hpos
    · exact ⟨rfl, fun off _ => reg_bump_zero s _ off, fun _ => rfl⟩
    · have hstack : o / 2 ^ 37 ≤ 3 := by
        simp only [topRange, topOk, Bool.or_eq_true, Bool.and_eq_true, beq_iff_eq, decide_eq_true_eq] at hrange
        omega
      have hblock : blockOf (TOPSOIL_LINES.LINES (o / 2 ^ 37)).reg = 0xA := by simp only [blockOf]; omega
      exact bump s _ (by rw [trafficReg, hblock]; rfl)

theorem subTouch (s : State) (o n : Nat) : TierTraffic s (s.subTouch o n) := (bump s _ rfl).ite (errlog s _)

theorem touch (s : State) (a n : Nat) : TierTraffic s (s.touch a n) := by
  unfold State.touch
  split
  · exact topTouch s _ n
  · exact subTouch s _ n
  · exact refl s

/-! Reads outside every step (R464 to R469) -/

theorem lineError (s : State) (sub : Bool) (l : Nat) : TierTraffic s (s.lineError sub false l) := by
  unfold State.lineError
  rw [if_neg (by decide)]
  exact ((withTiers s _ _ _).trans (errlog (s.repairLine l) _)).ite (errlog s _)

theorem readErrors {a : Nat} (h : ∀ o, s.locate a ≠ .seedbed o) (n : Nat) : TierTraffic s (s.readErrors a n false).1 := by
  unfold State.readErrors
  split
  · exact absurd ‹_› (h _)
  · exact each (fun u l => lineError u false l) _ s
  · exact each (fun u l => lineError u true l) _ s
  · exact refl s

theorem loaderReads {a : Nat} (h : ∀ o, s.locate a ≠ .seedbed o) (n : Nat) : TierTraffic s (s.loaderReads a n) :=
  (readErrors h n).trans (touch _ a n)

theorem partReads (s : State) {o : Nat} (ho : o < 2 ^ 43) (n : Nat) : TierTraffic s (s.partReads o n false) := by
  rw [partReads_eq_fun]
  refine (topTouch s o n).trans (readErrors (locate_ne_seedbed_of_tier ?_) n)
  unfold State.gaddr
  omega

/-! Writes (R477) -/

theorem wardOn (h : TierTraffic s t) : t.wardOn = s.wardOn := by rw [State.wardOn, h.get_eq rfl]; rfl

/-- A protected line sends its delta, which only a Ward that is not off does. -/
theorem sendDelta (hon : s.wardOn = true) (off k : Nat) (d : Payload) : TierTraffic s (s.sendDelta off k d) := by
  refine ⟨rfl, fun x hx => ?_, fun hward => ?_⟩
  · have hpend : x ≠ WARD_PEND.UNACKED.reg := by rintro rfl; cases hx
    have hbytes : x ≠ WARD_BYTES.BYTES.reg := by rintro rfl; cases hx
    unfold State.sendDelta
    exact (reg_put_ne _ _ hbytes).trans (reg_put_ne _ _ hpend)
  · rw [wardOn_eq_false hward] at hon
    cases hon

theorem deltas (hon : s.wardOn = true) (old : Mem) (l n : Nat) : TierTraffic s (s.deltas old l n) := by
  induction n generalizing l s with
  | zero => exact refl s
  | succ n ih =>
    have hline {u : State} (h : TierTraffic s u) : TierTraffic s (u.deltas old (l + 1) n) := h.trans (ih (h.wardOn.trans hon) (l + 1))
    rw [State.deltas]
    refine hline ?_
    split
    · exact (refl s).ite (sendDelta hon _ _ _)
    · exact refl s

theorem withDeltas (h : TierTraffic s t) (old : Mem) (l n : Nat) : TierTraffic s (if t.wardOn then t.deltas old l n else t) := by
  split
  next hon => exact h.trans (deltas hon old l n)
  next => exact h

theorem topWrite (s : State) (o : Nat) (bs : List Byte) : TierTraffic s (s.topWrite o bs) :=
  (((withTiers s _ _ _).trans (topTouch _ o bs.length)).withDeltas ..).ite (topTouch s o bs.length)

theorem topZero (s : State) (o n : Nat) : TierTraffic s (s.topZero o n) :=
  (((withTiers s _ _ _).trans (topTouch _ o n)).withDeltas ..).ite (topTouch s o n)

theorem topPutWord (s : State) (o w : Nat) : TierTraffic s (s.topPutWord o w) := topWrite s o _

theorem subWrite (s : State) (o : Nat) (bs : List Byte) : TierTraffic s (s.subWrite o bs) :=
  ((withTiers s _ _ _).ite (refl s)).trans (subTouch _ o _)

theorem subZero (s : State) (o n : Nat) : TierTraffic s (s.subZero o n) :=
  ((withTiers s _ _ _).ite (refl s)).trans (subTouch _ o n)

theorem pokeAt (s : State) (a : Nat) (bs : List Byte) : TierTraffic s (s.pokeAt a bs) := by
  unfold State.pokeAt
  split
  · exact withTiers s _ _ _
  · exact topWrite s _ bs
  · exact subWrite s _ bs
  · exact refl s

theorem zeroAt (s : State) (a n : Nat) : TierTraffic s (s.zeroAt a n) := by
  unfold State.zeroAt
  split
  · exact withTiers s _ _ _
  · exact topZero s _ n
  · exact subZero s _ n
  · exact refl s

end TierTraffic

/-! ### What writes store -/

theorem TierTraffic.subRange (h : TierTraffic s t) (o n : Nat) : t.subRange o n = s.subRange o n := by
  rw [State.subRange, h.subSize]; rfl

theorem subsoil_topWrite (s : State) (o : Nat) (bs : List Byte) : (s.topWrite o bs).subsoil = s.subsoil :=
  ((KeepsStep.topWrite (may := [.topsoil]) (by simp) s o bs).tiers (by simp)).2

theorem subsoil_subWrite (s : State) (o : Nat) (bs : List Byte) :
    (s.subWrite o bs).subsoil = if s.subRange o bs.length then s.subsoil.write 64 o bs else s.subsoil := by
  rw [State.subWrite, ((KeepsStep.subTouch (may := []) _ o _).tiers (by simp)).2]
  split <;> rfl

end TierTraffic

/-! ### Registers alone, and the request to power D17 up (R411) -/

section Drives

variable {l : List Nat} {s t u : State}

/-- `t` is `s` but for registers of `l`. -/
structure Drives (l : List Nat) (s t : State) : Prop where
  rest : t = { s with regs := t.regs }
  regs : SameRegsBut l s t

namespace Drives

theorem refl (s : State) : Drives l s s := ⟨rfl, fun _ _ => rfl⟩

theorem trans (h : Drives l s t) (k : Drives l t u) : Drives l s u := by
  refine ⟨?_, fun off hoff => (k.regs off hoff).trans (h.regs off hoff)⟩
  rw [k.rest, h.rest]

theorem ite {c : Prop} [Decidable c] (ht : Drives l s t) (hu : Drives l s u) : Drives l s (if c then t else u) := by
  split
  · exact ht
  · exact hu

theorem put (s : State) {f : Fld} (v : Nat) (hf : f.reg ∈ l) : Drives l s (s.put f v) :=
  ⟨rfl, fun _ hoff => reg_put_ne s v (by rintro rfl; exact hoff hf)⟩

theorem get_eq (h : Drives l s t) {f : Fld} (hf : f.reg ∉ l) : t.get f = s.get f := by
  rw [State.get, h.regs f.reg hf]; rfl

theorem domRequest (s : State) (d : Nat) (hl : CANDLE_DSTAT.PEND.reg ∈ l) : Drives l s (s.domRequest d) := by
  have hwait (u : State) (k : Nat) : Drives l u (u.domWait k) := (refl u).ite (put u _ hl)
  have hfirst (c : Prop) [Decidable c] (u : State) (k : Nat) : Drives l u (if c then u.domWait k else u) := (hwait u k).ite (refl u)
  exact ((hfirst _ s 22).trans (hfirst _ _ 2)).trans (hwait _ d)

/-- The store wakes by a request for D17, which CANDLE_DSTAT shows, and by nothing else. -/
theorem fallowWake (s : State) (hl : CANDLE_DSTAT.PEND.reg ∈ l) : Drives l s s.fallowWake := (domRequest s 17 hl).ite (refl s)

end Drives

theorem fallowWake_frame (s : State) : s.fallowWake = { s with regs := s.fallowWake.regs } :=
  (Drives.fallowWake s (List.mem_singleton_self _)).rest

theorem get_fallowWake (s : State) {f : Fld} (hf : f.reg ≠ CANDLE_DSTAT.PEND.reg) : s.fallowWake.get f = s.get f :=
  (Drives.fallowWake s (List.mem_singleton_self _)).get_eq (by simpa using hf)

@[simp] theorem fallow_fallowWake (s : State) : s.fallowWake.fallow = s.fallow := by rw [fallowWake_frame]

@[simp] theorem result_fallowWake (s : State) (off : Nat) (src : Source) : s.fallowWake.result off src = s.result off src := by
  rw [fallowWake_frame]; rfl

@[simp] theorem drill_fallowWake (s : State) : s.fallowWake.drill = s.drill := by rw [fallowWake_frame]

@[simp] theorem net_fallowWake (s : State) : s.fallowWake.net = s.net := by rw [fallowWake_frame]

end Drives

/-! ### Slots of the Fallow store (R347) -/

section Slots

variable (s : State)

@[simp] theorem falSlot_setFalSlot_self (b : Bool) (v : FalSlot) : (s.setFalSlot b v).falSlot b = v := by cases b <;> rfl

@[simp] theorem falSlot_setFalSlot_not (b : Bool) (v : FalSlot) : (s.setFalSlot b v).falSlot (!b) = s.falSlot (!b) := by cases b <;> rfl

@[simp] theorem falSlot_setFalSlot_of_not (b : Bool) (v : FalSlot) : (s.setFalSlot (!b) v).falSlot b = s.falSlot b := by cases b <;> rfl

theorem falSlot_congr {s t : State} (h : t.fallow = s.fallow) (b : Bool) : t.falSlot b = s.falSlot b := by
  rw [State.falSlot, h]; rfl

@[simp] theorem falSlot_falCount (b : Bool) : s.falCount.falSlot b = s.falSlot b := rfl

theorem activeSlot_congr {s t : State} (h : t.get FALLOW_STATUS.SLOT = s.get FALLOW_STATUS.SLOT) : t.activeSlot = s.activeSlot := by
  rw [State.activeSlot, State.flag, h]; rfl

end Slots
end Sys2Proof.Machine
end

section
/-!
PROOFS. Installation of a Fallow slot: commands in and out of their state, the slot that a manifest fills, and the flip of the pointer
(R347, R350, R351, R357 to R359; allocation: assumption 40).
-/
namespace Sys2Proof.Machine

section Install

variable {s : State} {src : Source}

/-! ### FALLOW_CMD by the state of the installation (R357) -/

theorem falCmd_of_takes (h : Takes s src 0xC0008 2) (op : Nat) (act : State → State) : s.falCmd src op act = (act s).fallowWake :=
  ctlWrite_of_takes h _ _

theorem instCmd_of_ready {sts : List Nat} (h : Takes s src 0xC0008 2) (hstart : s.power.falStart = false) (hin : s.instState ∈ sts)
    (op : Nat) (act : State → State) : s.instCmd src op sts act = (act s).fallowWake := by
  rw [State.instCmd, falCmd_of_takes h, hstart, if_pos (by simpa using hin)]

theorem instCmd_of_not_ready {sts : List Nat} (h : Takes s src 0xC0008 2) (hno : s.power.falStart = true ∨ s.instState ∉ sts)
    (op : Nat) (act : State → State) : s.instCmd src op sts act = (s.falResult src 1 1).fallowWake := by
  have hcond : (!s.power.falStart && sts.contains s.instState) = false := by
    rcases hno with hstart | hin
    · rw [hstart]; rfl
    · simp [hin]
  rw [State.instCmd, falCmd_of_takes h, hcond, if_neg Bool.false_ne_true]

/-! ### What a command leaves -/

/-- The state of the installation is written, the command has its outcome, and D17 wakes. -/
def State.installs (s : State) (src : Source) (st : Nat) : State := ((s.put FALLOW_STATUS.INST st).falResult src 0 0).fallowWake

theorem instState_fallowWake (s : State) : s.fallowWake.instState = s.instState := get_fallowWake s (by decide)

theorem instState_installs (s : State) {st : Nat} (hst : st < 4) : (s.installs src st).instState = st :=
  (instState_fallowWake _).trans ((get_put_self s st (by decide)).trans (Nat.mod_eq_of_lt hst))

theorem falSlot_installs (s : State) (st : Nat) (b : Bool) : (s.installs src st).falSlot b = s.falSlot b :=
  falSlot_congr (fallow_fallowWake _) b

theorem result_installs (s : State) (st : Nat) : (s.installs src st).result 0xC0010 src = 1 :=
  (result_fallowWake _ _ _).trans (result_setResult_self ..)

theorem installs_frame (s : State) (st : Nat) : s.installs src st =
    { s with regs := (s.installs src st).regs, results := (s.installs src st).results } := by
  unfold State.installs
  rw [fallowWake_frame]
  rfl

/-- INST_BEGIN and INST_ABORT leave the slot that is not active empty. -/
theorem clearNew_installs (s : State) {st : Nat} (hst : st < 4) :
    let t := s.clearNew.installs src st
    t.instState = st ∧ t.falSlot (!s.activeSlot) = .empty ∧ t.falSlot s.activeSlot = s.falSlot s.activeSlot ∧
      t.result 0xC0010 src = 1 ∧ t = { s with regs := t.regs, results := t.results, fallow := t.fallow, power := t.power } := by
  refine ⟨instState_installs _ hst, ?_, ?_, result_installs _ st, ?_⟩
  · rw [falSlot_installs]
    exact falSlot_setFalSlot_self s _ _
  · rw [falSlot_installs]
    exact falSlot_setFalSlot_of_not s _ _
  · rw [installs_frame]
    rfl

/-! ### The five steps of an installation -/

theorem exec_instBegin_of_idle (h : Takes s src 0xC0008 2) (hstart : s.power.falStart = false) (hinst : s.instState = instIdle) :
    exec (.instBegin src) s = .next (s.clearNew.installs src instOpen) :=
  congrArg Host.Outcome.next (instCmd_of_ready h hstart (by simp [hinst]) _ _)

theorem exec_instAbort_of_begun (h : Takes s src 0xC0008 2) (hstart : s.power.falStart = false)
    (hinst : s.instState = instOpen ∨ s.instState = instLoading) :
    exec (.instAbort src) s = .next (s.clearNew.installs src instIdle) :=
  congrArg Host.Outcome.next (instCmd_of_ready h hstart (by simpa using hinst) _ _)

/-- The manifest's entries fill the slot that is not active. -/
def State.manifestTaken (s : State) (bs : List Byte) : State :=
  (s.setFalSlot (!s.activeSlot) (newSlot bs (s.falSlot s.activeSlot))).falCount

theorem TierTraffic.manVerified {t : State} (h : TierTraffic s t) (bs : List Byte) : t.manVerified bs = s.manVerified bs := by
  simp only [State.manVerified, State.publisherOk, h.plan]

theorem TierTraffic.falSlot {t : State} (h : TierTraffic s t) (b : Bool) : t.falSlot b = s.falSlot b := falSlot_congr h.fallow b

theorem TierTraffic.activeSlot {t : State} (h : TierTraffic s t) : t.activeSlot = s.activeSlot := activeSlot_congr (h.get_eq rfl)

theorem TierTraffic.instState {t : State} (h : TierTraffic s t) : t.instState = s.instState := h.get_eq rfl

/-- A slot takes the manifest, and the active one stays as it is. -/
theorem manifestTaken_installs {bs : List Byte} {u : State} (h : TierTraffic s u) :
    let t := (u.manifestTaken bs).installs src instLoading
    t.instState = instLoading ∧ t.falSlot (!s.activeSlot) = newSlot bs (s.falSlot s.activeSlot) ∧ t.result 0xC0010 src = 1 ∧
      t.falSlot s.activeSlot = s.falSlot s.activeSlot := by
  refine ⟨instState_installs _ (by decide), ?_, result_installs _ _, ?_⟩
  all_goals rw [falSlot_installs, State.manifestTaken, falSlot_falCount, h.activeSlot, h.falSlot]
  · exact falSlot_setFalSlot_self u _ _
  · rw [falSlot_setFalSlot_of_not, h.falSlot]

/-- A manifest that lies in Topsoil is read there: its reads are counted, and it is taken when its format and its signature hold. -/
theorem exec_instManifest_of_top {o : Nat} {bs : List Byte} (h : Takes s src 0xC0008 2) (hstart : s.power.falStart = false)
    (hinst : s.instState = instOpen) (hloc : s.locate (s.get FALLOW_MADDR.ADDR) = .top o)
    (hrange : topRange o (s.get FALLOW_MLEN.LEN) = true) (hbs : s.peek (s.get FALLOW_MADDR.ADDR) (s.get FALLOW_MLEN.LEN) = bs) :
    ∃ u, TierTraffic s u ∧ exec (.instManifest src) s = .next
        (if manFormatOk bs (s.get FALLOW_MLEN.LEN) (s.get ROUTE_SELF.XYZ) && s.manVerified bs then
          (u.manifestTaken bs).installs src instLoading else (u.falResult src 1 2).fallowWake) := by
  have hreads : TierTraffic s (s.loaderReads (s.get FALLOW_MADDR.ADDR) (s.get FALLOW_MLEN.LEN)) :=
    .loaderReads (by simp [hloc]) _
  refine ⟨_, hreads, ?_⟩
  show execInstManifest src s = _
  rw [execInstManifest, instCmd_of_ready h hstart (by simp [hinst]), State.instManifest]
  simp only [hloc, hrange, hbs, hreads.get_eq (f := ROUTE_SELF.XYZ) rfl, hreads.manVerified]
  rw [if_neg (by decide), apply_ite State.fallowWake]
  rfl

theorem exec_instCommit_of_written (h : Takes s src 0xC0008 2) (hstart : s.power.falStart = false) (hinst : s.instState = instLoading)
    (hwritten : (s.falSlot (!s.activeSlot)).objs.all FalObj.written = true) :
    exec (.instCommit src) s = .next ((s.programPtr (s.nextPtr (!s.activeSlot)) 1).installs src instCommitting) := by
  show execInstCommit src s = _
  rw [execInstCommit, instCmd_of_ready h hstart (by simp [hinst]), State.instCommit, if_pos hwritten]
  rfl

/-! ### Work on the store alone -/

/-- Superblocks that reads still use are held, and the others are free at once. -/
theorem falRelease_eq (s : State) (sbs : List Nat) :
    ∃ held, s.falRelease sbs = State.falCount { s with fallow := { s.fallow with held := held } } := by
  unfold State.falRelease
  split
  · exact ⟨s.fallow.held, rfl⟩
  · exact ⟨_, rfl⟩

/-- `t` is `s` but for registers and the Fallow store. -/
def StoreOnly (s t : State) : Prop := t = { s with regs := t.regs, fallow := t.fallow }

namespace StoreOnly

variable {t u : State}

theorem trans (h : StoreOnly s t) (k : StoreOnly t u) : StoreOnly s u := by
  unfold StoreOnly at *
  rw [k, h]

theorem put (s : State) (f : Fld) (v : Nat) : StoreOnly s (s.put f v) := rfl

theorem withFallow (s : State) (f : FallowSt) : StoreOnly s { s with fallow := f } := rfl

theorem setFalSlot (s : State) (b : Bool) (v : FalSlot) : StoreOnly s (s.setFalSlot b v) := rfl

theorem falRelease (s : State) (sbs : List Nat) : StoreOnly s (s.falRelease sbs) := by
  obtain ⟨held, h⟩ := falRelease_eq s sbs
  rw [h]
  exact (withFallow s _).trans (put _ _ _)

end StoreOnly

/-! ### The flip (R351, R359) -/

theorem falSlot_falRelease (s : State) (sbs : List Nat) (b : Bool) : (s.falRelease sbs).falSlot b = s.falSlot b := by
  obtain ⟨held, h⟩ := falRelease_eq s sbs
  rw [h]
  rfl

theorem get_falRelease (s : State) (sbs : List Nat) {f : Fld} (hf : f.reg ≠ FALLOW_GEOM.FREE.reg) :
    (s.falRelease sbs).get f = s.get f := by
  obtain ⟨held, h⟩ := falRelease_eq s sbs
  rw [h]
  exact get_put_ne _ _ (.inl hf)

theorem get_setFalSlot (s : State) (b : Bool) (v : FalSlot) (f : Fld) : (s.setFalSlot b v).get f = s.get f := rfl

/-- A record programmed in all three copies is in effect. -/
theorem programPtr_three (s : State) (r : PtrRec) : s.programPtr r 3 =
    State.put { s with fallow := { s.fallow with ptr0 := some r, ptr1 := some r, ptr2 := some r } } FALLOW_SEQ.SEQ r.seq := by
  simp [State.programPtr]

theorem storeOnly_programPtr (s : State) (r : PtrRec) : StoreOnly s (s.programPtr r 3) := by
  rw [programPtr_three]
  rfl

/-- The pointer names the new slot: its record is in effect, no repair is left of the old slot, and the installation is over. -/
def State.pointerFlipped (s : State) : State :=
  let u := s.programPtr (s.nextPtr (!s.activeSlot)) 3
  ((({ u with fallow := { u.fallow with repairs := [] } }).put FALLOW_STATUS.SLOT (bit (!s.activeSlot))).put
    FALLOW_STATUS.INST instIdle).put FALLOW_STATUS.SLOT_BAD 0

theorem exec_commitPointerEffect_of_committing (hinst : s.instState = instCommitting) : ∃ gone,
    exec .commitPointerEffect s = .next ((s.pointerFlipped.setFalSlot s.activeSlot .empty).falRelease gone) :=
  ⟨_, congrArg Host.Outcome.next (if_pos hinst)⟩

theorem storeOnly_pointerFlipped (s : State) : StoreOnly s s.pointerFlipped :=
  ((((storeOnly_programPtr s _).trans (.withFallow _ _)).trans (.put _ _ _)).trans (.put _ _ _)).trans (.put _ _ _)

theorem falSlot_pointerFlipped (s : State) (b : Bool) : s.pointerFlipped.falSlot b = s.falSlot b := by
  unfold State.pointerFlipped
  rw [programPtr_three]
  rfl

theorem pointerFlipped_status (s : State) : s.pointerFlipped.activeSlot = !s.activeSlot ∧ s.pointerFlipped.instState = instIdle ∧
    s.pointerFlipped.get FALLOW_STATUS.SLOT_BAD = 0 ∧
    s.pointerFlipped.get FALLOW_SEQ.SEQ = (s.get FALLOW_SEQ.SEQ + 1) % 2 ^ FALLOW_SEQ.SEQ.len := by
  have hslot : s.pointerFlipped.get FALLOW_STATUS.SLOT = bit (!s.activeSlot) % 2 ^ 1 := by
    unfold State.pointerFlipped
    rw [get_put_ne _ _ (by decide), get_put_ne _ _ (by decide), get_put_self _ _ (by decide)]
  refine ⟨?_, ?_, get_put_self _ 0 (by decide), ?_⟩
  · rw [State.activeSlot, State.flag, hslot]
    cases s.activeSlot <;> rfl
  · rw [State.instState, State.pointerFlipped, get_put_ne _ _ (by decide), get_put_self _ _ (by decide)]
    rfl
  · rw [State.pointerFlipped, get_put_ne _ _ (by decide), get_put_ne _ _ (by decide), get_put_ne _ _ (by decide)]
    exact get_put_self _ _ (by decide)

theorem exec_commitPointerEffect_of_not_committing (hinst : s.instState ≠ instCommitting) : exec .commitPointerEffect s = .next s :=
  congrArg Host.Outcome.next (if_neg hinst)

end Install

/-- Settles O27: by the command, and by the state of the installation in which it comes. -/
theorem fallowInstall : Obligations.FallowInstall := by
  unfold Obligations.FallowInstall
  intro s src
  refine ⟨fun h hstart hinst => ⟨_, exec_instBegin_of_idle h hstart hinst, clearNew_installs s (by decide)⟩,
    fun h hno => congrArg Host.Outcome.next (instCmd_of_not_ready h (by simpa using hno) _ _),
    fun h hno => congrArg Host.Outcome.next (instCmd_of_not_ready h (by simpa using hno) _ _),
    fun h hno => congrArg Host.Outcome.next (instCmd_of_not_ready h (by simpa using hno) _ _),
    fun o h hstart hinst hloc hrange => ?manifest, fun h hstart hinst hwritten => ?commit,
    fun h hstart hinst => ⟨_, exec_instAbort_of_begun h hstart hinst, clearNew_installs s (by decide)⟩,
    fun hinst => ?flip, exec_commitPointerEffect_of_not_committing⟩
  case manifest =>
    intro bs
    obtain ⟨u, hu, hexec⟩ := exec_instManifest_of_top (bs := bs) h hstart hinst hloc hrange rfl
    obtain ⟨hloading, hnew, hresult, hactive⟩ := manifestTaken_installs (bs := bs) (src := src) hu
    by_cases hok : (manFormatOk bs (s.get FALLOW_MLEN.LEN) (s.get ROUTE_SELF.XYZ) && s.manVerified bs) = true
    · rw [if_pos hok] at hexec
      refine ⟨_, hexec, hactive, fun _ _ => ⟨hloading, hnew, hresult⟩, fun hbad => ?_⟩
      rw [← Bool.and_eq_false_iff] at hbad
      exact absurd hok (Bool.eq_false_iff.mp hbad)
    · rw [if_neg hok] at hexec
      refine ⟨_, hexec, ?_, fun hformat hsign => absurd (Bool.and_eq_true_iff.mpr ⟨hformat, hsign⟩) hok, fun _ => ⟨?_, ?_, ?_⟩⟩
      · exact (falSlot_congr (fallow_fallowWake _) _).trans (hu.falSlot _)
      · exact (instState_fallowWake _).trans (hu.instState.trans hinst)
      · exact (fallow_fallowWake _).trans hu.fallow
      · exact (result_fallowWake _ _ _).trans (result_setResult_self ..)
  case commit =>
    refine ⟨_, exec_instCommit_of_written h hstart hinst hwritten, instState_installs _ (by decide), ?_, result_installs _ _, ?_⟩
    · exact fallow_fallowWake _
    · rw [installs_frame]
      rfl
  case flip =>
    obtain ⟨gone, hexec⟩ := exec_commitPointerEffect_of_committing hinst
    obtain ⟨hslot, hidle, hbad, hseq⟩ := pointerFlipped_status s
    have hget {f : Fld} (hf : f.reg ≠ FALLOW_GEOM.FREE.reg) :
        ((s.pointerFlipped.setFalSlot s.activeSlot .empty).falRelease gone).get f = s.pointerFlipped.get f :=
      (get_falRelease _ gone hf).trans (get_setFalSlot ..)
    refine ⟨_, hexec, (activeSlot_congr (hget (by decide))).trans hslot, (hget (by decide)).trans hidle, ?_, ?_,
      (hget (by decide)).trans hseq, (hget (by decide)).trans hbad,
      ((storeOnly_pointerFlipped s).trans (.setFalSlot _ _ _)).trans (.falRelease _ _)⟩
    · exact (falSlot_falRelease ..).trans (falSlot_setFalSlot_self ..)
    · exact ((falSlot_falRelease ..).trans (falSlot_setFalSlot_not ..)).trans (falSlot_pointerFlipped s _)

end Sys2Proof.Machine
end

section
/-!
PROOFS. The Fallow queue, its scrub and its repairs: what the read of a descriptor leaves, a READ from its issue to its end, a WRITE, a
scrub pass of one object, and the repair of a copy (R352 to R356, R358; allocation: assumption 40).
-/
namespace Sys2Proof.Machine

section Queue

variable {s t u : State} {i : Nat} {d : List W64}

/-! ### What work on the tiers keeps of a descriptor's checks -/

theorem TierTraffic.sameGrants (h : TierTraffic s t) : SameGrants s t := by
  have hgrant {off : Nat} (hlo : 0x90000 ≤ off) (hhi : off < 0xA0000) : t.reg off = s.reg off := by
    have hblock : blockOf off = 9 := by simp only [blockOf]; omega
    refine h.regs off ?_
    simp only [trafficReg, hblock, Bool.or_eq_false_iff, beq_eq_false_iff_ne]
    omega
  exact ⟨h.position, fun k hk => hgrant (by omega) (by omega), fun k hk => hgrant (by omega) (by omega)⟩

theorem TierTraffic.accessRefused (h : TierTraffic s t) (write : Bool) (a n : Nat) :
    t.accessRefused write a n = s.accessRefused write a n := by
  have hlist : t.rangeRefuses write a n = s.rangeRefuses write a n := by rw [State.rangeRefuses, h.rest]; rfl
  simp only [State.accessRefused, hlist, h.locate, h.subRange, h.sameGrants.borrowed]

theorem TierTraffic.falDescBad (h : TierTraffic s t) (d : List W64) : t.falDescBad d = s.falDescBad d := by
  simp only [State.falDescBad, h.accessRefused, self_congr h.position]

theorem TierTraffic.falOff (h : TierTraffic s t) (i : Nat) : t.falOff i = s.falOff i := by
  simp only [State.falOff, h.get_eq (f := FALLOW_QBASE.BASE) rfl, h.get_eq (f := FALLOW_QBASE.LOG2N) rfl]

theorem falOff_lt (s : State) (i : Nat) : s.falOff i < 2 ^ 43 := by
  have hbase : s.get FALLOW_QBASE.BASE < 2 ^ 30 := get_lt s _
  have hlog : s.get FALLOW_QBASE.LOG2N < 2 ^ 4 := get_lt s _
  have hpow : 2 ^ s.get FALLOW_QBASE.LOG2N ≤ 2 ^ 15 := Nat.pow_le_pow_right (by decide) (by omega)
  have hmod : i % 2 ^ s.get FALLOW_QBASE.LOG2N < 2 ^ s.get FALLOW_QBASE.LOG2N := Nat.mod_lt _ (Nat.two_pow_pos _)
  unfold State.falOff
  omega

/-- The read of descriptor `i`. -/
def State.falGot (s : State) (i : Nat) : State := s.partReads (s.falOff i) 32 false

theorem tierTraffic_falGot (s : State) (i : Nat) : TierTraffic s (s.falGot i) := .partReads s (falOff_lt s i) 32

/-! ### A descriptor that names an operation lies in a sound line -/

/-- Topsoil of `t` reads as that of `s`. -/
structure SameBytes (s t : State) : Prop where
  stored : ∀ a, t.topsoil.stored a = s.topsoil.stored a
  isBad : ∀ g, t.topsoil.isBad g = s.topsoil.isBad g

namespace SameBytes

theorem of_eq (h : t.topsoil = s.topsoil) : SameBytes s t := ⟨fun _ => by rw [h], fun _ => by rw [h]⟩

theorem trans (h : SameBytes s t) (k : SameBytes t u) : SameBytes s u :=
  ⟨fun a => (k.stored a).trans (h.stored a), fun g => (k.isBad g).trans (h.isBad g)⟩

/-- A sound line stays as it is when its mark is cleared. -/
theorem repairLine {l : Nat} (h : s.topsoil.isBad l = false) : SameBytes s (s.repairLine l) := by
  refine ⟨fun _ => rfl, fun g => ?_⟩
  rw [State.repairLine]
  by_cases hgl : g = l
  · rw [hgl, Mem.isBad_mark_self, h]
  · rw [Mem.isBad_mark_ne _ _ hgl]

theorem errlog (s : State) (r : ErrRec) : SameBytes s (s.errlog r) := of_eq ((KeepsStep.errlog (may := []) s r).topsoil (by simp))

theorem lineError {l : Nat} (sub : Bool) (h : s.topsoil.isBad l = false) : SameBytes s (s.lineError sub false l) := by
  unfold State.lineError
  rw [if_neg (by decide)]
  split
  · exact (repairLine h).trans (errlog _ _)
  · exact errlog s _

theorem eachLineError (sub : Bool) {ls : List Nat} (h : ∀ l ∈ ls, s.topsoil.isBad l = false) :
    SameBytes s (s.each ls fun s l => s.lineError sub false l) := by
  induction ls generalizing s with
  | nil => exact of_eq rfl
  | cons l ls ih =>
    have hline := lineError sub (h l List.mem_cons_self)
    exact hline.trans (ih fun k hk => (hline.isBad k).trans (h k (List.mem_cons_of_mem l hk)))

theorem read (h : SameBytes s t) (o n : Nat) : t.topsoil.read 64 o n = s.topsoil.read 64 o n :=
  List.map_congr_left fun k _ => by rw [Mem.byte, Mem.byte, h.isBad, h.stored]

end SameBytes

theorem mem_badIn {m : Mem} {gran a n l : Nat} (h : l ∈ m.badIn gran a n) : 0 < n ∧ a / gran ≤ l ∧ l ≤ (a + n - 1) / gran := by
  unfold Mem.badIn at h
  split at h
  · cases h
  · obtain ⟨e, he, rfl⟩ := List.mem_map.mp h
    exact ⟨by omega, by simpa using (List.mem_filter.mp he).2⟩

/-- A read of sound lines of Topsoil changes no byte of it. -/
theorem sameBytes_readErrors {a n : Nat} (htier : a / 2 ^ 42 % 4 = 1)
    (h : ∀ l, a % 2 ^ 42 / 64 ≤ l → l ≤ (a % 2 ^ 42 + n - 1) / 64 → s.topsoil.isBad l = false) :
    SameBytes s (s.readErrors a n false).1 := by
  unfold State.readErrors
  split
  · next hloc => exact absurd hloc (locate_ne_seedbed_of_tier (by omega) _)
  · next hloc =>
    refine SameBytes.eachLineError false fun l hl => ?_
    rw [(locate_eq_top_iff.mp hloc).2.2.2] at hl
    obtain ⟨-, hlo, hhi⟩ := mem_badIn hl
    exact h l hlo hhi
  · next hloc => have := (tier_of_locate_eq_sub hloc).1; omega
  · exact .of_eq rfl

theorem sameBytes_partReads {o n : Nat} (ho : o < 2 ^ 42)
    (h : ∀ l, o / 64 ≤ l → l ≤ (o + n - 1) / 64 → s.topsoil.isBad l = false) :
    SameBytes s (s.partReads o n false) := by
  have htouch : (s.topTouch o n).topsoil = s.topsoil := (KeepsStep.topTouch (may := []) s o n).topsoil (by simp)
  obtain ⟨htier, hoff⟩ := gaddr_topsoil s ho
  rw [partReads_eq_fun]
  exact (SameBytes.of_eq htouch).trans (sameBytes_readErrors htier (by rwa [hoff, htouch]))

/-- A descriptor in an uncorrectable line, or outside Topsoil, reads as zeros, which name no operation (R311, R466). -/
theorem falDesc_place (h : falOp (s.falDesc i) ≠ 0) : s.falOff i < 2 ^ 42 ∧ s.topsoil.isBad (s.falOff i / 64) = false := by
  have hword : falOp (s.falDesc i) = bitsOf (s.topWord (s.falOff i)) 0 4 := rfl
  rw [hword] at h
  constructor
  · by_contra hlarge
    have hrange : topRange (s.falOff i) 8 = false := Bool.eq_false_iff.mpr fun hr => by have := lt_of_topRange hr (by decide); omega
    refine h ?_
    rw [State.topWord, State.topNat, State.topPeek, hrange, if_neg Bool.false_ne_true, leNat_replicate_zero]
    rfl
  · refine Bool.eq_false_iff.mpr fun hbad => h ?_
    rw [topWord_of_bad (by unfold State.falOff; omega) hbad]
    rfl

/-- What the read of a descriptor finds in Topsoil changes no other tier. -/
theorem tiers_falGot (s : State) (i : Nat) : (s.falGot i).seedbed = s.seedbed ∧ (s.falGot i).subsoil = s.subsoil :=
  (KeepsStep.partReads_outside (may := [.topsoil]) (by simp) s _ 32).tiers (by simp)

theorem peek_congr (hpos : t.reg ROUTE_SELF.RACK.reg = s.reg ROUTE_SELF.RACK.reg)
    (hsize : t.reg SUBSOIL_CFG.NCH.reg = s.reg SUBSOIL_CFG.NCH.reg) (htiers : t.seedbed = s.seedbed ∧ t.subsoil = s.subsoil)
    (hbytes : SameBytes s t) (a n : Nat) : t.peek a n = s.peek a n := by
  simp only [State.peek, State.topPeek, State.subPeek, State.subRange, locate_congr hpos (subSize_congr hsize), subSize_congr hsize,
    hbytes.read, htiers]
  rfl

/-- A WRITE reads its object as it was before its descriptor was read: the line of a descriptor that names an operation is sound. -/
theorem peek_falGot (h : falOp (s.falDesc i) ≠ 0) (a n : Nat) : (s.falGot i).peek a n = s.peek a n := by
  obtain ⟨hlt, hsound⟩ := falDesc_place h
  have hline : s.falOff i % 32 = 0 := by unfold State.falOff; omega
  have hbytes : SameBytes s (s.falGot i) := sameBytes_partReads hlt fun l hlo hhi => by
    have : l = s.falOff i / 64 := by omega
    rw [this, hsound]
  have hgot := tierTraffic_falGot s i
  exact peek_congr hgot.position (hgot.regs _ rfl) (tiers_falGot s i) hbytes a n

theorem fallow_falIssued (s : State) (i : Nat) : (s.falIssued i).fallow = s.fallow := rfl

theorem planes_falIssued (s : State) (i : Nat) :
    (s.falIssued i).lit = s.lit ∧ (s.falIssued i).dark = s.dark ∧ (s.falIssued i).field = s.field := ⟨rfl, rfl, rfl⟩

theorem peek_falIssued (s : State) (i a n : Nat) : (s.falIssued i).peek a n = s.peek a n :=
  peek_congr (reg_put_ne s _ (by decide)) (reg_put_ne s _ (by decide)) ⟨rfl, rfl⟩ (.of_eq rfl) a n

/-! ### The end of a descriptor -/

theorem advanceFal_frame (n : Nat) (s : State) : s.advanceFal n = { s with regs := (s.advanceFal n).regs } ∧
    SameFieldsBut [FALLOW_QPTR.HEAD] s (s.advanceFal n) := by
  induction n generalizing s with
  | zero => exact ⟨rfl, .refl _ s⟩
  | succ n ih =>
    rw [State.advanceFal]
    split
    · exact ⟨rfl, .refl _ s⟩
    · obtain ⟨hrest, hfields⟩ := ih (s.put FALLOW_QPTR.HEAD (s.get FALLOW_QPTR.HEAD + 1))
      exact ⟨by rw [hrest]; rfl, ((SameFieldsBut.refl _ s).put _ List.mem_cons_self).trans hfields⟩

/-- The word that holds the status of a descriptor that ends with a cause, 0 for none. -/
def falStatus (cause : Nat) : Nat := if cause = 0 then 1 else 3 + 4 * cause

theorem falEnd_frame (s : State) (pos cause : Nat) : s.falEnd pos cause =
    { s.topPutWord (s.falOff pos + 24) (falStatus cause) with regs := (s.falEnd pos cause).regs } :=
  (advanceFal_frame 65536 _).1

theorem get_falEnd (s : State) (pos cause : Nat) {f : Fld} (htraffic : trafficReg f.reg = false)
    (hhead : f.reg ≠ FALLOW_QPTR.HEAD.reg ∨ FALLOW_QPTR.HEAD.lo + FALLOW_QPTR.HEAD.len ≤ f.lo) :
    (s.falEnd pos cause).get f = s.get f := by
  refine ((advanceFal_frame 65536 _).2 f fun g hg => ?_).trans ((TierTraffic.topPutWord s _ _).get_eq htraffic)
  rw [List.mem_singleton.mp hg]
  tauto

theorem topsoil_falEnd (s : State) (pos cause : Nat) :
    (s.falEnd pos cause).topsoil = (s.topPutWord (s.falOff pos + 24) (falStatus cause)).topsoil := by rw [falEnd_frame]

theorem fallow_falEnd (s : State) (pos cause : Nat) : (s.falEnd pos cause).fallow = s.fallow := by
  rw [falEnd_frame]
  exact (TierTraffic.topPutWord s _ _).fallow

theorem planes_falEnd (s : State) (pos cause : Nat) :
    (s.falEnd pos cause).lit = s.lit ∧ (s.falEnd pos cause).dark = s.dark ∧ (s.falEnd pos cause).field = s.field := by
  rw [falEnd_frame]
  exact (TierTraffic.topPutWord s _ _).planes

end Queue
end Sys2Proof.Machine
end

section
/-!
PROOFS. The commands of the Fallow queue: a descriptor refused, a READ from its issue to its end, a WRITE, a scrub pass of one object,
and the repair of a copy (R352 to R356, R358; allocation: assumption 40).
-/
namespace Sys2Proof.Machine

section QueueCommands

variable {s t u : State} {i : Nat}

/-! ### A descriptor that is refused, and a READ -/

theorem exec_fallowRead_of_bad (hnext : s.falNext = some i) (hbad : s.falDescBad (s.falDesc i) = true) (b0 b1 : List Nat) (c : Nat) :
    exec (.fallowRead b0 b1 c) s = .next ((s.falGot i).falRefuse i) := by
  have hgot : (s.falGot i).falDescBad (s.falDesc i) = true := ((tierTraffic_falGot s i).falDescBad _).trans hbad
  show execFallowRead b0 b1 c s = _
  unfold execFallowRead
  rw [hnext]
  dsimp only
  rw [hbad, if_neg (by simp)]
  exact if_pos hgot

theorem exec_fallowWrite_of_bad (hnext : s.falNext = some i) (hbad : s.falDescBad (s.falDesc i) = true) (ok : Bool) :
    exec (.fallowWrite ok) s = .next ((s.falGot i).falRefuse i) := by
  have hgot : (s.falGot i).falDescBad (s.falDesc i) = true := ((tierTraffic_falGot s i).falDescBad _).trans hbad
  show execFallowWrite ok s = _
  unfold execFallowWrite
  rw [hnext]
  dsimp only
  rw [hbad, if_neg (by simp)]
  exact if_pos hgot

/-- The object that the READ of descriptor `i` names is read, and the READ is issued: its destination reads as free values. -/
def State.falReadIssued (s : State) (i : Nat) (b0 b1 : List Nat) (c : Nat) : State :=
  let d := s.falDesc i
  let r := ((s.falGot i).bump FALLOW_CE.CE c).falRead (falNum d) (falLen d) b0 b1
  (r.1.falIssued i).scramble (falAddr d) (falLen d)

theorem exec_fallowRead_of_read (hnext : s.falNext = some i) (hbad : s.falDescBad (s.falDesc i) = false)
    (hop : falOp (s.falDesc i) = 1) (hwaits : s.writeWaits (falAddr (s.falDesc i)) (falLen (s.falDesc i)) = false)
    (b0 b1 : List Nat) (c : Nat) :
    let d := s.falDesc i
    let r := ((s.falGot i).bump FALLOW_CE.CE c).falRead (falNum d) (falLen d) b0 b1
    let u := s.falReadIssued i b0 b1 c
    exec (.fallowRead b0 b1 c) s = .next { u with fallow := { u.fallow with
      reads := u.fallow.reads ++ [⟨i, falAddr d, falLen d, r.2.1, r.2.2⟩] } } := by
  have hgot : ¬ (s.falGot i).falDescBad (s.falDesc i) = true := by rw [(tierTraffic_falGot s i).falDescBad, hbad]; decide
  show execFallowRead b0 b1 c s = _
  unfold execFallowRead
  rw [hnext]
  dsimp only
  rw [hbad, hop, hwaits, if_neg (by decide)]
  exact if_neg hgot

theorem TierTraffic.scramble (s : State) (a n : Nat) : TierTraffic s (s.scramble a n) := by
  unfold State.scramble
  split
  · exact ((withTiers s _ _ _).withDeltas ..).trans (drawn _)
  · exact (withTiers s _ _ _).trans (drawn _)
  · exact refl s

theorem seedbed_scramble (s : State) (a n : Nat) : (s.scramble a n).seedbed = s.seedbed := by
  unfold State.scramble
  split
  · dsimp only [State.drawn]
    split
    · rw [(SameRotation.deltas ..).rest]
    · rfl
  · rfl
  · rfl

theorem falIssued_scramble_keeps (s : State) (i a n : Nat) :
    let u := (s.falIssued i).scramble a n
    u.fallow = s.fallow ∧ u.get FALLOW_QPTR.ISSUE = (i + 1) % 65536 ∧ u.seedbed = s.seedbed ∧ u.lit = s.lit ∧ u.dark = s.dark := by
  have hscramble := TierTraffic.scramble (s.falIssued i) a n
  obtain ⟨hlit, hdark, -⟩ := hscramble.planes
  exact ⟨hscramble.fallow, (hscramble.get_eq rfl).trans (get_put_self s _ (by decide)), seedbed_scramble .., hlit, hdark⟩

theorem falRead_keeps (s : State) (i num len : Nat) (b0 b1 : List Nat) (c : Nat) :
    let v := (((s.falGot i).bump FALLOW_CE.CE c).falRead num len b0 b1).1
    v.seedbed = s.seedbed ∧ v.lit = s.lit ∧ v.dark = s.dark := by
  have hread := SameButCharges.falRead ((s.falGot i).bump FALLOW_CE.CE c) num len b0 b1
  obtain ⟨hlit, hdark, -⟩ := (tierTraffic_falGot s i).planes
  obtain ⟨hreadLit, hreadDark, -⟩ := hread.planes_eq
  exact ⟨(hread.tiers_eq.1.trans (State.bump_seedbed ..)).trans (tiers_falGot s i).1, (hreadLit.trans (State.bump_lit ..)).trans hlit,
    (hreadDark.trans (State.bump_dark ..)).trans hdark⟩

/-! ### The end of a READ (R352) -/

/-- What a READ delivered lies at its destination; of one that failed, zeros. -/
def State.delivered (s : State) (r : ReadSt) : State := if r.cause = 0 then s.pokeAt r.addr r.data else s.zeroAt r.addr r.len

theorem exec_fallowReadDone_of_running {pos : BitVec 16} {r : ReadSt} (hr : s.fallow.reads.find? (fun r => r.pos == pos.toNat) = some r)
    (hwaits : s.writeWaits r.addr r.len = false) :
    exec (.fallowReadDone pos) s = .next (((s.delivered r).falReadEnded r.pos).falEnd r.pos r.cause) := by
  show execFallowReadDone pos s = _
  unfold execFallowReadDone
  rw [hr]
  dsimp only
  rw [hwaits, if_neg Bool.false_ne_true]
  rfl

theorem tierTraffic_delivered (s : State) (r : ReadSt) : TierTraffic s (s.delivered r) :=
  (TierTraffic.pokeAt s _ _).ite (TierTraffic.zeroAt s _ _)

theorem falOff_falReadEnded (s : State) (pos i : Nat) : (s.falReadEnded pos).falOff i = s.falOff i := by
  have hreg : (s.falReadEnded pos).reg FALLOW_QBASE.BASE.reg = s.reg FALLOW_QBASE.BASE.reg := reg_put_ne _ _ (by decide)
  simp only [State.falOff, State.get, hreg]

/-! ### WRITE (R357, R358) -/

theorem exec_fallowWrite_of_write (hnext : s.falNext = some i) (hbad : s.falDescBad (s.falDesc i) = false)
    (hop : falOp (s.falDesc i) = 2) (ok : Bool) :
    let r := ((s.falGot i).falIssued i).falWrite i (s.falDesc i) ok
    exec (.fallowWrite ok) s = .next (r.1.falEnd i r.2) := by
  have hgot : ¬ (s.falGot i).falDescBad (s.falDesc i) = true := by rw [(tierTraffic_falGot s i).falDescBad, hbad]; decide
  show execFallowWrite ok s = _
  unfold execFallowWrite
  rw [hnext]
  dsimp only
  rw [hbad, hop, if_neg (by decide)]
  exact if_neg hgot

end QueueCommands
/-! ### A WRITE of an object (R357, R358) -/

section Write
variable {s t u : State} {i : Nat} {d : List W64} {o : FalObj}

theorem falWrite_of_below (h : KMap.get (fun _ => 0) s.fallow.atL2 i = 0) (ok : Bool) : s.falWrite i d ok = (s, 9) := if_pos h

/-- A good descriptor's bytes lie in one of the chip's own tiers, so that their read is no read of Seedbed. -/
theorem locate_falAddr_ne_seedbed (h : s.falDescBad d = false) (t : State) (o : Nat) : t.locate (falAddr d) ≠ .seedbed o := by
  simp only [State.falDescBad, Bool.or_eq_false_iff, Bool.not_eq_false', decide_eq_true_eq] at h
  obtain ⟨⟨-, htier⟩, -⟩ := h
  exact locate_ne_seedbed_of_tier (by omega) o

/-- Both copies of an object are stored in the slot that is not active. -/
def State.copiesStored (s : State) (o : FalObj) (bs : List Byte) (p : List Nat × List Nat) : State :=
  State.falCount (s.setFalSlot (!s.activeSlot)
    ((s.falSlot (!s.activeSlot)).setObj { o with c0 := some ⟨bs, p.1⟩, c1 := some ⟨bs, p.2⟩ }))

/-- A WRITE of an object that the slot being installed still misses, with its length and its digest and with room for both copies. -/
theorem falWrite_of_good {p : List Nat × List Nat} {bs : List Byte} (hlevel : KMap.get (fun _ => 0) s.fallow.atL2 i ≠ 0)
    (hinst : s.instState = instLoading) (hfind : (s.falSlot (!s.activeSlot)).find (falNum d) = some o) (hwritten : o.written = false)
    (hlen : o.len = falLen d) (hbs : s.peek (falAddr d) o.len = bs) (hdigest : shaLe bs = o.digest)
    (hreads : TierTraffic s (s.loaderReads (falAddr d) o.len))
    (hpick : pickPairs s.fallow.targets s.fallow.blocks (if s.fallow.targets ≤ 1 then (s.fallow.blocks - 16) / 2 else s.fallow.total) 0
      (s.fallow.need o.len) s.fallow.used = some p) :
    s.falWrite i d true = ((s.loaderReads (falAddr d) o.len).copiesStored o bs p, 0) := by
  have hunwritten : s.unwritten (falNum d) = some o := by
    rw [State.unwritten, if_pos hinst, hfind]
    simp [hwritten]
  have hstore : (s.loaderReads (falAddr d) o.len).falStore o bs = some ((s.loaderReads (falAddr d) o.len).copiesStored o bs p) := by
    unfold State.falStore
    dsimp only
    rw [hreads.fallow, hpick]
    rfl
  unfold State.falWrite
  rw [if_neg hlevel, if_neg (not_not_intro hinst), hunwritten]
  dsimp only
  rw [if_neg (not_not_intro hlen), hbs, hstore]
  simp [hdigest]

theorem copiesStored_keeps (s : State) (o : FalObj) (bs : List Byte) (p : List Nat × List Nat) :
    let t := s.copiesStored o bs p
    t.falSlot (!s.activeSlot) = (s.falSlot (!s.activeSlot)).setObj { o with c0 := some ⟨bs, p.1⟩, c1 := some ⟨bs, p.2⟩ } ∧
      t.falSlot s.activeSlot = s.falSlot s.activeSlot ∧ t.get FALLOW_QPTR.ISSUE = s.get FALLOW_QPTR.ISSUE ∧ t.lit = s.lit ∧
      t.dark = s.dark ∧ t.field = s.field :=
  ⟨falSlot_setFalSlot_self s _ _, falSlot_setFalSlot_of_not s _ _, get_put_ne _ _ (by decide), rfl, rfl, rfl⟩

/-- A WRITE that is queued at L2, of an object that the slot being installed still misses. -/
theorem exec_fallowWrite_of_good {p : List Nat × List Nat} {bs : List Byte} (hnext : s.falNext = some i)
    (hbad : s.falDescBad (s.falDesc i) = false) (hop : falOp (s.falDesc i) = 2) (hlevel : KMap.get (fun _ => 0) s.fallow.atL2 i ≠ 0)
    (hinst : s.instState = instLoading) (hfind : (s.falSlot (!s.activeSlot)).find (falNum (s.falDesc i)) = some o)
    (hwritten : o.written = false) (hlen : o.len = falLen (s.falDesc i)) (hbs : s.peek (falAddr (s.falDesc i)) o.len = bs)
    (hdigest : shaLe bs = o.digest)
    (hpick : pickPairs s.fallow.targets s.fallow.blocks (if s.fallow.targets ≤ 1 then (s.fallow.blocks - 16) / 2 else s.fallow.total) 0
      (s.fallow.need o.len) s.fallow.used = some p) :
    let v := (s.falGot i).falIssued i
    TierTraffic v (v.loaderReads (falAddr (s.falDesc i)) o.len) ∧
      exec (.fallowWrite true) s = .next (((v.loaderReads (falAddr (s.falDesc i)) o.len).copiesStored o bs p).falEnd i 0) := by
  intro v
  have hgot := tierTraffic_falGot s i
  have hfallow : v.fallow = s.fallow := (fallow_falIssued _ i).trans hgot.fallow
  have hactive : v.activeSlot = s.activeSlot := (activeSlot_congr (get_put_ne _ _ (by decide))).trans hgot.activeSlot
  have hloading : v.instState = instLoading := (get_put_ne _ _ (by decide)).trans (hgot.instState.trans hinst)
  have hpeek : v.peek (falAddr (s.falDesc i)) o.len = bs :=
    (peek_falIssued _ i _ _).trans ((peek_falGot (by rw [hop]; decide) _ _).trans hbs)
  have hreads : TierTraffic v (v.loaderReads (falAddr (s.falDesc i)) o.len) := .loaderReads (locate_falAddr_ne_seedbed hbad v) _
  refine ⟨hreads, ?_⟩
  rw [exec_fallowWrite_of_write hnext hbad hop true]
  have hwrite := falWrite_of_good (s := v) (by rwa [hfallow]) hloading (by rwa [falSlot_congr hfallow, hactive]) hwritten hlen hpeek
    hdigest hreads (by rwa [hfallow])
  rw [hwrite]

end Write

/-! ### Scrub passes (R355) -/

section Scrub

variable {s : State} {found : List ScrubFind} {o : FalObj} {c d : FalCopy}

theorem queueRepair_frame (s : State) (num : Nat) (copy1 : Bool) : s.queueRepair num copy1 =
    { s with fallow := { s.fallow with repairs := (s.queueRepair num copy1).fallow.repairs } } := by
  unfold State.queueRepair
  split <;> rfl

theorem mem_repairs_queueRepair (s : State) (num : Nat) (copy1 : Bool) : (num, copy1) ∈ (s.queueRepair num copy1).fallow.repairs := by
  unfold State.queueRepair
  split
  next h => simpa using h
  next => simp

/-- Both copies of an object are good, and the first holds at least as many wrong bits as the refresh limit. -/
structure RefreshDue (s : State) (found : List ScrubFind) (o : FalObj) : Prop where
  copies : ∃ c d, o.c0 = some c ∧ o.c1 = some d ∧ c.data = d.data ∧ shaLe c.data = o.digest
  correctable : foundBits found o.num false ≤ 72
  due : s.get FALLOW_SCRUB.REFRESH_BITS ≤ foundBits found o.num false
  clean : foundBits found o.num true = 0
  limit : 1 ≤ s.get FALLOW_SCRUB.REFRESH_BITS

/-- The scrub counts the one copy that it corrected, and queues that copy alone. -/
theorem scrubObj_of_due (h : RefreshDue s found o) : s.scrubObj found o = (s.bump FALLOW_CE.CE 1).queueRepair o.num false := by
  obtain ⟨⟨c, d, hc, hd, hdata, hdigest⟩, hcorrectable, hdue, hclean, hlimit⟩ := h
  have hdigest' : shaLe d.data = o.digest := hdata ▸ hdigest
  have hrefresh : (s.bump FALLOW_CE.CE 1).get FALLOW_SCRUB.REFRESH_BITS = s.get FALLOW_SCRUB.REFRESH_BITS := get_put_ne s _ (by decide)
  have hcount : [foundBits found o.num false, 0].countP (fun b => decide (1 ≤ b ∧ b ≤ 72)) = 1 := by
    simp [hcorrectable, Nat.le_trans hlimit hdue]
  have hlimit' : s.get FALLOW_SCRUB.REFRESH_BITS ≠ 0 := by omega
  have hwrong : ¬ 72 < foundBits found o.num false := by omega
  unfold State.scrubObj
  simp only [hc, hd, hclean, hcount]
  simp [hwrong, hdata, hdigest', hrefresh, hdue, hlimit']

theorem RefreshDue.congr {t : State} (h : RefreshDue s found o)
    (hrefresh : t.get FALLOW_SCRUB.REFRESH_BITS = s.get FALLOW_SCRUB.REFRESH_BITS) : RefreshDue t found o where
  copies := h.copies
  correctable := h.correctable
  due := hrefresh ▸ h.due
  clean := h.clean
  limit := hrefresh ▸ h.limit

theorem scrubManifest_of_equal (h : (s.falSlot s.activeSlot).man0 = (s.falSlot s.activeSlot).man1) : s.scrubManifest = s := if_pos h

theorem falSlot_queueRepair (s : State) (num : Nat) (copy1 b : Bool) : (s.queueRepair num copy1).falSlot b = s.falSlot b := by
  rw [queueRepair_frame]
  rfl

/-- A pass over a slot of one object whose first copy is at the limit, and whose manifest copies are equal. -/
theorem scrubPass_of_due (hstart : s.power.falStart = false) (hobjs : (s.falSlot s.activeSlot).objs = [o])
    (hman : (s.falSlot s.activeSlot).man0 = (s.falSlot s.activeSlot).man1) (h : RefreshDue s found o) :
    s.scrubPass found = ((s.put FALLOW_STATUS.SCRUB_BUSY 1).bump FALLOW_CE.CE 1).queueRepair o.num false := by
  let u := s.put FALLOW_STATUS.SCRUB_BUSY 1
  have hactive : u.activeSlot = s.activeSlot := activeSlot_congr (get_put_ne s _ (by decide))
  have hobj : u.scrubObj found o = (u.bump FALLOW_CE.CE 1).queueRepair o.num false :=
    scrubObj_of_due (h.congr (get_put_ne s _ (by decide)))
  have hqueued : ((u.bump FALLOW_CE.CE 1).queueRepair o.num false).activeSlot = s.activeSlot := by
    rw [queueRepair_frame]
    exact (activeSlot_congr (get_put_ne u _ (by decide))).trans hactive
  have heach : u.each (u.falSlot u.activeSlot).objs (fun s o => s.scrubObj found o) = (u.bump FALLOW_CE.CE 1).queueRepair o.num false := by
    rw [hactive, show (u.falSlot s.activeSlot).objs = [o] from hobjs]
    exact hobj
  unfold State.scrubPass
  rw [hstart, if_neg Bool.false_ne_true]
  dsimp only
  rw [heach]
  exact scrubManifest_of_equal (by rw [hqueued, falSlot_queueRepair]; exact hman)

/-- The scrub of one object at the limit: D17 is busy, and the copy waits for its repair. -/
theorem scrubbed_keeps (s : State) (num : Nat) :
    let t := ((s.put FALLOW_STATUS.SCRUB_BUSY 1).bump FALLOW_CE.CE 1).queueRepair num false
    t.get FALLOW_STATUS.SCRUB_BUSY = 1 ∧ (num, false) ∈ t.fallow.repairs ∧
      t = { s with regs := t.regs, fallow := { s.fallow with repairs := t.fallow.repairs } } := by
  refine ⟨?_, mem_repairs_queueRepair _ _ _, ?_⟩
  · rw [queueRepair_frame]
    exact (get_put_ne _ _ (by decide)).trans (get_put_self s 1 (by decide))
  · rw [queueRepair_frame]
    rfl

end Scrub

/-! ### Repairs (R356) -/

section Repair

variable {s : State} {o : FalObj} {num : Nat}

/-- The slot in which the first copy `old` of object `num` has been replaced, wherever it is shared. -/
def FalSlot.repaired (v : FalSlot) (num : Nat) (old fresh : Option FalCopy) : FalSlot :=
  { v with objs := v.objs.map fun x => if x.num = num ∧ x.c0 = old then { x with c0 := fresh } else x }

theorem find_repaired {v : FalSlot} (h : v.find num = some o) (fresh : Option FalCopy) :
    (v.repaired num o.c0 fresh).find num = some { o with c0 := fresh } := by
  have hnum : o.num = num := by simpa using List.find?_some h
  have hsame : (fun x : FalObj => x.num == num) ∘ (fun x => if x.num = num ∧ x.c0 = o.c0 then { x with c0 := fresh } else x) =
      fun x => x.num == num := by
    funext x
    simp only [Function.comp_apply]
    split <;> rfl
  rw [FalSlot.find, FalSlot.repaired, List.find?_map, hsame, show v.objs.find? (fun x => x.num == num) = some o from h]
  simp [hnum]

/-- With the pointer programmed, both slots name the fresh copy. -/
def State.copyRepaired (s : State) (num : Nat) (old fresh : Option FalCopy) : State :=
  let b := s.activeSlot
  let u := s.programPtr (s.nextPtr b) 3
  (u.setFalSlot b ((u.falSlot b).repaired num old fresh)).setFalSlot (!b) ((u.falSlot (!b)).repaired num old fresh)

theorem falRepair_of_good {good : FalCopy} {sbs : List Nat} (hfind : (s.falSlot s.activeSlot).find num = some o)
    (hgood : o.c1 = some good) (hdigest : shaLe good.data = o.digest)
    (hpick : pickMatch s.fallow.targets s.fallow.blocks false good.sbs s.fallow.used = some sbs) :
    s.falRepair num false 3 = (s.copyRepaired num o.c0 (some ⟨good.data, sbs⟩)).falRelease (o.c0.elim [] (·.sbs)) := by
  unfold State.falRepair
  simp only [hfind, hgood, hpick, Bool.false_eq_true, if_false]
  rw [if_neg (not_not_intro hdigest)]
  rfl

theorem exec_fallowRepair_of_queued {rs : List (Nat × Bool)} (hqueue : s.fallow.repairs = (num, false) :: rs)
    (hinst : s.instState ≠ instCommitting) (n : Fin 4) :
    exec (.fallowRepair n) s = .next (State.falRepair { s with fallow := { s.fallow with repairs := rs } } num false n) := by
  show execFallowRepair n s = _
  unfold execFallowRepair
  rw [hqueue]
  exact if_neg hinst

theorem exec_fallowRepair_of_none (hqueue : s.fallow.repairs = []) (n : Fin 4) : exec (.fallowRepair n) s = .next s := by
  show execFallowRepair n s = _
  unfold execFallowRepair
  rw [hqueue]

/-- The pointer's copies name the active slot with the fresh copy in it; the old superblocks are released. -/
theorem copyRepaired_falRelease (s : State) (old fresh : Option FalCopy) (gone : List Nat) :
    let t := (s.copyRepaired num old fresh).falRelease gone
    t.fallow.repairs = s.fallow.repairs ∧ t.fallow.ptr0 = some (s.nextPtr s.activeSlot) ∧
      t.fallow.ptr2 = some (s.nextPtr s.activeSlot) ∧
      t.falSlot s.activeSlot = (s.falSlot s.activeSlot).repaired num old fresh ∧ t = { s with regs := t.regs, fallow := t.fallow } := by
  have hparts (u : State) (b : Bool) (v w : FalSlot) :
      ((u.setFalSlot b v).setFalSlot (!b) w).fallow.repairs = u.fallow.repairs ∧
        ((u.setFalSlot b v).setFalSlot (!b) w).fallow.ptr0 = u.fallow.ptr0 ∧
        ((u.setFalSlot b v).setFalSlot (!b) w).fallow.ptr2 = u.fallow.ptr2 := by
    cases b <;> exact ⟨rfl, rfl, rfl⟩
  obtain ⟨hrepairs, hptr0, hptr2⟩ := hparts (s.programPtr (s.nextPtr s.activeSlot) 3) s.activeSlot _ _
  have hslot : (s.copyRepaired num old fresh).falSlot s.activeSlot = (s.falSlot s.activeSlot).repaired num old fresh :=
    (falSlot_setFalSlot_of_not ..).trans (falSlot_setFalSlot_self ..)
  obtain ⟨held, hrelease⟩ := falRelease_eq (s.copyRepaired num old fresh) gone
  refine ⟨?_, ?_, ?_, (falSlot_falRelease ..).trans hslot,
    (((storeOnly_programPtr s _).trans (.setFalSlot _ _ _)).trans (.setFalSlot _ _ _)).trans (.falRelease _ _)⟩
  all_goals rw [hrelease]
  · exact hrepairs
  · exact hptr0
  · exact hptr2

end Repair

/-- Settles O28: by the descriptor that is next, by the read that ends, and by what a scrub pass and a repair find. -/
theorem fallowQueue : Obligations.FallowQueue := by
  unfold Obligations.FallowQueue
  intro s got
  have hgot : got = s.falGot := rfl
  clear_value got
  subst hgot
  refine ⟨fun i b0 b1 c hnext hbad => ⟨exec_fallowRead_of_bad hnext hbad b0 b1 c, exec_fallowWrite_of_bad hnext hbad true⟩,
    fun i b0 b1 c hnext hbad hop hwaits => ?read, fun pos r hr hwaits => ?readDone,
    fun i b hnext hbad hop => ⟨fun hlevel => ?below, ?write⟩,
    fun found o c d hstart hobjs hman hc hd hdata hdigest hcorrectable hdue hclean hlimit => ?scrub,
    exec_fallowRepair_of_none, fun num rs o good sbs hqueue hinst hfind hgood hdigest hpick => ?repair⟩
  case read =>
    obtain ⟨hfallow, hissue, hseed, hlit, hdark⟩ :=
      falIssued_scramble_keeps (((s.falGot i).bump FALLOW_CE.CE c).falRead (falNum (s.falDesc i)) (falLen (s.falDesc i)) b0 b1).1 i
        (falAddr (s.falDesc i)) (falLen (s.falDesc i))
    obtain ⟨hreadSeed, hreadLit, hreadDark⟩ := falRead_keeps s i (falNum (s.falDesc i)) (falLen (s.falDesc i)) b0 b1 c
    refine ⟨_, exec_fallowRead_of_read hnext hbad hop hwaits b0 b1 c, ?_, hissue, hseed.trans hreadSeed, hlit.trans hreadLit,
      hdark.trans hreadDark⟩
    exact congrArg (· ++ _) (congrArg FallowSt.reads hfallow)
  case readDone =>
    have hdelivered := tierTraffic_delivered s r
    obtain ⟨hlit, hdark, hfield⟩ := hdelivered.planes
    obtain ⟨hendLit, hendDark, hendField⟩ := planes_falEnd ((s.delivered r).falReadEnded r.pos) r.pos r.cause
    refine ⟨_, exec_fallowReadDone_of_running hr hwaits, ?_, ?_, hendLit.trans hlit, hendDark.trans hdark, hendField.trans hfield⟩
    · rw [fallow_falEnd]
      exact congrArg (fun f => List.filter (fun x => x.pos != r.pos) f.reads) hdelivered.fallow
    · rw [topsoil_falEnd, falOff_falReadEnded, hdelivered.falOff]
      exact topsoil_topWrite_congr (s := s.delivered r) (t := (s.delivered r).falReadEnded r.pos) rfl _ _
  case below =>
    have hatL2 : KMap.get (fun _ => 0) ((s.falGot i).falIssued i).fallow.atL2 i = 0 := by
      rw [show ((s.falGot i).falIssued i).fallow = s.fallow from (fallow_falIssued _ i).trans (tierTraffic_falGot s i).fallow, hlevel]
    rw [exec_fallowWrite_of_write hnext hbad hop b, falWrite_of_below hatL2]
  case write =>
    intro o bs p hlevel hinst hfind hwritten hlen hbs hdigest hpick
    obtain ⟨hreads, hexec⟩ := exec_fallowWrite_of_good hnext hbad hop hlevel hinst hfind hwritten hlen hbs.symm hdigest hpick
    generalize ((s.falGot i).falIssued i).loaderReads (falAddr (s.falDesc i)) o.len = w at hreads hexec
    have hgot := tierTraffic_falGot s i
    obtain ⟨hgotLit, hgotDark, hgotField⟩ := hgot.planes
    obtain ⟨hissuedLit, hissuedDark, hissuedField⟩ := planes_falIssued (s.falGot i) i
    obtain ⟨hreadLit, hreadDark, hreadField⟩ := hreads.planes
    obtain ⟨hstored, hother, hissue, hlit, hdark, hfield⟩ := copiesStored_keeps w o bs p
    obtain ⟨hendLit, hendDark, hendField⟩ := planes_falEnd (w.copiesStored o bs p) i 0
    have hslot (b : Bool) : w.falSlot b = s.falSlot b :=
      falSlot_congr (hreads.fallow.trans ((fallow_falIssued _ i).trans hgot.fallow)) b
    have hactive : w.activeSlot = s.activeSlot :=
      hreads.activeSlot.trans ((activeSlot_congr (get_put_ne _ _ (by decide))).trans hgot.activeSlot)
    rw [hactive, hslot] at hstored hother
    refine ⟨_, hexec, (falSlot_congr (fallow_falEnd ..) _).trans hstored, (falSlot_congr (fallow_falEnd ..) _).trans hother, ?_,
      (hendLit.trans (hlit.trans (hreadLit.trans hissuedLit))).trans hgotLit,
      (hendDark.trans (hdark.trans (hreadDark.trans hissuedDark))).trans hgotDark,
      (hendField.trans (hfield.trans (hreadField.trans hissuedField))).trans hgotField⟩
    rw [get_falEnd _ i 0 rfl (by decide), hissue, hreads.get_eq rfl]
    exact get_put_self _ _ (by decide)
  case scrub =>
    have hscrub : s.scrubPass found = _ :=
      scrubPass_of_due hstart hobjs hman ⟨⟨c, d, hc, hd, hdata, hdigest⟩, hcorrectable, hdue, hclean, hlimit⟩
    obtain ⟨hbusy, hqueued, hrest⟩ := scrubbed_keeps s o.num
    refine ⟨⟨(s.scrubPass found).fallowWake, rfl, ?_, ?_, ?_⟩,
      fun src htakes => ⟨((s.scrubPass found).falResult src 0 0).fallowWake,
        congrArg Host.Outcome.next (falCmd_of_takes htakes _ _), ?_, ?_, ?_, ?_⟩⟩
    · rw [get_fallowWake _ (by decide), hscrub, hbusy]
    · rw [fallow_fallowWake, hscrub]
      exact hqueued
    · rw [fallowWake_frame, hscrub, hrest]
    · rw [get_fallowWake _ (by decide), hscrub]
      exact hbusy
    · rw [fallow_fallowWake, hscrub]
      exact hqueued
    · exact (result_fallowWake _ _ _).trans (result_setResult_self ..)
    · rw [fallowWake_frame, hscrub, hrest]
      rfl
  case repair =>
    let v : State := { s with fallow := { s.fallow with repairs := rs } }
    obtain ⟨hrepairs, hptr0, hptr2, hslot, hrest⟩ :=
      copyRepaired_falRelease (num := num) v o.c0 (some ⟨good.data, sbs⟩) (o.c0.elim [] (·.sbs))
    have hrepair := falRepair_of_good (s := v) hfind hgood hdigest hpick
    refine ⟨_, (exec_fallowRepair_of_queued hqueue hinst 3).trans (congrArg Host.Outcome.next hrepair),
      hrepairs, hptr0, hptr2, ?_, hrest⟩
    exact congrArg (Option.map (·.c0)) ((congrArg (·.find num) hslot).trans (find_repaired hfind _))

end Sys2Proof.Machine
end

section
/-!
PROOFS. What a chunk meets at a member of a Drill job: the read of its buffer while the Ward is off, and the write at its destination
(R311, R362, R464 to R469).
-/
namespace Sys2Proof.Machine

section Buffers

variable {s t u : State}

/-! ### What addresses, packets and the planes rest on -/

/-- `t` has the position, the slice, the size of Subsoil, the Ward and the planes of `s`. -/
structure SameView (s t : State) : Prop where
  position : t.reg ROUTE_SELF.RACK.reg = s.reg ROUTE_SELF.RACK.reg
  slice : t.net.slice = s.net.slice
  channels : t.reg SUBSOIL_CFG.NCH.reg = s.reg SUBSOIL_CFG.NCH.reg
  ward : t.get WARD_STATUS.STATE = s.get WARD_STATUS.STATE
  lit : t.lit = s.lit
  dark : t.dark = s.dark

namespace SameView

theorem trans (h : SameView s t) (k : SameView t u) : SameView s u where
  position := k.position.trans h.position
  slice := k.slice.trans h.slice
  channels := k.channels.trans h.channels
  ward := k.ward.trans h.ward
  lit := k.lit.trans h.lit
  dark := k.dark.trans h.dark

theorem symm (h : SameView s t) : SameView t s :=
  ⟨h.position.symm, h.slice.symm, h.channels.symm, h.ward.symm, h.lit.symm, h.dark.symm⟩

theorem locate (h : SameView s t) (a : Nat) : t.locate a = s.locate a := locate_congr h.position (subSize_congr h.channels) a

theorem subRange (h : SameView s t) (o n : Nat) : t.subRange o n = s.subRange o n := by
  rw [State.subRange, subSize_congr h.channels]; rfl

theorem mkPacket (h : SameView s t) (vc op dst addr tag : Nat) (bs : List Byte) :
    t.mkPacket vc op dst addr tag bs = s.mkPacket vc op dst addr tag bs := mkPacket_congr h.position h.slice ..

theorem of_traffic (h : TierTraffic s t) : SameView s t := by
  obtain ⟨hlit, hdark, -⟩ := h.planes
  exact ⟨h.position, by rw [h.rest], h.regs _ rfl, h.get_eq rfl, hlit, hdark⟩

theorem of_tells (h : TellsOnly s t) : SameView s t := by
  obtain ⟨_, _, _, rfl⟩ := h
  exact ⟨rfl, rfl, rfl, rfl, rfl, rfl⟩

theorem setMember (s : State) (m : Option DrillMember) : SameView s (s.setMember m) := ⟨rfl, rfl, rfl, rfl, rfl, rfl⟩

theorem put (s : State) {f : Fld} (v : Nat) (hf : blockOf f.reg = 0xD) : SameView s (s.put f v) := by
  have hne {off : Nat} (hoff : blockOf off ≠ 0xD) : (s.put f v).reg off = s.reg off :=
    reg_put_ne s v (by rintro rfl; exact hoff hf)
  refine ⟨hne (by decide), rfl, hne (by decide), ?_, rfl, rfl⟩
  rw [State.get, hne (by decide)]
  rfl

end SameView

theorem SameView.post (s : State) (p : Packet) : SameView s (s.post p) := ⟨rfl, rfl, rfl, rfl, rfl, rfl⟩

theorem SameView.memChip (h : SameView s t) (k : Nat × W64) : t.memChip k = s.memChip k := by
  rw [State.memChip, State.chipAt, State.get, h.position]; rfl

/-- A message says the same wherever in a command it is sent. -/
theorem send_of_view (h : SameView s t) (vc kind dst : Nat) (bs : List Byte) :
    t.send vc kind dst bs = t.post (s.mkPacket vc 4 dst kind 0 bs) := congrArg t.post (h.mkPacket ..)

/-! ### Reads while the Ward is off: no line is repaired, and every tier stays as it stands (R468) -/

theorem keepsStep_lineError_of_ward_off (hward : s.get WARD_STATUS.STATE = 0) (sub : Bool) (l : Nat) :
    KeepsStep [] s (s.lineError sub false l) := by
  have hprotected : s.lineProtected l = false := by simp [State.lineProtected, hward]
  rw [State.lineError, if_neg (by decide), hprotected, Bool.and_false, if_neg Bool.false_ne_true]
  exact .errlog s _

theorem keepsStep_eachLineError_of_ward_off (hward : s.get WARD_STATUS.STATE = 0) (sub : Bool) (ls : List Nat) :
    KeepsStep [] s (s.each ls fun s l => s.lineError sub false l) := by
  induction ls generalizing s with
  | nil => exact .refl s
  | cons l ls ih =>
    exact (keepsStep_lineError_of_ward_off hward sub l).trans (ih ((TierTraffic.lineError s sub l).ward_off hward))

theorem keepsStep_readErrors_of_ward_off (hward : s.get WARD_STATUS.STATE = 0) (a n : Nat) :
    KeepsStep [] s (s.readErrors a n false).1 := by
  unfold State.readErrors
  split
  · exact .each (fun u w _ => .wordError u w) s
  · exact keepsStep_eachLineError_of_ward_off hward false _
  · exact keepsStep_eachLineError_of_ward_off hward true _
  · exact .refl s

theorem keepsStep_partReads_of_ward_off (hward : s.get WARD_STATUS.STATE = 0) (o n : Nat) : KeepsStep [] s (s.partReads o n false) := by
  rw [partReads_eq_fun]
  exact (KeepsStep.topTouch s o n).trans (keepsStep_readErrors_of_ward_off ((TierTraffic.topTouch s o n).ward_off hward) _ n)

/-- The 96 entries of DRILL_BUF lie below offset 2^43. -/
theorem bufOff_lt (s : State) (ms : List (Nat × W64)) (n : Nat) : s.bufOff ms n < 2 ^ 43 := by
  have hbase : s.get DRILL_BUF.BASE < 2 ^ 22 := get_lt s _
  have hentry : bufEntry ms n < 96 := Nat.mod_lt _ (by decide)
  unfold State.bufOff chunkBytes
  omega

/-! ### What is stored at an address -/

theorem topsoil_pokeAt_congr (h : SameView s t) (htop : t.topsoil = s.topsoil) (a : Nat) (bs : List Byte) :
    (t.pokeAt a bs).topsoil = (s.pokeAt a bs).topsoil := by
  have hsub (u : State) (o : Nat) : (u.subWrite o bs).topsoil = u.topsoil :=
    (KeepsStep.subWrite (may := [.tiers]) (by simp) u o bs).topsoil (by simp)
  unfold State.pokeAt
  rw [h.locate]
  split
  · exact htop
  · exact topsoil_topWrite_congr htop _ bs
  · rw [hsub, hsub, htop]
  · exact htop

theorem subsoil_pokeAt_congr (h : SameView s t) (hsub : t.subsoil = s.subsoil) (a : Nat) (bs : List Byte) :
    (t.pokeAt a bs).subsoil = (s.pokeAt a bs).subsoil := by
  unfold State.pokeAt
  rw [h.locate]
  split
  · exact hsub
  · rw [subsoil_topWrite, subsoil_topWrite, hsub]
  · rw [subsoil_subWrite, subsoil_subWrite, h.subRange, hsub]
  · exact hsub

theorem topsoil_topZero (s : State) (o n : Nat) :
    (s.topZero o n).topsoil = if topRange o n then s.topsoil.zeroed 64 o n else s.topsoil := by
  have htouch (u : State) : (u.topTouch o n).topsoil = u.topsoil := (KeepsStep.topTouch (may := []) u o n).topsoil (by simp)
  have hdeltas (old : Mem) (k j : Nat) (u : State) : (u.deltas old k j).topsoil = u.topsoil :=
    (KeepsStep.deltas (may := []) old k j u).topsoil (by simp)
  unfold State.topZero
  split
  · rw [apply_ite State.topsoil, hdeltas, ite_self, htouch]
  · exact htouch s

theorem topsoil_zeroAt_congr (h : SameView s t) (htop : t.topsoil = s.topsoil) (a n : Nat) :
    (t.zeroAt a n).topsoil = (s.zeroAt a n).topsoil := by
  have hsub (u : State) (o : Nat) : (u.subZero o n).topsoil = u.topsoil :=
    (KeepsStep.subZero (may := [.tiers]) (by simp) u o n).topsoil (by simp)
  unfold State.zeroAt
  rw [h.locate]
  split
  · exact htop
  · rw [topsoil_topZero, topsoil_topZero, htop]
  · rw [hsub, hsub, htop]
  · exact htop

end Buffers
end Sys2Proof.Machine
end

section
/-!
PROOFS. The commands of a member of a Drill job: its entry, its chunks up to the digest, bypasses, NEXT, and the end of the role
(R361 to R366; details: assumption 41).
-/
namespace Sys2Proof.Machine

section Member

variable {s t u : State} {m : DrillMember} {hd : MsgHdr}

/-! ### Steps that a member does not take -/

/-- A member without followers forwards nothing. -/
theorem memberPump_of_no_later (hm : s.drill.member = some m) (hlater : m.later = []) (fuel : Nat) : s.memberPump fuel = s := by
  cases fuel with
  | zero => rfl
  | succ fuel =>
    have hnone : m.held.find? (fun c => decide (m.fwd ≤ c) && neededBy m.later c) = none := by simp [hlater, neededBy]
    rw [State.memberPump, hm]
    dsimp only
    rw [hnone]

/-- A member that keeps chunks reports by its digest alone. -/
theorem idleDone_of_memKeep (hm : s.drill.member = some m) (hkeep : memKeep (m.entry.getD 0 0) = true) : s.idleDone = s := by
  rw [State.idleDone, hm]
  dsimp only
  rw [hkeep]
  exact if_neg (by simp)

theorem jobId_toNat (hjob : m.jobId < 2 ^ 32) : m.jobId = (BitVec.ofNat 32 m.jobId).toNat :=
  ((BitVec.toNat_ofNat m.jobId 32).trans (Nat.mod_eq_of_lt hjob)).symm

/-! ### The entry (R361) -/

theorem exec_drillEntry_of_refused {header entry : List W64} (i : BitVec 6) (later : List (BitVec 6 × W64)) {out : Bool}
    (h : s.get DRILL_CTRL.ACCEPT = 0 ∨ s.drillBusy = true ∨ out = true ∨
      s.drillDstBad entry (bitsOf (header.getD 2 0) 0 41) = true) :
    exec (.drillEntry hd header entry i later out) s = .next (((s.put DRILL_ERR.REFUSED 1).sendResult hd.src.toNat
      (bitsOf (header.getD 0 0) 32 32) i.toNat resFailed causeRefused).fallowWake) := by
  have hcond : (!s.flag DRILL_CTRL.ACCEPT || s.drillBusy || out || s.drillDstBad entry (bitsOf (header.getD 2 0) 0 41)) = true := by
    rcases h with haccept | hbusy | hout | hdst
    · simp [State.flag, haccept]
    · simp [hbusy]
    · simp [hout]
    · simp only [hdst, Bool.or_true]
  exact congrArg (fun u => Host.Outcome.next (State.fallowWake u)) (if_pos hcond)

/-- The role that an entry gives. -/
def memberRole (header entry : List W64) (i src : Nat) (later : List (Nat × W64)) : DrillMember :=
  ⟨bitsOf (header.getD 0 0) 32 32, i, src, src, entry, bitsOf (header.getD 2 0) 0 41, later, later, 0, [], 0, 32, 0, [], false, false⟩

/-- The chip takes the role. -/
def State.roleTaken (s : State) (m : DrillMember) : State :=
  (((s.put DRILL_STATUS.ROLE 2).put DRILL_STATUS.STATE 1).put DRILL_STATUS.MEMBER m.idx).setMember (some m)

theorem exec_drillEntry_of_taken {header entry : List W64} (i : BitVec 6) (later : List (BitVec 6 × W64))
    (haccept : s.get DRILL_CTRL.ACCEPT ≠ 0) (hbusy : s.drillBusy = false)
    (hdst : s.drillDstBad entry (bitsOf (header.getD 2 0) 0 41) = false) (hkeep : memKeep (entry.getD 0 0) = true) :
    exec (.drillEntry hd header entry i later false) s =
      .next (s.roleTaken (memberRole header entry i.toNat hd.src.toNat (later.map fun k => (k.1.toNat, k.2)))).fallowWake := by
  have hcond : ¬ (!s.flag DRILL_CTRL.ACCEPT || s.drillBusy || false || s.drillDstBad entry (bitsOf (header.getD 2 0) 0 41)) = true := by
    rw [hdst]
    simp [State.flag, haccept, hbusy]
  refine congrArg (fun u => Host.Outcome.next (State.fallowWake u)) ((if_neg hcond).trans ?_)
  exact idleDone_of_memKeep (m := memberRole header entry i.toNat hd.src.toNat (later.map fun k => (k.1.toNat, k.2))) rfl hkeep

theorem roleTaken_fallowWake_keeps (s : State) (m : DrillMember) (hidx : m.idx < 64) :
    let t := (s.roleTaken m).fallowWake
    t.drill = { s.drill with member := some m } ∧ t.get DRILL_STATUS.ROLE = 2 ∧ t.get DRILL_STATUS.STATE = 1 ∧
      t.get DRILL_STATUS.MEMBER = m.idx ∧ t.net = s.net ∧ SameMemory s t := by
  refine ⟨drill_fallowWake _, ?_, ?_, ?_, net_fallowWake _, ?_⟩
  · rw [get_fallowWake _ (by decide)]
    exact (get_put_ne _ _ (by decide)).trans ((get_put_ne _ _ (by decide)).trans (get_put_self s 2 (by decide)))
  · rw [get_fallowWake _ (by decide)]
    exact (get_put_ne _ _ (by decide)).trans (get_put_self _ 1 (by decide))
  · rw [get_fallowWake _ (by decide)]
    exact (get_put_self _ m.idx (by decide)).trans (Nat.mod_eq_of_lt (by simpa using hidx))
  · rw [fallowWake_frame]
    exact fun a => ⟨fun _ => rfl, fun _ => rfl, fun _ => rfl⟩

/-! ### Chunks (R362, R363) -/

theorem exec_chunk_of_below (hm : s.drill.member = some m) {n : BitVec 20} (hn : n.toNat < m.want) (job len : BitVec 32) :
    exec (.chunk hd job n len) s = .next s := by
  show execChunk hd job n len s = _
  rw [execChunk, hm]
  exact congrArg Host.Outcome.next (if_pos (.inr (.inl hn)))

theorem exec_chunk_of_taken (hm : s.drill.member = some m) (hjob : m.jobId < 2 ^ 32) {n : BitVec 20} (hn : m.want ≤ n.toNat)
    (hward : s.get WARD_STATUS.STATE = 0) (len : BitVec 32) :
    exec (.chunk hd (BitVec.ofNat 32 m.jobId) n len) s = .next (s.takeChunk m hd.src.toNat n.toNat) := by
  have hwaits : s.chunkWaits m n.toNat = false := by rw [State.chunkWaits, writeWaits_of_ward_off hward, Bool.and_false]
  have hjob := jobId_toNat hjob
  show execChunk hd _ n len s = _
  rw [execChunk, hm]
  refine congrArg Host.Outcome.next (if_neg ?_)
  rw [hwaits]
  simp only [Bool.false_eq_true, or_false]
  omega

/-- The bytes of chunk `n` in the buffer. -/
def State.chunkGot (s : State) (m : DrillMember) (n : Nat) : List Byte := s.topPeek (s.bufOff m.chain n) (chunkLen m.len n)

/-- Where a kept chunk is written. -/
def DrillMember.place (m : DrillMember) (n : Nat) : Nat := (m.entry.getD 1 0).toNat + (n - memFirst (m.entry.getD 0 0)) * chunkBytes

/-- A member without followers, when chunk `n` has come from `src`. -/
def DrillMember.took (m : DrillMember) (src n : Nat) : DrillMember := { m with up := src, want := n + 1 }

/-- And has been kept. -/
def DrillMember.keeping (m : DrillMember) (src n : Nat) (bs : List Byte) : DrillMember :=
  { m.took src n with kept := m.kept + 1, bytes := m.bytes ++ bs }

/-- Chunk `n` is read from the buffer and counted. -/
def State.memberRead (s : State) (m : DrillMember) (src n : Nat) : State :=
  ((s.partReads (s.bufOff m.chain n) (chunkLen m.len n) false).setMember (some (m.took src n))).bump DRILL_BYTES.BYTES
    (s.chunkGot m n).length

/-- Chunk `n` is written at its place, and the agent tells of it. -/
def State.chunkKept (s : State) (m : DrillMember) (src n : Nat) : State :=
  (((s.memberRead m src n).pokeAt (m.place n) (s.chunkGot m n)).setMember (some (m.keeping src n (s.chunkGot m n)))).agentTell 3

/-- The last chunk is decided by the digest; every chunk returns a credit. -/
theorem takeChunk_of_kept {src n : Nat} (hkeeps : memKeeps (m.entry.getD 0 0) n = true) (hkind : memKind (m.entry.getD 0 0) = 0)
    (hreported : m.reported = false) (hlater : m.later = [])
    (hdrill : (s.chunkKept m src n).drill.member = some (m.keeping src n (s.chunkGot m n))) :
    s.takeChunk m src n = State.idleDone (State.memberPump 32 (State.sendCredit
      (if n = memLast (m.entry.getD 0 0) then (s.chunkKept m src n).digestCheck (m.keeping src n (s.chunkGot m n)) else s.chunkKept m src n)
      src m.jobId 1)) := by
  have hforward : (!m.bypassed && neededBy m.later n) = false := by simp [hlater, neededBy]
  have hmine : (memKeeps (m.entry.getD 0 0) n && !m.reported) = true := by rw [hkeeps, hreported]; rfl
  have hkept : ((s.memberRead m src n).keepChunk (m.took src n) n (s.chunkGot m n)).agentTell 3 = s.chunkKept m src n := by
    rw [State.keepChunk, if_pos (show memKind ((m.took src n).entry.getD 0 0) = 0 from hkind)]
    rfl
  unfold State.takeChunk
  dsimp only
  rw [hforward, hmine]
  simp only [Bool.true_and, beq_iff_eq, Bool.false_eq_true, if_false, if_true]
  generalize hv : State.agentTell _ 3 = v
  obtain rfl : v = s.chunkKept m src n := hv.symm.trans hkept
  rw [hdrill]
  rfl

theorem sameView_memberRead (s : State) (m : DrillMember) (src n : Nat) : SameView s (s.memberRead m src n) :=
  ((SameView.of_traffic (.partReads s (bufOff_lt s _ _) _)).trans (.setMember _ _)).trans (.put _ _ rfl)

theorem sameView_chunkKept (s : State) (m : DrillMember) (src n : Nat) : SameView s (s.chunkKept m src n) :=
  (((sameView_memberRead s m src n).trans (.of_traffic (.pokeAt _ _ _))).trans (.setMember _ _)).trans (.of_tells (.agentTell _ _))

theorem drill_setMember (s : State) (m : Option DrillMember) : (s.setMember m).drill = { s.drill with member := m } := rfl

theorem drill_post (s : State) (p : Packet) : (s.post p).drill = s.drill := rfl

theorem post_post (s : State) (p q : Packet) : (s.post p).post q = { s with net := { s.net with outbox := s.net.outbox ++ [p, q] } } := by
  rw [List.append_cons]
  rfl

theorem net_setMember (s : State) (m : Option DrillMember) : (s.setMember m).net = s.net := rfl

theorem tiers_setMember (s : State) (m : Option DrillMember) :
    (s.setMember m).topsoil = s.topsoil ∧ (s.setMember m).subsoil = s.subsoil := ⟨rfl, rfl⟩

theorem get_setMember (s : State) (m : Option DrillMember) (f : Fld) : (s.setMember m).get f = s.get f := rfl

theorem keeps_of_tells (h : TellsOnly s t) :
    t.drill = s.drill ∧ t.net = s.net ∧ t.topsoil = s.topsoil ∧ t.subsoil = s.subsoil ∧ ∀ f, t.get f = s.get f := by
  obtain ⟨_, _, _, rfl⟩ := h
  exact ⟨rfl, rfl, rfl, rfl, fun _ => rfl⟩

/-- With the Ward off, the read of a chunk changes the member and the byte count alone of what a job shows. -/
theorem memberRead_keeps (hward : s.get WARD_STATUS.STATE = 0) (m : DrillMember) (src n : Nat) :
    let t := s.memberRead m src n
    t.drill = { s.drill with member := some (m.took src n) } ∧ t.net = s.net ∧ t.topsoil = s.topsoil ∧ t.subsoil = s.subsoil ∧
      t.get DRILL_BYTES.BYTES = min (2 ^ DRILL_BYTES.BYTES.len - 1) (s.get DRILL_BYTES.BYTES + (s.chunkGot m n).length) := by
  have hread := TierTraffic.partReads s (bufOff_lt s m.chain n) (chunkLen m.len n)
  have htiers := keepsStep_partReads_of_ward_off hward (s.bufOff m.chain n) (chunkLen m.len n)
  unfold State.memberRead
  refine ⟨?_, ?_, ?_, ?_, ?_⟩
  · rw [State.bump_drill, drill_setMember, hread.drill]
  · rw [State.bump_net, net_setMember, hread.quiet hward]
  · rw [State.bump_topsoil, (tiers_setMember _ _).1, htiers.topsoil (by simp)]
  · rw [State.bump_subsoil, (tiers_setMember _ _).2, (htiers.tiers (by simp)).2]
  · rw [get_bump_self _ _ (by decide), get_setMember, hread.get_eq rfl]

/-- A kept chunk is in the member's bytes and at its place. -/
theorem chunkKept_keeps (hward : s.get WARD_STATUS.STATE = 0) (m : DrillMember) (src n : Nat) :
    let t := s.chunkKept m src n
    t.drill = { s.drill with member := some (m.keeping src n (s.chunkGot m n)) } ∧ t.net = s.net ∧
      t.topsoil = (s.pokeAt (m.place n) (s.chunkGot m n)).topsoil ∧ t.subsoil = (s.pokeAt (m.place n) (s.chunkGot m n)).subsoil ∧
      t.get DRILL_BYTES.BYTES = min (2 ^ DRILL_BYTES.BYTES.len - 1) (s.get DRILL_BYTES.BYTES + (s.chunkGot m n).length) := by
  obtain ⟨hdrill, hnet, htop, hsub, hbytes⟩ := memberRead_keeps hward m src n
  have hview := sameView_memberRead s m src n
  have hpoke := TierTraffic.pokeAt (s.memberRead m src n) (m.place n) (s.chunkGot m n)
  obtain ⟨htoldDrill, htoldNet, htoldTop, htoldSub, htoldGet⟩ := keeps_of_tells (TellsOnly.agentTell
    (((s.memberRead m src n).pokeAt (m.place n) (s.chunkGot m n)).setMember (some (m.keeping src n (s.chunkGot m n)))) 3)
  unfold State.chunkKept
  refine ⟨?_, ?_, ?_, ?_, ?_⟩
  · rw [htoldDrill, drill_setMember, hpoke.drill, hdrill]
  · rw [htoldNet, net_setMember, hpoke.quiet (hview.ward.trans hward), hnet]
  · rw [htoldTop, (tiers_setMember _ _).1, topsoil_pokeAt_congr hview htop]
  · rw [htoldSub, (tiers_setMember _ _).2, subsoil_pokeAt_congr hview hsub]
  · rw [htoldGet, get_setMember, hpoke.get_eq rfl, hbytes]

/-! ### The end of a chunk -/

/-- The RESULT that a member sends. -/
def State.resultMsg (s : State) (m : DrillMember) (state cause : Nat) : Packet :=
  s.mkPacket 6 4 m.head 0x0507 0 (pad64 (le4 m.jobId ++ leBytes 1 m.idx ++ leBytes 1 state ++ leBytes 1 cause))

/-- The credit that a chunk returns. -/
def State.creditMsg (s : State) (m : DrillMember) (src : Nat) : Packet := s.mkPacket 6 4 src 0x0502 0 (pad64 (le4 m.jobId ++ le4 1))

theorem sendCredit_of_view (h : SameView s t) (src : Nat) : t.sendCredit src m.jobId 1 = t.post (s.creditMsg m src) :=
  (if_neg (by decide)).trans (send_of_view h ..)

theorem report_of_view (h : SameView s t) (state cause : Nat) : t.report m state cause =
    ((t.setMember (some { m with reported := true })).put DRILL_STATUS.STATE 3).post (s.resultMsg m state cause) :=
  send_of_view ((h.trans (.setMember t _)).trans (.put _ 3 rfl)) ..

/-- A member without followers that keeps chunks goes on to no other one. -/
theorem chunk_ends (hm : t.drill.member = some m) (hlater : m.later = []) (hkeep : memKeep (m.entry.getD 0 0) = true) :
    (t.memberPump 32).idleDone = t := by
  rw [memberPump_of_no_later hm hlater, idleDone_of_memKeep hm hkeep]

theorem memKeep_of_memKeeps {w : W64} {n : Nat} (h : memKeeps w n = true) : memKeep w = true := (Bool.and_eq_true_iff.mp h).1

section Kept

variable {src n : Nat} (hward : s.get WARD_STATUS.STATE = 0) (hkeeps : memKeeps (m.entry.getD 0 0) n = true)
  (hkind : memKind (m.entry.getD 0 0) = 0) (hreported : m.reported = false) (hlater : m.later = [])

include hward hkeeps hkind hreported hlater

theorem takeChunk_of_not_last (hlast : n ≠ memLast (m.entry.getD 0 0)) :
    s.takeChunk m src n = (s.chunkKept m src n).post (s.creditMsg m src) := by
  obtain ⟨hdrill, -⟩ := chunkKept_keeps hward m src n
  have hmember : (s.chunkKept m src n).drill.member = some (m.keeping src n (s.chunkGot m n)) := congrArg DrillSt.member hdrill
  rw [takeChunk_of_kept hkeeps hkind hreported hlater hmember, if_neg hlast, sendCredit_of_view (sameView_chunkKept s m src n)]
  exact chunk_ends (m := m.keeping src n (s.chunkGot m n)) (by rw [drill_post, hmember]) hlater (memKeep_of_memKeeps hkeeps)

/-- The member's report, after `t`, and the credit of its last chunk. -/
def State.lastReported (s t : State) (m : DrillMember) (src state cause : Nat) : State :=
  (((t.setMember (some { m with reported := true })).put DRILL_STATUS.STATE 3).post (s.resultMsg m state cause)).post (s.creditMsg m src)

theorem takeChunk_of_last {state cause : Nat} (hlast : n = memLast (m.entry.getD 0 0)) (hview : SameView s t)
    (hcheck : (s.chunkKept m src n).digestCheck (m.keeping src n (s.chunkGot m n)) =
      t.report (m.keeping src n (s.chunkGot m n)) state cause) :
    s.takeChunk m src n = s.lastReported t (m.keeping src n (s.chunkGot m n)) src state cause := by
  obtain ⟨hdrill, -⟩ := chunkKept_keeps hward m src n
  have hmember : (s.chunkKept m src n).drill.member = some (m.keeping src n (s.chunkGot m n)) := congrArg DrillSt.member hdrill
  rw [takeChunk_of_kept hkeeps hkind hreported hlater hmember, if_pos hlast, hcheck, report_of_view hview,
    sendCredit_of_view (((hview.trans (.setMember _ _)).trans (.put _ 3 rfl)).trans (.post _ _))]
  exact chunk_ends (m := { m.keeping src n (s.chunkGot m n) with reported := true }) rfl hlater (memKeep_of_memKeeps hkeeps)

end Kept

theorem digestCheck_of_match (hkind : memKind (m.entry.getD 0 0) = 0) (h : shaLe m.bytes = entryDigest m.entry) :
    s.digestCheck m = s.report m resDone 0 := by
  rw [State.digestCheck, if_pos h, if_pos hkind]

theorem digestCheck_of_mismatch (hkind : memKind (m.entry.getD 0 0) = 0) (h : shaLe m.bytes ≠ entryDigest m.entry) :
    s.digestCheck m = (s.zeroAt (m.entry.getD 1 0).toNat (keptLen (m.entry.getD 0 0) m.len)).report m resFailed causeDigest := by
  rw [State.digestCheck, if_neg h, if_pos hkind]

/-- `t` is `s` after work that has left the job to member `m` and has sent nothing. -/
structure MemberWork (s t : State) (m : DrillMember) : Prop where
  view : SameView s t
  drill : t.drill = { s.drill with member := some m }
  net : t.net = s.net

theorem MemberWork.chunkKept (hward : s.get WARD_STATUS.STATE = 0) (m : DrillMember) (src n : Nat) :
    MemberWork s (s.chunkKept m src n) (m.keeping src n (s.chunkGot m n)) := by
  obtain ⟨hdrill, hnet, -⟩ := chunkKept_keeps hward m src n
  exact ⟨sameView_chunkKept s m src n, hdrill, hnet⟩

theorem MemberWork.traffic (hward : s.get WARD_STATUS.STATE = 0) (h : MemberWork s t m) (k : TierTraffic t u) : MemberWork s u m :=
  ⟨h.view.trans (.of_traffic k), k.drill.trans h.drill, (k.quiet (h.view.ward.trans hward)).trans h.net⟩

theorem MemberWork.credited (h : MemberWork s t m) (src : Nat) :
    let u := t.post (s.creditMsg m src)
    u.drill = { s.drill with member := some m } ∧ u.lit = s.lit ∧ u.dark = s.dark ∧
      u.get DRILL_BYTES.BYTES = t.get DRILL_BYTES.BYTES ∧ u.net.outbox = s.net.outbox ++ [s.creditMsg m src] ∧
      u.topsoil = t.topsoil ∧ u.subsoil = t.subsoil :=
  ⟨h.drill, h.view.lit, h.view.dark, rfl, congrArg (fun v : NetSt => v.outbox ++ [s.creditMsg m src]) h.net, rfl, rfl⟩

theorem MemberWork.lastReported (h : MemberWork s t m) (src state cause : Nat) :
    let u := s.lastReported t m src state cause
    u.drill = { s.drill with member := some { m with reported := true } } ∧ u.lit = s.lit ∧ u.dark = s.dark ∧
      u.get DRILL_BYTES.BYTES = t.get DRILL_BYTES.BYTES ∧ u.get DRILL_STATUS.STATE = 3 ∧
      u.net.outbox = s.net.outbox ++ [s.resultMsg m state cause, s.creditMsg m src] ∧ u.topsoil = t.topsoil := by
  refine ⟨congrArg (fun d : DrillSt => { d with member := some { m with reported := true } }) h.drill, h.view.lit, h.view.dark,
    get_put_ne _ _ (by decide), get_put_self _ 3 (by decide), ?_, rfl⟩
  rw [← h.net]
  exact List.append_assoc ..

/-! ### Bypasses (R365) -/

theorem exec_bypassTimeout_of_not_due (hdue : s.bypassDue = false) : exec .bypassTimeout s = .next s :=
  congrArg Host.Outcome.next (if_neg (by rw [hdue]; decide))

/-- The BYPASS for follower `j`. -/
def State.bypassMsg (s : State) (m : DrillMember) (j d : Nat × W64) : Packet :=
  s.mkPacket 6 4 (s.memChip d) 0x0504 0 (pad64 (le4 m.jobId ++ leBytes 1 j.1 ++ leBytes 1 m.idx))

theorem exec_bypassTimeout_of_due {j k : Nat × W64} {rest : List (Nat × W64)} (hm : s.drill.member = some m) (hdue : s.bypassDue = true)
    (hlater : m.later = j :: k :: rest) :
    exec .bypassTimeout s = .next ((((s.setMember (some { m with later := k :: rest, credit := 0 })).put DRILL_ERR.BYPASS 1).post
      (s.bypassMsg m j j)).post (s.bypassMsg m j k)) := by
  have hview : SameView s ((s.setMember (some { m with later := k :: rest, credit := 0 })).put DRILL_ERR.BYPASS 1) :=
    (SameView.setMember s _).trans (.put _ 1 rfl)
  refine congrArg Host.Outcome.next ((if_pos hdue).trans ?_)
  rw [State.drillBypass, hm, Option.isSome_some, if_pos rfl, State.memberBypass, hm]
  dsimp only
  rw [hlater]
  dsimp only
  rw [State.sendBypass, State.sendBypass, hview.memChip, send_of_view hview, (hview.trans (.post _ _)).memChip,
    send_of_view (hview.trans (.post _ _))]
  rfl

/-- The WATERMARK of a member: the last chunk that it has kept. -/
def State.watermarkMsg (s : State) (m : DrillMember) (mark : Nat) : Packet :=
  s.mkPacket 6 4 m.head 0x0506 0 (pad64 (le4 m.jobId ++ le4 m.idx ++ le4 mark))

theorem exec_bypass_of_own (hm : s.drill.member = some m) (hjob : m.jobId < 2 ^ 32) {j : BitVec 8} (hj : j.toNat = m.idx)
    (hkeep : memKeep (m.entry.getD 0 0) = true) (hkept : 0 < m.kept)
    (hmark : memFirst (m.entry.getD 0 0) + m.kept ≤ 2 ^ 20) (i : BitVec 8) :
    exec (.bypass hd (BitVec.ofNat 32 m.jobId) j i) s = .next
      (((s.setMember (some { m with bypassed := true })).put DRILL_ERR.BYPASS 1).post
        (s.watermarkMsg m (memFirst (m.entry.getD 0 0) + m.kept - 1))) := by
  have hlast : (memFirst (m.entry.getD 0 0) + m.kept + 2 ^ 20 - 1) % 2 ^ 20 = memFirst (m.entry.getD 0 0) + m.kept - 1 := by omega
  have hview : SameView s ((s.setMember (some { m with bypassed := true })).put DRILL_ERR.BYPASS 1) :=
    (SameView.setMember s _).trans (.put _ 1 rfl)
  show execBypass hd _ j i s = _
  rw [execBypass, hm]
  dsimp only
  rw [if_neg (not_not_intro (jobId_toNat hjob)), if_pos hj, hkeep, hlast, if_pos rfl, send_of_view hview]
  exact congrArg Host.Outcome.next (idleDone_of_memKeep (m := { m with bypassed := true }) rfl hkeep)

/-- The chunk that a member asks of the one that has bypassed its upstream. -/
def DrillMember.asks (m : DrillMember) : Nat := (nextNeeded m.chain (chunkCount m.len) m.want).getD (chunkCount m.len)

theorem exec_bypass_of_other (hm : s.drill.member = some m) (hjob : m.jobId < 2 ^ 32) {j : BitVec 8} (hj : j.toNat ≠ m.idx)
    (i : BitVec 8) :
    exec (.bypass hd (BitVec.ofNat 32 m.jobId) j i) s = .next
      ((s.setMember (some { m with up := hd.src.toNat, want := m.asks })).post
        (s.mkPacket 6 4 hd.src.toNat 0x0505 0 (pad64 (le4 m.jobId ++ le4 m.asks)))) := by
  show execBypass hd _ j i s = _
  rw [execBypass, hm]
  dsimp only
  rw [if_neg (not_not_intro (jobId_toNat hjob)), if_neg hj, send_of_view (.setMember s _)]
  rfl

/-! ### NEXT (R365, R366) -/

/-- The RESULT that a member sends for a member after it whose chunk is lost. -/
def State.windowMsg (s : State) (head job : Nat) (k : Nat × W64) : Packet :=
  s.mkPacket 6 4 head 0x0507 0 (pad64 (le4 job ++ leBytes 1 k.1 ++ leBytes 1 resFailed ++ leBytes 1 causeWindow))

theorem each_windowFailure (s : State) (ms : List (Nat × W64)) (head job : Nat) :
    s.each ms (fun s k => s.sendResult head job k.1 resFailed causeWindow) =
      { s with net := { s.net with outbox := s.net.outbox ++ ms.map (s.windowMsg head job) } } := by
  induction ms generalizing s with
  | nil => simp [State.each]
  | cons k ms ih =>
    refine (ih (s.sendResult head job k.1 resFailed causeWindow)).trans ?_
    rw [List.map_cons, List.append_cons]
    rfl

theorem exec_next_of_lost {n : BitVec 20} {c : Nat} (hm : s.drill.member = some m) (hjob : m.jobId < 2 ^ 32)
    (hnext : s.isNext m.later hd.src.toNat = true) (hkeep : memKeep (m.entry.getD 0 0) = true)
    (hneed : nextNeeded m.later (chunkCount m.len) n.toNat = some c) (hfwd : c < m.fwd) (hheld : m.held.contains c = false) :
    exec (.next hd (BitVec.ofNat 32 m.jobId) n) s = .next { s with
      drill := { s.drill with member := some { m with later := [], credit := 0 } }
      net := { s.net with outbox := s.net.outbox ++ m.later.map (s.windowMsg m.head m.jobId) } } := by
  have hother : ¬ (m.jobId ≠ (BitVec.ofNat 32 m.jobId).toNat ∨ (!s.isNext m.later hd.src.toNat) = true) := by
    simp [← jobId_toNat hjob, hnext]
  have hlost : ((some c).any fun c => decide (c < m.fwd) && !m.held.contains c) = true := by
    rw [Option.any_some, hheld, decide_eq_true hfwd]
    rfl
  show execNext hd _ n s = _
  rw [execNext, hm]
  dsimp only
  rw [if_neg hother, hneed, if_pos hlost, each_windowFailure]
  exact congrArg Host.Outcome.next (idleDone_of_memKeep (m := { m with later := [], credit := 0 }) rfl hkeep)

theorem exec_next_of_held {n : BitVec 20} {c : Nat} (hm : s.drill.member = some m) (hjob : m.jobId < 2 ^ 32)
    (hnext : s.isNext m.later hd.src.toNat = true) (hneed : nextNeeded m.later (chunkCount m.len) n.toNat = some c)
    (h : m.fwd ≤ c ∨ m.held.contains c = true) :
    exec (.next hd (BitVec.ofNat 32 m.jobId) n) s =
      .next (((s.setMember (some { m with fwd := n.toNat, credit := 32 })).memberPump 32).idleDone) := by
  have hother : ¬ (m.jobId ≠ (BitVec.ofNat 32 m.jobId).toNat ∨ (!s.isNext m.later hd.src.toNat) = true) := by
    simp [← jobId_toNat hjob, hnext]
  have hlost : ¬ ((some c).any fun c => decide (c < m.fwd) && !m.held.contains c) = true := by
    rcases h with hfwd | hheld
    · simp [Nat.not_lt.mpr hfwd]
    · simp only [Option.any_some, hheld, Bool.not_true, Bool.and_false]; decide
  show execNext hd _ n s = _
  rw [execNext, hm]
  dsimp only
  rw [if_neg hother, hneed, if_neg hlost]

/-! ### The end of the role (R364, R366) -/

theorem leaveJob_keeps (s : State) :
    s.leaveJob.drill = { s.drill with member := none } ∧ s.leaveJob.get DRILL_STATUS.ROLE = 0 ∧
      s.leaveJob.get DRILL_STATUS.STATE = 0 ∧ s.leaveJob.net = s.net :=
  ⟨rfl, (get_put_ne _ _ (by decide)).trans (get_put_self _ 0 (by decide)), get_put_self _ 0 (by decide), rfl⟩

/-- ABORT passed on to the next member. -/
def State.abortPassed (s : State) (m : DrillMember) : State :=
  match m.later with
  | [] => s
  | k :: _ => s.send 6 0x0508 (s.memChip k) (pad64 (le4 m.jobId))

theorem sameView_abortPassed (s : State) (m : DrillMember) : SameView s (s.abortPassed m) := by
  unfold State.abortPassed
  split
  · exact ⟨rfl, rfl, rfl, rfl, rfl, rfl⟩
  · exact .post _ _

theorem drill_abortPassed (s : State) (m : DrillMember) : (s.abortPassed m).drill = s.drill := by
  unfold State.abortPassed
  split <;> rfl

theorem outbox_abortPassed (s : State) (m : DrillMember) : (s.abortPassed m).net.outbox = s.net.outbox ++
    (m.later.take 1).map fun k => s.mkPacket 6 4 (s.memChip k) 0x0508 0 (pad64 (le4 m.jobId)) := by
  unfold State.abortPassed
  split
  next h => rw [h]; exact (List.append_nil _).symm
  next h => rw [h]; rfl

theorem exec_drillAbort_of_unreported (hm : s.drill.member = some m) (hjob : m.jobId < 2 ^ 32) (hreported : m.reported = false) :
    exec (.drillAbort hd (BitVec.ofNat 32 m.jobId)) s = .next ((s.abortPassed m).post (s.resultMsg m resFailed causeAbort)).leaveJob := by
  show execDrillAbort hd _ s = _
  rw [execDrillAbort, hm]
  dsimp only
  rw [if_neg (not_not_intro (jobId_toNat hjob)), hreported, if_neg Bool.false_ne_true]
  exact congrArg (fun u => Host.Outcome.next (State.leaveJob u)) (send_of_view (sameView_abortPassed s m) ..)

theorem exec_drillIdleTimeout_of_unreported (hm : s.drill.member = some m) (hreported : m.reported = false) :
    exec .drillIdleTimeout s = .next (s.post (s.resultMsg m resFailed causeIdle)).leaveJob := by
  show execDrillIdleTimeout s = _
  rw [execDrillIdleTimeout, hm]
  dsimp only
  rw [hreported, if_neg Bool.false_ne_true]
  rfl

theorem exec_drillIdleTimeout_of_none (hm : s.drill.member = none) : exec .drillIdleTimeout s = .next s := by
  show execDrillIdleTimeout s = _
  rw [execDrillIdleTimeout, hm]

theorem exec_drillAbort_of_none (hm : s.drill.member = none) (job : BitVec 32) : exec (.drillAbort hd job) s = .next s := by
  show execDrillAbort hd job s = _
  rw [execDrillAbort, hm]

end Member

/-- Settles O33: by the message or the timeout; a chunk by whether it is the last one and by the digest. -/
theorem drillMemberRole : Obligations.DrillMemberRole := by
  unfold Obligations.DrillMemberRole
  intro s hd
  refine ⟨fun header entry i later out h => exec_drillEntry_of_refused i later h,
    fun header entry i later haccept hbusy hdst hkeep => ?taken,
    fun m hm hjob => ?_, fun hm => ⟨exec_drillIdleTimeout_of_none hm, exec_drillAbort_of_none hm⟩⟩
  case taken =>
    obtain ⟨hdrill, hrole, hstate, hmember, hnet, hmemory⟩ := roleTaken_fallowWake_keeps s
      (memberRole header entry i.toNat hd.src.toNat (later.map fun k => (k.1.toNat, k.2))) i.isLt
    exact ⟨_, _, exec_drillEntry_of_taken i later haccept hbusy hdst hkeep, hdrill, rfl, rfl, rfl, rfl, rfl, rfl, rfl, rfl, hrole, hstate,
      hmember, hnet, hmemory⟩
  refine ⟨fun n len hn => exec_chunk_of_below hm hn _ len, fun n len hn hkeeps hkind hreported hlater hward => ?kept,
    exec_bypassTimeout_of_not_due, fun j k rest hdue hlater => ?due, fun j i hj hkeep hkept hmark => ?own, fun j i hj => ?other,
    fun n c hnext hkeep hneed => ⟨fun hfwd hheld => ⟨_, exec_next_of_lost hm hjob hnext hkeep hneed hfwd hheld, rfl⟩,
      exec_next_of_held hm hjob hnext hneed⟩, fun hreported => ?leaves⟩
  case kept =>
    intro bs place msg cred
    obtain ⟨hdrill, hnet, htop, hsub, hbytes⟩ := chunkKept_keeps hward m hd.src.toNat n.toNat
    have hwork := MemberWork.chunkKept hward m hd.src.toNat n.toNat
    have hexec := exec_chunk_of_taken (hd := hd) hm hjob hn hward len
    by_cases hlast : n.toNat = memLast (m.entry.getD 0 0)
    · by_cases hdigest : shaLe (m.bytes ++ bs) = entryDigest m.entry
      · rw [takeChunk_of_last hward hkeeps hkind hreported hlater hlast hwork.view (digestCheck_of_match hkind hdigest)] at hexec
        obtain ⟨hjobs, hlit, hdark, hcount, hstate, hbox, hstored⟩ := hwork.lastReported hd.src.toNat resDone 0
        exact ⟨_, _, hexec, hjobs, rfl, rfl, rfl, hlit, hdark, hcount.trans hbytes, absurd hlast,
          fun _ => ⟨rfl, hstate, fun _ => ⟨hbox, hstored.trans htop⟩, absurd hdigest⟩⟩
      · have hzero := TierTraffic.zeroAt (s.chunkKept m hd.src.toNat n.toNat) (m.entry.getD 1 0).toNat (keptLen (m.entry.getD 0 0) m.len)
        have hzeroed := hwork.traffic hward hzero
        have hpoked := SameView.of_traffic (.pokeAt s place bs)
        rw [takeChunk_of_last hward hkeeps hkind hreported hlater hlast hzeroed.view (digestCheck_of_mismatch hkind hdigest)] at hexec
        obtain ⟨hjobs, hlit, hdark, hcount, hstate, hbox, hstored⟩ := hzeroed.lastReported hd.src.toNat resFailed causeDigest
        exact ⟨_, _, hexec, hjobs, rfl, rfl, rfl, hlit, hdark, hcount.trans ((hzero.get_eq rfl).trans hbytes), absurd hlast,
          fun _ => ⟨rfl, hstate, fun h => absurd h hdigest,
            fun _ => ⟨hbox, hstored.trans (topsoil_zeroAt_congr (hpoked.symm.trans hwork.view) htop _ _)⟩⟩⟩
    · have hcredit : s.creditMsg m hd.src.toNat = s.creditMsg (m.keeping hd.src.toNat n.toNat bs) hd.src.toNat := rfl
      rw [takeChunk_of_not_last hward hkeeps hkind hreported hlater hlast, hcredit] at hexec
      obtain ⟨hjobs, hlit, hdark, hcount, hbox, hstoredTop, hstoredSub⟩ := hwork.credited hd.src.toNat
      exact ⟨_, _, hexec, hjobs, rfl, rfl, rfl, hlit, hdark, hcount.trans hbytes,
        fun _ => ⟨hreported, hbox, hstoredTop.trans htop, hstoredSub.trans hsub⟩, fun h => absurd h hlast⟩
  case due =>
    have hexec := exec_bypassTimeout_of_due hm hdue hlater
    rw [post_post] at hexec
    have hfields : SameFieldsBut [DRILL_ERR.BYPASS] s (s.put DRILL_ERR.BYPASS 1) :=
      (SameFieldsBut.refl _ s).put 1 (List.mem_singleton_self _)
    exact ⟨_, hexec, get_put_self _ 1 (by decide), hfields, rfl, rfl⟩
  case own =>
    exact ⟨_, exec_bypass_of_own hm hjob hj hkeep hkept hmark i, rfl, rfl, get_put_self _ 1 (by decide)⟩
  case other =>
    exact ⟨_, exec_bypass_of_other hm hjob hj i, rfl, rfl⟩
  case leaves =>
    obtain ⟨hdrill, hrole, hstate, hnet⟩ := leaveJob_keeps ((s.abortPassed m).post (s.resultMsg m resFailed causeAbort))
    obtain ⟨hidleDrill, hidleRole, hidleState, hidleNet⟩ := leaveJob_keeps (s.post (s.resultMsg m resFailed causeIdle))
    refine ⟨_, _, exec_drillAbort_of_unreported hm hjob hreported, exec_drillIdleTimeout_of_unreported hm hreported,
      ?_, hidleDrill, hrole,
      hidleRole, hstate, hidleState, ?_, congrArg NetSt.outbox hidleNet⟩
    · rw [hdrill, drill_post, drill_abortPassed]
    · rw [hnet, ← outbox_abortPassed]
      rfl

end Sys2Proof.Machine
end

section
/-!
PROOFS. The head of a Drill job: a job whose results are fewer than its members (R364, R366; details: assumption 41).
-/
namespace Sys2Proof.Machine

/-- A job of two members of which only the first has a result. -/
def shortHead : DrillHead := ⟨5, false, 0, 64, [[], []], [.pending], [], 0, 0, none⟩

/-- The head of that job, which streams. -/
def shortHeaded : State := { (State.reset.put DRILL_STATUS.ROLE 1).put DRILL_STATUS.STATE 1 with drill := ⟨some shortHead, none⟩ }

/-- The state after the last result that the job has: the head serves the member without one, and that member keeps no chunk from
its WATERMARK on. -/
theorem exec_result_shortHeaded (hd : MsgHdr) :
    ∃ t, exec (.result hd 5 0 1 0) shortHeaded = .next t ∧ t.get DRILL_STATUS.STATE = 2 := ⟨_, rfl, by decide +kernel⟩

/-- Refutes O32: the statement has the last result end the job (STATE 3) without supposing, as its clause on ABORT does, that the job
has one result for each member. In `shortHeaded` member 1 has none, which reads as pending: after the RESULT of member 0 the head
serves member 1 and its STATE is 2. (START gives one result for each member and no event changes either number, so no run reaches
this state.) -/
theorem not_drillHeadRole : ¬ Obligations.DrillHeadRole := by
  unfold Obligations.DrillHeadRole
  intro h
  obtain ⟨-, -, -, hresult, -⟩ := h shortHeaded .lamp 0 (by decide)
  obtain ⟨-, hlast⟩ := hresult ⟨0, 0⟩ shortHead 0 .pending (by decide) rfl rfl rfl (by decide) (by decide)
  obtain ⟨⟨t, g, hexec, -, -, hdone⟩, -⟩ := hlast fun j q hj hq => by
    have hlt : j < 1 := (List.getElem?_eq_some_iff.mp hq).1
    omega
  obtain ⟨u, hserves, hserved⟩ := exec_result_shortHeaded ⟨0, 0⟩
  obtain rfl : u = t := Host.Outcome.next.inj (hserves.symm.trans hexec)
  rw [hserved] at hdone
  cases hdone

end Sys2Proof.Machine
end
